-- ==== Sys2Proof/Word.lean ====
section
/-! DEFINITION. The word types of the block: bytes, the 64-bit words of the Sash port (R15), and the exact rank of a
128-byte descriptor (R240, R246). -/

namespace Sys2Proof

abbrev W8 := BitVec 8
abbrev W16 := BitVec 16
abbrev W32 := BitVec 32
abbrev W64 := BitVec 64

/-- The 128 bytes of a descriptor, byte 0 in the lowest bits (R12: little-endian). -/
abbrev DescBits := BitVec 1024

end Sys2Proof
end

