-- ==== Sys2Proof/Syntax.lean ====
section
/-! DEFINITION. The commands of the block: one constructor for each row of spec/opcode_table.json, with the operands that the
row's event carries from outside. -/

namespace Sys2Proof

/-- A packet of an exchange port: the header of Table 11-9, field by field, and the payload (R230). -/
structure Packet where
  type : W8
  combine : Bool
  reverse : Bool
  last : Bool
  vc : BitVec 2
  len : W16
  srcChip : W16
  dstChip : W16
  epoch : W16
  xid : W16
  expert : W16
  pktIndex : W16
  tokenSlot : W32
  offset : W32
  weight : W32
  check : W32
  payload : List W8
  poison : Bool
  deriving DecidableEq, Repr

/-- What WAKE_DONE samples at Run: RD_CRED and WR_CRED of each memory port (R369), and POOL_WARN (R314). -/
structure WakeSample where
  credits : List (BitVec 13 × BitVec 13)
  warn : W8
  deriving DecidableEq, Repr

/-- A pulse of SYNC_IN: the leader's COUNT at it, and the nanoseconds after the last tick at which it is stamped (R273, R374). -/
structure SyncPulse where
  leader : W64
  ns : BitVec 6
  deriving DecidableEq, Repr

/-- A code for the instruction register, with the level of TRST (R378). -/
structure TestCode where
  code : W8
  trst : Bool
  deriving DecidableEq, Repr

/-- The commands. A descriptor's command names the ring and the position that the fast path issued. -/
inductive Instr where
  /-- REGISTER_WRITE (R16). A full, aligned Sash write to a register field that has no behaviour of its own sets, clears or ignores the field as its access code states. -/
  | registerWrite (off : BitVec 20) (data : W64)
  /-- SASH_ACCESS_ERROR (R15). A Sash access narrower than 64 bits or not 8-byte aligned has no effect and receives an error response. -/
  | sashAccessError (write : Bool) (off : BitVec 20) (be : W8)
  /-- SASH_WAKE_ACCESS (R307). A Sash access that Ember does not answer in Doze, Hibernate, ENTERING or WAKING wakes the block and stalls until Run, then completes. -/
  | sashWakeAccess (write : Bool) (off : BitVec 20) (data : W64)
  /-- DOORBELL_WRITE (R245). A write of TAIL to ring n's doorbell is ignored, accepted or faults the ring by Table 12-3, or is held by Ember in Doze. -/
  | doorbellWrite (ring : BitVec 7) (data : W64)
  /-- RING_ENABLE (R242). A write of ENABLE = 1 in STATE OFF is refused with a CAUSE, or sets HEAD and TAIL to 0 and STATE to RUN. -/
  | ringEnable (ring : BitVec 7) (cfg : W64)
  /-- RING_DISABLE (R243). A write of ENABLE = 0 moves the ring to DRAINING, or to OFF from FAULT, and completes fetched unissued descriptors and any LAUNCH_AT with E_ABORTED, DETAIL 1. -/
  | ringDisable (ring : BitVec 7) (cfg : W64)
  /-- RING_RESUME (R243). A write of RESUME in STATE STOPPED returns the ring to RUN so that its fetched descriptors issue. -/
  | ringResume (ring : BitVec 7)
  /-- EVT_POP (R263). A read of EVT_POP returns and removes the oldest event entry, or VALID = 0 when the queue is empty. -/
  | evtPop
  /-- IRQ_UNMASK (R261). Unmasking a vector whose PEND bit is set sends one interrupt message and clears PEND. -/
  | irqUnmask (mask : W16)
  /-- PATCH_GO (R254). A write of PATCH_CTL.GO = 1 starts reading and verifying the patch image, or is ignored with REASON 5 in a wrong state. -/
  | patchGo (ctl : W64)
  /-- PATCH_VERIFY_DONE (R254). Verification of the patch image ends, setting STATE to ACTIVE or REJECTED and setting BLK_EVENT.PATCH. -/
  | patchVerifyDone (reason : BitVec 4) (version : W16) (minor major : W8)
  /-- XCH_BSET_RELEASE (R226). A write naming a buffer set releases every buffer of a live set, defers while a descriptor reads it, or counts BAD_RELEASE. -/
  | xchBsetRelease (set : W8)
  /-- ISO_RELEASE (R316). In IVR-16 and IVR-32 a write of ISO_RELEASE bits releases the held outputs of a stove's ports or of the pool port and raises their AWAKE. -/
  | isoRelease (bits : BitVec 9)
  /-- PSTATE_TARGET_WRITE (R317). A write of PSTATE_s.TARGET starts a sequence: lowering switches frequency first, raising requests the higher VREQ_CODE and waits for VOK. -/
  | pstateTargetWrite (stove : BitVec 3) (target : BitVec 3)
  /-- VREQ_CODE_WRITE (R318). A direct write of VREQ_CODE_s changes the voltage request when allowed, and is otherwise refused with REFUSED_COUNT incremented. -/
  | vreqCodeWrite (stove : BitVec 3) (code : W8)
  /-- VOK_ASSERT (R317). VOK sampled high after a raise lets the stove switch its frequency at the next COUNT multiple of 64. -/
  | vokAssert (stove : BitVec 3)
  /-- PSTATE_FREQ_SWITCH (R317). A stove's clock divider switches at a COUNT multiple of 64, stopping its work for at most 256 cycles and updating CURRENT. -/
  | pstateFreqSwitch (stove : BitVec 3)
  /-- VOK_TIMEOUT (R319). When VOK does not assert within 100 µs of a raise, the sequence is abandoned, FAIL is set and an error record is written. -/
  | vokTimeout (stove : BitVec 3)
  /-- DAMPER_THROTTLE (R321). At the end of a 64-cycle window whose current estimate exceeds a nonzero CAP, the next window of non-Flue work is withheld and THROTTLE_COUNT increments. -/
  | damperThrottle (stove : BitVec 3) (estimate : W16)
  /-- SEAL_LC_GO (R333). A write of SEAL_LC.TARGET with GO = 1 requests a life-cycle transition, which is refused with a RESULT or accepted and begins blowing fuses. -/
  | sealLcGo (target : BitVec 3)
  /-- LIFECYCLE_FUSES_DONE (R334). The life-cycle fuses finish blowing and the block performs a cold reset without removing power. -/
  | lifecycleFusesDone
  /-- KEY_CTL_GO (R330). A write of KEY_CTL.GO programs an owner key slot from KEY_DATA or refuses with a RESULT, and zeroes KEY_DATA. -/
  | keyCtlGo (index : BitVec 3)
  /-- ERASE_KEYS (R331). A write of SEAL_CTL.ERASE_KEYS zeroises ATTEST, session keys and digest engines, sets KEYS_ERASED and ends open sessions. -/
  | eraseKeys
  /-- POLICY_LOCK (R340). A write of SEAL_POLICY.LOCK = 1 in PROVISIONED blows the alarm policy and lock into fuses and sets POLICY_LOCKED. -/
  | policyLock (data : W64)
  /-- ATT_CTL_GO (R344). A write of ATT_CTL.GO = 1 starts an attestation report by reading DATA from the report buffer. -/
  | attCtlGo (pub : Bool)
  /-- ATTEST_REPORT_DONE (R344). The signed attestation report, and optionally the public key, is written and ATT_CTL returns to IDLE with its RESULT. -/
  | attestReportDone (memError : Bool)
  /-- RECORDER_ENABLE (R283). A write of REC_CTL.ENABLE = 1 is refused and sets REFUSED, or starts recording or replay with REC_TAIL initialised. -/
  | recorderEnable (ctl : W64)
  /-- ERR_CTL_ENABLE (R358). A write of ERR_CTL.ENABLE = 1 is refused and sets REFUSED, or resets ERR_HEAD, ERR_TAIL and INDEX to 0 and starts error records. -/
  | errCtlEnable (ctl : W64)
  /-- MATMUL (R94). A MATMUL descriptor computes C = acc0 + A·B over output tiles dealt to the hearths of its mask. -/
  | matmul (ring : BitVec 7) (pos : W32)
  /-- DRAIN (R109). A DRAIN descriptor passes committed tiles through the epilogue again and converts and writes them. -/
  | drain (ring : BitVec 7) (pos : W32)
  /-- GROUP_OPEN (R85). GROUP OPEN makes a GID OPEN with its TILES on every hearth of the mask, starting each tile at −0 unless KEEP. -/
  | groupOpen (ring : BitVec 7) (pos : W32)
  /-- GROUP_SPILL (R85). GROUP SPILL writes the group's binary64 values and header to its Mantel record, frees the GID and releases its tiles. -/
  | groupSpill (ring : BitVec 7) (pos : W32)
  /-- GROUP_RESUME (R85). GROUP RESUME reopens a GID from a SPILLED record onto new tiles, continuing its element counts and chunk indices. -/
  | groupResume (ring : BitVec 7) (pos : W32)
  /-- GROUP_CLOSE (R85). GROUP CLOSE rounds each tile's total into FP32, writes it to the tile, marks any record CLOSED and frees the GID. -/
  | groupClose (ring : BitVec 7) (pos : W32)
  /-- CHAIN (R134). A CHAIN descriptor runs its chain program over a whole tensor on the lanes of the hearths of its mask. -/
  | chain (ring : BitVec 7) (pos : W32)
  /-- SOFTMAX (R198). NORM SOFTMAX computes each row's softmax from the row or from statistics records. -/
  | softmax (ring : BitVec 7) (pos : W32)
  /-- LOGSOFTMAX (R198). NORM LOGSOFTMAX computes each row's natural log-softmax from the row or from statistics records. -/
  | logsoftmax (ring : BitVec 7) (pos : W32)
  /-- RMSNORM (R204). NORM RMSNORM scales each row by the reciprocal root mean square plus ε and by γ. -/
  | rmsnorm (ring : BitVec 7) (pos : W32)
  /-- LAYERNORM (R205). NORM LAYERNORM normalises each row by its shifted two-pass or single-pass mean and variance, with γ and β. -/
  | layernorm (ring : BitVec 7) (pos : W32)
  /-- TOPK_SOFTMAX (R202). NORM TOPK_SOFTMAX turns each row's top-k record into routing weights, written out or in place. -/
  | topkSoftmax (ring : BitVec 7) (pos : W32)
  /-- MERGE (R201). NORM MERGE combines RS_PARTS partial statistics records per row into one statistics record. -/
  | merge (ring : BitVec 7) (pos : W32)
  /-- TABLE_LOAD (R184). TABLE_LOAD writes shape-table entries and slot records into a non-active bank once earlier readers of the bank complete. -/
  | tableLoad (ring : BitVec 7) (pos : W32)
  /-- TABLE_SWAP (R186). TABLE_SWAP makes a bank active for descriptors issued after it on every hearth of the mask. -/
  | tableSwap (ring : BitVec 7) (pos : W32)
  /-- ROUTE_BUILD (R217). ROUTE_BUILD walks the top-k records, writes route entries with offsets and weights, and writes the count table. -/
  | routeBuild (ring : BitVec 7) (pos : W32)
  /-- DISPATCH (R222). DISPATCH forward exchanges counts, allocates buffers and sends token rows to the expert side. -/
  | dispatch (ring : BitVec 7) (pos : W32)
  /-- COMBINE (R227). COMBINE forward returns expert rows and sums weighted contributions into token order. -/
  | combine (ring : BitVec 7) (pos : W32)
  /-- DISPATCH_REVERSE (R227). DISPATCH with REVERSE returns rows from LBSET and sums them unweighted into token order. -/
  | dispatchReverse (ring : BitVec 7) (pos : W32)
  /-- COMBINE_REVERSE (R228). COMBINE with REVERSE sends gradient rows to the expert side, writes weighted gradients into a new set and returns router gradients. -/
  | combineReverse (ring : BitVec 7) (pos : W32)
  /-- COPY (R300). COPY moves and converts an array of rows between spaces, dealt over or broadcast to the hearths of the mask. -/
  | copy (ring : BitVec 7) (pos : W32)
  /-- FILL (R301). FILL writes one converted value or RAW pattern into every element of an array. -/
  | fill (ring : BitVec 7) (pos : W32)
  /-- FENCE_RING (R250). FENCE KIND RING completes once every earlier position of its ring has its record and holds later positions. -/
  | fenceRing (ring : BitVec 7) (pos : W32)
  /-- FENCE_EPOCH (R250). FENCE KIND EPOCH on ring 0 holds every exchange descriptor on all rings while firmware installs the next configuration block. -/
  | fenceEpoch (ring : BitVec 7) (pos : W32)
  /-- EPOCH_INSTALL (R214). Once no exchange descriptor is outstanding, the configuration block is checked and installed with EPOCH incremented, or the fence fails with E_DESC. -/
  | epochInstall
  /-- LAUNCH_AT (R274). LAUNCH_AT holds later positions of its ring until the chosen count reaches VALUE, or completes at once if VALUE has passed. -/
  | launchAt (ring : BitVec 7) (pos : W32)
  /-- LAUNCH_AT_EXPIRE (R274). The chosen count reaches VALUE, the LAUNCH_AT completes OK and the held descriptors may issue. -/
  | launchAtExpire (ring : BitVec 7)
  /-- SEAL_CLOSE (R281). SEAL_CLOSE waits for earlier positions, writes the seal record with digests and HMAC tag, and ends the session. -/
  | sealClose (ring : BitVec 7) (pos : W32)
  /-- WAIT (R310). WAIT on ring 0 polls the agents and either refuses with E_REFUSED or commits entry to Doze or Hibernate. -/
  | wait (ring : BitVec 7) (pos : W32)
  /-- LOW_POWER_ENTER (R311). After the WAIT's PHASE word is acknowledged the domains stop, hearths enter RETAIN or SHUT and the Mantel enters self-refresh. -/
  | lowPowerEnter
  /-- HEARTH_SET_OFFLINE (R323). HEARTH_SET OFFLINE refuses for a pinning Banked ring, or sets OFFLINE on the named hearths. -/
  | hearthSetOffline (ring : BitVec 7) (pos : W32)
  /-- HEARTH_OFFLINE_SETTLE (R323). When descriptors already issued to the named hearths complete, the change is refused for open groups or PARKED tiles or the hearths enter SHUT. -/
  | hearthOfflineSettle
  /-- HEARTH_SET_ONLINE (R324). HEARTH_SET ONLINE clears OFFLINE and starts each named hearth's wake and wipe. -/
  | hearthSetOnline (ring : BitVec 7) (pos : W32)
  /-- MAINT_START (R356). MAINT START requests a maintenance activity on a target through the arbiter. -/
  | maintStart (ring : BitVec 7) (pos : W32)
  /-- MAINT_CANCEL (R356). MAINT CANCEL ends a queued or running activity of rank 3 or below at its next step. -/
  | maintCancel (ring : BitVec 7) (pos : W32)
  /-- PAUSE_AUTO (R356). MAINT PAUSE_AUTO stops scheduled scrub and recalibration at their next step, keeping pointers. -/
  | pauseAuto (ring : BitVec 7) (pos : W32)
  /-- RESUME_AUTO (R356). MAINT RESUME_AUTO restarts scheduled scrub and recalibration. -/
  | resumeAuto (ring : BitVec 7) (pos : W32)
  /-- NOP (R251). NOP performs no work and completes OK. -/
  | nop (ring : BitVec 7) (pos : W32)
  /-- DESCRIPTOR_FETCH (R252). The fast path issues a burst of read requests for up to 8 consecutive descriptors of a ring chosen by priority. -/
  | descriptorFetch
  /-- DESCRIPTOR_ISSUE (R248). A fetched descriptor is decoded, checked and issued to its engine once fences, tile, slot, bank and epoch waits allow. -/
  | descriptorIssue
  /-- CHUNK_STEP (R54). A Grate cell adds one chunk of exact products to its accumulator through the window sum and one rounding. -/
  | chunkStep (hearth : BitVec 6)
  /-- TILE_SWAP (R67). Once the shadow set is free, the live and shadow sets of all cells exchange roles in one cycle. -/
  | tileSwap (hearth : BitVec 6)
  /-- TILE_LOAD (R69). A tile is copied from accumulator memory into the free shadow set for a later swap. -/
  | tileLoad (hearth : BitVec 6)
  /-- AUTO_SPILL (R59). After every 2^16 chunks the live tile is swapped out and each cell's acc is added into its binary64 XAB value. -/
  | autoSpill (hearth : BitVec 6)
  /-- TILE_DRAIN_COMMIT (R68). The last element of a draining tile reaches accumulator memory and the tile's write commits. -/
  | tileDrainCommit (hearth : BitVec 6)
  /-- STAGE_PANEL_FETCH (R107). A panel of a streamed operand is fetched from the Mantel into a free stage half. -/
  | stagePanelFetch (hearth : BitVec 6)
  /-- K_SPLIT_COMBINE (R270). The home of a K-split tile adds the other parts' partial tiles in part or arrival order, then drains the result. -/
  | kSplitCombine (ring : BitVec 7) (pos : W32) (tile : BitVec 32)
  /-- CHAIN_PASS (R142). One pass of a chain program runs its stages over up to LANES elements and writes its outputs. -/
  | chainPass (hearth : BitVec 6)
  /-- SFU_GRANT (R175). The SFU grants up to two lane-group requests per cycle in pass, stage and round-robin order. -/
  | sfuGrant (hearth : BitVec 6)
  /-- SHAPE_RELOAD (R189). A shape lookup meeting a parity error stalls while the line is reread from its recorded source, then completes. -/
  | shapeReload (hearth : BitVec 6) (bank : Bool) (line : BitVec 10) (outcome : BitVec 2)
  /-- ORDERED_ADD_RELEASE (R299). A home port releases buffered ORDERED_ADDs of a hearth position once every lower position has sent its end mark. -/
  | orderedAddRelease (port : BitVec 5)
  /-- XCH_PACKET_SEND (R231). The Transom sends a packet on a port once it holds credit for the packet's channel. -/
  | xchPacketSend (port : BitVec 3)
  /-- XCH_COUNT_RECEIVE (R223). A COUNT message is accepted; with every member's counts the receiver computes row placement and requests buffers. -/
  | xchCountReceive (port : BitVec 3) (pkt : Packet)
  /-- POOL_GRANT (R373). A grant from the pool manager is taken and checked; when all buffers are granted READY is sent. -/
  | poolGrant (tag : W8) (pool : BitVec 2) (index : BitVec 24) (base : BitVec 52)
  /-- XCH_READY_RECEIVE (R232). A READY message lets this member send OUT rows to that receiver. -/
  | xchReadyReceive (port : BitVec 3) (pkt : Packet)
  /-- XCH_ROW_RECEIVE (R235). A row packet is checked for epoch and CRC and placed by its header, staged or added, or written with poison. -/
  | xchRowReceive (port : BitVec 3) (pkt : Packet)
  /-- XCH_DONE_RECEIVE (R236). A DONE message records that a receiver has committed this member's rows toward completion. -/
  | xchDoneReceive (port : BitVec 3) (pkt : Packet)
  /-- XCH_DW_RECEIVE (R228). A DW message's router gradients are written at RG_ADDR. -/
  | xchDwReceive (port : BitVec 3) (pkt : Packet)
  /-- XCH_STALE_RECEIVE (R235). A STALE message fails this member's descriptor for that XID with E_EPOCH. -/
  | xchStaleReceive (port : BitVec 3) (pkt : Packet)
  /-- XCH_ABORT_RECEIVE (R235). An ABORT message fails this member's descriptor for that XID with the carried status. -/
  | xchAbortReceive (port : BitVec 3) (pkt : Packet)
  /-- XCH_CREDIT_RETURN (R371). The licensee's side returns transmit credit units per channel on an exchange port. -/
  | xchCreditReturn (port : BitVec 3) (ctrl out ret : BitVec 4)
  /-- POOL_WARN_CHANGE (R232). A change of a pool's POOL_WARN level changes how the Transom grants OUT credit and starts allocations. -/
  | poolWarnChange (warn : W8)
  /-- XCH_TIMEOUT (R235). A member that has sent nothing within XCH_TIMEOUT fails the exchange with E_ABORTED and ABORT is sent. -/
  | xchTimeout (combine reverse : Bool) (xid : W16) (peer : W16)
  /-- MEMORY_READ_RESPONSE (R297). A read response on a memory port is checked for parity, poison and error and frees a read credit. -/
  | memoryReadResponse (port : BitVec 5) (tag : BitVec 12) (data : List W8) (parity : BitVec 32) (poison : BitVec 4) (err : W8)
  /-- MEMORY_WRITE_ACK (R296). A write or atomic acknowledgement on a memory port frees a write credit, or ends the descriptor with E_MEM on error. -/
  | memoryWriteAck (port : BitVec 5) (tag : BitVec 12) (err : W8)
  /-- COMPLETION_RECORD_WRITE (R257). Once every output is acknowledged the record body and PHASE word are written with the ORDERED attribute. -/
  | completionRecordWrite (ring : BitVec 7) (pos : W32)
  /-- FATAL_EVENT (R350). A fatal event stops issue and every engine, latches ERR_FATAL and attempts the error record. -/
  | fatalEvent (cause unitType unit : W8) (info : W64)
  /-- FATAL_HALT (R350). After at most 1 ms of record attempts the block drops every AWAKE and takes no doorbell. -/
  | fatalHalt
  /-- HEARTH_IDLE_ENTRY (R308). A hearth idle for IDLE_DELAY × 64 cycles enters IDLE_STATE, GATED or RETAIN. -/
  | hearthIdleEntry (hearth : BitVec 6)
  /-- HEARTH_WAKE_DONE (R308). A waking hearth becomes ACTIVE, after a wipe and table clear when it woke from SHUT. -/
  | hearthWakeDone (hearth : BitVec 6)
  /-- BLOCK_WAKE (R314). A wake source starts the block's wake from Doze or Hibernate and records LAST_WAKE. -/
  | blockWake (source : BitVec 3)
  /-- PSW_ACK (R376). The licensee's switch acknowledges a domain's power change so the block proceeds. -/
  | pswAck (domain : BitVec 7) (level : Bool)
  /-- WAKE_DONE (R314). The block reaches Run, sets WAKE_DONE and the fast path accepts each ring's held TAIL. -/
  | wakeDone (sample : WakeSample)
  /-- MGMT_WRITE (R375). A management write transaction sets the mirror offset, or writes 8 bytes to a scratch register; in sleep a match only starts a wake. -/
  | mgmtWrite (addr : BitVec 7) (bytes : List W8)
  /-- MGMT_READ (R386). A management read returns the mirror entry's 64 bits sampled at the address acknowledgement. -/
  | mgmtRead (addr : BitVec 7)
  /-- ENTDAA (R375). The I3C CCC ENTDAA assigns a dynamic address to the management target. -/
  | entdaa (addr : BitVec 7)
  /-- SETDASA (R375). The I3C CCC SETDASA sets the dynamic address from the static address. -/
  | setdasa (addr : BitVec 7)
  /-- RSTDAA (R375). The I3C CCC RSTDAA resets the dynamic address. -/
  | rstdaa
  /-- GETPID (R375). The I3C CCC GETPID returns the target's provisioned identity. -/
  | getpid
  /-- GETBCR (R375). The I3C CCC GETBCR returns the bus characteristics register. -/
  | getbcr
  /-- GETDCR (R375). The I3C CCC GETDCR returns the device characteristics register. -/
  | getdcr
  /-- GETSTATUS (R375). The I3C CCC GETSTATUS returns the target's status. -/
  | getstatus
  /-- POWER_ON (R362). VDD_EMBER entering its window holds the block in reset for 10 µs, then starts COUNT and POWERED_TIME from zero and resets everything. -/
  | powerOn
  /-- POWER_OFF (R306). Removal of VDD_EMBER puts the block Off and loses everything, COUNT included. -/
  | powerOff
  /-- COLD_RESET (R361). COLD_RST held for 2 periods starts a cold reset with the full wipe, keeping COUNT, POWERED_TIME and alarm records. -/
  | coldReset (periods : W8)
  /-- BLOCK_RESET (R361). BLK_RST held for 2 periods resets everything outside Ember and the key island, with the wipe. -/
  | blockReset (periods : W8)
  /-- WIPE_DONE (R338). Every memory of Table 16-7 is wiped, WIPE_DONE rises and the reset or alarm handling completes. -/
  | wipeDone (failRow : BitVec 3) (selftestFail entropyFail : Bool) (credits : List (BitVec 13 × BitVec 13))
  /-- ENTROPY_HEALTH_FAIL (R327). A failed continuous health test sets ENTROPY_FAIL and stops the DRBG. -/
  | entropyHealthFail
  /-- ALARM_TRIP (R341). An alarm source trips, sets PEND and ALARM_COUNT and, under HALT, ERASE or ERASE_SCRAP, stops work, wipes and aborts rings. -/
  | alarmTrip (source : BitVec 4)
  /-- SYNC_PULSE (R273). A SYNC pulse makes a follower set SYNC_SKEW or slew COUNT and update LOCKED. `leader` is the leader's COUNT at the pulse's boundary, and
`ns` the nanoseconds from the last step of COUNT to the edge (R374). -/
  | syncPulse (pulse : SyncPulse)
  /-- SYNC_PULSE_MISSED (R273). A missed pulse or excessive residual clears LOCKED and sets LOCK_LOST. -/
  | syncPulseMissed
  /-- SYNC_OUT_PULSE (R374). A leader drives SYNC_OUT for 64 ns each time its COUNT crosses a multiple of 2^20. -/
  | syncOutPulse
  /-- COUNT_TICK (R272). COUNT and POWERED_TIME advance by 10 per REF_CLK period in Run, or by 40 per EMBER_CLK period in sleep. The soft errors of that time (R289, R346) strike with it. -/
  | countTick
  /-- RECORDER_GAP (R277). When recorder space returns, a gap record with the number of lost records is written first. -/
  | recorderGap
  /-- REPLAY_STEP (R278). In replay the record at REC_TAIL is replayed when its input arrives with matching DIGEST, advancing REC_TAIL. -/
  | replayStep
  /-- REPLAY_DIVERGE (R278). A missing or unrecorded input sets DIVERGED, counts it, stores DIVERGE_AT and continues live. -/
  | replayDiverge
  /-- MAINT_SCHEDULE (R352). Expiry of a scrub or recalibration period requests the scheduled activity. -/
  | maintSchedule (activity : BitVec 3) (target : BitVec 6)
  /-- TEMP_HI_CHANGE (R286). A change of the tier temperature state sets or clears TEMP_HI, changes the refresh rate and requests RECAL. -/
  | tempHiChange (hearth : BitVec 6) (hi : Bool)
  /-- MAINT_GRANT (R353). The arbiter starts a queued activity when its resource set is free, or aborts lower-ranked activities for a higher rank. -/
  | maintGrant
  /-- MAINT_STEP (R354). A scrub or recalibration step of at most 128 cycles runs on its bank or hearth. -/
  | maintStep (activity : BitVec 3) (target : BitVec 6) (outcome : BitVec 2)
  /-- MAINT_ACTIVITY_DONE (R355). A maintenance activity ends; BIST records BIST_RESULT and leaves the hearth SHUT and OFFLINE, and a MAINT completes. -/
  | maintActivityDone (activity : BitVec 3) (target : BitVec 6) (pass : Bool) (unit : W8)
  /-- EXTEST (R378). JTAG EXTEST selects the boundary register to drive and capture port signals. `cells` is what the scan shifts in. -/
  | extest
  /-- IDCODE (R378). JTAG IDCODE selects the 32-bit identification register. -/
  | idcode
  /-- SAMPLE_PRELOAD (R378). JTAG SAMPLE/PRELOAD samples and preloads the boundary register. `cells` is what the scan shifts in. -/
  | samplePreload
  /-- CLAMP (R378). JTAG CLAMP holds the boundary outputs and selects the bypass register. -/
  | clamp
  /-- IJTAG_ACCESS (R378). JTAG IJTAG_ACCESS selects the IEEE 1687 network, through which `port` writes 64-bit parallel ports of hearths' wrappers (R379). -/
  | ijtagAccess
  /-- WRAPPER_ACCESS (R379). JTAG WRAPPER_ACCESS selects the IEEE 1500 wrapper chain of every hearth. `chain` is what the scan shifts in. -/
  | wrapperAccess
  /-- BYPASS (R378). JTAG BYPASS, and every other code, selects the 1-bit bypass register. With `trst` the TRST input is high. -/
  | bypass (test : TestCode)
  /-- ALARM_RECORD_ABANDON (R341). When a port gives no acknowledgement within 1 ms during alarm handling, the remaining E_ABORTED records are abandoned, rings go OFF and the Stoker memory wipe proceeds. -/
  | alarmRecordAbandon
  /-- ALARM_CONDITION_END (R345). An alarm source's condition ceases, for example ALARM_IN falling or a rail returning to window, and its SEAL_ALARM.SENSE bit clears while PEND stays set. -/
  | alarmConditionEnd (source : BitVec 4)
  deriving DecidableEq, Repr

end Sys2Proof
end

