-- ==== Sys2Proof/Machine/State.lean ====
section
/-! DEFINITION. Everything the spec gives the block to hold, as plain data, and its value after a reset. Sparse contents
(memories, cells, register files, per-hearth and per-port state) are lists of (key, value) pairs in one canonical form: keys
strictly rising and no pair whose value is what an unlisted key reads as. -/

namespace Sys2Proof.Machine

/-- A sparse table. What an unlisted key reads as is the default that the accessor names. -/
abbrev Tab (α : Type) := List (Nat × α)

/-- Bytes by address (spaces 0 to 3 of Table 05-3, and the XAB). An unlisted address reads `Memory.unlisted`. -/
abbrev Memory := List Host.Cell

/-- What a byte that nothing has written reads as: zero, the value every wipe leaves (R337, R291); for host memory, DESIGN CHOICE
(log entry 2). -/
def Memory.unlisted : W8 := 0#8

/-- Keys strictly rise and no pair holds the default. -/
def Tab.wf {α : Type} [DecidableEq α] (d : α) : Tab α → Bool
  | [] => true
  | [p] => decide (p.2 ≠ d)
  | p :: q :: rest => decide (p.2 ≠ d) && decide (p.1 < q.1) && Tab.wf d (q :: rest)

/-- The canonical form of a memory. -/
def Memory.wf (m : Memory) : Bool := Tab.wf Memory.unlisted m

/-! ### Configuration (Table 00-1; R382) -/

/-- The configuration that Chapocon and the fuses fixed: it never changes. -/
structure BlockConfig where
  hearths : Nat
  lanes : Nat
  hasMantel : Bool
  hasTransom : Bool
  hasSeal : Bool
  shapeEntries : Nat
  chapoconBuild : W32
  jtagMfr : BitVec 11
  deriving DecidableEq, Repr

/-- IVR-64, the reference configuration of R4. -/
def BlockConfig.reference : BlockConfig :=
  { hearths := 64, lanes := 256, hasMantel := true, hasTransom := true, hasSeal := true, shapeEntries := 131072,
    chapoconBuild := 0#32, jtagMfr := 0#11 }

/-- The values of Table 00-1 (R3). -/
def BlockConfig.valid (c : BlockConfig) : Bool :=
  [16, 32, 48, 64].contains c.hearths && [64, 128, 256].contains c.lanes && [65536, 131072].contains c.shapeEntries

def BlockConfig.stoves (c : BlockConfig) : Nat := c.hearths / 8

/-! ### Descriptors in flight -/

/-- A range of bytes that a descriptor wrote: space of Table 05-3, hearth (spaces 0 and 2), first byte, length. -/
structure Range where
  space : Nat
  hearth : Nat
  lo : Nat
  len : Nat
  deriving DecidableEq, Repr

/-- What a descriptor names on its hearths, as pairs (hearth, number): tiles that it reads and that it writes (R77), statistics and top-k
slots (R118, R128), group identities, and the shape-table banks that it reads (R185; 0 or 1). -/
structure Uses where
  reads : List (Nat × Nat)
  writes : List (Nat × Nat)
  stats : List (Nat × Nat)
  topk : List (Nat × Nat)
  groups : List (Nat × Nat)
  tables : List (Nat × Nat)
  deriving DecidableEq, Repr

def Uses.none : Uses := { reads := [], writes := [], stats := [], topk := [], groups := [], tables := [] }

/-- Where an issued descriptor stands: running in its engine, finished and awaiting its record, or with its record written. -/
inductive Stage where
  | running
  | finished
  | recorded
  deriving DecidableEq, Repr

/-- An issued position of a ring (R248): the descriptor, the mask taken at issue (R244), the hearths admitted at issue (R320), and what
its record will carry. `started` says that its engine has begun it; `left` counts the shares of its work that are not
finished; `arrived` lists, for a K-split, the (tile, part) pairs in order of arrival (R271). -/
structure Entry where
  pos : W32
  desc : DescBits
  mask : W64
  admitted : W64
  order : Nat
  /-- COUNT at issue -/
  issued : W64
  stage : Stage
  started : Bool
  left : Nat
  status : W8
  detail : W16
  flags : W16
  sealRefusal : W16
  sealed : Bool
  arrived : List (Nat × Nat)
  outs : List Range
  /-- pieces of host memory requested as operands: the stove that reads (8 for the Transom), address and length -/
  reads : List (Nat × Nat × Nat)
  /-- the epilogue record that each hearth read at issue (R114), as the number of its 256 bytes -/
  records : List (Nat × Nat)
  /-- hearths on which the descriptor has acted (R76, R119) -/
  acted : W64
  /-- bit h: the shape-table bank that the descriptor reads on hearth h (R183) -/
  banks : W64
  uses : Uses
  /-- what of `uses` later descriptors still wait for: a part leaves when its tile commits, its last read is taken, or its hearth's share
  ends (R77, R78, R185); of a failed descriptor all of it stays until the record (R76, R119) -/
  holds : Uses
  /-- hearths whose share of the work is not finished -/
  work : List Nat
  /-- pieces of its share that a hearth has finished, for work that can yield between pieces (R267) -/
  prog : Tab Nat
  deriving DecidableEq, Repr

/-- A fetched descriptor that has not issued (R252). -/
structure Fetched where
  pos : W32
  desc : DescBits
  deriving DecidableEq, Repr

/-! ### Rings (Table 12-1, Table 12-2) -/

inductive RingState where
  | off
  | run
  | draining
  | stopped
  | fault
  deriving DecidableEq, Repr

/-- An open seal session of a ring (R279, R280): nonce, key slot, the two derived keys, the four sums and line counts, the program
bytes in position order, and the SFLAGS gathered so far. -/
structure Session where
  nonce : W64
  keyRef : BitVec 2
  poly : BitVec 128
  tagKey : BitVec 384
  sums : List (BitVec 128)
  lines : List W64
  program : List W8
  sflags : W8
  windows : List (W64 × W64)
  deriving DecidableEq, Repr

structure Ring where
  sqBase : W64
  cqBase : W64
  enable : Bool
  cls : BitVec 2
  log2Size : BitVec 5
  errStop : Bool
  vec : BitVec 4
  irqErr : Bool
  hmask : W64
  head : W32
  tail : W32
  state : RingState
  fault : Bool
  cause : BitVec 4
  faultCount : W16
  lastPos : W32
  lastStatus : W8
  lastDetail : W16
  /-- the next position whose read has not been requested, and the next position to issue -/
  fetchPos : W32
  issuePos : W32
  fetched : List Fetched
  entries : List Entry
  /-- positions at or above HEAD whose records are complete -/
  done : List W32
  /-- the positions whose record write failed (cause 3, R243) -/
  lostRecords : List W32
  /-- (TAIL, COUNT) of each accepted doorbell, newest first (DURATION of Table 12-9) -/
  accepts : List (W32 × W64)
  /-- the TAIL that Ember holds (R245, R313), and the doorbells whose acceptance the recorder withholds, oldest first (R277) -/
  held : Option W32
  withheld : List W32
  /-- a descriptor read that failed, with its burst's end and its port, while earlier positions of the burst are in flight (R243) -/
  failedRead : Option (W32 × W32 × Nat)
  session : Option Session
  /-- set when an erasure of keys ended the ring's session (R343) -/
  sessionLost : Bool
  deriving DecidableEq, Repr

/-- A ring after reset (Table 12-1); the CLASS of ring 0 reads 3 in every state (R240). -/
def Ring.reset : Ring :=
  { sqBase := 0#64, cqBase := 0#64, enable := false, cls := 0#2, log2Size := 0#5, errStop := false, vec := 0#4,
    irqErr := false, hmask := 0#64, head := 0#32, tail := 0#32, state := .off, fault := false, cause := 0#4,
    faultCount := 0#16, lastPos := 0#32, lastStatus := 0#8, lastDetail := 0#16, fetchPos := 0#32, issuePos := 0#32, fetched := [],
    entries := [], done := [], lostRecords := [], accepts := [], held := none, withheld := [], failedRead := none, session := none, sessionLost := false }

/-! ### Hearths -/

/-- HEARTH_STATE.STATE (Table 15-3, Table 15-13). -/
inductive HearthPower where
  | active
  | gated
  | retain
  | shut
  | waking
  | wiping
  deriving DecidableEq, Repr

/-- Tile states (Table 04-3). -/
inductive TileState where
  | idle
  | live
  | draining
  | parked
  deriving DecidableEq, Repr

/-- One accumulator tile: its state, whether an accumulation is open on it, its element count and next chunk index (R58), and
whether its accumulation has spilled to the ATILE's XAB area (R59). -/
structure TileInfo where
  state : TileState
  isOpen : Bool
  elements : Nat
  chunk : Nat
  spilled : Bool
  /-- memory holds the starting -0 of a group's accumulation, so that no load is needed (R69, R85) -/
  fresh : Bool
  deriving DecidableEq, Repr

def TileInfo.reset : TileInfo :=
  { state := .idle, isOpen := false, elements := 0, chunk := 0, spilled := false, fresh := false }

/-- One group identity (R84): `cls` is the class of the ring that opened it (R81). `bound` is the XADDR of the record. -/
structure Group where
  isOpen : Bool
  tiles : W64
  touched : Bool
  bound : Option W64
  keep : Bool
  cls : BitVec 2
  deriving DecidableEq, Repr

def Group.reset : Group :=
  { isOpen := false, tiles := 0#64, touched := false, bound := none, keep := false, cls := 0#2 }

/-- One tile's work for one descriptor on one hearth: tile (i, j) of R102, its ATILE, its share of K (the part of R105), the next
element of K, and how it begins and ends. -/
structure TileJob where
  ring : Nat
  pos : W32
  tile : Nat
  ti : Nat
  tj : Nat
  atile : Nat
  part : Nat
  parts : Nat
  kNext : Nat
  kEnd : Nat
  /-- starts from memory: a preload, a continuation or a return from preemption -/
  load : Bool
  /-- the preload is still to be written -/
  preload : Bool
  ends : Bool
  /-- its descriptor's place in issue order, and whether its ring is Flue -/
  order : Nat
  flue : Bool
  deriving DecidableEq, Repr

/-- A panel of a streamed operand in a half of the stage (R107): its descriptor, the tile column or tile row that it serves,
and the bytes fetched, by Mantel address. -/
structure Panel where
  ring : Nat
  pos : W32
  id : Nat
  half : Nat
  data : Memory
  deriving DecidableEq, Repr

/-- What the shadow set is doing (R67): free, draining a tile (with what its drain must do), or holding a loaded tile. -/
inductive ShadowUse where
  | free
  | draining (job : TileJob)
  | loaded (job : TileJob)
  deriving DecidableEq, Repr

/-- A wide value of the drain's statistics: a 24-bit significand and an unbounded exponent (R118), value `mant * 2 ^ exp`. -/
inductive Wide where
  | fin (mant : Nat) (exp : Int)
  | inf
  | nan
  deriving DecidableEq, Repr

/-- One row entry of a statistics slot (R118). -/
structure StatsEntry where
  m : W32
  l : Wide
  a : W32
  anchorSet : Bool
  ninf : W16
  nan : Bool
  deriving DecidableEq, Repr

/-- The initial state of R118: M = -inf, L = +0, A unset, NINF = 0, NAN = 0. -/
def StatsEntry.reset : StatsEntry :=
  { m := 0xFF800000#32, l := .fin 0 0, a := 0xFF800000#32, anchorSet := false, ninf := 0#16, nan := false }

/-- A run of a CHAIN on one hearth: the indices of the distribution dimension dealt to it, the next pass, and the
Chimney results of the line in progress, by stage (R142, R154). -/
structure ChainRun where
  ring : Nat
  pos : W32
  first : Nat
  count : Nat
  pass : Nat
  passes : Nat
  /-- the stream record as the hearth read it (R138), the number of its 256 bytes -/
  record : Nat
  lines : Tab (List W32)
  /-- the reductions whose line in progress has consumed marked data (R347) -/
  marks : List Nat
  /-- pieces of host memory requested for the next pass -/
  reads : List (Nat × Nat × Nat)
  deriving DecidableEq, Repr

structure Hearth where
  idleState : BitVec 2
  idleDelay : W16
  power : HearthPower
  /-- the wake in progress started from SHUT -/
  fromShut : Bool
  offline : Bool
  wakeCount : W16
  wipeCount : W16
  store : Memory
  storePoison : List Nat
  /-- the words, among the marked ones, that are stored uncorrectable: a read of them detects the error (Table 17-1); and the words that a read
  corrects -/
  storeBad : List Nat
  storeSoft : List Nat
  acc : Memory
  accPoison : List Nat
  accBad : List Nat
  accSoft : List Nat
  xab : Memory
  tiles : Tab TileInfo
  groups : Tab Group
  /-- the two cell sets (R66), and what a cell that a set does not list holds: +0 after a wipe (Table 16-7), -0 once a tile has gone live -/
  live : Tab W32
  liveFill : W32
  liveJob : Option TileJob
  shadow : Tab W32
  shadowFill : W32
  shadowUse : ShadowUse
  jobs : List TileJob
  /-- an auto-spill is due (R59), and the live tile has reached the chunk at which it yields to Flue (R267) -/
  spillDue : Bool
  yielding : Bool
  /-- a Flue descriptor has issued to the hearth since the live accumulation last stopped: it stops at its next yield point (R267) -/
  flueDue : Bool
  /-- a cell of the live set, and of the shadow set, has lost its parity (Table 17-1) -/
  liveBad : Bool
  shadowBad : Bool
  panels : List Panel
  stats : Tab StatsEntry
  topk : Tab (List (W32 × W32))
  topkK : Tab Nat
  /-- row entries of the statistics slots (their keys) and of the top-k slots (4,096 + their keys): marked, stored uncorrectable, and corrected by
  a read -/
  slotPoison : List Nat
  slotBad : List Nat
  slotSoft : List Nat
  shapes : Tab W64
  slots : Tab (BitVec 256)
  active : Bool
  sources : Tab (Nat × W64)
  swapCount : W16
  reloadCount : W16
  loading : Bool
  loadBank : Bool
  chains : List ChainRun
  sfuQueue : List (Nat × Nat × Nat)
  sfuLast : Nat
  mantelCorrected : W16
  mantelUncorr : W16
  tempHi : Bool
  bistResult : BitVec 2
  bistUnit : W8
  bistRuns : W16
  bistFails : W16
  sramCe : W32
  sramUe : W16
  scrubPasses : W16
  sramPtr : Nat
  mantelPtr : Nat
  deriving DecidableEq, Repr

/-- A hearth after a cold reset (Tables 15-13, 04-9, 09-10, 14-8, 17-11; R337). The scrub pointers start at 0 (log entry 9), and `sfuLast` at
0, so that the SFU serves group 1 first: DESIGN CHOICE, log entry 152. -/
def Hearth.reset : Hearth :=
  { idleState := 1#2, idleDelay := 16#16, power := .active, fromShut := false, offline := false, wakeCount := 0#16, wipeCount := 0#16,
    store := [], storePoison := [], storeBad := [], storeSoft := [], acc := [], accPoison := [], accBad := [], accSoft := [], xab := [], tiles := [], groups := [], live := [],
    liveFill := 0#32, liveJob := none, shadow := [], shadowFill := 0#32, shadowUse := .free, jobs := [],
    spillDue := false, yielding := false, flueDue := false, liveBad := false, shadowBad := false, panels := [], stats := [], topk := [], topkK := [],
    slotPoison := [], slotBad := [], slotSoft := [],
    shapes := [], slots := [], active := false, sources := [], swapCount := 0#16, reloadCount := 0#16, loading := false,
    loadBank := false, chains := [], sfuQueue := [], sfuLast := 0, mantelCorrected := 0#16, mantelUncorr := 0#16,
    tempHi := false, bistResult := 0#2, bistUnit := 0#8, bistRuns := 0#16, bistFails := 0#16, sramCe := 0#32,
    sramUe := 0#16, scrubPasses := 0#16, sramPtr := 0, mantelPtr := 0 }

/-! ### Memory ports (R293 to R299) -/

/-- What a request in flight is for. -/
inductive Purpose where
  /-- `count` descriptors from `pos`, of a burst that ends before position `burstEnd` -/
  | descriptors (count : Nat) (burstEnd : W32)
  | operand
  | output
  | recordBody
  | phase
  | interrupt (vec : Nat)
  | errorRecord
  /-- a recorder record -/
  | recorder
  /-- a read and a write of an attestation report, and the read of an authorisation, by the Seal -/
  | reportData
  | report
  | authorisation
  | atomic (ordered : Bool) (int : Bool) (operand : W32)
  deriving DecidableEq, Repr

/-- A request at a memory port (Table 14-3, Table 18-7): the bytes it reads, or the bytes it writes (its byte enables cover exactly
these), with a poison bit for each 64-byte line of its granule. `shared` says that it holds a shared credit, not one reserved for Flue
(R295); `ticket` is that of an ORDERED_ADD (R299). -/
structure Request where
  write : Bool
  tag : BitVec 12
  addr : Nat
  size : Nat
  bytes : List W8
  poison : BitVec 4
  shared : Bool
  cls : BitVec 2
  ordered : Bool
  ticket : W32
  ring : Nat
  pos : W32
  purpose : Purpose
  repeated : Bool
  deriving DecidableEq, Repr

/-- An ORDERED_ADD in a home port's ordering buffer (R299). -/
structure OrderedAdd where
  ring : Nat
  pos : W32
  position : Nat
  addr : Nat
  int : Bool
  operand : W32
  poisoned : Bool
  deriving DecidableEq, Repr

structure Port where
  rdCredits : W16
  wrCredits : W16
  inflight : List Request
  waiting : List Request
  nextTag : BitVec 12
  adds : List OrderedAdd
  /-- end marks received: (ring, pos, hearth position) -/
  marks : List (Nat × W32 × Nat)
  deriving DecidableEq, Repr

/-- 16 credits of each kind, the least that R295 lets the integrator grant: DESIGN CHOICE (log entry 4). -/
def Port.reset : Port :=
  { rdCredits := 16#16, wrCredits := 16#16, inflight := [], waiting := [], nextTag := 0#12, adds := [], marks := [] }

/-! ### Block control -/

structure Block where
  blkEvent : BitVec 9
  eventCount : Tab W32
  events : List W64
  irqEn : W32
  evtVec : BitVec 4
  dropped : W16
  dbStray : W32
  dbBack : W32
  patchAddr : W64
  patchLen : BitVec 13
  patchState : BitVec 3
  patchReason : BitVec 4
  patchVersion : W16
  patchMinor : W8
  patchMajor : W8
  patchImage : List W8
  hmask : Tab W64
  irqAddr : Tab W64
  irqData : Tab W64
  irqMask : W16
  irqPend : W16
  /-- round-robin pointers of fetch and of decode among Banked and Draught rings, and among Flue rings (R252) -/
  fetchNext : Nat
  decodeNext : Nat
  fetchNextFlue : Nat
  decodeNextFlue : Nat
  issued : Nat
  deriving DecidableEq, Repr

def Block.reset : Block :=
  { blkEvent := 0#9, eventCount := [], events := [], irqEn := 0#32, evtVec := 0#4, dropped := 0#16, dbStray := 0#32,
    dbBack := 0#32, patchAddr := 0#64, patchLen := 0#13, patchState := 0#3, patchReason := 0#4, patchVersion := 0#16,
    patchMinor := 0#8, patchMajor := 0#8, patchImage := [], hmask := [], irqAddr := [], irqData := [],
    irqMask := 0xFFFF#16, irqPend := 0#16, fetchNext := 0, decodeNext := 0, fetchNextFlue := 0, decodeNextFlue := 0,
    issued := 0 }

/-! ### Power and the Damper -/

/-- PWR_STATE.BLOCK (Table 15-11), and Off (Table 15-2). -/
inductive BlockState where
  | run
  | entering
  | doze
  | hibernate
  | waking
  | off
  deriving DecidableEq, Repr

/-- Where a PSTATE sequence stands (R317): none, a raise waiting for VOK, or a frequency switch waiting for its COUNT. -/
inductive Sequence where
  | idle
  | awaitVok (goal : BitVec 3) (oldCode : W8)
  | awaitSwitch (goal : BitVec 3) (lower : Bool)
  deriving DecidableEq, Repr

structure Stove where
  target : BitVec 3
  current : BitVec 3
  fail : Bool
  failCount : W16
  code : W8
  vok : Bool
  /-- RAIL_ON_s (R364) -/
  railOn : Bool
  refused : W16
  cap : BitVec 10
  throttleCount : W32
  sequence : Sequence
  nextTarget : Option (BitVec 3)
  withheld : Bool
  deriving DecidableEq, Repr

/-- Table 15-12. -/
def Stove.reset : Stove :=
  { target := 1#3, current := 1#3, fail := false, failCount := 0#16, code := 0x64#8, vok := false, railOn := true, refused := 0#16,
    cap := 0#10, throttleCount := 0#32, sequence := .idle, nextTarget := none, withheld := false }

structure Power where
  mode : BitVec 2
  dozeHearth : Bool
  block : BlockState
  lastWake : BitVec 3
  wakeCount : W16
  dbWake : Bool
  wakeHearths : Bool
  refuserCode : W8
  refuserDetail : W16
  refuserOpcode : W8
  isoStoves : W8
  isoPool : Bool
  refuseCount : Tab W32
  stoves : Tab Stove
  /-- the state that the wake in progress left, and its source -/
  sleeping : BlockState
  committed : Bool
  /-- PSW_REQ_d and PSW_ACK_d by domain (R376) -/
  pswReq : BitVec 73
  pswAck : BitVec 73
  /-- the first wake source since the commit of an entry (R313, R314) -/
  dueWake : Option (BitVec 3)
  /-- what the mirror shows in Doze: BLK_EVENT, PATCH_STATE, the OFFLINE hearths and SEAL_LC at the commit (R385) -/
  heldEvent : BitVec 9
  heldPatch : W64
  heldOffline : W64
  heldLc : W64
  /-- LOG alarms of sleep whose events queue at the next wake (R342) -/
  queuedAlarms : List (Nat × BitVec 2)
  deriving DecidableEq, Repr

/-- Table 15-11. In IVR-64 every powered domain's switch is acknowledged after reset (Table 18-3). -/
def Power.reset : Power :=
  { mode := 0#2, dozeHearth := false, block := .run, lastWake := 0#3, wakeCount := 0#16, dbWake := true,
    wakeHearths := false, refuserCode := 0#8, refuserDetail := 0#16, refuserOpcode := 0#8, isoStoves := 0#8,
    isoPool := false, refuseCount := [], stoves := [], sleeping := .run, committed := false,
    pswReq := BitVec.allOnes 73, pswAck := BitVec.allOnes 73, dueWake := none, heldEvent := 0#9, heldPatch := 0#64, heldOffline := 0#64,
    heldLc := 0#64, queuedAlarms := [] }

/-! ### Determinism and audit -/

structure Audit where
  count : W64
  powered : W64
  role : BitVec 2
  delay : W16
  locked : Bool
  lockLost : Bool
  lostCount : W16
  residual : W32
  skew : W64
  /-- successive pulses within 16 ns, whether SKEW must be set at the next pulse, and the slew still to apply, signed -/
  goodPulses : Nat
  skewUnset : Bool
  slew : Int
  pulses : W64
  syncOut : Bool
  recBase : W64
  recEnable : Bool
  recMode : Bool
  recHold : Bool
  recLog2 : BitVec 5
  recKinds : BitVec 5
  recRefused : Bool
  recHead : W32
  recTail : W32
  recIndex : W32
  diverged : Bool
  divergeCount : W16
  recLost : W32
  /-- records lost since the last gap record (R277) -/
  recGap : W64
  divergeAt : W32
  recLimit : W32
  recKey : Option (BitVec 128)
  /-- the inputs that replay holds until their turn, oldest first, and whether it has ended by a divergence (R278) -/
  replayWaiting : List Instr
  replayLive : Bool
  /-- rows and messages whose acceptance the recorder withholds, oldest first (R277) -/
  withheldRows : List Instr
  windows : Tab (W64 × W64)
  nonces : Tab W64
  deriving DecidableEq, Repr

def Audit.reset : Audit :=
  { count := 0#64, powered := 0#64, role := 0#2, delay := 0#16, locked := false, lockLost := false, lostCount := 0#16,
    residual := 0#32, skew := 0#64, goodPulses := 0, skewUnset := true, slew := 0, pulses := 0#64, syncOut := false,
    recBase := 0#64, recEnable := false, recMode := false, recHold := false, recLog2 := 0#5, recKinds := 0#5,
    recRefused := false, recHead := 0#32, recTail := 0#32, recIndex := 0#32, diverged := false, divergeCount := 0#16,
    recLost := 0#32, recGap := 0#64, divergeAt := 0#32, recLimit := 0#32, recKey := none, replayWaiting := [], replayLive := false,
    withheldRows := [], windows := [], nonces := [] }

/-! ### The Transom -/

/-- A segment of a buffer set (Table 11-7), with the space of its pool when it was requested. -/
structure Segment where
  base : W64
  twinBase : W64
  index : BitVec 24
  twinIndex : BitVec 24
  rows : Nat
  pool : BitVec 2
  space : Nat
  granted : Bool
  twinGranted : Bool
  deriving DecidableEq, Repr

/-- A local expert's part of a buffer set: its number, its rows, its first segment and first row, and the base of each source. -/
structure ExpertPart where
  expert : Nat
  rows : Nat
  nseg : Nat
  firstSeg : Nat
  firstRow : Nat
  bases : List (Nat × Nat)
  deriving DecidableEq, Repr

/-- An arrival-map entry (R223): TOKEN and SLOT word, and source chip; and the WEIGHT that the row's header carried. -/
structure Arrival where
  token : W32
  src : W16
  weight : W32
  deriving DecidableEq, Repr

/-- A live buffer set; `id` is the place in issue order of the descriptor that allocated it. -/
structure BufferSet where
  id : Nat
  xid : W16
  epoch : W16
  rowBytes : Nat
  tokens : Nat
  k : Nat
  twin : Bool
  experts : List ExpertPart
  segments : List Segment
  arrivals : Tab (Option Arrival)
  releasePending : Bool
  deriving DecidableEq, Repr

/-- A route entry (Table 11-2). -/
structure RouteEntry where
  token : Nat
  slot : Nat
  valid : Bool
  chip : Nat
  expert : Nat
  offset : Nat
  weight : W32
  deriving DecidableEq, Repr

/-- An exchange on this chip (R213): the triple, its descriptor, and what it has sent and received. Rows are numbered by arrival index
where they land in a buffer set, and by route entry where they return. -/
structure Exchange where
  xid : W16
  combine : Bool
  reverse : Bool
  ring : Nat
  pos : W32
  order : Nat
  /-- this chip's own route -/
  route : List RouteEntry
  /-- counts received: source, packet, counts -/
  counts : List (Nat × Nat × List Nat)
  /-- the layout of the set to allocate, once it is known -/
  layout : Option (List ExpertPart)
  allocated : Bool
  readySent : Bool
  readyFrom : List Nat
  /-- members whose rows have been sent, and how many rows each was sent -/
  sentTo : List Nat
  rowsTo : Tab Nat
  /-- packets of rows that have been taken: (row, packet) -/
  pieces : List (Nat × Nat)
  /-- rows of each source that are complete -/
  rowsFrom : Tab Nat
  /-- packets of gradient rows that wait for the rest of their row, with whether each is bad -/
  grads : List (Packet × Bool)
  /-- router gradients to return: destination, TOKEN and SLOT, value, whether it is poisoned -/
  dws : List (Nat × W32 × W32 × Bool)
  /-- entries whose router gradient has been written -/
  dwGot : List Nat
  doneFrom : List Nat
  doneTo : List Nat
  /-- tokens whose output row has been written -/
  tokensOut : List Nat
  /-- host reads that were answered with an error -/
  badReads : List (Nat × Nat)
  /-- members that have sent something -/
  heard : List Nat
  started : W64
  /-- the exchange has failed or its key has been used: later packets of it are discarded -/
  closed : Bool
  deriving DecidableEq, Repr

/-- A request for a buffer (R225, R373). -/
structure PoolRequest where
  tag : W8
  pool : BitVec 2
  size : Nat
  owners : BitVec 3
  set : Nat
  id : Nat
  segment : Nat
  twin : Bool
  deriving DecidableEq, Repr

/-- Credit of one exchange port, in units by channel (R231, R371). -/
structure Credit where
  ctrl : Nat
  out : Nat
  ret : Nat
  deriving DecidableEq, Repr

/-- Transmit credit after a reset or a wake. -/
def Credit.none : Credit := { ctrl := 0, out := 0, ret := 0 }

/-- The receive credit that the block grants when AWAKE rises: the division of Table 11-10, with the part that OUT and RET share under OUT
(log entry 103). -/
def Credit.granted : Credit := { ctrl := 256, out := 14080, ret := 2048 }

/-- One lane of a beat that an exchange port sends (Table 18-9, R370): its place in the beat, its 32 bytes, whether it starts or ends a
packet, its channel, and whether it carries poisoned data. -/
structure TxLane where
  lane : BitVec 2
  data : List W8
  sop : Bool
  eop : Bool
  vc : BitVec 2
  poison : Bool
  deriving DecidableEq, Repr

/-- A packet that waits to be sent, the row or message it belongs to, and the port that the row has taken. -/
structure TxItem where
  row : Nat
  port : Option Nat
  pkt : Packet
  deriving DecidableEq, Repr

structure Transom where
  self : W16
  epoch : W16
  members : Nat
  cfgAddr : W64
  nextCfg : W64
  poolSpace : W8
  timeout : W32
  lastXid : W16
  lastCause : W8
  lastStatus : W8
  lastPeer : W16
  stale : W16
  warn1Count : W16
  warn2Count : W16
  badRelease : W16
  warn : W8
  sets : Tab (Option BufferSet)
  exchanges : List Exchange
  /-- packets of exchanges whose descriptor has not issued (R233): port, packet, and whether it came with units of credit (R371) -/
  pendingArea : List (Nat × Packet × Bool)
  /-- packets that stand in the receive buffers while the bank that they go to is being wiped (R354), in the same form -/
  received : List (Nat × Packet × Bool)
  txQueue : List TxItem
  nextRow : Nat
  /-- the port whose turn it is to take a row (R230) -/
  txTurn : Nat
  txCredits : Tab Credit
  /-- receive credit that the licensee's side holds, by port -/
  rxCredits : Tab Credit
  /-- the last packet sent on each port, and the lanes that carried it -/
  sent : Tab (Option Packet)
  sentLanes : Tab (List TxLane)
  /-- READY and DONE messages that completed exchanges have not received: (TYPE, xid, combine, reverse, peer) -/
  owed : List (Nat × W16 × Bool × Bool × Nat)
  /-- requests that await a grant, and requests that wait for room at the manager -/
  requests : List PoolRequest
  unsent : List PoolRequest
  /-- the releases sent to the pool manager, oldest first (owner 0) -/
  releases : List (BitVec 2 × BitVec 24)
  nextTag : W8
  deriving DecidableEq, Repr

def Transom.reset : Transom :=
  { self := 0#16, epoch := 0#16, members := 0, cfgAddr := 0#64, nextCfg := 0#64, poolSpace := 0#8, timeout := 0#32,
    lastXid := 0#16, lastCause := 0#8, lastStatus := 0#8, lastPeer := 0#16, stale := 0#16, warn1Count := 0#16,
    warn2Count := 0#16, badRelease := 0#16, warn := 0#8, sets := [], exchanges := [], pendingArea := [], received := [], txQueue := [],
    nextRow := 0, txTurn := 0, txCredits := [], rxCredits := [], sent := [], sentLanes := [], owed := [], requests := [], unsent := [], releases := [],
    nextTag := 0#8 }

/-! ### The Seal -/

/-- Alarm policies (Table 16-9). -/
abbrev Policy := BitVec 2

structure Seal where
  lcFuse : BitVec 4
  rootBlank : Bool
  keySlots : Tab (BitVec 384)
  slotMask : BitVec 5
  lockFuse : Bool
  policyFuse : W32
  policy : W32
  keysErased : Bool
  /-- reads of ROOT and of the owner slots are blocked until the next reset (R331); KEYS_ERASED, of class B, clears at the exit from Hibernate -/
  blocked : Bool
  attest : Bool
  selftestFail : Bool
  entropyFail : Bool
  result : BitVec 4
  busy : Bool
  target : BitVec 3
  denied : W16
  nonce : W64
  authAddr : W64
  keyRef : BitVec 2
  pend : W16
  sense : W16
  halted : Bool
  wipeCause : BitVec 3
  wipeCount : W16
  wipeUs : W32
  keyData : Tab W64
  keyIndex : BitVec 3
  keyResult : BitVec 4
  attAddr : W64
  attPub : Bool
  attBusy : Bool
  attResult : BitVec 4
  /-- the report has been sent, and an access of it has failed (R344) -/
  attSent : Bool
  attFault : Bool
  alarmCount : Tab W32
  /-- WIPE_DONE is low -/
  wiping : Bool
  wipeStart : W64
  /-- the cause of the wipe in progress (LAST_CAUSE codes) -/
  wipeKind : BitVec 3
  /-- a reset is in progress, and whether it is a cold one (R362) -/
  resetting : Bool
  resetCold : Bool
  /-- the state that an accepted transition goes to, whether its fuses are being blown (R334), and whether a GO awaits the reading of its
  authorisation (R335) -/
  goal : BitVec 3
  blowing : Bool
  deciding : Bool
  /-- the strongest policy met so far while an alarm is handled (R342) -/
  handling : Option Policy
  /-- LC_FUSE as the latest reset read it (R383): ERASE_SCRAP shows after the next reset (Table 16-9) -/
  lcShown : BitVec 4
  /-- DRBG requests made: the index of its next output -/
  drbg : Nat
  deriving DecidableEq, Repr

/-! ### Errors and maintenance -/

/-- An error record that waits to be written (R349): severity, cause, unit type, unit, position, ring, opcode, status, space,
syndrome, address, COUNT, INFO. -/
structure ErrorEvent where
  index : W32
  severity : W8
  cause : W8
  unitType : W8
  unit : W8
  repeats : W16
  pos : W32
  ring : W8
  opcode : W8
  status : W8
  space : W8
  syndrome : W32
  addr : W64
  count : W64
  info : W64
  deriving DecidableEq, Repr

structure Errors where
  base : W64
  enable : Bool
  logCorrected : Bool
  log2 : BitVec 5
  refused : Bool
  head : W32
  tail : W32
  index : W32
  corrected : W32
  lost : W16
  fatalValid : Bool
  fatalCause : W8
  fatalType : BitVec 4
  fatalUnit : W8
  fatalStamp : W32
  /-- issue and every engine have stopped (R350), and the block has dropped its AWAKEs -/
  stopped : Bool
  fatalHalted : Bool
  /-- records that ERR_TAIL has not passed, oldest first, and those of them whose writes are acknowledged -/
  writing : List ErrorEvent
  written : List W32
  deriving DecidableEq, Repr

def Errors.reset : Errors :=
  { base := 0#64, enable := false, logCorrected := false, log2 := 0#5, refused := false, head := 0#32, tail := 0#32,
    index := 0#32, corrected := 0#32, lost := 0#16, fatalValid := false, fatalCause := 0#8, fatalType := 0#4,
    fatalUnit := 0#8, fatalStamp := 0#32, stopped := false, fatalHalted := false, writing := [], written := [] }

structure Maint where
  sramPeriod : W16
  mantelPeriod : W16
  recalPeriod : W16
  paused : Bool
  running : List (Nat × Nat)
  queued : List (Nat × Nat)
  aborted : Bool
  abortCount : W16
  /-- MAINT START positions of ring 0 that await an activity: (position, activity, target) -/
  waiting : List (W32 × Nat × Nat)
  /-- activities that the schedule requested -/
  scheduled : List (Nat × Nat)
  deriving DecidableEq, Repr

/-- Table 17-10. -/
def Maint.reset : Maint :=
  { sramPeriod := 256#16, mantelPeriod := 4096#16, recalPeriod := 64#16, paused := false, running := [], queued := [],
    aborted := false, abortCount := 0#16, waiting := [], scheduled := [] }

/-! ### Ports of Ember: Sash, management, test access -/

/-- An access that stalls: a write or a read, its offset and data, and whether it is one that receives an error response (R367). -/
structure StalledAccess where
  write : Bool
  off : BitVec 20
  data : W64
  bad : Bool
  deriving DecidableEq, Repr

/-- The last response of the Sash port, and the accesses that stall until Run, oldest first: at most 8 (R307, R367). -/
structure Sash where
  error : Bool
  rdata : W64
  stalled : List StalledAccess
  deriving DecidableEq, Repr

structure Mgmt where
  dynamic : Option (BitVec 7)
  staticAddr : BitVec 7
  offset : W16
  scratch : Tab W64
  /-- the bytes that the port last returned -/
  data : List W8
  acked : Bool
  deriving DecidableEq, Repr

/-- The data register that the test access port selects (Table 18-15). -/
inductive DataRegister where
  | boundary
  | idcode
  | bypass
  | network
  | wrapper
  deriving DecidableEq, Repr

/-- The IEEE 1500 wrapper of a hearth: WIR, WBY, WBR and the 64-bit parallel port (R379). -/
structure Wrapper where
  wir : List Bool
  wby : Bool
  wbr : List Bool
  parallel : W64
  deriving DecidableEq, Repr

def Wrapper.reset : Wrapper := { wir := [], wby := false, wbr := [], parallel := 0#64 }

structure Jtag where
  ir : W8
  dr : DataRegister
  /-- the boundary register's cells, as the last scan left them -/
  boundary : List Bool
  /-- the boundary register drives the ports (EXTEST), or holds them (CLAMP) -/
  driving : Bool
  /-- TRST is high -/
  trst : Bool
  capture : W32
  attached : Bool
  wrappers : Tab Wrapper
  deriving DecidableEq, Repr

/-! ### The whole block -/

structure State where
  cfg : BlockConfig
  pending : List Instr
  host : Memory
  hostPoison : List Nat
  mantel : Memory
  mantelPoison : List Nat
  /-- the lines, among the marked ones, that are stored uncorrectable (R289) -/
  mantelBad : List Nat
  /-- the lines whose one erroneous symbol a read corrects -/
  mantelSoft : List Nat
  rings : Tab Ring
  hearths : Tab Hearth
  ports : Tab Port
  blk : Block
  pwr : Power
  audit : Audit
  xch : Transom
  vault : Seal
  err : Errors
  maint : Maint
  sash : Sash
  mgmt : Mgmt
  jtag : Jtag
  /-- how many free values have been drawn: the model's own field -/
  draws : Nat
  deriving DecidableEq, Repr

/-- Why a command has no next state. -/
inductive Fault where
  /-- Raised by a command whose operand names a stove, hearth or port that the configuration does not have (R3, R6): no such signal exists. Safe. -/
  | absentUnit
  deriving DecidableEq, Repr

/-- Why the model gives a command no meaning. -/
inductive Refusal where
  /-- Raised only by the dispatch, for a row of the table that has no meaning yet. Safe. -/
  | notModelled (mnemonic : String)
  deriving DecidableEq, Repr

/-- The fuses of a part with nothing blown: BLANK, no owner slot, no lock (Tables 16-13 and 16-14); DESIGN CHOICE (log entry 5). The nonce
is DRBG output at reset; DESIGN CHOICE 0, log entry 6. -/
def Seal.reset : Seal :=
  { lcFuse := 0#4, rootBlank := true, keySlots := [], slotMask := 0#5, lockFuse := false, policyFuse := 0#32,
    policy := 0x55555555#32, keysErased := false, blocked := false, attest := false, selftestFail := false, entropyFail := false,
    result := 0#4, busy := false, target := 0#3, denied := 0#16, nonce := 0#64, authAddr := 0#64, keyRef := 0#2,
    pend := 0#16, sense := 0#16, halted := false, wipeCause := 0#3, wipeCount := 0#16, wipeUs := 0#32, keyData := [],
    keyIndex := 0#3, keyResult := 0#4, attAddr := 0#64, attPub := false, attBusy := false, attResult := 0#4,
    attSent := false, attFault := false, alarmCount := [], wiping := false, wipeStart := 0#64, wipeKind := 0#3, resetting := false,
    resetCold := false, goal := 0#3, blowing := false, deciding := false, handling := none, lcShown := 0#4, drbg := 0 }

def Sash.reset : Sash := { error := false, rdata := 0#64, stalled := [] }

/-- MADDR is an input; DESIGN CHOICE 0 (log entry 7). -/
def Mgmt.reset : Mgmt :=
  { dynamic := none, staticAddr := 0#7, offset := 0#16, scratch := [], data := [], acked := false }

/-- A reset of the port selects IDCODE, as IEEE 1149.1 asks: PRESUMED (log entry 8). -/
def Jtag.reset : Jtag :=
  { ir := 0x01#8, dr := .idcode, boundary := [], driving := false, trst := false, capture := 0#32, attached := false, wrappers := [] }

/-- The block after a cold reset has completed with WIPE_DONE (R15, Table 19-6), in the reference configuration, with an empty queue. -/
def State.reset : State :=
  { cfg := BlockConfig.reference, pending := [], host := [], hostPoison := [], mantel := [], mantelPoison := [],
    mantelBad := [], mantelSoft := [], rings := [], hearths := [], ports := [], blk := Block.reset, pwr := Power.reset, audit := Audit.reset,
    xch := Transom.reset, vault := Seal.reset, err := Errors.reset, maint := Maint.reset, sash := Sash.reset,
    mgmt := Mgmt.reset, jtag := Jtag.reset, draws := 0 }

end Sys2Proof.Machine
end

