-- ==== Sys2Proof/Machine/Bits.lean ====
section
/-! DEFINITION. Bit fields and byte order (R12: bit 0 least significant, multi-byte fields little-endian), saturating counters, and
the numbers of a mask. An image (a descriptor, a record) is the number that its bytes spell little-endian. -/

namespace Sys2Proof.Machine

/-- `w` bits of an image from bit `lo` of the byte at `off`. -/
def fld (img off lo w : Nat) : Nat := (img >>> (8 * off + lo)) % 2 ^ w

/-- One bit of an image. -/
def flag (img off bit : Nat) : Bool := img.testBit (8 * off + bit)

/-- The image with `w` bits from bit `lo` of byte `off` set to `v`. -/
def place (off lo v : Nat) : Nat := v <<< (8 * off + lo)

/-- The number that bytes spell, first byte lowest. -/
def leNat : List W8 → Nat
  | [] => 0
  | b :: bs => b.toNat + 256 * leNat bs

/-- The number that bytes spell, first byte highest. -/
def beNat (bs : List W8) : Nat := leNat bs.reverse

/-- `n` bytes of a number, lowest first. -/
def leBytes : Nat → Nat → List W8
  | 0, _ => []
  | n + 1, v => BitVec.ofNat 8 v :: leBytes n (v / 256)

/-- `n` bytes of a number, highest first. -/
def beBytes (n v : Nat) : List W8 := (leBytes n v).reverse

/-- The bits of an image that a layout covers: fields (byte offset, low bit, width). -/
def cover (fields : List (Nat × Nat × Nat)) : Nat :=
  fields.foldl (fun acc f => acc ||| place f.1 f.2.1 (2 ^ f.2.2 - 1)) 0

/-- The first byte below `size` in which an image has a bit set that the layout does not cover (R19). -/
def reservedByte (img size : Nat) (fields : List (Nat × Nat × Nat)) : Option Nat :=
  let c := cover fields
  (List.range size).find? fun i => ((img >>> (8 * i)) % 256) &&& ((c >>> (8 * i)) % 256) ≠ (img >>> (8 * i)) % 256

/-- A count of width w that saturates at its largest value. -/
def satAdd {w : Nat} (x : BitVec w) (n : Nat) : BitVec w :=
  if x.toNat + n < 2 ^ w then BitVec.ofNat w (x.toNat + n) else BitVec.allOnes w

/-- A count of width w that saturates, one more. -/
def satInc {w : Nat} (x : BitVec w) : BitVec w := satAdd x 1

/-- The numbers below `n` whose bits a mask has, rising. -/
def bitsBelow (n mask : Nat) : List Nat := (List.range n).filter fun i => mask.testBit i

/-- The mask whose bits are the given numbers. -/
def maskOf (xs : List Nat) : Nat := xs.foldl (fun m i => m ||| 2 ^ i) 0

/-- 1 for true. -/
def bitNat (b : Bool) : Nat := if b then 1 else 0

/-- The quotient rounded up. -/
def ceilDiv (a b : Nat) : Nat := (a + b - 1) / b

/-- The signed value of the low `w` bits. -/
def signedOf (w v : Nat) : Int := if v % 2 ^ w < 2 ^ (w - 1) then (v % 2 ^ w : Int) else (v % 2 ^ w : Int) - 2 ^ w

/-- The element at a place of a list, or a default. -/
def nth {α : Type} (d : α) (xs : List α) (i : Nat) : α := xs.getD i d

/-- A list with the element at a place replaced. -/
def setNth {α : Type} : List α → Nat → α → List α
  | [], _, _ => []
  | _ :: xs, 0, v => v :: xs
  | x :: xs, i + 1, v => x :: setNth xs i v

end Sys2Proof.Machine
end

