-- ==== Sys2Proof/Machine/Flags.lean ====
section
/-! DEFINITION. The codes of the completion record: statuses (Table 12-10) and the sticky flags (Table 12-11, R47). -/

namespace Sys2Proof.Machine

/-! ### Status codes (Table 12-10) and FLAGS (Table 12-11) -/

def stOk : Nat := 0x00
def stDesc : Nat := 0x01
def stOpcode : Nat := 0x02
def stKlen : Nat := 0x03
def stTileBusy : Nat := 0x04
def stGroupOpen : Nat := 0x05
def stTableActive : Nat := 0x06
def stVary : Nat := 0x07
def stEpoch : Nat := 0x08
def stPool : Nat := 0x09
def stMem : Nat := 0x0A
def stPoison : Nat := 0x0B
def stAborted : Nat := 0x0C
def stRefused : Nat := 0x0D
def stSeal : Nat := 0x0E
def stHearth : Nat := 0x0F
def stLimit : Nat := 0x10

def fInexact : Nat := 0x0001
def fOvf : Nat := 0x0002
def fUnf : Nat := 0x0004
def fInv : Nat := 0x0008
def fPermOor : Nat := 0x0010
def fRowEmpty : Nat := 0x0020
def fRowInf : Nat := 0x0040
def fRowNan : Nat := 0x0080
def fVarClamp : Nat := 0x0100
def fBoundVoid : Nat := 0x0200
def fNanSeen : Nat := 0x0400
def fEmptyGroup : Nat := 0x0800
def fVaried : Nat := 0x1000
def fSpilled : Nat := 0x2000
def fSealed : Nat := 0x4000
def fPreempted : Nat := 0x8000

/-- One flag, or none. -/
def flagIf (b : Bool) (f : Nat) : Nat := if b then f else 0

/-- The flags of several elements together. -/
def orFlags (fs : List Nat) : Nat := fs.foldl (fun a b => a ||| b) 0

end Sys2Proof.Machine
end

