-- ==== Sys2Proof/Machine/Num.lean ====
section
/-! DEFINITION. Number formats and conversions (chapter 2): exact values, the formats of Table 02-1, rounding (R41), bare conversions (R43 to R46),
MX blocks (R34 to R38), the generator H (R62), and FP32 and binary64 results. -/

namespace Sys2Proof.Machine

/-! ### Exact values -/

/-- A value: NaN (with whether it is signalling), an infinity, or `(-1)^neg * mant * 2^exp`. -/
inductive FVal where
  | nan (signalling : Bool)
  | inf (neg : Bool)
  | fin (neg : Bool) (mant : Nat) (exp : Int)
  deriving DecidableEq, Repr

/-- +0. -/
def FVal.zero : FVal := .fin false 0 0

def FVal.isNan : FVal → Bool
  | .nan _ => true
  | _ => false

def FVal.isSnan : FVal → Bool
  | .nan sg => sg
  | _ => false

def FVal.isInf : FVal → Bool
  | .inf _ => true
  | _ => false

def FVal.isZero : FVal → Bool
  | .fin _ m _ => m == 0
  | _ => false

def FVal.neg : FVal → FVal
  | .nan sg => .nan sg
  | .inf n => .inf !n
  | .fin n m e => .fin (!n) m e

def FVal.abs : FVal → FVal
  | .nan sg => .nan sg
  | .inf _ => .inf false
  | .fin _ m e => .fin false m e

def FVal.isNeg : FVal → Bool
  | .nan _ => false
  | .inf n => n
  | .fin n _ _ => n

/-- The value times `2 ^ k`. -/
def FVal.scale (k : Int) : FVal → FVal
  | .fin n m e => .fin n m (e + k)
  | v => v

/-- `m * 2^e` in units of `2^u`, for `u` at most `e`. -/
def units (m : Nat) (e u : Int) : Nat := m <<< (e - u).toNat

/-- The signed number of units of `2^u`. -/
def signedUnits (n : Bool) (m : Nat) (e u : Int) : Int := if n then -(units m e u : Int) else (units m e u : Int)

/-- Floor of log2 of a nonzero `m * 2^e`. -/
def exponentOf (m : Nat) (e : Int) : Int := (Nat.log2 m : Int) + e

/-- A signed number of units as a value; zero is +0. -/
def ofUnits (w : Int) (u : Int) : FVal := .fin (decide (w < 0)) w.natAbs u

/-- The exact sum of two finite values: an exact zero is +0 unless both addends are -0. -/
def addFin (n1 : Bool) (m1 : Nat) (e1 : Int) (n2 : Bool) (m2 : Nat) (e2 : Int) : FVal :=
  let u := min e1 e2
  let w := signedUnits n1 m1 e1 u + signedUnits n2 m2 e2 u
  if w = 0 then .fin (n1 && n2 && m1 == 0 && m2 == 0) 0 0 else ofUnits w u

/-- The exact sum. inf - inf is NaN. -/
def FVal.add : FVal → FVal → FVal
  | .nan a, .nan b => .nan (a || b)
  | .nan a, _ => .nan a
  | _, .nan b => .nan b
  | .inf a, .inf b => if a = b then .inf a else .nan false
  | .inf a, _ => .inf a
  | _, .inf b => .inf b
  | .fin n1 m1 e1, .fin n2 m2 e2 => addFin n1 m1 e1 n2 m2 e2

/-- The exact product (R53): zero times infinity is NaN. -/
def FVal.mul : FVal → FVal → FVal
  | .nan a, .nan b => .nan (a || b)
  | .nan a, _ => .nan a
  | _, .nan b => .nan b
  | .inf a, .inf b => .inf (a != b)
  | .inf a, .fin n m _ => if m = 0 then .nan false else .inf (a != n)
  | .fin n m _, .inf b => if m = 0 then .nan false else .inf (n != b)
  | .fin n1 m1 e1, .fin n2 m2 e2 => .fin (n1 != n2) (m1 * m2) (e1 + e2)

/-- INV that one product sets (R53): zero times infinity, or a signalling NaN operand. -/
def productInv (a b : FVal) : Bool := a.isSnan || b.isSnan || (a.isInf && b.isZero) || (a.isZero && b.isInf)

/-- The sign of the exact difference of two values that are not NaN: negative, zero or positive (R48; -0 equals +0). -/
def FVal.cmp : FVal → FVal → Int
  | .inf a, .inf b => if a = b then 0 else if a then -1 else 1
  | .inf a, _ => if a then -1 else 1
  | _, .inf b => if b then 1 else -1
  | .fin n1 m1 e1, .fin n2 m2 e2 =>
    let u := min e1 e2
    signedUnits n1 m1 e1 u - signedUnits n2 m2 e2 u
  | _, _ => 0

/-- Ordered comparisons: false when either is NaN (R48). -/
def FVal.lt (a b : FVal) : Bool := !a.isNan && !b.isNan && decide (a.cmp b < 0)
def FVal.le (a b : FVal) : Bool := !a.isNan && !b.isNan && decide (a.cmp b ≤ 0)
def FVal.eq (a b : FVal) : Bool := !a.isNan && !b.isNan && decide (a.cmp b = 0)

/-! ### Formats (Table 02-1) -/

/-- How a floating-point format uses its all-ones exponent field: infinities and NaNs, one NaN magnitude (E4M3), or numbers only. -/
inductive TopCodes where
  | ieee
  | oneNan
  | numbers
  deriving DecidableEq, Repr

structure Format where
  ebits : Nat
  mbits : Nat
  bias : Nat
  top : TopCodes
  deriving DecidableEq, Repr

def fmtFP32 : Nat := 0
def fmtINT8 : Nat := 8

/-- The floating-point formats by FMT code; the others answer FP32's layout. -/
def formatOf (fmt : Nat) : Format :=
  match fmt with
  | 1 => ⟨8, 7, 127, .ieee⟩
  | 2 => ⟨5, 10, 15, .ieee⟩
  | 3 => ⟨4, 3, 7, .oneNan⟩
  | 4 => ⟨5, 2, 15, .ieee⟩
  | 5 => ⟨3, 2, 3, .numbers⟩
  | 6 => ⟨2, 3, 1, .numbers⟩
  | 7 => ⟨2, 1, 1, .numbers⟩
  | 10 => ⟨11, 52, 1023, .ieee⟩
  | _ => ⟨8, 23, 127, .ieee⟩

/-- Bits of an element. -/
def fmtBits (fmt : Nat) : Nat := if fmt = 8 ∨ fmt = 9 then 8 else 1 + (formatOf fmt).ebits + (formatOf fmt).mbits

def Format.width (f : Format) : Nat := 1 + f.ebits + f.mbits

/-- The exponent of the smallest normal. -/
def Format.emin (f : Format) : Int := 1 - (f.bias : Int)

/-- The value of a code (R29). -/
def Format.decode (f : Format) (code : Nat) : FVal :=
  let m := code % 2 ^ f.mbits
  let e := (code / 2 ^ f.mbits) % 2 ^ f.ebits
  let n := code.testBit (f.ebits + f.mbits)
  let top := decide (e = 2 ^ f.ebits - 1)
  if top && decide (f.top = .ieee) then
    if m = 0 then .inf n else .nan (!m.testBit (f.mbits - 1))
  else if top && decide (f.top = .oneNan) && decide (m = 2 ^ f.mbits - 1) then .nan false
  else if e = 0 then .fin n m (f.emin - f.mbits)
  else .fin n (m + 2 ^ f.mbits) ((e : Int) - f.bias - f.mbits)

/-- The value of a bare element. -/
def decodeBare (fmt code : Nat) : FVal :=
  if fmt = 8 then
    let v := signedOf 8 code
    .fin (decide (v < 0)) v.natAbs 0
  else (formatOf fmt).decode code

/-- The value of an element of an MX block (R34): a scale of 0xFF makes every element NaN; INT8 elements count in 2^-6. -/
def decodeMx (fmt scale code : Nat) : FVal :=
  if scale = 0xFF then .nan false
  else (decodeBare fmt code).scale ((scale : Int) - 127 - if fmt = 8 then 6 else 0)

/-- The canonical quiet NaN code of a format with NaN (Table 02-3). -/
def Format.qnan (f : Format) : Nat :=
  match f.top with
  | .ieee => (2 ^ f.ebits - 1) * 2 ^ f.mbits + 2 ^ (f.mbits - 1)
  | .oneNan => 2 ^ (f.ebits + f.mbits) - 1
  | .numbers => 0

def Format.infCode (f : Format) : Nat := (2 ^ f.ebits - 1) * 2 ^ f.mbits

/-- The largest finite magnitude code. -/
def Format.maxCode (f : Format) : Nat :=
  match f.top with
  | .ieee => f.infCode - 1
  | .oneNan => 2 ^ (f.ebits + f.mbits) - 2
  | .numbers => 2 ^ (f.ebits + f.mbits) - 1

def Format.signBit (f : Format) (n : Bool) : Nat := if n then 2 ^ (f.ebits + f.mbits) else 0

/-! ### Rounding (R41) -/

inductive Rounding where
  | rne
  | rtz
  | sr (r : Nat)
  deriving DecidableEq, Repr

/-- `m * 2^e` rounded to units of `2^q`, and whether it lay on the grid. `sticky` says that something above zero was dropped below it. -/
def roundTo (mode : Rounding) (sticky : Bool) (m : Nat) (e q : Int) : Nat × Bool :=
  if q ≤ e then (units m e q, true)
  else
    let d := (q - e).toNat
    let n := m / 2 ^ d
    let rem := m % 2 ^ d
    let up := match mode with
      | .rne => decide (2 ^ d < 2 * rem) || (decide (2 * rem = 2 ^ d) && (sticky || n % 2 == 1))
      | .rtz => false
      | .sr r => decide (65536 ≤ rem * 65536 / 2 ^ d + r)
    (if up then n + 1 else n, rem == 0)

/-- The unit of a format at a nonzero magnitude, counting its exponents as unbounded above. -/
def Format.quantum (f : Format) (m : Nat) (e : Int) : Int := max (exponentOf m e) f.emin - f.mbits

/-- The code of `n` units of `2^q`, where `q` is the quantum that the rounding used. -/
def Format.pack (f : Format) (n : Nat) (q : Int) : Nat := (q - (f.emin - f.mbits)).toNat * 2 ^ f.mbits + n

/-- A finite conversion (R43, R44): the magnitude code, with flags. -/
def Format.convertFin (f : Format) (mode : Rounding) (sat : Bool) (m : Nat) (e : Int) : Nat × Nat :=
  if m = 0 then (0, 0)
  else
    let q := f.quantum m e
    let (n, exact) := roundTo mode false m e q
    let code := f.pack n q
    let beyond := match f.decode f.maxCode with
      | .fin _ mm me => FVal.lt (.fin false mm me) (.fin false m e)
      | _ => false
    if beyond then
      (if decide (f.top = .ieee) && !sat && decide (mode ≠ .rtz) && decide (f.maxCode < code) then f.infCode else f.maxCode,
        fOvf ||| fInexact)
    else
      (min code f.maxCode, flagIf (!exact) fInexact ||| flagIf (!exact && decide (exponentOf m e < f.emin)) fUnf)

/-- A bare conversion to INT8. -/
def convertInt8 (mode : Rounding) (v : FVal) : Nat × Nat :=
  match v with
  | .nan _ => (0, fInv ||| fInexact)
  | .inf n => (if n then 0x80 else 0x7F, fOvf ||| fInexact)
  | .fin n m e =>
    let (k, exact) := roundTo mode false m e 0
    let out := FVal.lt (.fin false (if n then 128 else 127) 0) (.fin false m e)
    let k := min k (if n then 128 else 127)
    ((if n then (256 - k) % 256 else k), flagIf out (fOvf ||| fInexact) ||| flagIf (!exact) fInexact)

/-- A bare conversion (R40 to R46): the code and the flags. -/
def convertBare (fmt : Nat) (mode : Rounding) (sat : Bool) (v : FVal) : Nat × Nat :=
  if fmt = 8 then convertInt8 mode v
  else
    let f := formatOf fmt
    match v with
    | .nan sg => if f.top = .numbers then (0, fInv ||| fInexact) else (f.qnan, flagIf sg fInv)
    | .inf n =>
      if f.top = .ieee ∧ sat = false then (f.signBit n + f.infCode, 0) else (f.signBit n + f.maxCode, fOvf ||| fInexact)
    | .fin n m e =>
      let (c, fl) := f.convertFin mode sat m e
      (f.signBit n + c, fl)

/-! ### MX blocks (R36, R37) -/

/-- emax of Table 02-4. -/
def mxEmax (fmt : Nat) : Int := nth 0 [0, 0, 0, 8, 15, 4, 2, 2, 0] fmt

/-- The larger of two finite magnitudes. -/
def maxMag (a b : Nat × Int) : Nat × Int :=
  if FVal.lt (.fin false a.1 a.2) (.fin false b.1 b.2) then b else a

/-- The largest finite magnitude of a block. -/
def blockMax (xs : List FVal) : Nat × Int :=
  xs.foldl (fun acc x => match x with
    | .fin _ m e => maxMag acc (m, e)
    | _ => acc) (0, 0)

/-- The shared scale of a block of finite values, and whether it was clamped at 2^-127. -/
def mxScale (fmt : Nat) (xs : List FVal) : Nat × Bool :=
  let a := blockMax xs
  if a.1 = 0 then (0x7F, false)
  else
    let shared := exponentOf a.1 a.2 - mxEmax fmt
    if shared < -127 then (0, true) else ((shared + 127).toNat, false)

/-- One element of a block under its scale: clamped to the largest element value. -/
def mxElement (fmt scale : Nat) (clamped : Bool) (mode : Rounding) (x : FVal) : Nat × Nat :=
  match x with
  | .nan _ => (0, 0)
  | .inf n => ((formatOf fmt).signBit n + (formatOf fmt).infCode, 0)
  | .fin n m e =>
    let e' := e - ((scale : Int) - 127)
    let lost (zero : Bool) : Nat := flagIf (clamped && zero && decide (m ≠ 0)) (fUnf ||| fInexact)
    if fmt = 8 then
      let (k, exact) := roundTo mode false m e' (-6)
      let k' := min k 127
      ((if n then (256 - k') % 256 else k'), flagIf (!exact || decide (k' < k)) fInexact ||| lost (k' == 0))
    else if m = 0 then ((formatOf fmt).signBit n, 0)
    else
      let f := formatOf fmt
      let q := f.quantum m e'
      let (k, exact) := roundTo mode false m e' q
      let c := min (f.pack k q) f.maxCode
      (f.signBit n + c, flagIf (!exact || decide (c < f.pack k q)) fInexact ||| lost (c == 0))

/-- A block: scale code, element codes, flags. `modes` gives each element's rounding. Of a block that holds both a NaN and an infinity only the
NaN is reported: no OVF, whatever the element format (DESIGN CHOICE, log entry 150). -/
def convertMx (fmt : Nat) (modes : List Rounding) (xs : List FVal) : Nat × List Nat × Nat :=
  let zeros := xs.map fun _ => 0
  if xs.any FVal.isNan then
    (0xFF, zeros, flagIf (xs.any fun x => !x.isNan) fInexact ||| flagIf (xs.any FVal.isSnan) fInv)
  else if xs.any FVal.isInf && fmt != 4 then (0xFF, zeros, fOvf ||| fInexact)
  else
    let (sc, clamped) := mxScale fmt xs
    let es := (modes.zip xs).map fun p => mxElement fmt sc clamped p.1 p.2
    (sc, es.map Prod.fst, orFlags (es.map Prod.snd))

/-! ### FP32 and binary64 -/

def f32 (w : W32) : FVal := (formatOf 0).decode w.toNat
def qnan32 : W32 := 0x7FC00000#32
def negZero32 : W32 := 0x80000000#32
def posInf32 : W32 := 0x7F800000#32
def negInf32 : W32 := 0xFF800000#32

/-- An exact value rounded once into FP32 by RNE, with the conversion flags. A NaN gives the canonical NaN without a flag here. -/
def toF32 (v : FVal) : W32 × Nat :=
  match v with
  | .nan _ => (qnan32, 0)
  | _ =>
    let r := convertBare 0 .rne false v
    (BitVec.ofNat 32 r.1, r.2)

/-- RN of R158: the FP32 value alone. -/
def rn32 (v : FVal) : W32 := (toF32 v).1

def f64 (w : W64) : FVal := (formatOf 10).decode w.toNat

/-- An exact value rounded into binary64 by RNE. -/
def toF64 (v : FVal) : W64 := BitVec.ofNat 64 (convertBare 10 .rne false v).1

/-! ### The generator H (R62) -/

def mix64 (z : W64) : W64 :=
  let z := (z ^^^ (z >>> 30)) * 0xBF58476D1CE4E5B9#64
  let z := (z ^^^ (z >>> 27)) * 0x94D049BB133111EB#64
  z ^^^ (z >>> 31)

/-- H(seed, hearth, atile, row, column, chunk). -/
def genH (seed : W64) (hearth atile row column chunk : Nat) : W64 :=
  let w1 := BitVec.ofNat 64 ((hearth % 2 ^ 8) * 2 ^ 56 + (atile % 2 ^ 8) * 2 ^ 48 + (row % 2 ^ 24) * 2 ^ 24 + column % 2 ^ 24)
  let z := mix64 (seed + 0x9E3779B97F4A7C15#64)
  let z := mix64 (z ^^^ w1)
  mix64 (z ^^^ (BitVec.ofNat 64 (chunk % 2 ^ 32) + 0x9E3779B97F4A7C15#64))

/-- The 16 random bits of a conversion (R42). -/
def conversionBits (seed : W64) (row column : Nat) : Nat := (genH seed 0 0 row column 0xFFFFFFFF).toNat % 65536

/-! ### The conversion specifier (R39, Table 02-6) -/

def cvtFmt (c : Nat) : Nat := c % 16
def cvtRnd (c : Nat) : Nat := (c / 16) % 4
def cvtSat (c : Nat) : Bool := c.testBit 6
def cvtMx (c : Nat) : Bool := c.testBit 7
def cvtBlock (c : Nat) : Nat := if c.testBit 8 then 16 else 32

/-- Formats that may form MX blocks (Table 02-4). -/
def mxFormat (fmt : Nat) : Bool := decide (3 ≤ fmt) && decide (fmt ≤ 8)

/-- A specifier that R39 does not reserve, for the places of Table 02-2 that take FP32 to INT8. -/
def cvtValid (c : Nat) : Bool :=
  decide (c < 512) && decide (cvtFmt c ≤ 8) && (!cvtMx c || mxFormat (cvtFmt c)) && (cvtMx c || !c.testBit 8) && decide (cvtRnd c ≠ 3)

/-- The rounding of an element at (row, column) of an output (R42). -/
def cvtMode (c : Nat) (seed : W64) (row column : Nat) : Rounding :=
  match cvtRnd c with
  | 0 => .rne
  | 1 => .rtz
  | _ => .sr (conversionBits seed row column)

end Sys2Proof.Machine
end

