-- ==== Sys2Proof/Machine/Crypto.lean ====
section
/-! DEFINITION. The standards that the Seal and the packets use: SHA-384 (FIPS 180-4), HMAC-SHA-384 (FIPS 198-1), the counter-mode KDF
of R329 (SP 800-108), multiplication in GF(2^128) as GHASH defines it (SP 800-38D), ECDSA over P-384 (FIPS 186-5), and CRC-32C (R230). -/

namespace Sys2Proof.Machine

/-! ### SHA-384 -/

/-- The 80 round constants of SHA-384. -/
def shaRound : List W64 := (
  [ 0x428A2F98D728AE22, 0x7137449123EF65CD, 0xB5C0FBCFEC4D3B2F, 0xE9B5DBA58189DBBC,
    0x3956C25BF348B538, 0x59F111F1B605D019, 0x923F82A4AF194F9B, 0xAB1C5ED5DA6D8118,
    0xD807AA98A3030242, 0x12835B0145706FBE, 0x243185BE4EE4B28C, 0x550C7DC3D5FFB4E2,
    0x72BE5D74F27B896F, 0x80DEB1FE3B1696B1, 0x9BDC06A725C71235, 0xC19BF174CF692694,
    0xE49B69C19EF14AD2, 0xEFBE4786384F25E3, 0x0FC19DC68B8CD5B5, 0x240CA1CC77AC9C65 ] ++
  [ 0x2DE92C6F592B0275, 0x4A7484AA6EA6E483, 0x5CB0A9DCBD41FBD4, 0x76F988DA831153B5,
    0x983E5152EE66DFAB, 0xA831C66D2DB43210, 0xB00327C898FB213F, 0xBF597FC7BEEF0EE4,
    0xC6E00BF33DA88FC2, 0xD5A79147930AA725, 0x06CA6351E003826F, 0x142929670A0E6E70,
    0x27B70A8546D22FFC, 0x2E1B21385C26C926, 0x4D2C6DFC5AC42AED, 0x53380D139D95B3DF,
    0x650A73548BAF63DE, 0x766A0ABB3C77B2A8, 0x81C2C92E47EDAEE6, 0x92722C851482353B ] ++
  [ 0xA2BFE8A14CF10364, 0xA81A664BBC423001, 0xC24B8B70D0F89791, 0xC76C51A30654BE30,
    0xD192E819D6EF5218, 0xD69906245565A910, 0xF40E35855771202A, 0x106AA07032BBD1B8,
    0x19A4C116B8D2D0C8, 0x1E376C085141AB53, 0x2748774CDF8EEB99, 0x34B0BCB5E19B48A8,
    0x391C0CB3C5C95A63, 0x4ED8AA4AE3418ACB, 0x5B9CCA4F7763E373, 0x682E6FF3D6B2B8A3,
    0x748F82EE5DEFB2FC, 0x78A5636F43172F60, 0x84C87814A1F0AB72, 0x8CC702081A6439EC ] ++
  [ 0x90BEFFFA23631E28, 0xA4506CEBDE82BDE9, 0xBEF9A3F7B2C67915, 0xC67178F2E372532B,
    0xCA273ECEEA26619C, 0xD186B8C721C0C207, 0xEADA7DD6CDE0EB1E, 0xF57D4F7FEE6ED178,
    0x06F067AA72176FBA, 0x0A637DC5A2C898A6, 0x113F9804BEF90DAE, 0x1B710B35131C471B,
    0x28DB77F523047D84, 0x32CAAB7B40C72493, 0x3C9EBE0A15C9BEBC, 0x431D67C49C100D4C,
    0x4CC5D4BECB3E42B6, 0x597F299CFC657E2A, 0x5FCB6FAB3AD6FAEC, 0x6C44198C4A475817 ]).map (BitVec.ofNat 64)

/-- The initial hash value of SHA-384. -/
def shaInit : List W64 := [ 0xCBBB9D5DC1059ED8, 0x629A292A367CD507, 0x9159015A3070DD17, 0x152FECD8F70E5939,
  0x67332667FFC00B31, 0x8EB44A8768581511, 0xDB0C2E0D64F98FA7, 0x47B5481DBEFA4FA4 ].map (BitVec.ofNat 64)

def rotr64 (x : W64) (n : Nat) : W64 := (x >>> n) ||| (x <<< (64 - n))

/-- One step of the message schedule; the newest word stands first. -/
def shaExtend (ws : List W64) : List W64 :=
  let a := nth 0 ws 1
  let b := nth 0 ws 14
  ((rotr64 a 19 ^^^ rotr64 a 61 ^^^ (a >>> 6)) + nth 0 ws 6 + (rotr64 b 1 ^^^ rotr64 b 8 ^^^ (b >>> 7)) + nth 0 ws 15) :: ws

def iterate {α : Type} (f : α → α) : Nat → α → α
  | 0, x => x
  | n + 1, x => iterate f n (f x)

/-- The 80 words of a block's message schedule. -/
def shaSchedule (block : List W64) : List W64 := (iterate shaExtend 64 block.reverse).reverse

/-- One round on the working variables a to h. -/
def shaStep (v : List W64) (kw : W64 × W64) : List W64 :=
  match v with
  | [a, b, c, d, e, f, g, h] =>
    let t1 := h + (rotr64 e 14 ^^^ rotr64 e 18 ^^^ rotr64 e 41) + ((e &&& f) ^^^ (~~~e &&& g)) + kw.1 + kw.2
    let t2 := (rotr64 a 28 ^^^ rotr64 a 34 ^^^ rotr64 a 39) + ((a &&& b) ^^^ (a &&& c) ^^^ (b &&& c))
    [t1 + t2, a, b, c, d + t1, e, f, g]
  | other => other

def shaBlock (h : List W64) (block : List W64) : List W64 :=
  List.zipWith (· + ·) h ((shaRound.zip (shaSchedule block)).foldl shaStep h)

/-- The first `n` chunks of `k` elements of a list. -/
def chunksOf {α : Type} (k : Nat) : Nat → List α → List (List α)
  | 0, _ => []
  | n + 1, xs => xs.take k :: chunksOf k n (xs.drop k)

/-- SHA-384 of a string of bytes: 48 bytes. -/
def sha384 (msg : List W8) : List W8 :=
  let n := msg.length
  let pad := (239 - n % 128) % 128
  let m := msg ++ [0x80#8] ++ List.replicate pad 0#8 ++ beBytes 16 (8 * n)
  let blocks := chunksOf 128 (m.length / 128) m
  let h := blocks.foldl (fun h b => shaBlock h ((chunksOf 8 16 b).map fun w => BitVec.ofNat 64 (beNat w))) shaInit
  (h.take 6).flatMap fun w => beBytes 8 w.toNat

/-- HMAC-SHA-384. -/
def hmac384 (key msg : List W8) : List W8 :=
  let k := if 128 < key.length then sha384 key else key
  let k := k ++ List.replicate (128 - k.length) 0#8
  sha384 (k.map (· ^^^ 0x5C#8) ++ sha384 (k.map (· ^^^ 0x36#8) ++ msg))

/-- The key derivation of R329: `bits` bits, a multiple of 8. -/
def kdf (key label context : List W8) (bits : Nat) : List W8 :=
  ((List.range (ceilDiv bits 384)).flatMap fun i =>
    hmac384 key (leBytes 4 (i + 1) ++ label ++ [0#8] ++ context ++ leBytes 4 bits)).take (bits / 8)

/-- The bytes of an ASCII string. -/
def ascii (s : String) : List W8 := s.toList.map fun c => BitVec.ofNat 8 c.toNat

/-! ### GF(2^128) -/

/-- Multiplication as GHASH defines it; bit 127 of the number is the first bit of the block. -/
def gfMul (x y : BitVec 128) : BitVec 128 :=
  ((List.range 128).foldl (fun (acc : BitVec 128 × BitVec 128) i =>
    let z := if x.getLsbD (127 - i) then acc.1 ^^^ acc.2 else acc.1
    let v := if acc.2.getLsbD 0 then (acc.2 >>> 1) ^^^ (0xE1#128 <<< 120) else acc.2 >>> 1
    (z, v)) (0#128, y)).1

/-- The digest term of one 64-byte line (R280). -/
def lineTerm (k : BitVec 128) (role space a : Nat) (data : List W8) : BitVec 128 :=
  let b0 := BitVec.ofNat 128 (a * 256 + space * 16 + role)
  (b0 :: (chunksOf 16 4 data).map fun c => BitVec.ofNat 128 (beNat c)).foldl (fun y blk => gfMul (y ^^^ blk) k) 0#128

/-! ### P-384 -/

def p384 : Nat := 2 ^ 384 - 2 ^ 128 - 2 ^ 96 + 2 ^ 32 - 1
def p384Order : Nat := 0xFFFFFFFFFFFFFFFFFFFFFFFFFFFFFFFFFFFFFFFFFFFFFFFFC7634D81F4372DDF581A0DB248B0A77AECEC196ACCC52973
def p384B : Nat := 0xB3312FA7E23EE7E4988E056BE3F82D19181D9C6EFE8141120314088F5013875AC656398D8A2ED19D2A85C8EDD3EC2AEF
def p384Gx : Nat := 0xAA87CA22BE8B05378EB1C71EF320AD746E1D3B628BA79B9859F741E082542A385502F25DBF55296C3A545E3872760AB7
def p384Gy : Nat := 0x3617DE4A96262C6F5D9E98BF9292DC29F8F41DBD289A147CE9DA3113B5F0B8C00A60B1CE1D7E819D7A431D7C90EA0E5F

/-- `x ^ e` modulo `m`, over the `n` low bits of `e`. -/
def powMod (m x e : Nat) : Nat → Nat
  | 0 => 1
  | n + 1 =>
    let h := powMod m x (e / 2) n
    let sq := h * h % m
    if e % 2 = 1 then sq * x % m else sq

/-- The inverse modulo a prime of 384 bits. -/
def invMod (m x : Nat) : Nat := powMod m x (m - 2) 384

/-- The sum of two points of the curve; none is the point at infinity. -/
def pointAdd : Option (Nat × Nat) → Option (Nat × Nat) → Option (Nat × Nat)
  | none, q => q
  | p, none => p
  | some (x1, y1), some (x2, y2) =>
    if x1 = x2 ∧ (y1 + y2) % p384 = 0 then none
    else
      let l := if x1 = x2 then (3 * x1 * x1 + (p384 - 3)) * invMod p384 (2 * y1 % p384) % p384
        else (y2 + (p384 - y1)) * invMod p384 ((x2 + (p384 - x1)) % p384) % p384
      let x3 := (l * l + (p384 - x1) + (p384 - x2)) % p384
      some (x3, (l * (x1 + (p384 - x3)) + (p384 - y1)) % p384)

/-- `e` times a point, over the `n` low bits of `e`. -/
def pointMul (p : Option (Nat × Nat)) (e : Nat) : Nat → Option (Nat × Nat)
  | 0 => none
  | n + 1 =>
    let h := pointMul p (e / 2) n
    let d := pointAdd h h
    if e % 2 = 1 then pointAdd d p else d

def p384G : Option (Nat × Nat) := some (p384Gx, p384Gy)

/-- Whether (x, y) lies on the curve. -/
def onCurve (x y : Nat) : Bool :=
  decide (x < p384) && decide (y < p384) && decide ((y * y) % p384 = (x * x * x + (p384 - 3) * x + p384B) % p384)

/-- An ECDSA signature over a message under the private key `d` with the secret number `k`: r then s, 48 bytes each. -/
def ecdsaSign (d k : Nat) (msg : List W8) : List W8 :=
  let z := beNat (sha384 msg)
  match pointMul p384G k 384 with
  | none => List.replicate 96 0#8
  | some (x, _) =>
    let r := x % p384Order
    let s := invMod p384Order k * (z + r * d) % p384Order
    beBytes 48 r ++ beBytes 48 s

/-- Whether a signature over a message verifies under the public key (x, y). -/
def ecdsaVerify (x y : Nat) (msg sig : List W8) : Bool :=
  let r := beNat (sig.take 48)
  let s := beNat ((sig.drop 48).take 48)
  let z := beNat (sha384 msg)
  decide (0 < r) && decide (r < p384Order) && decide (0 < s) && decide (s < p384Order) && onCurve x y &&
    (let w := invMod p384Order s
     match pointAdd (pointMul p384G (z * w % p384Order) 384) (pointMul (some (x, y)) (r * w % p384Order) 384) with
     | none => false
     | some (v, _) => decide (v % p384Order = r))

/-! ### CRC-32C -/

def crcBit (c : W32) : W32 := if c.getLsbD 0 then (c >>> 1) ^^^ 0x82F63B78#32 else c >>> 1

/-- CRC-32C (Castagnoli, reflected, initial value and final exclusive-or all ones) of a string of bytes (R230). -/
def crc32c (bs : List W8) : W32 :=
  ~~~(bs.foldl (fun c b => iterate crcBit 8 (c ^^^ b.setWidth 32)) 0xFFFFFFFF#32)

end Sys2Proof.Machine
end

