-- ==== Sys2Proof/Config.lean ====
section
/-! DEFINITION. The free values: what the spec leaves undefined, or makes secret, and what no rule states. Each is an opaque constant,
applied to a counter of the state or to the operands it depends on, so nothing can be proved about its value. -/

namespace Sys2Proof

/-- Where a soft error strikes (Table 17-1): a 64-bit word of a hearth's store or of its accumulator memory, a 64-byte line of the Mantel, a row
entry of its statistics or top-k slots, and its live and shadow cell registers. -/
inductive UpsetPlace where
  | store
  | acc
  | mantel
  | stats
  | topk
  | live
  | shadow
  deriving DecidableEq, Repr

/-- A soft error: its place, the hearth (none for the Mantel, and none asked), the number of the word, line or entry, and whether its code
can no longer correct it. The parity of cell registers corrects nothing. -/
structure Upset where
  place : UpsetPlace
  hearth : BitVec 6
  unit : Nat
  double : Bool
  deriving DecidableEq, Repr

end Sys2Proof

namespace Sys2Proof.Config

/-- An undefined byte (R9, R258, R294): output of a descriptor that failed, bytes addressed by a write that was answered with an error. -/
opaque freeByte : Nat → W8

/-- An undefined 32-bit value (R9). -/
opaque freeWord32 : Nat → W32

/-- An undefined 64-bit value (R9). -/
opaque freeWord64 : Nat → W64

/-- Output n of the DRBG, 384 bits (R326, R333, R344). -/
opaque drbgOutput : Nat → BitVec 384

/-- The ROOT key of the part (R328). -/
opaque rootKey : BitVec 256

/-- The bytes that GETPID, GETBCR, GETDCR and GETSTATUS return, which R375 does not give: the common command code and the byte's place. -/
opaque mgmtIdentity : Nat → Nat → W8

/-- DIGEST of a recorder record (R276): the keyed digest of R280 is stated over lines of memory, not over an input's bytes. -/
opaque inputDigest : BitVec 128 → List W8 → W64

/-- The soft errors that strike in the time of a tick (R289, R346): no rule says when one comes. -/
opaque softErrors : Nat → List Upset

/-- The cells that a scan of the boundary register leaves (R378): they come from TDI. -/
opaque scannedCells : Nat → List Bool

/-- What a scan of the IEEE 1687 network leaves in a hearth's 64-bit parallel port, where the network includes it (R379). -/
opaque scannedPort : Nat → Nat → Option W64

/-- What a scan of the wrapper chain leaves in the WIR, WBY and WBR of a hearth (R379). -/
opaque scannedWrapper : Nat → Nat → List Bool × Bool × List Bool

end Sys2Proof.Config
end

