-- ==== Sys2Proof/Machine/Sfu.lean ====
section
/-! DEFINITION. EXP2 and LOG2 (R174), the drain's exp2w (R123), and shape lookups (R178 to R182). The two functions are computed in
fixed point with 200 fraction bits and rounded once; their results at every input that Table 09-1 does not name are irrational, so a last
bit is appended that keeps them off the grid (log entry 15). -/

namespace Sys2Proof.Machine

/-! ### Fixed point -/

/-- Fraction bits of the fixed-point values. -/
def fixBits : Nat := 200

/-- ln 2, with 256 fraction bits. -/
def ln2Fixed : Nat := 0xb17217f7d1cf79abc9e3b39803f2f6af40f343267298b62d8a0d175b8baafa2b

/-- The remaining terms of the exponential series, from term `t` of index `k`. -/
def expTerms (y : Nat) : Nat → Nat → Nat → Nat
  | 0, _, _ => 0
  | fuel + 1, k, t => t + expTerms y fuel (k + 1) (t * y / 2 ^ fixBits / (k + 1))

/-- 2^f for a fraction `f` of `fixBits` bits. -/
def exp2Frac (f : Nat) : Nat := expTerms (f * ln2Fixed / 2 ^ 256) 64 0 (2 ^ fixBits)

/-- The series of atanh from the power `p = z^(2k+1)`. -/
def atanhTerms (zz : Nat) : Nat → Nat → Nat → Nat
  | 0, _, _ => 0
  | fuel + 1, k, p => p / (2 * k + 1) + atanhTerms zz fuel (k + 1) (p * zz / 2 ^ fixBits)

/-- log2 of a value in [1, 2) of `fixBits` fraction bits. -/
def log2Frac (m : Nat) : Nat :=
  let z := (m - 2 ^ fixBits) * 2 ^ fixBits / (m + 2 ^ fixBits)
  2 * atanhTerms (z * z / 2 ^ fixBits) 80 0 z * 2 ^ 256 / ln2Fixed

/-- 2^v of a finite value whose exponent is not below -200, as a magnitude: floor and fraction of v, then one appended bit where v is
no integer. -/
def pow2 (n : Bool) (m : Nat) (e : Int) : Nat × Int :=
  let w := signedUnits n m e (-(fixBits : Int))
  let f := (w % 2 ^ fixBits).toNat
  let i := w / 2 ^ fixBits
  if f = 0 then (1, i) else (2 * exp2Frac f + 1, i - fixBits - 1)

/-! ### EXP2 and LOG2 (Table 09-1) -/

/-- EXP2: the result and its flags. -/
def laneExp2 (a : W32) : W32 × Nat :=
  let v := f32 a
  match v with
  | .nan sg => (qnan32, flagIf sg fInv)
  | .inf n => (if n then 0#32 else posInf32, 0)
  | .fin n m e =>
    if m = 0 then (0x3F800000#32, 0)
    else if FVal.le (.fin false 128 0) v then (posInf32, fOvf ||| fInexact)
    else if FVal.le v (.fin true 150 0) then (0#32, fUnf ||| fInexact)
    else
      let p := pow2 n m e
      toF32 (.fin false p.1 p.2)

/-- LOG2: the result and its flags. -/
def laneLog2 (a : W32) : W32 × Nat :=
  match f32 a with
  | .nan sg => (qnan32, flagIf sg fInv)
  | .inf n => if n then (qnan32, fInv) else (posInf32, 0)
  | .fin n m e =>
    if m = 0 then (negInf32, 0)
    else if n then (qnan32, fInv)
    else
      let i := exponentOf m e
      let x := m * 2 ^ (fixBits - Nat.log2 m)
      if x = 2 ^ fixBits then toF32 (ofUnits i 0)
      else toF32 (ofUnits (2 * (i * 2 ^ fixBits + log2Frac x) + 1) (-(fixBits : Int) - 1))

/-! ### Wide values of the drain (R118, R120, Table 06-5) -/

/-- A value rounded by RNE to a 24-bit significand, with no bound on its exponent. -/
def roundW (m : Nat) (e : Int) : Nat × Int :=
  if m = 0 then (0, 0)
  else
    let q := exponentOf m e - 23
    let k := (roundTo .rne false m e q).1
    if q ≤ e then (m, e) else (k, q)

def Wide.zero : Wide := .fin 0 0

def Wide.round (m : Nat) (e : Int) : Wide :=
  let r := roundW m e
  .fin r.1 r.2

/-- A wide value as an exact value. -/
def Wide.value : Wide → FVal
  | .nan => .nan false
  | .inf => .inf false
  | .fin m e => .fin false m e

/-- exp2w(d) (Table 06-5). -/
def exp2w (d : W32) : Wide :=
  match f32 d with
  | .nan _ => .nan
  | .inf n => if n then Wide.zero else .inf
  | .fin n m e =>
    let v := FVal.fin n m e
    if v.lt (.fin true 1000 0) then Wide.zero
    else if FVal.lt (.fin false 1000 0) v then .inf
    else
      let p := pow2 n m e
      Wide.round p.1 p.2

/-- round_w of a sum. -/
def Wide.add : Wide → Wide → Wide
  | .fin m1 e1, .fin m2 e2 => let u := min e1 e2; Wide.round (units m1 e1 u + units m2 e2 u) u
  | .nan, _ => .nan
  | _, .nan => .nan
  | _, _ => .inf

/-- round_w of a product of finite values; the slot update forms no other. -/
def Wide.mul : Wide → Wide → Wide
  | .fin m1 e1, .fin m2 e2 => Wide.round (m1 * m2) (e1 + e2)
  | .nan, _ => .nan
  | _, .nan => .nan
  | _, _ => .inf

def Wide.finite : Wide → Bool
  | .fin _ _ => true
  | _ => false

/-! ### Shape tables (R178 to R182) -/

/-- A slot record (Table 09-6), read as the number of its 32 bytes. -/
def slotValid (rec : Nat) : Bool := flag rec 11 7
def slotN (rec : Nat) : Nat := 2 ^ fld rec 10 0 5
def slotF32 (rec off : Nat) : FVal := f32 (BitVec.ofNat 32 (fld rec off 0 32))

/-- Entries of a bank. -/
def bankSize (entries : Nat) : Nat := entries / 2

/-- A slot record that R179 allows, in a bank of `size` entries. -/
def slotLegal (rec size : Nat) : Bool :=
  if !slotValid rec then rec == 0
  else
    let finite (v : FVal) : Bool := !v.isNan && !v.isInf
    let slope (linear : Bool) (v : FVal) : Bool := finite v && (if linear then !v.isZero else v.isZero)
    let scale := fld rec 0 0 32
    decide (0 < (scale / 2 ^ 23) % 256) && decide ((scale / 2 ^ 23) % 256 < 255) && !scale.testBit 31 &&
      finite (slotF32 rec 4) && finite (slotF32 rec 12) && finite (slotF32 rec 20) &&
      slope (flag rec 11 0) (slotF32 rec 16) && slope (flag rec 11 1) (slotF32 rec 24) &&
      decide (fld rec 10 0 5 ≤ 16) && decide (fld rec 8 0 16 + slotN rec ≤ size) &&
      decide (fld rec 10 5 3 = 0) && decide (fld rec 11 2 5 = 0) && decide (fld rec 28 0 32 = 0)

/-- round_rne_fp32 of a value, back as a value. -/
def rnv (v : FVal) : FVal := f32 (rn32 v)

/-- The floor of a nonnegative finite value. -/
def floorNat : FVal → Nat
  | .fin false m e => if 0 ≤ e then units m e 0 else m / 2 ^ (-e).toNat
  | _ => 0

/-- A tail: the constant, or the line in x. -/
def shapeTail (linear : Bool) (v d : W32) (x : FVal) : W32 := if linear then rn32 ((x.mul (f32 d)).add (f32 v)) else v

/-- shape(x) of R180 for a finite or infinite x, with `entry k` the 64-bit entry k of the bank; segment i is entry BASE + i. -/
def shapeValue (rec : Nat) (entry : Nat → W64) (x : FVal) : W32 :=
  let w32 (off : Nat) : W32 := BitVec.ofNat 32 (fld rec off 0 32)
  let u := (x.mul (slotF32 rec 0)).add (slotF32 rec 4)
  if u.lt FVal.zero then shapeTail (flag rec 11 0) (w32 12) (w32 16) x
  else if FVal.le (.fin false (slotN rec) 0) u then shapeTail (flag rec 11 1) (w32 20) (w32 24) x
  else
    let i := floorNat u
    let t := rnv (u.add (.fin true i 0))
    let e := (entry (fld rec 8 0 16 + i)).toNat
    let c1 := (formatOf 1).decode (fld e 4 0 16)
    let c2 := (formatOf 1).decode (fld e 6 0 16)
    let inner := rnv ((t.mul c2).add c1)
    rn32 ((t.mul inner).add (f32 (BitVec.ofNat 32 (fld e 0 0 32))))

/-- SHAPE: the result and its flags (R181). -/
def laneShape (rec : Nat) (entry : Nat → W64) (a : W32) : W32 × Nat :=
  match f32 a with
  | .nan sg => (qnan32, flagIf sg fInv)
  | v =>
    let r := shapeValue rec entry v
    (r, flagIf (!v.isInf && (f32 r).isInf) (fOvf ||| fInexact))

end Sys2Proof.Machine
end

