-- ==== Sys2Proof/Machine/Lanes.lean ====
section
/-! DEFINITION. The lane opcodes (chapter 8): the operand places of Tables 08-2 to 08-8, the result and the flags of each opcode in a
lane, the permutes' indices, pack and unpack, and the Chimney (R147, R167). -/

namespace Sys2Proof.Machine

/-! ### Stage words (Table 07-2) -/

structure LaneStage where
  op : Nat
  dst : Nat
  a : Nat
  b : Nat
  c : Nat
  imm : Nat
  pred : Nat
  pen : Bool
  pneg : Bool
  deriving DecidableEq, Repr

def LaneStage.decode (w : Nat) : LaneStage :=
  { op := fld w 0 0 8, dst := fld w 0 8 6, a := fld w 0 14 6, b := fld w 0 20 6, c := fld w 0 26 6, imm := fld w 0 32 16,
    pred := fld w 0 48 2, pen := flag w 0 50, pneg := flag w 0 51 }

/-- What an opcode allows in DST (Tables 08-2 to 08-8). -/
inductive DstPlace where
  | unused
  | value
  | compare
  | stream
  deriving DecidableEq, Repr

/-- What an opcode allows in a source place. -/
inductive SrcPlace where
  | unused
  | any
  | anyOrNone
  | register
  | predicate
  | predicateOrNone
  | gather
  deriving DecidableEq, Repr

/-- What an opcode allows in IMM. -/
inductive ImmPlace where
  | zero
  | shift
  | mode
  | combine
  | convert
  | distance
  | segment
  | pack
  | unpack
  | slot
  deriving DecidableEq, Repr

structure OpRow where
  dst : DstPlace
  a : SrcPlace
  b : SrcPlace
  c : SrcPlace
  imm : ImmPlace
  deriving DecidableEq, Repr

def rowUnary (i : ImmPlace) : OpRow := ⟨.value, .any, .unused, .unused, i⟩
def rowBinary : OpRow := ⟨.value, .any, .any, .unused, .zero⟩
def rowTernary : OpRow := ⟨.value, .any, .any, .any, .zero⟩
def rowShift : OpRow := ⟨.value, .any, .anyOrNone, .unused, .shift⟩
def rowCompare : OpRow := ⟨.compare, .any, .any, .predicateOrNone, .combine⟩
def rowShuffle (i : ImmPlace) : OpRow := ⟨.value, .register, .unused, .unused, i⟩
def rowReduce : OpRow := ⟨.stream, .any, .unused, .unused, .zero⟩
def rowAtomic : OpRow := ⟨.stream, .any, .any, .any, .zero⟩
def rowCount : OpRow := ⟨.value, .unused, .unused, .unused, .zero⟩

/-- The row of an opcode (R155); none for a reserved code. -/
def opRow (op : Nat) : Option OpRow :=
  match op with
  | 0x00 => some ⟨.unused, .unused, .unused, .unused, .zero⟩
  | 0x01 => some (rowUnary .zero)
  | 0x02 => some ⟨.value, .any, .any, .predicate, .zero⟩
  | 0x08 => some rowBinary
  | 0x09 => some rowBinary
  | 0x0A => some rowBinary
  | 0x0B => some rowTernary
  | 0x0C => some rowBinary
  | 0x0D => some rowBinary
  | 0x0E => some rowBinary
  | 0x0F => some rowBinary
  | 0x10 => some rowBinary
  | 0x11 => some rowBinary
  | 0x12 => some rowBinary
  | 0x13 => some rowBinary
  | 0x14 => some rowShift
  | 0x15 => some rowShift
  | 0x16 => some rowShift
  | 0x17 => some (rowUnary .zero)
  | 0x18 => some (rowUnary .zero)
  | 0x20 => some rowBinary
  | 0x21 => some rowBinary
  | 0x22 => some rowBinary
  | 0x23 => some rowTernary
  | 0x24 => some rowTernary
  | 0x25 => some rowBinary
  | 0x26 => some rowBinary
  | 0x27 => some rowBinary
  | 0x28 => some rowBinary
  | 0x29 => some (rowUnary .zero)
  | 0x2A => some (rowUnary .zero)
  | 0x2B => some (rowUnary .mode)
  | 0x2C => some (rowUnary .zero)
  | 0x30 => some rowCompare
  | 0x31 => some rowCompare
  | 0x32 => some rowCompare
  | 0x33 => some rowCompare
  | 0x34 => some rowCompare
  | 0x35 => some rowCompare
  | 0x36 => some rowCompare
  | 0x37 => some rowCompare
  | 0x38 => some (rowUnary .convert)
  | 0x39 => some (rowUnary .mode)
  | 0x3A => some (rowUnary .zero)
  | 0x3B => some (rowUnary .zero)
  | 0x40 => some ⟨.value, .register, .any, .unused, .zero⟩
  | 0x41 => some (rowShuffle .distance)
  | 0x42 => some (rowShuffle .distance)
  | 0x43 => some (rowShuffle .distance)
  | 0x44 => some (rowShuffle .distance)
  | 0x45 => some (rowShuffle .distance)
  | 0x46 => some (rowShuffle .zero)
  | 0x47 => some (rowShuffle .segment)
  | 0x48 => some (rowShuffle .pack)
  | 0x49 => some (rowShuffle .unpack)
  | 0x50 => some (rowUnary .zero)
  | 0x51 => some (rowUnary .zero)
  | 0x52 => some (rowUnary .slot)
  | 0x53 => some ⟨.value, .any, .any, .unused, .slot⟩
  | 0x60 => some rowReduce
  | 0x61 => some rowReduce
  | 0x62 => some rowReduce
  | 0x63 => some rowReduce
  | 0x64 => some rowReduce
  | 0x65 => some rowReduce
  | 0x70 => some ⟨.value, .gather, .any, .unused, .zero⟩
  | 0x71 => some rowAtomic
  | 0x72 => some rowAtomic
  | 0x78 => some rowCount
  | 0x79 => some rowCount
  | _ => none

/-- Kinds of opcode that a pass treats apart. -/
def isReduction (op : Nat) : Bool := decide (0x60 ≤ op) && decide (op ≤ 0x65)
def isAtomicAdd (op : Nat) : Bool := op == 0x71 || op == 0x72
def isPermute (op : Nat) : Bool := decide (0x40 ≤ op) && decide (op ≤ 0x47)
def isSfu (op : Nat) : Bool := op == 0x50 || op == 0x51
def isShape (op : Nat) : Bool := op == 0x52 || op == 0x53
def isCompare (op : Nat) : Bool := decide (0x30 ≤ op) && decide (op ≤ 0x37)

/-- A specifier of PACK (R150). -/
def packSpec (c : Nat) : Bool :=
  [1, 2, 3, 4, 8, 7].contains (cvtFmt c) && !cvtMx c && decide (cvtRnd c < 2) && !c.testBit 8 && decide (c < 512)

/-- Whether IMM is allowed; `b` and `c` are the source codes that the rule reads. -/
def immLegal (p : ImmPlace) (imm b c : Nat) : Bool :=
  match p with
  | .zero => imm == 0
  | .shift => if b = 63 then decide (imm < 32) else imm == 0
  | .mode => decide (imm < 4)
  | .combine => decide (imm < 4) && ((imm == 0) == (c == 63))
  | .convert => cvtValid imm && !cvtMx imm
  | .distance => decide (imm < 256)
  | .segment => decide (imm < 2304)
  | .pack => packSpec imm
  | .unpack => packSpec imm && cvtRnd imm == 0
  | .slot => decide (imm < 32)

/-! ### FP32 arithmetic (R158) -/

/-- A result with `inv` set by its operands; a NaN result is canonical. OVF is set where the result overflows to an infinity. -/
def fpResult (inv : Bool) (v : FVal) : W32 × Nat :=
  let r := toF32 v
  let fl := if (f32 r.1).isInf then r.2 else if fOvf &&& r.2 = 0 then r.2 else r.2 - fOvf
  (r.1, fl ||| flagIf inv fInv)

def opposite (a b : FVal) : Bool := a.isInf && b.isInf && a.isNeg != b.isNeg

def fAdd (a b : W32) : W32 × Nat :=
  let x := f32 a
  let y := f32 b
  fpResult (x.isSnan || y.isSnan || opposite x y) (x.add y)

def fSub (a b : W32) : W32 × Nat :=
  let x := f32 a
  let y := (f32 b).neg
  fpResult (x.isSnan || y.isSnan || opposite x y) (x.add y)

def fMul (a b : W32) : W32 × Nat :=
  let x := f32 a
  let y := f32 b
  fpResult (productInv x y) (x.mul y)

/-- a·b + c on values, rounded once. -/
def fMulAdd (x y z : FVal) : W32 × Nat :=
  let p := x.mul y
  fpResult (productInv x y || z.isSnan || opposite p z) (p.add z)

def fMa (a b c : W32) : W32 × Nat := fMulAdd (f32 a) (f32 b) (f32 c)

def fNma (a b c : W32) : W32 × Nat := fMulAdd (f32 a).neg (f32 b) (f32 c)

/-- The order of R161, in which -0 is less than +0. -/
def totalLess (x y : FVal) : Bool := x.lt y || (x.eq y && x.isNeg && !y.isNeg)

/-- minimumNumber and maximumNumber, or minimum and maximum when `propagate`. -/
def fMinMax (max propagate : Bool) (a b : W32) : W32 × Nat :=
  let x := f32 a
  let y := f32 b
  let anyNan := x.isNan || y.isNan
  let fl := flagIf (x.isSnan || y.isSnan) fInv ||| flagIf (anyNan && !propagate) fNanSeen
  if anyNan then
    (if propagate || (x.isNan && y.isNan) then qnan32 else if x.isNan then b else a, fl)
  else if max then (if totalLess x y then b else a, fl)
  else (if totalLess y x then b else a, fl)

/-- |a| or -a: only the sign bit changes. -/
def fSign (negate : Bool) (a : W32) : W32 × Nat :=
  match f32 a with
  | .nan sg => (qnan32, flagIf sg fInv)
  | _ => (if negate then a ^^^ 0x80000000#32 else a &&& 0x7FFFFFFF#32, 0)

/-- A magnitude rounded to an integer by IMM[1:0], and whether it was one. -/
def roundInt (mode : Nat) (n : Bool) (m : Nat) (e : Int) : Nat × Bool :=
  match mode with
  | 0 => roundTo .rne false m e 0
  | 1 => roundTo .rtz false m e 0
  | _ =>
    let (k, exact) := roundTo .rtz false m e 0
    (if !exact && (n == (mode == 2)) then k + 1 else k, exact)

def fRint (mode : Nat) (a : W32) : W32 × Nat :=
  match f32 a with
  | .nan sg => (qnan32, flagIf sg fInv)
  | .inf _ => (a, 0)
  | .fin n m e => (rn32 (.fin n (roundInt mode n m e).1 0), 0)

/-- The class bit of Table 08-4a. -/
def fClass (a : W32) : W32 :=
  let e := (a.toNat / 2 ^ 23) % 256
  let n := a.toNat.testBit 31
  BitVec.ofNat 32 (2 ^ (match f32 a with
    | .nan sg => if sg then 8 else 9
    | .inf n => if n then 0 else 7
    | .fin _ m _ => if m = 0 then (if n then 3 else 4) else if e = 0 then (if n then 2 else 5) else if n then 1 else 6))

/-- FTOI (R164). -/
def fToI (mode : Nat) (a : W32) : W32 × Nat :=
  match f32 a with
  | .nan _ => (0#32, fInv ||| fInexact)
  | .inf n => (if n then 0x80000000#32 else 0x7FFFFFFF#32, fOvf ||| fInexact)
  | .fin n m e =>
    let (k, exact) := roundInt mode n m e
    if (if n then 2 ^ 31 else 2 ^ 31 - 1) < k then (if n then 0x80000000#32 else 0x7FFFFFFF#32, fOvf ||| fInexact)
    else (if n then 0#32 - BitVec.ofNat 32 k else BitVec.ofNat 32 k, flagIf (!exact) fInexact)

/-- The outcome of a comparison (R162). -/
def compareOutcome (op : Nat) (a b : W32) : Bool :=
  let x := f32 a
  let y := f32 b
  match op with
  | 0x30 => x.eq y
  | 0x31 => !x.eq y
  | 0x32 => x.lt y
  | 0x33 => x.le y
  | 0x34 => x.isNan || y.isNan
  | 0x35 => a == b
  | 0x36 => BitVec.slt a b
  | _ => BitVec.ult a b

def combineOutcome (imm : Nat) (o c : Bool) : Bool :=
  match imm with
  | 0 => o
  | 1 => o && c
  | 2 => o || c
  | _ => o != c

def w32Bool (b : Bool) : W32 := if b then 1#32 else 0#32

def laneCompare (op imm : Nat) (a b c : W32) : W32 × Nat :=
  (w32Bool (combineOutcome imm (compareOutcome op a b) (c == 1#32)),
    flagIf (decide (op ≤ 0x34) && ((f32 a).isSnan || (f32 b).isSnan)) fInv)

/-- CVTR (R163): rounded once into the format of IMM, and the FP32 value of the code. -/
def laneCvtr (imm r : Nat) (a : W32) : W32 × Nat :=
  let mode : Rounding := match cvtRnd imm with
    | 0 => .rne
    | 1 => .rtz
    | _ => .sr r
  let (code, fl) := convertBare (cvtFmt imm) mode (cvtSat imm) (f32 a)
  (rn32 (decodeBare (cvtFmt imm) code), fl)

def popCount (n : Nat) : Nat := ((List.range 32).filter fun i => n.testBit i).length

/-- The result and flags, in one lane, of an opcode that reads only that lane: `n` is the shift amount (R159), `r` the SR bits. -/
def laneResult (op imm r : Nat) (a b c : W32) : W32 × Nat :=
  let n := b.toNat % 32
  match op with
  | 0x01 => (a, 0)
  | 0x02 => (if c = 1#32 then a else b, 0)
  | 0x08 => (a + b, 0)
  | 0x09 => (a - b, 0)
  | 0x0A => (a * b, 0)
  | 0x0B => (a * b + c, 0)
  | 0x0C => (if BitVec.slt b a then b else a, 0)
  | 0x0D => (if BitVec.slt a b then b else a, 0)
  | 0x0E => (if BitVec.ult b a then b else a, 0)
  | 0x0F => (if BitVec.ult a b then b else a, 0)
  | 0x10 => (a &&& b, 0)
  | 0x11 => (a ||| b, 0)
  | 0x12 => (a ^^^ b, 0)
  | 0x13 => (a &&& ~~~b, 0)
  | 0x14 => (a <<< n, 0)
  | 0x15 => (a >>> n, 0)
  | 0x16 => (a.sshiftRight n, 0)
  | 0x17 => (BitVec.ofNat 32 (popCount a.toNat), 0)
  | 0x18 => (BitVec.ofNat 32 (if a = 0#32 then 32 else 31 - Nat.log2 a.toNat), 0)
  | 0x20 => fAdd a b
  | 0x21 => fSub a b
  | 0x22 => fMul a b
  | 0x23 => fMa a b c
  | 0x24 => fNma a b c
  | 0x25 => fMinMax false false a b
  | 0x26 => fMinMax true false a b
  | 0x27 => fMinMax false true a b
  | 0x28 => fMinMax true true a b
  | 0x29 => fSign false a
  | 0x2A => fSign true a
  | 0x2B => fRint imm a
  | 0x2C => (fClass a, 0)
  | 0x38 => laneCvtr imm r a
  | 0x39 => fToI imm a
  | 0x3A => fpResult false (ofUnits a.toInt 0)
  | 0x3B => fpResult false (.fin false a.toNat 0)
  | 0x50 => laneExp2 a
  | 0x51 => laneLog2 a
  | _ => if isCompare op then laneCompare op imm a b c else (0#32, 0)

/-- SHAPE and GATE_ACT (R180 to R182). -/
def laneShapeOp (op rec : Nat) (entry : Nat → W64) (a b : W32) : W32 × Nat :=
  let (v, fl) := laneShape rec entry a
  if op = 0x52 then (v, fl)
  else
    let (w, fl') := fMul b v
    (w, fl ||| fl')

/-! ### Permutes (Table 08-5) -/

/-- The lane that lane `i` takes its value from; none when the index is invalid. `b` is the index operand of PERM. -/
def permuteIndex (op imm i vl : Nat) (b : W32) : Option Nat :=
  let d := imm % 256
  let j : Option Nat := match op with
    | 0x40 => some b.toNat
    | 0x41 => if d ≤ i then some (i - d) else none
    | 0x42 => some (i + d)
    | 0x43 => some (i ^^^ d)
    | 0x44 => some ((i + d) % vl)
    | 0x45 => some d
    | 0x46 => some (vl - 1 - i)
    | _ =>
      let s := 2 ^ ((imm / 256) % 16)
      some (i - i % s + (i % s + d) % s)
  match j with
  | some k => if k < vl then some k else none
  | none => none

/-- PACK (R150): lane i's word, from the values of the pass, and its conversion flags. -/
def packLane (imm vl i : Nat) (value : Nat → W32) : W32 × Nat :=
  let fmt := cvtFmt imm
  let w := fmtBits fmt
  let r := 32 / w
  let mode : Rounding := if cvtRnd imm = 0 then .rne else .rtz
  let part (k : Nat) : Nat × Nat :=
    if r * i + k < vl then convertBare fmt mode (cvtSat imm) (f32 (value (r * i + k))) else (0, 0)
  if i < ceilDiv vl r then
    let ps := (List.range r).map part
    (BitVec.ofNat 32 ((List.range r).foldl (fun acc k => acc + (nth (0, 0) ps k).1 * 2 ^ (w * k)) 0),
      orFlags (ps.map Prod.snd))
  else (0#32, 0)

/-- UNPACK (R150). -/
def unpackLane (imm i : Nat) (value : Nat → W32) : W32 :=
  let fmt := cvtFmt imm
  let w := fmtBits fmt
  let r := 32 / w
  rn32 (decodeBare fmt (((value (i / r)).toNat / 2 ^ (w * (i % r))) % 2 ^ w))

/-! ### The Chimney (R147, R167) -/

/-- The value that a reduction passes: `c` is the compensation of RSUMC and RSQC, else zero. -/
abbrev Leaf := W32 × W32

/-- The leaf of an acting lane, and its flags. -/
def reduceLeaf (op : Nat) (a : W32) : Leaf × Nat :=
  let x := f32 a
  match op with
  | 0x61 => ((a, 0#32), 0)
  | 0x65 =>
    let (p, fl) := fMul a a
    let v := f32 p
    if v.isNan || v.isInf then ((p, 0#32), fl)
    else
      let (c, fl') := fMulAdd x x v.neg
      ((p, c), fl ||| fl')
  | _ =>
    ((a, 0#32), flagIf x.isSnan fInv ||| flagIf ((op == 0x62 || op == 0x63) && x.isNan) fNanSeen)

/-- One node: `x` of the lower lane or the earlier pass. -/
def reduceNode (op : Nat) (x y : Leaf) : Leaf × Nat :=
  match op with
  | 0x60 =>
    let (s, fl) := fAdd x.1 y.1
    ((s, 0#32), fl)
  | 0x61 => ((x.1 + y.1, 0#32), 0)
  | 0x62 => (if (f32 x.1).isNan || (f32 x.1).lt (f32 y.1) then y else x, 0)
  | 0x63 => (if (f32 x.1).isNan || (f32 y.1).lt (f32 x.1) then y else x, 0)
  | _ =>
    let (s, fl) := fAdd x.1 y.1
    let v := f32 s
    if v.isNan || v.isInf then ((s, 0#32), fl)
    else
      let e := rn32 (((f32 x.1).add (f32 y.1)).add v.neg)
      let (c1, fl1) := fAdd x.2 y.2
      let (c2, fl2) := fAdd c1 e
      ((s, c2), fl1 ||| fl2)

/-- A node of operands that may be absent. -/
def reduceJoin (op : Nat) (x y : Option Leaf) : Option Leaf × Nat :=
  match x, y with
  | some a, some b =>
    let (v, fl) := reduceNode op a b
    (some v, fl)
  | some a, none => (some a, 0)
  | none, b => (b, 0)

/-- One level: neighbours combined in lane order. -/
def reduceLevel (op : Nat) : List (Option Leaf) → List (Option Leaf) × Nat
  | x :: y :: rest =>
    let (v, fl) := reduceJoin op x y
    let (vs, fls) := reduceLevel op rest
    (v :: vs, fl ||| fls)
  | rest => (rest, 0)

/-- The tree over a run of lanes, of `levels` levels. -/
def reduceTree (op : Nat) : Nat → List (Option Leaf) → Option Leaf × Nat
  | 0, xs => (nth none xs 0, 0)
  | k + 1, xs =>
    let (ys, fl) := reduceLevel op xs
    let (v, fl') := reduceTree op k ys
    (v, fl ||| fl')

/-- The result of a line, once every pass has joined; a NaN is canonical, one that no node has joined included (R31). -/
def reduceResult (op : Nat) (v : Option Leaf) : W32 × Nat :=
  match v with
  | none => (if op = 0x62 then negInf32 else if op = 0x63 then posInf32 else 0#32, 0)
  | some x =>
    match op with
    | 0x61 => (x.1, 0)
    | 0x60 => (if (f32 x.1).isNan then qnan32 else x.1, 0)
    | 0x62 => (if (f32 x.1).isNan then qnan32 else x.1, 0)
    | 0x63 => (if (f32 x.1).isNan then qnan32 else x.1, 0)
    | _ => if (f32 x.1).isNan then (qnan32, 0) else if (f32 x.1).isInf then (x.1, 0) else fAdd x.1 x.2

end Sys2Proof.Machine
end

