-- ==== Sys2Proof/Machine/Ops.lean ====
section
/-! DEFINITION. The named operations over the state: sparse tables and memories in canonical form, poison marks, access to rings,
hearths, ports and stoves, free values, block events, interrupt messages, memory requests and error records. -/

namespace Sys2Proof.Machine

/-- What a command answers. -/
abbrev Result := Host.Outcome State Fault Refusal

/-! ### Sparse tables -/

/-- The value at a key; `d` is what an unlisted key reads as. -/
def Tab.at {α : Type} (d : α) : Tab α → Nat → α
  | [], _ => d
  | (i, v) :: rest, k => if i = k then v else Tab.at d rest k

/-- The table without a key. -/
def Tab.drop {α : Type} (t : Tab α) (k : Nat) : Tab α := t.filter fun p => p.1 != k

/-- The table with a pair put before the first greater key. -/
def Tab.insert {α : Type} (k : Nat) (v : α) : Tab α → Tab α
  | [] => [(k, v)]
  | (i, w) :: rest => if k < i then (k, v) :: (i, w) :: rest else (i, w) :: Tab.insert k v rest

/-- The table with a value at a key, in canonical form: the default is not listed. -/
def Tab.put {α : Type} [DecidableEq α] (d : α) (t : Tab α) (k : Nat) (v : α) : Tab α :=
  if v = d then Tab.drop t k else Tab.insert k v (Tab.drop t k)

/-- The table with every listed value changed; what becomes the default is not listed. -/
def Tab.remap {α : Type} [DecidableEq α] (d : α) (t : Tab α) (f : α → α) : Tab α :=
  (t.map fun p => (p.1, f p.2)).filter fun p => decide (p.2 ≠ d)

/-- The table without the keys that a test refuses. -/
def Tab.keep {α : Type} (t : Tab α) (p : Nat → Bool) : Tab α := t.filter fun q => p q.1

/-- The part of a table from key `a` to key `a + n - 1`. -/
def Tab.slice {α : Type} (t : Tab α) (a n : Nat) : Tab α := t.filter fun p => decide (a ≤ p.1) && decide (p.1 < a + n)

/-- The values at `n` keys from `a`. -/
def Tab.list {α : Type} (d : α) (t : Tab α) (a n : Nat) : List α :=
  let part := Tab.slice t a n
  (List.range n).map fun i => Tab.at d part (a + i)

/-- The table that lists consecutive values from key `a`. -/
def Tab.ofList {α : Type} [DecidableEq α] (d : α) : Nat → List α → Tab α
  | _, [] => []
  | a, v :: vs => if v = d then Tab.ofList d (a + 1) vs else (a, v) :: Tab.ofList d (a + 1) vs

/-- The table that holds `f i` at every `i` below `n`. -/
def Tab.build {α : Type} [DecidableEq α] (d : α) (n : Nat) (f : Nat → α) : Tab α := Tab.ofList d 0 ((List.range n).map f)

/-- The table with consecutive values from key `a` replaced. -/
def Tab.splice {α : Type} [DecidableEq α] (d : α) (t : Tab α) (a : Nat) (vs : List α) : Tab α :=
  (t.filter fun p => decide (p.1 < a)) ++ Tab.ofList d a vs ++ t.filter fun p => decide (a + vs.length ≤ p.1)

/-! ### Memories -/

def Memory.byte (m : Memory) (a : Nat) : W8 := Tab.at Memory.unlisted m a

def Memory.write (m : Memory) (a : Nat) (b : W8) : Memory := Tab.put Memory.unlisted m a b

/-- `n` bytes from address `a`. -/
def Memory.read (m : Memory) (a n : Nat) : List W8 := Tab.list Memory.unlisted m a n

/-- The little-endian number of `n` bytes at `a`. -/
def Memory.nat (m : Memory) (a n : Nat) : Nat := leNat (m.read a n)

/-- The memory with bytes from address `a` replaced. -/
def Memory.store (m : Memory) (a : Nat) (bs : List W8) : Memory := Tab.splice Memory.unlisted m a bs

/-- The memory with `n` bytes from `a` at zero. -/
def Memory.zero (m : Memory) (a n : Nat) : Memory := Tab.keep m fun k => k < a || a + n ≤ k

/-! ### Poison marks (R290, R297, R347): rising lists of marked units -/

def Marks.insert (k : Nat) : List Nat → List Nat
  | [] => [k]
  | i :: rest => if k < i then k :: i :: rest else if k = i then i :: rest else i :: Marks.insert k rest

def Marks.drop (k : Nat) (m : List Nat) : List Nat := m.filter fun i => i != k

/-- The units of `unit` bytes that the bytes from `a` touch. -/
def unitsOf (unit a n : Nat) : List Nat :=
  if n = 0 then [] else (List.range ((a + n - 1) / unit - a / unit + 1)).map fun i => a / unit + i

/-- Whether a range of bytes touches a marked unit. -/
def marked (unit : Nat) (m : List Nat) (a n : Nat) : Bool :=
  n != 0 && m.any fun i => decide (a / unit ≤ i) && decide (i ≤ (a + n - 1) / unit)

/-- The marks after a write of `n` bytes at `a`: a poisoned write marks its units; a whole write of a unit clears its mark; a partial
write keeps it. -/
def writeMarks (unit : Nat) (m : List Nat) (a n : Nat) (poisoned : Bool) : List Nat :=
  if poisoned then (unitsOf unit a n).foldl (fun acc u => Marks.insert u acc) m
  else if n = 0 then m
  else m.filter fun u => !(decide (a ≤ unit * u) && decide (unit * u + unit ≤ a + n))

/-! ### Parts of the state -/

def State.ring (s : State) (n : Nat) : Ring := Tab.at Ring.reset s.rings n
def State.setRing (s : State) (n : Nat) (r : Ring) : State := { s with rings := Tab.put Ring.reset s.rings n r }
def State.modRing (s : State) (n : Nat) (f : Ring → Ring) : State := s.setRing n (f (s.ring n))

def State.hearth (s : State) (h : Nat) : Hearth := Tab.at Hearth.reset s.hearths h
def State.setHearth (s : State) (h : Nat) (x : Hearth) : State := { s with hearths := Tab.put Hearth.reset s.hearths h x }
def State.modHearth (s : State) (h : Nat) (f : Hearth → Hearth) : State := s.setHearth h (f (s.hearth h))

def State.port (s : State) (p : Nat) : Port := Tab.at Port.reset s.ports p
def State.setPort (s : State) (p : Nat) (x : Port) : State := { s with ports := Tab.put Port.reset s.ports p x }

def State.stove (s : State) (v : Nat) : Stove := Tab.at Stove.reset s.pwr.stoves v
def State.setStove (s : State) (v : Nat) (x : Stove) : State :=
  { s with pwr := { s.pwr with stoves := Tab.put Stove.reset s.pwr.stoves v x } }

/-- The class of a ring: ring 0 is always Admin (R240). -/
def State.classOf (s : State) (n : Nat) : BitVec 2 := if n = 0 then 3#2 else (s.ring n).cls

def State.allHearths (s : State) : List Nat := List.range s.cfg.hearths

/-- Memory ports: three for each stove. -/
def State.portCount (s : State) : Nat := 3 * s.cfg.stoves

/-- The hearths of a mask, rising. -/
def State.hearthsOf (s : State) (mask : W64) : List Nat := bitsBelow s.cfg.hearths mask.toNat

/-! ### Free values -/

/-- A fresh undefined 64-bit value, and the state that has drawn it. -/
def State.draw64 (s : State) : W64 × State := (Config.freeWord64 s.draws, { s with draws := s.draws + 1 })

/-- `n` fresh undefined bytes, and the state that has drawn them. -/
def State.drawBytes (s : State) (n : Nat) : List W8 × State :=
  ((List.range n).map fun i => Config.freeByte (s.draws + i), { s with draws := s.draws + n })

/-! ### Ports: requests and credits (R293 to R295, R369) -/

/-- The port on which hearth `h` sends a request for host address `a` (R293). -/
def hearthPort (h a : Nat) : Nat := 3 * (h / 8) + (a / 256) % 3

/-- The port on which the Transom sends a request, and the home port of an ORDERED_ADD (R293). -/
def State.transomPort (s : State) (a : Nat) : Nat := (a / 256) % s.portCount

/-- The port on which the Stoker reads descriptors; it writes records and messages on M0, so that the ORDERED attribute orders them
(Table 18-8; log entry 14). -/
def stokerReadPort (a : Nat) : Nat := (a / 256) % 3

/-- The credits of one kind reserved for Flue (R295). -/
def flueReserve (credits : Nat) : Nat := max 2 (credits / 8)

/-- Whether the clocks of the core and of the stoves run: Run, and ENTERING until the domains stop (R305, R360). On a stopped clock the block samples
nothing. -/
def State.clocked (s : State) : Bool := decide (s.pwr.block = .run) || decide (s.pwr.block = .entering)

/-- Whether the outputs of a stove's ports are valid: clocked and powered, no fatal halt, and released in IVR-16 and IVR-32 (R316, R350, R376). -/
def State.portUp (s : State) (p : Nat) : Bool :=
  s.clocked && !s.err.fatalHalted && s.pwr.pswAck.getLsbD (1 + p / 3) &&
    (decide (48 ≤ s.cfg.hearths) || s.pwr.isoStoves.getLsbD (p / 3))

/-- Whether a port takes traffic: its outputs are valid and no alarm has halted the block (R316, R341). -/
def State.portAwake (s : State) (p : Nat) : Bool := s.portUp p && !s.vault.halted

/-- The credit that a request would take now: none, or whether it is a shared one. A Flue request takes a reserved credit first; any
other class takes shared credits only (R295). -/
def Port.credit (x : Port) (write : Bool) (cls : BitVec 2) : Option Bool :=
  let credits := if write then x.wrCredits.toNat else x.rdCredits.toNat
  let mine := x.inflight.filter fun r => r.write == write
  let shared := (mine.filter fun r => r.shared).length
  let reserved := mine.length - shared
  if cls = 0#2 && decide (reserved < flueReserve credits) then some false
  else if shared < credits - flueReserve credits then some true
  else none

/-- A tag that no request of the same kind in flight holds. -/
def Port.freeTag (x : Port) (write : Bool) : BitVec 12 :=
  let used := (x.inflight.filter fun r => r.write == write).map Request.tag
  match (List.range 4096).find? fun k => !used.contains (x.nextTag + BitVec.ofNat 12 k) with
  | some k => x.nextTag + BitVec.ofNat 12 k
  | none => x.nextTag

/-- Bytes that a write puts into host memory, with its poison bits (R297). -/
def State.storeHost (s : State) (a : Nat) (bytes : List W8) (poisoned : Bool) : State :=
  { s with host := s.host.store a bytes, hostPoison := writeMarks 64 s.hostPoison a bytes.length poisoned }

/-- A write cut at the boundaries of 64-byte lines. -/
def cutLines (w : Nat × List W8) : List (Nat × List W8) :=
  (unitsOf 64 w.1 w.2.length).map fun u =>
    let lo := max w.1 (64 * u)
    (lo, (w.2.drop (lo - w.1)).take (min (w.1 + w.2.length) (64 * u + 64) - lo))

/-- The add of R298 at the memory side. -/
def atomicSum (int : Bool) (old operand : W32) : W32 := if int then old + operand else (fAdd old operand).1

/-- What a request that a port sends does to host memory, in the order in which the port sends (R296, R298; log entry 44): a write stores its
bytes line by line with their poison bits, an atomic replaces its element by the sum. -/
def State.performRequest (s : State) (r : Request) : State :=
  match r.purpose with
  | .atomic _ int w =>
    s.storeHost r.addr (leBytes 4 (atomicSum int (BitVec.ofNat 32 (s.host.nat r.addr 4)) w).toNat) (r.poison ≠ 0#4)
  | _ =>
    if r.write then (cutLines (r.addr, r.bytes)).foldl (fun s w => s.storeHost w.1 w.2 (r.poison.getLsbD (w.1 / 64 % 4))) s else s

/-- A request leaves a port: it holds its credit until its response, and what it does to host memory is done. -/
def State.dispatchRequest (s : State) (p : Nat) (r : Request) (shared : Bool) : State :=
  let x := s.port p
  let t := x.freeTag r.write
  (s.setPort p { x with inflight := x.inflight ++ [{ r with tag := t, shared := shared }], nextTag := t + 1#12 }).performRequest r

/-- Sends the waiting requests of a list that find a credit, in order; the rest wait on. -/
def State.pumpList (p : Nat) : List Request → State → State
  | [], s => s
  | r :: rest, s =>
    let x := s.port p
    match x.credit r.write r.cls with
    | some shared =>
      State.pumpList p rest ((s.setPort p { x with waiting := x.waiting.erase r }).dispatchRequest p r shared)
    | none => State.pumpList p rest s

/-- A request of an attestation report (R344). -/
def Request.attests (r : Request) : Bool := decide (r.purpose = .report) || decide (r.purpose = .reportData)

/-- Requests that found a credit leave: waiting Flue requests ahead of every other class (R295). In HALTED only those of an attestation report
leave (Table 16-9; log entry 142). -/
def State.pump (s : State) (p : Nat) : State :=
  if s.portUp p then
    let w := (s.port p).waiting.filter fun r => !s.vault.halted || r.attests
    State.pumpList p ((w.filter fun r => r.cls == 0#2) ++ w.filter fun r => r.cls != 0#2) s
  else s

/-- A request reaches its port. -/
def State.request (s : State) (p : Nat) (r : Request) : State :=
  (s.setPort p { s.port p with waiting := (s.port p).waiting ++ [r] }).pump p

/-- The plain request of a position. -/
def Request.mk' (write : Bool) (addr size : Nat) (bytes : List W8) (cls : BitVec 2) (ring : Nat) (pos : W32)
    (purpose : Purpose) : Request :=
  { write := write, tag := 0#12, addr := addr, size := size, bytes := bytes, poison := 0#4, shared := false,
    cls := cls, ordered := false, ticket := 0#32, ring := ring, pos := pos, purpose := purpose, repeated := false }

/-- The poison bits of a write whose bytes from `a` all carry poison, or none (R297). -/
def poisonBits (a n : Nat) (poisoned : Bool) : BitVec 4 :=
  if poisoned then BitVec.ofNat 4 ((unitsOf 64 a n).foldl (fun m u => m ||| 2 ^ (u % 4)) 0) else 0#4

/-- The pieces of a range of host bytes, each within one 256-byte granule (R294): (address, length). -/
def granules (a n : Nat) : List (Nat × Nat) :=
  (unitsOf 256 a n).map fun g => (max a (256 * g), min (a + n) (256 * g + 256) - max a (256 * g))

/-- The packet of a command that receives one, with its port. -/
def packetOf : Instr → Option (Nat × Packet)
  | .xchCountReceive port p => some (port.toNat, p)
  | .xchReadyReceive port p => some (port.toNat, p)
  | .xchRowReceive port p => some (port.toNat, p)
  | .xchDoneReceive port p => some (port.toNat, p)
  | .xchDwReceive port p => some (port.toNat, p)
  | .xchStaleReceive port p => some (port.toNat, p)
  | .xchAbortReceive port p => some (port.toNat, p)
  | _ => none

/-! ### Interrupt messages and block events (R261 to R263) -/

/-- COUNT[41:10], the stamp of events (Table 12-14). -/
def State.stamp (s : State) : W32 := (s.audit.count >>> 10).setWidth 32

/-- The bits of BLK_EVENT (Table 12-13). -/
inductive BlockEvent where
  | ringFault
  | dbStray
  | patch
  | errRecord
  | wakeDone
  | pwrRefused
  | sealAlarm
  | evtOverflow
  | ringStopped
  deriving DecidableEq, Repr

def BlockEvent.bit : BlockEvent → Nat
  | .ringFault => 0
  | .dbStray => 1
  | .patch => 2
  | .errRecord => 3
  | .wakeDone => 4
  | .pwrRefused => 5
  | .sealAlarm => 6
  | .evtOverflow => 7
  | .ringStopped => 8

/-- The 64 bytes of an error record (Table 17-3). -/
def ErrorEvent.bytes (e : ErrorEvent) : List W8 :=
  leBytes 2 0x4552 ++ [e.severity, e.cause, e.unitType, e.unit] ++ leBytes 2 e.repeats.toNat ++ leBytes 4 e.index.toNat ++
    leBytes 4 e.pos.toNat ++ [e.ring, e.opcode, e.status, e.space] ++ leBytes 4 e.syndrome.toNat ++ leBytes 8 e.addr.toNat ++
    leBytes 8 e.count.toNat ++ leBytes 8 e.info.toNat ++ leBytes 16 0

/-- Whether an event merges into a record that waits: equal cause, unit and ADDR (R349). -/
def ErrorEvent.same (a b : ErrorEvent) : Bool :=
  a.cause == b.cause && a.unitType == b.unitType && a.unit == b.unit && a.addr == b.addr

/-- The address of error record `i` (R349). -/
def Errors.slot (e : Errors) (i : W32) : Nat := e.base.toNat + 64 * (i.toNat % 2 ^ e.log2.toNat)

/-- The record that an event would merge into: one whose request still waits at M2. -/
def State.mergeTarget (s : State) (e : ErrorEvent) : Option ErrorEvent :=
  s.err.writing.find? fun w => w.same e &&
    (s.port 2).waiting.any fun r => decide (r.purpose = .errorRecord) && r.pos == w.index

/-- An error event is detected (R348, R349): counted, recorded through M2 at Draught class, merged, or lost. -/
def State.logError (s : State) (e : ErrorEvent) : State :=
  let e := { e with count := s.audit.count, index := s.err.index }
  let s := if e.severity = 1#8 then { s with err := { s.err with corrected := satInc s.err.corrected } } else s
  if e.severity = 1#8 && !s.err.logCorrected then s
  else match s.mergeTarget e with
    | some w =>
      let w' := { w with repeats := satInc w.repeats }
      let x := s.port 2
      { s with err := { s.err with writing := s.err.writing.map fun v => if v = w then w' else v } }.setPort 2
        { x with waiting := x.waiting.map fun (r : Request) =>
            if r.purpose = Purpose.errorRecord ∧ r.pos = w.index then { r with bytes := w'.bytes } else r }
    | none =>
      if !s.err.enable || decide (2 ^ s.err.log2.toNat ≤ (s.err.index - s.err.head).toNat) then
        { s with err := { s.err with lost := satInc s.err.lost } }
      else
        { s with err := { s.err with index := s.err.index + 1#32, writing := s.err.writing ++ [e] } }.request 2
          (Request.mk' true (s.err.slot e.index) 64 e.bytes 2#2 0 e.index .errorRecord)

/-- The event of a unit, with no descriptor and no address. -/
def ErrorEvent.plain (severity cause unitType unit : Nat) (info : W64) : ErrorEvent :=
  { index := 0#32, severity := BitVec.ofNat 8 severity, cause := BitVec.ofNat 8 cause, unitType := BitVec.ofNat 8 unitType,
    unit := BitVec.ofNat 8 unit, repeats := 0#16, pos := 0#32, ring := 0xFF#8, opcode := 0#8, status := 0#8,
    space := 0xFF#8, syndrome := 0#32, addr := 0#64, count := 0#64, info := info }

/-- The same event, at an address of a space. -/
def ErrorEvent.atAddr (e : ErrorEvent) (space addr : Nat) : ErrorEvent :=
  { e with space := BitVec.ofNat 8 space, addr := BitVec.ofNat 64 addr }

/-- The same event, met by a position. -/
def ErrorEvent.of (e : ErrorEvent) (ring : Nat) (pos : W32) (opcode status : Nat) : ErrorEvent :=
  { e with ring := BitVec.ofNat 8 ring, pos := pos, opcode := BitVec.ofNat 8 opcode, status := BitVec.ofNat 8 status }

/-- An interrupt message that its port refuses or its target answers with an error: dropped, with an error record (R261). -/
def State.irqLost (s : State) (port vec response : Nat) (addr : Nat) : State :=
  s.logError ((ErrorEvent.plain 2 0x17 0 port (BitVec.ofNat 64 (vec + 256 * response))).atAddr 3 addr)

/-- Vector `v` sends a message, or is held while it is masked (R261). `cls` is the class of the ring, Admin for a block event. -/
def State.message (s : State) (v : Nat) (cls : BitVec 2) : State :=
  if s.blk.irqMask.getLsbD v then { s with blk := { s.blk with irqPend := s.blk.irqPend ||| BitVec.ofNat 16 (2 ^ v) } }
  else
    let a := (Tab.at 0#64 s.blk.irqAddr v).toNat
    if 2 ^ 52 ≤ a then s.irqLost 0 v 0xFF a
    else s.request 0
      { Request.mk' true a 8 (leBytes 8 (Tab.at 0#64 s.blk.irqData v).toNat) cls 0 0#32 (.interrupt v) with ordered := true }

/-- Bit `b` of BLK_EVENT is set and counted, and its message is sent on EVT_VEC when IRQ_EN allows it (R262). -/
def State.eventFlag (s : State) (b : Nat) : State :=
  let s := { s with blk := { s.blk with
    blkEvent := s.blk.blkEvent ||| BitVec.ofNat 9 (2 ^ b),
    eventCount := Tab.put 0#32 s.blk.eventCount b (Tab.at 0#32 s.blk.eventCount b + 1#32) } }
  if s.blk.irqEn.getLsbD b then s.message s.blk.evtVec.toNat 3#2 else s

/-- The entry of an event (Table 12-14). -/
def State.eventEntry (s : State) (b source detail : Nat) : W64 :=
  1#1 ++ BitVec.ofNat 7 b ++ BitVec.ofNat 8 source ++ BitVec.ofNat 16 detail ++ s.stamp

/-- A hardware set of a BLK_EVENT bit (R262, R263): flag, count, queue entry and message. A full queue drops the entry, counts it and
sets EVT_OVERFLOW, which queues nothing. -/
def State.event (s : State) (e : BlockEvent) (source detail : Nat) : State :=
  let s := s.eventFlag e.bit
  if s.blk.events.length < 64 then
    { s with blk := { s.blk with events := s.blk.events ++ [s.eventEntry e.bit source detail] } }
  else { s with blk := { s.blk with dropped := satInc s.blk.dropped } }.eventFlag BlockEvent.evtOverflow.bit

/-- The lost field of a record write that host memory refused: the bytes addressed become undefined (R294). -/
def State.spoilHost (s : State) (a n : Nat) : State :=
  let (bs, s) := s.drawBytes n
  { s with host := s.host.store a bs }

end Sys2Proof.Machine
end

