-- ==== Sys2Proof/Machine/Ident.lean ====
section
/-! DEFINITION. Identity and configuration registers (R382, Tables 19-2 to 19-5), PATCH_STATE (Table 12-8), and the strings that reports and
seal records hash of them. -/

namespace Sys2Proof.Machine

/-- The part code of IDENT and IDCODE: 0x1A10 to 0x1A40 for 16 to 64 hearths. -/
def BlockConfig.part (c : BlockConfig) : Nat := 0x1A00 + 0x10 * (c.hearths / 16)

/-- The base-2 logarithm of a power of two. -/
def log2Of (n : Nat) : Nat := Nat.log2 n

def regIdent (c : BlockConfig) : W64 := BitVec.ofNat 64 (place 0 32 c.part + place 0 24 0x01 + place 0 16 0x01 + 0x7132)
def regRelease : W64 := 0x0103#64
def regCfg0 (c : BlockConfig) : W64 :=
  BitVec.ofNat 64 (place 0 48 (log2Of c.shapeEntries) + place 0 32 c.lanes + place 0 24 c.stoves + place 0 16 (3 * c.stoves) +
    place 0 8 c.stoves + c.hearths)
def regCfg1 (c : BlockConfig) : W64 :=
  BitVec.ofNat 64 (bitNat c.hasMantel + place 0 1 (bitNat c.hasTransom) + place 0 2 (bitNat c.hasSeal) +
    place 0 4 (if c.hasMantel then 256 else 0))
def regCfg2 (c : BlockConfig) : W64 := BitVec.ofNat 64 (2 ^ c.hearths - 1)
def regCfg3 (c : BlockConfig) : W64 := BitVec.ofNat 64 (c.chapoconBuild.toNat + place 0 32 c.jtagMfr.toNat)

def regPatchState (b : Block) : W64 :=
  BitVec.ofNat 64 (b.patchState.toNat + place 0 4 b.patchReason.toNat + place 0 16 b.patchVersion.toNat +
    place 0 32 b.patchMinor.toNat + place 0 40 b.patchMajor.toNat)

/-- CFG0 to CFG3, RELEASE and PATCH_STATE as little-endian words (Tables 13-8 and 16-12). -/
def State.configString (s : State) : List W8 :=
  [regCfg0 s.cfg, regCfg1 s.cfg, regCfg2 s.cfg, regCfg3 s.cfg, regRelease, regPatchState s.blk].flatMap fun w => leBytes 8 w.toNat

end Sys2Proof.Machine
end

