-- ==== Sys2Proof/Machine/Rings.lean ====
section
/-! DEFINITION. Rings (chapter 12): doorbells, states, fetch, completion and record writes, HEAD; and the input recorder
(R276, R277), which records accepted doorbells. -/

namespace Sys2Proof.Machine

/-! ### The common header (Table 12-5) -/

def descOpcode (d : DescBits) : Nat := fld d.toNat 0 0 8
def descClass (d : DescBits) : Nat := fld d.toNat 1 0 2
def descSeal (d : DescBits) : Bool := flag d.toNat 2 0
def descFenceBefore (d : DescBits) : Bool := flag d.toNat 2 1
def descFenceAfter (d : DescBits) : Bool := flag d.toNat 2 2
def descIrq (d : DescBits) : Bool := flag d.toNat 2 3
def descVaryOk (d : DescBits) : Bool := flag d.toNat 2 4
def descSeq (d : DescBits) : Nat := fld d.toNat 4 0 32
def descMask (d : DescBits) : Nat := fld d.toNat 8 0 4
def descSplit (d : DescBits) : Nat := fld d.toNat 9 0 4

/-- A FENCE of KIND EPOCH (Table 12-7). -/
def epochFenceDesc (d : DescBits) : Bool := descOpcode d == 0x40 && fld d.toNat 16 0 2 == 1

/-! ### The input recorder (R276, R277) -/

/-- Whether the recorder ring has no room. -/
def Audit.recFull (a : Audit) : Bool := decide (2 ^ a.recLog2.toNat ≤ (a.recTail - a.recHead).toNat)

/-- Whether external inputs follow a recording now (R278). -/
def Audit.replaying (a : Audit) : Bool := a.recEnable && a.recMode && !a.replayLive

/-- Whether inputs of a kind are recorded now. -/
def Audit.records (a : Audit) (kind : Nat) : Bool := a.recEnable && !a.recMode && a.recKinds.getLsbD (kind - 1)

/-- Whether a doorbell or a row must wait because it could not be recorded (R277, HOLD = 1). -/
def Audit.holds (a : Audit) (kind : Nat) : Bool := a.records kind && a.recHold && a.recFull

/-- One record (Table 13-7) is written on M2 at Draught class. -/
def State.putRecord (s : State) (kind source : Nat) (data : W64) (digest : W64) : State :=
  let a := s.audit
  let addr := a.recBase.toNat + 32 * (a.recTail.toNat % 2 ^ a.recLog2.toNat)
  let bytes := leBytes 1 kind ++ leBytes 1 source ++ leBytes 2 0 ++ leBytes 4 a.recIndex.toNat ++ leBytes 8 a.count.toNat ++
    leBytes 8 data.toNat ++ leBytes 8 digest.toNat
  { s with audit := { a with recTail := a.recTail + 1#32, recIndex := a.recIndex + 1#32 } }.request 2
    (Request.mk' true addr 32 bytes 2#2 0 a.recTail .recorder)

/-- A gap record, when records were lost and space has returned (R277). -/
def State.putGap (s : State) : State :=
  if s.audit.recEnable && !s.audit.recMode && decide (s.audit.recGap ≠ 0#64) && !s.audit.recFull then
    let g := s.audit.recGap
    { s with audit := { s.audit with recGap := 0#64 } }.putRecord 6 0 g 0#64
  else s

/-- The DIGEST of an input's bytes: zero while the recorder's key is unavailable (R329). -/
def Audit.digest (a : Audit) (bytes : List W8) : W64 :=
  match a.recKey with
  | none => 0#64
  | some k => Config.inputDigest k bytes

/-- An external input arrives: it writes one record, or is lost when the ring is full. -/
def State.recordInput (s : State) (kind source : Nat) (data : W64) (bytes : List W8) : State :=
  if s.audit.records kind then
    let s := s.putGap
    if s.audit.recFull then
      { s with audit := { s.audit with recLost := satInc s.audit.recLost, recGap := s.audit.recGap + 1#64 } }
    else s.putRecord kind source data (s.audit.digest bytes)
  else s

/-! ### Entries -/

/-- An issued position, as it stands right after issue. -/
def Entry.start (pos : W32) (d : DescBits) : Entry :=
  { pos := pos, desc := d, mask := 0#64, admitted := 0#64, order := 0, issued := 0#64, stage := .running, started := false, left := 0,
    status := 0#8, detail := 0#16, flags := 0#16, sealRefusal := 0#16, sealed := false, arrived := [], outs := [], reads := [],
    records := [], acted := 0#64, banks := 0#64, uses := Uses.none, holds := Uses.none, work := [], prog := [] }

/-- A position that completes without work (R259: FLAGS is zero). -/
def Entry.refused (pos : W32) (d : DescBits) (status detail : Nat) : Entry :=
  { Entry.start pos d with stage := .finished, status := BitVec.ofNat 8 status, detail := BitVec.ofNat 16 detail }

def Ring.entry (r : Ring) (pos : W32) : Option Entry := r.entries.find? fun e => e.pos == pos

def State.entry (s : State) (n : Nat) (pos : W32) : Option Entry := (s.ring n).entry pos

/-- Entries with one changed. -/
def State.modEntry (s : State) (n : Nat) (pos : W32) (f : Entry → Entry) : State :=
  s.modRing n fun r => { r with entries := r.entries.map fun e => if e.pos = pos then f e else e }

/-- The running entry of a position whose descriptor has an opcode; after a fatal event none runs (R350). -/
def State.running (s : State) (n : Nat) (pos : W32) (opcode : Nat) : Option Entry :=
  match s.entry n pos with
  | some e => if e.stage = .running ∧ descOpcode e.desc = opcode ∧ s.err.stopped = false then some e else none
  | none => none

/-- Whether an earlier position of a ring still lacks its record. -/
def State.behind (s : State) (n : Nat) (e : Entry) : Bool := (s.ring n).entries.any fun f => decide (f.order < e.order)

/-- Every issued position with its ring's number. -/
def State.issuedAll (s : State) : List (Nat × Entry) := s.rings.flatMap fun p => p.2.entries.map fun e => (p.1, e)

/-- Flags raised by work (R47, R260). -/
def State.raise (s : State) (n : Nat) (pos : W32) (flags : Nat) : State :=
  s.modEntry n pos fun e => { e with flags := e.flags ||| BitVec.ofNat 16 flags }

/-- A status that arises during execution: the first detected stays (R259). -/
def State.fail (s : State) (n : Nat) (pos : W32) (status detail : Nat) : State :=
  s.modEntry n pos fun e =>
    if e.status = 0#8 then { e with status := BitVec.ofNat 8 status, detail := BitVec.ofNat 16 detail } else e

/-- The work of a position has ended. What a failed descriptor held stays held until its record (R76, R119). -/
def Entry.finished (e : Entry) : Entry :=
  { e with stage := .finished, left := 0, work := [], holds := if e.status = 0#8 then Uses.none else { e.holds with tables := [] } }

def State.finish (s : State) (n : Nat) (pos : W32) : State := s.modEntry n pos Entry.finished

/-- Every pair but those of one hearth. -/
def Uses.without (u : Uses) (h : Nat) : Uses :=
  let off (xs : List (Nat × Nat)) : List (Nat × Nat) := xs.filter fun q => q.1 != h
  { reads := off u.reads, writes := off u.writes, stats := off u.stats, topk := off u.topk, groups := off u.groups, tables := off u.tables }

/-- A tile that the descriptor wrote has committed (R77). -/
def Entry.committed (e : Entry) (h a : Nat) : Entry :=
  { e with holds := { e.holds with writes := e.holds.writes.filter (· != (h, a)) } }

/-- The last element of a tile that the descriptor reads has been taken (R77). -/
def Entry.taken (e : Entry) (h a : Nat) : Entry :=
  { e with holds := { e.holds with reads := e.holds.reads.filter (· != (h, a)) } }

/-- The tiles that a hearth reads as operands have all been taken. -/
def Entry.takenAll (e : Entry) (h : Nat) : Entry :=
  { e with holds := { e.holds with reads := e.holds.reads.filter fun q => q.1 != h } }

/-- The share of one hearth is done: nothing that it held there holds a later descriptor (R78). -/
def Entry.leave (e : Entry) (h : Nat) : Entry :=
  { e with work := e.work.filter (· != h), holds := if e.status = 0#8 then e.holds.without h else { e.holds with tables := [] } }

/-! ### Yielding to Flue (R267) -/

def State.flueRing (s : State) (n : Nat) : Bool := decide (s.classOf n = 0#2)

/-- Whether a Flue descriptor that issued to a hearth has its share there still to finish. -/
def State.flueOn (s : State) (h : Nat) : Bool :=
  s.rings.any fun p => s.flueRing p.1 && p.2.entries.any fun e => decide (e.stage = .running) && e.work.contains h

/-- Whether work of a ring on a hearth yields now. -/
def State.yields (s : State) (n h : Nat) : Bool := !s.flueRing n && s.flueOn h

/-- Pieces of its share that a hearth has finished. -/
def Entry.pieces (e : Entry) (h : Nat) : Nat := Tab.at 0 e.prog h

/-- The next piece of shares given as (hearth, pieces), on the first hearth that has one left and may act. -/
def Entry.nextPiece (e : Entry) (shares : List (Nat × Nat)) (may : Nat → Bool) : Option (Nat × Nat) :=
  (shares.find? fun q => decide (e.pieces q.1 < q.2) && may q.1).map fun q => (q.1, e.pieces q.1)

/-- A hearth has finished `k` pieces of its share of `total`. -/
def Entry.advance (e : Entry) (h k total : Nat) : Entry :=
  let e := { e with started := true, prog := Tab.put 0 e.prog h k }
  if total ≤ k then e.leave h else e

/-- The pieces of a hearth's share go on to `k`; the position's work ends with the last share. -/
def State.advance (s : State) (n : Nat) (pos : W32) (shares : List (Nat × Nat)) (h k total : Nat) : State :=
  let s := s.modEntry n pos fun e => e.advance h k total
  match s.entry n pos with
  | some e => if e.status ≠ 0#8 ∨ (shares.all fun q => decide (q.2 ≤ e.pieces q.1)) = true then s.finish n pos else s
  | none => s

/-- The work of a position ends with a status that arose during execution. -/
def State.finishWith (s : State) (n : Nat) (pos : W32) (status detail : Nat) : State := (s.fail n pos status detail).finish n pos

/-! ### States (R243) -/

/-- DRAINING ends, and a disabled FAULT ends, once every issued descriptor has its record. -/
def Ring.settle (r : Ring) : Ring :=
  if r.entries.isEmpty then
    if r.state = .draining ∨ (r.state = .fault ∧ r.enable = false) then { r with state := .off, fetched := [], enable := false } else r
  else r

/-- Fetched and unissued descriptors, and an issued LAUNCH_AT (R274), complete with E_ABORTED. -/
def Ring.abortFetched (r : Ring) (detail : Nat) : Ring :=
  { r with
    entries := (r.entries.map fun e =>
      if descOpcode e.desc = 0x41 ∧ e.stage = .running then
        { e with stage := .finished, status := BitVec.ofNat 8 stAborted, detail := BitVec.ofNat 16 detail } else e) ++
      r.fetched.map fun f => Entry.refused f.pos f.desc stAborted detail,
    issuePos := r.issuePos + BitVec.ofNat 32 r.fetched.length,
    fetched := [] }

/-- A ring enters FAULT with a cause; DRAINING is left only to OFF (R243). -/
def State.ringFault (s : State) (n cause : Nat) : State :=
  let r := s.ring n
  if r.state = .fault ∨ r.state = .off ∨ r.state = .draining then s
  else
    (s.setRing n { r.abortFetched 4 with
      state := .fault, fault := true, cause := BitVec.ofNat 4 cause, faultCount := satInc r.faultCount }).event .ringFault n cause

/-! ### Enable, disable, resume -/

/-- The first cause that refuses an enable, in the order of R242. -/
def State.enableRefusal (s : State) (n : Nat) (r : Ring) : Option Nat :=
  if s.blk.patchState ≠ 2#3 then some 8
  else if r.log2Size.toNat < 6 ∨ 16 < r.log2Size.toNat then some 9
  else if r.sqBase.toNat % 4096 ≠ 0 ∨ r.cqBase.toNat % 4096 ≠ 0 ∨ 2 ^ 52 ≤ r.sqBase.toNat ∨ 2 ^ 52 ≤ r.cqBase.toNat then some 10
  else if r.cls = 3#2 ∧ n ≠ 0 then some 11
  else none

/-- Descriptor reads and record bodies in flight when a ring starts again belong to no position of it. -/
def State.forgetReads (s : State) (n : Nat) : State :=
  let forget (p : Port) : Port :=
    { p with
      inflight := p.inflight.map fun q => match q.purpose with
        | .descriptors _ b => if q.ring = n then { q with purpose := .descriptors 0 b } else q
        | .recordBody => if q.ring = n then { q with purpose := .descriptors 0 0#32 } else q
        | _ => q,
      waiting := p.waiting.filter fun q => match q.purpose with
        | .descriptors _ _ => q.ring != n
        | _ => true }
  ({ s with ports := Tab.remap Port.reset s.ports forget }).modRing n fun r => { r with failedRead := none }

/-- The fields of RING_CFG other than ENABLE, written in STATE OFF (Table 12-1). CLASS of ring 0 is RO. -/
def Ring.setCfg (n : Nat) (r : Ring) (v : Nat) : Ring :=
  { r with
    cls := if n = 0 then r.cls else BitVec.ofNat 2 (fld v 0 1 2), log2Size := BitVec.ofNat 5 (fld v 0 3 5),
    errStop := flag v 0 8, vec := BitVec.ofNat 4 (fld v 0 9 4), irqErr := flag v 0 13 }

/-- ENABLE = 1 in STATE OFF: refused with a CAUSE, or HEAD and TAIL at 0 and STATE at RUN (R242). -/
def State.ringEnable (s : State) (n : Nat) : State :=
  let r := s.ring n
  match s.enableRefusal n r with
  | some c => s.setRing n { r with enable := false, cause := BitVec.ofNat 4 c }
  | none =>
    (s.forgetReads n).setRing n { r with
      enable := true, state := .run, head := 0#32, tail := 0#32, fetchPos := 0#32, issuePos := 0#32, fetched := [],
      entries := [], done := [], lostRecords := [], accepts := [], session := none, sessionLost := false }

/-- ENABLE = 0 (R243). -/
def State.ringDisable (s : State) (n : Nat) : State :=
  let r := s.ring n
  match r.state with
  | .run => s.setRing n ({ r.abortFetched 1 with enable := false, state := .draining }).settle
  | .stopped => s.setRing n ({ r.abortFetched 1 with enable := false, state := .draining }).settle
  | .fault => s.setRing n ({ r with enable := false }).settle
  | .draining => s
  | .off => s

/-- A write of RING_CFG (R242, R243). -/
def State.writeRingCfg (s : State) (n v : Nat) : State :=
  let r := s.ring n
  if r.state = .off then
    let s := s.setRing n (r.setCfg n v)
    if flag v 0 0 then s.ringEnable n else s
  else if flag v 0 0 then s
  else s.ringDisable n

/-- RESUME in STATE STOPPED. -/
def State.ringResume (s : State) (n : Nat) : State :=
  let r := s.ring n
  if r.state = .stopped then s.setRing n { r with state := .run } else s

/-! ### Doorbells (R245) -/

/-- The outcomes of Table 12-3. -/
inductive Doorbell where
  | stray
  | fault
  | back
  | same
  | accepted
  deriving DecidableEq, Repr

def Ring.doorbell (r : Ring) (t : W32) : Doorbell :=
  if r.state = .off ∨ r.state = .draining ∨ r.state = .fault then .stray
  else if 2 ^ r.log2Size.toNat < (t - r.head).toNat then .fault
  else if (t - r.head).toNat < (r.tail - r.head).toNat then .back
  else if t = r.tail then .same
  else .accepted

/-- The fast path takes a TAIL (Table 12-3). -/
def State.takeDoorbell (s : State) (n : Nat) (t : W32) : State :=
  let r := s.ring n
  match r.doorbell t with
  | .stray => { s with blk := { s.blk with dbStray := satInc s.blk.dbStray } }.event .dbStray n 0
  | .fault => s.ringFault n 1
  | .back => { s with blk := { s.blk with dbBack := satInc s.blk.dbBack } }
  | .same => s
  | .accepted =>
    (s.setRing n { r with tail := t, accepts := (t, s.audit.count) :: r.accepts }).recordInput 1 n
      (BitVec.ofNat 64 t.toNat) (leBytes 8 t.toNat)

/-- A doorbell is written while the fast path runs: replay ignores it (R278), a recorder that holds inputs keeps it waiting (R277). -/
def State.doorbell (s : State) (n : Nat) (t : W32) : State :=
  if s.err.fatalHalted || s.vault.halted then s
  else if s.audit.replaying then { s with blk := { s.blk with dbStray := satInc s.blk.dbStray } }
  else if s.audit.holds 1 || !(s.ring n).withheld.isEmpty then s.modRing n fun r => { r with withheld := r.withheld ++ [t] }
  else s.takeDoorbell n t

/-- The doorbells of a ring that the recorder withheld are taken, oldest first, while it has room for them. -/
def State.takeWithheld (n : Nat) : Nat → State → State
  | 0, s => s
  | k + 1, s =>
    match (s.ring n).withheld with
    | [] => s
    | t :: rest =>
      if s.audit.holds 1 then s
      else State.takeWithheld n k ((s.modRing n fun r => { r with withheld := rest }).takeDoorbell n t)

/-- Each ring takes the doorbells that the recorder withheld, and then the TAIL that Ember holds. -/
def State.takeHeld (s : State) : State :=
  (List.range 128).foldl (fun s n =>
    let s := State.takeWithheld n (s.ring n).withheld.length s
    match (s.ring n).held with
    | some t => (s.modRing n fun r => { r with held := none }).doorbell n t
    | none => s) s

/-! ### Fetch (R252) -/

/-- Whether the block fetches and issues now: Run, no fatal event, no alarm in force. -/
def State.issuing (s : State) : Bool :=
  decide (s.pwr.block = .run) && !s.err.stopped && !s.vault.halted && decide (s.vault.handling = none) && !s.vault.resetting

/-- How many descriptors the next burst of a ring reads: at most 8, never beyond TAIL, never past the last slot, and at most 16 fetched
and unissued. -/
def Ring.burst (r : Ring) : Nat :=
  let slots := 2 ^ r.log2Size.toNat
  min (min 8 (r.tail - r.fetchPos).toNat)
    (min (slots - r.fetchPos.toNat % slots) (16 - (r.fetchPos - r.issuePos).toNat))

def Ring.fetchable (r : Ring) : Bool := decide (r.state = .run) && decide (0 < r.burst)

/-- The numbers below 128, from a pointer round. -/
def roundFrom (k : Nat) : List Nat := (List.range 128).map fun i => (k + i) % 128

/-- The ring that a priority serves: Flue rings first, then ring 0, then Banked and Draught rings, in round robin within each level. -/
def State.serve (s : State) (flueNext next : Nat) (ready : Nat → Bool) : Option Nat :=
  match (roundFrom flueNext).find? fun n => decide (s.classOf n = 0#2) && ready n with
  | some n => some n
  | none =>
    if ready 0 then some 0
    else (roundFrom next).find? fun n => decide (n ≠ 0) && decide (s.classOf n ≠ 0#2) && ready n

/-- Fetched descriptors in position order, from a position on. -/
def insertFetched (base : W32) (f : Fetched) : List Fetched → List Fetched
  | [] => [f]
  | g :: rest => if (f.pos - base).toNat < (g.pos - base).toNat then f :: g :: rest else g :: insertFetched base f rest

/-- Whether positions of a burst before a failed one are still in flight. -/
def State.readsBefore (s : State) (n : Nat) (pos burstEnd : W32) : Bool :=
  let before (q : Request) : Bool := match q.purpose with
    | .descriptors c b => q.ring == n && decide (0 < c) && b == burstEnd && decide (0 < (pos - q.pos).toNat) &&
        decide ((pos - q.pos).toNat < 2 ^ 31)
    | _ => false
  (List.range s.portCount).any fun p => (s.port p).inflight.any before || (s.port p).waiting.any before

/-- Cause 2, once every earlier read of the burst is answered: its intact descriptors are fetched and behave as in FAULT (R243). -/
def State.settleReadFault (s : State) (n : Nat) : State :=
  let r := s.ring n
  match r.failedRead with
  | none => s
  | some (pos, burstEnd, port) =>
    if (r.state = .run ∨ r.state = .stopped) ∧ s.readsBefore n pos burstEnd = false then
      let s := s.setRing n { r with failedRead := none }
      let addr := r.sqBase.toNat + 128 * (pos.toNat % 2 ^ r.log2Size.toNat)
      (s.logError (((ErrorEvent.plain 3 0x0C 0 port 0#64).of n pos 0 0).atAddr 3 addr)).ringFault n 2
    else s

/-- The bytes of descriptors arrive: they are fetched, while the ring still fetches, up to a position of the burst whose read failed. -/
def State.arriveDescriptors (s : State) (n : Nat) (pos burstEnd : W32) (count : Nat) (data : List W8) : State :=
  let r := s.ring n
  if r.state = .run ∨ r.state = .stopped then
    let lost (p : W32) : Bool := match r.failedRead with
      | some (q, b, _) => b == burstEnd && decide ((p - q).toNat < (b - q).toNat)
      | none => false
    let f (i : Nat) : Fetched :=
      { pos := pos + BitVec.ofNat 32 i, desc := BitVec.ofNat 1024 (leNat ((data.drop (128 * i)).take 128)) }
    let new := ((List.range count).map f).filter fun x => !lost x.pos
    (s.setRing n { r with fetched := new.foldl (fun acc x => insertFetched r.issuePos x acc) r.fetched }).settleReadFault n
  else s

/-- A descriptor read fails: the failing position and the later ones of its burst count as never fetched (R243). -/
def State.readFailed (s : State) (n : Nat) (pos burstEnd : W32) (port : Nat) : State :=
  let r := s.ring n
  if r.state = .run ∨ r.state = .stopped then
    let span := (burstEnd - pos).toNat
    let first := match r.failedRead with
      | some x => if (x.1 - r.issuePos).toNat ≤ (pos - r.issuePos).toNat then x else (pos, burstEnd, port)
      | none => (pos, burstEnd, port)
    (s.setRing n { r with
      fetched := r.fetched.filter (fun f => !decide ((f.pos - pos).toNat < span)), failedRead := some first }).settleReadFault n
  else s

/-- One burst of read requests for the next descriptors of a ring. A request at or above 2^52 is refused at its port: the read fails (R294). -/
def State.fetchBurst (s : State) (n : Nat) : State :=
  let r := s.ring n
  let k := r.burst
  let slot := r.fetchPos.toNat % 2 ^ r.log2Size.toNat
  let base := r.sqBase.toNat + 128 * slot
  let s' := s.setRing n { r with fetchPos := r.fetchPos + BitVec.ofNat 32 k }
  let pos (a : Nat) : W32 := r.fetchPos + BitVec.ofNat 32 ((a - base) / 128)
  (granules base (128 * k)).foldl (fun s g =>
    if 2 ^ 52 ≤ g.1 then s.readFailed n (pos g.1) (r.fetchPos + BitVec.ofNat 32 k) (stokerReadPort g.1)
    else s.request (stokerReadPort g.1)
      (Request.mk' false g.1 g.2 [] (s.classOf n) n (pos g.1) (.descriptors (g.2 / 128) (r.fetchPos + BitVec.ofNat 32 k)))) s'

/-- DESCRIPTOR_FETCH. -/
def State.fetch (s : State) : State :=
  if s.issuing then
    match s.serve s.blk.fetchNextFlue s.blk.fetchNext fun n => (s.ring n).fetchable with
    | none => s
    | some n =>
      let s := s.fetchBurst n
      if s.classOf n = 0#2 then { s with blk := { s.blk with fetchNextFlue := (n + 1) % 128 } }
      else if n = 0 then s
      else { s with blk := { s.blk with fetchNext := (n + 1) % 128 } }
  else s

/-! ### Records (R255 to R257) -/

/-- PHASE of a position (R256). -/
def phaseOf (log2Size pos : Nat) : Nat := if (pos / 2 ^ log2Size) % 2 = 0 then 1 else 0

/-- DURATION (Table 12-9): COUNT less COUNT at the acceptance that first made the position visible, saturating. -/
def Ring.duration (r : Ring) (pos : W32) (count : W64) : Nat :=
  match (r.accepts.filter fun a => decide (0 < (a.1 - pos).toNat) && decide ((a.1 - pos).toNat < 2 ^ 31)).getLast? with
  | some a => min (2 ^ 32 - 1) (count - a.2).toNat
  | none => 0

/-- The 28 bytes of a record's body (Table 12-9). -/
def recordBody (r : Ring) (e : Entry) (count : W64) : List W8 :=
  leBytes 4 (descSeq e.desc) ++ leBytes 1 e.status.toNat ++ leBytes 1 (descOpcode e.desc) ++ leBytes 2 e.detail.toNat ++
    leBytes 4 e.flags.toNat ++ leBytes 4 e.pos.toNat ++ leBytes 8 count.toNat ++ leBytes 4 (r.duration e.pos count)

def Ring.cqSlot (r : Ring) (pos : W32) : Nat := r.cqBase.toNat + 32 * (pos.toNat % 2 ^ r.log2Size.toNat)

/-- HEAD passes every position whose record is complete (R241, R257). -/
def Ring.advance : Nat → Ring → Ring
  | 0, r => r
  | k + 1, r =>
    if r.done.contains r.head then
      Ring.advance k { r with done := r.done.filter (· != r.head), head := r.head + 1#32 }
    else r

/-- Doorbells that no position at or above HEAD needs any more. -/
def Ring.pruneAccepts (r : Ring) : Ring :=
  { r with accepts := r.accepts.filter fun a => decide (0 < (a.1 - r.head).toNat) && decide ((a.1 - r.head).toNat < 2 ^ 31) }

/-- The record of a position is complete: its PHASE word is acknowledged. -/
def Ring.complete (r : Ring) (pos : W32) : Ring :=
  ((Ring.advance (r.done.length + 1) { r with entries := r.entries.filter fun e => e.pos != pos, done := r.done ++ [pos] }).pruneAccepts).settle

/-- The record of a position could not be written: it counts as having its record, and HEAD stays behind it (cause 3, R243). -/
def Ring.loseRecord (r : Ring) (pos : W32) : Ring :=
  ({ r with entries := r.entries.filter fun e => e.pos != pos, lostRecords := r.lostRecords ++ [pos] }).settle

/-- A record write failed (cause 3). The write of a body may fail after HEAD has passed its position. -/
def State.recordFailed (s : State) (n : Nat) (pos : W32) (port : Nat) : State :=
  let (op, st) := match s.entry n pos with
    | some e => (descOpcode e.desc, e.status.toNat)
    | none => (0, 0)
  let s := s.logError (((ErrorEvent.plain 3 0x0D 0 port 0#64).of n pos op st).atAddr 3 ((s.ring n).cqSlot pos))
  match s.entry n pos with
  | some _ => (s.ringFault n 3).modRing n fun r => r.loseRecord pos
  | none => s.ringFault n 3

/-- Requests and buffered adds of a position that are not yet answered. -/
def State.outstanding (s : State) (n : Nat) (pos : W32) : Bool :=
  s.ports.any fun p =>
    ((p.2.inflight ++ p.2.waiting).any fun q => q.ring == n && q.pos == pos &&
      (match q.purpose with
        | .operand => true
        | .output => true
        | .atomic _ _ _ => true
        | _ => false)) ||
    p.2.adds.any fun a => a.ring == n && a.pos == pos

/-- The entry as its record reports it: SEALED of a contributor, and the E_SEAL of a refused keyed service when nothing else arose
(R259 step 7, R279, R343). -/
def Entry.final (e : Entry) : Entry :=
  let e := if e.sealed then { e with flags := e.flags ||| BitVec.ofNat 16 fSealed } else e
  if e.status = 0#8 ∧ e.sealRefusal ≠ 0#16 then { e with status := BitVec.ofNat 8 stSeal, detail := e.sealRefusal } else e

/-- What a finished contributor leaves in its session: FAILED and VARIED of SFLAGS (Table 13-8). -/
def Session.note (v : Session) (e : Entry) : Session :=
  { v with sflags := v.sflags ||| (if e.status ≠ 0#8 then 1#8 else 0#8) |||
      (if e.flags.toNat &&& fVaried ≠ 0 then 2#8 else 0#8) }

/-- The latest completion with a status other than OK (Table 12-1), and the session's note of the completion. -/
def Ring.noteRecord (r : Ring) (e : Entry) : Ring :=
  { r with
    lastPos := if e.status ≠ 0#8 then e.pos else r.lastPos,
    lastStatus := if e.status ≠ 0#8 then e.status else r.lastStatus,
    lastDetail := if e.status ≠ 0#8 then e.detail else r.lastDetail,
    session := if e.sealed then r.session.map fun v => v.note e else r.session }

/-- With ERR_STOP = 1 a record with a status other than OK stops a running ring (Table 12-2). -/
def State.errStop (s : State) (n : Nat) (e : Entry) : State :=
  let r := s.ring n
  if r.errStop && decide (e.status ≠ 0#8) && decide (r.state = .run) then
    (s.setRing n { r with state := .stopped }).event .ringStopped n r.cause.toNat
  else s

/-- The record's writes: body, PHASE word, interrupt message, in that order, ORDERED, on M0 (R257). -/
def State.sendRecord (s : State) (n : Nat) (e : Entry) : State :=
  let r := s.ring n
  let a := r.cqSlot e.pos
  if 2 ^ 52 ≤ a then s.recordFailed n e.pos 0
  else
    let cls := s.classOf n
    let s := s.request 0 { Request.mk' true a 28 (recordBody r e s.audit.count) cls n e.pos .recordBody with ordered := true }
    let s := s.request 0
      { Request.mk' true (a + 28) 4 (leBytes 4 (phaseOf r.log2Size.toNat e.pos.toNat)) cls n e.pos .phase with ordered := true }
    if descIrq e.desc || (r.irqErr && decide (e.status ≠ 0#8)) then s.message r.vec.toNat cls else s

/-- The record of one finished entry is written: LAST registers and ERR_STOP follow. -/
def State.writeRecord (s : State) (n : Nat) (e : Entry) : State :=
  let e := e.final
  let s := s.modEntry n e.pos fun _ => { e with stage := .recorded, holds := Uses.none, work := [] }
  let s := s.modRing n fun r => r.noteRecord e
  (s.sendRecord n e).errStop n e

/-- COMPLETION_RECORD_WRITE: once every unit has stopped and every write is acknowledged. -/
def State.completionRecord (s : State) (n : Nat) (pos : W32) : State :=
  match s.entry n pos with
  | some e =>
    if e.stage = .finished ∧ s.outstanding n pos = false ∧ s.err.stopped = false then s.writeRecord n e else s
  | none => s

end Sys2Proof.Machine
end

