-- ==== Sys2Proof/Machine/Seal.lean ====
section
/-! DEFINITION. The Seal (chapter 16): keys, life cycle, attestation, and the sessions and digests of seal records (R279 to R281, R329, R343). -/

namespace Sys2Proof.Machine

/-! ### Life-cycle state (R332) -/

/-- Table 16-3: BLANK 0, PROVISIONED 1, MISSION 2, DIAGNOSE 3, SCRAPPED 4. -/
def lcOfFuse (f : BitVec 4) : Nat :=
  if f = 0#4 then 0 else if f = 1#4 then 1 else if f = 3#4 then 2 else if f = 7#4 then 3 else 4

/-- SEAL_LC.STATE: the fuses as the latest reset read them (R383). -/
def Seal.lc (v : Seal) : Nat := lcOfFuse v.lcShown

/-- A life-cycle state in which the keys are usable. -/
def Seal.keyed (v : Seal) : Bool := v.lc == 1 || v.lc == 2

/-- A Sash write that Table 16-6 does not allow. -/
def State.deny (s : State) : State := { s with vault := { s.vault with denied := satInc s.vault.denied } }

/-! ### DRBG and keys (R326, R329) -/

/-- The next DRBG output; a DRBG that a failed health test stopped gives none (R327). -/
def State.drbg (s : State) : Option (BitVec 384) × State :=
  if s.vault.entropyFail then (none, s)
  else (some (Config.drbgOutput s.vault.drbg), { s with vault := { s.vault with drbg := s.vault.drbg + 1 } })

/-- The ATTEST private key, derived from ROOT. -/
def attestKey : Nat :=
  beNat (kdf (beBytes 32 Config.rootKey.toNat) (ascii "IVR-ATTEST") [] 448) % (p384Order - 1) + 1

/-- The ATTEST public key, x then y, 48 bytes big-endian each. -/
def attestPublic : List W8 :=
  match pointMul p384G attestKey 384 with
  | none => List.replicate 96 0#8
  | some (x, y) => beBytes 48 x ++ beBytes 48 y

def Seal.slotKey (v : Seal) (k : BitVec 2) : List W8 := leBytes 48 (Tab.at 0#384 v.keySlots k.toNat).toNat

/-- The context of a session's keys: the ring and the nonce. -/
def sessionContext (ring : Nat) (nonce : W64) : List W8 := leBytes 1 ring ++ leBytes 8 nonce.toNat

def Seal.polyKey (v : Seal) (k : BitVec 2) (ring : Nat) (nonce : W64) : BitVec 128 :=
  let p := BitVec.ofNat 128 (beNat (kdf (v.slotKey k) (ascii "IVR-SEAL-POLY") (sessionContext ring nonce) 128))
  if p = 0#128 then 1#128 else p

def Seal.tagKey (v : Seal) (k : BitVec 2) (ring : Nat) (nonce : W64) : BitVec 384 :=
  BitVec.ofNat 384 (beNat (kdf (v.slotKey k) (ascii "IVR-SEAL-TAG") (sessionContext ring nonce) 384))

/-- The refusal of a keyed service (Table 16-11), with the key slot it would use. -/
def State.keyRefusal (s : State) (k : BitVec 2) : Nat :=
  if !s.cfg.hasSeal then 1
  else if !s.vault.keyed then 2
  else if s.vault.blocked then 3
  else if !s.vault.slotMask.getLsbD k.toNat then 4
  else if s.vault.selftestFail || s.vault.entropyFail then 5
  else 0

/-- The refusal of a descriptor of a ring that carries SEAL, and of a SEAL_CLOSE (R343): an open session keeps its own slot. -/
def State.sealRefusal (s : State) (n : Nat) : Nat :=
  let r := s.ring n
  if s.cfg.hasSeal && r.sessionLost then 3
  else match r.session with
    | some v => s.keyRefusal v.keyRef
    | none => s.keyRefusal s.vault.keyRef

/-- A session of a ring: nonce, slot and weight windows taken now, keys derived (R279, R329). -/
def State.newSession (s : State) (n : Nat) : Session :=
  let nonce := Tab.at 0#64 s.audit.nonces n
  let k := s.vault.keyRef
  { nonce := nonce, keyRef := k, poly := s.vault.polyKey k n nonce, tagKey := s.vault.tagKey k n nonce,
    sums := [0#128, 0#128, 0#128, 0#128], lines := [0#64, 0#64, 0#64, 0#64], program := [], sflags := 0#8,
    windows := (List.range 8).map fun w => Tab.at (0#64, 0#64) s.audit.windows w }

/-- Every open session ends without a seal record (R331, R341). -/
def State.endSessions (s : State) : State :=
  { s with rings := Tab.remap Ring.reset s.rings fun r =>
      { r with sessionLost := r.sessionLost || r.session.isSome, session := none } }

/-- Zeroises ATTEST, every session key and every digest engine. -/
def State.zeroiseKeys (s : State) : State :=
  let s := s.endSessions
  { s with vault := { s.vault with attest := false }, audit := { s.audit with recKey := none } }

/-- ERASE_KEYS (R331). -/
def State.eraseKeys (s : State) : State :=
  let s := s.zeroiseKeys
  { s with vault := { s.vault with keysErased := true, blocked := true } }

/-- SEAL_LC (Table 16-13). -/
def regSealLc (v : Seal) : Nat :=
  v.lc + place 0 3 (bitNat v.keysErased) + place 0 4 (bitNat v.lockFuse) + place 0 5 (bitNat v.selftestFail) +
    place 0 6 (bitNat v.entropyFail) + place 0 8 v.target.toNat + place 0 12 v.result.toNat + place 0 16 (bitNat v.busy) +
    place 0 48 v.denied.toNat

/-- SEAL_LC_NONCE takes a fresh DRBG value, where the DRBG gives one. -/
def State.freshNonce (s : State) : State :=
  match s.drbg with
  | (some w, s) => { s with vault := { s.vault with nonce := w.setWidth 64 } }
  | (none, s) => s

/-! ### Digests (R279, R280) -/

/-- Whether a line lies in a weight window. -/
def Session.inWindow (v : Session) (space a : Nat) : Bool :=
  v.windows.any fun w =>
    fld w.2.toNat 0 52 2 == space && decide (w.1.toNat ≤ a) && decide (a ≤ fld w.2.toNat 0 0 52)

/-- One line transfer enters its role's sum and count. -/
def Session.line (v : Session) (role space a : Nat) (data : List W8) : Session :=
  { v with
    sums := setNth v.sums role (nth 0#128 v.sums role + lineTerm v.poly role space a data),
    lines := setNth v.lines role (nth 0#64 v.lines role + 1#64) }

/-- The 64 bytes of a line of the Mantel or of host memory. -/
def State.lineData (s : State) (space a : Nat) : List W8 := if space = 1 then s.mantel.read a 64 else s.host.read a 64

/-- The lines that a range of the Mantel or of host memory touches are read or written by a contributor of the ring's session. -/
def State.sealRange (s : State) (n : Nat) (role : Option Nat) (space lo len : Nat) : State :=
  if space = 1 ∨ space = 3 then
    let enter (v : Session) (u : Nat) : Session :=
      let ro := match role with
        | some x => x
        | none => if v.inWindow space (64 * u) then 1 else 2
      v.line ro space (64 * u) (s.lineData space (64 * u))
    s.modRing n fun r => { r with session := r.session.map fun v => (unitsOf 64 lo len).foldl enter v }
  else s

/-- Lines that a contributor of the ring's session writes enter OUTPUT as they are transferred, with zeros where the write has no bytes (log
entry 71). -/
def State.sealWritten (s : State) (n space lo : Nat) (bytes : List W8) : State :=
  let enter (v : Session) (u : Nat) : Session :=
    let a := max lo (64 * u)
    let part := (bytes.drop (a - lo)).take (64 * u + 64 - a)
    let data := List.replicate (a - 64 * u) 0#8 ++ part ++ List.replicate (64 * u + 64 - a - part.length) 0#8
    v.line 3 space (64 * u) data
  s.modRing n fun r => { r with session := r.session.map fun v => (unitsOf 64 lo bytes.length).foldl enter v }

/-- A digest of a session: a prefix byte, the sum and the line count of a role, and what stands between. -/
def Session.digest (v : Session) (pre : Nat) (role : Nat) (middle : List W8) : List W8 :=
  sha384 (leBytes 1 pre ++ middle ++ leBytes 16 (nth 0#128 v.sums role).toNat ++ leBytes 8 (nth 0#64 v.lines role).toNat)

/-- The four digests, in the order program, weights, inputs, output. -/
def Session.digests (v : Session) : List (List W8) :=
  [v.digest 0x50 0 v.program, v.digest 0x57 1 [], v.digest 0x49 2 [], v.digest 0x4F 3 []]

/-- The seal record (Table 13-8): 128 bytes. -/
def State.sealRecord (s : State) (n : Nat) (v : Session) : List W8 :=
  let ds := v.digests
  let draught := if s.classOf n = 2#2 then 4 else 0
  let body := leBytes 2 0x5345 ++ leBytes 1 v.keyRef.toNat ++ leBytes 1 (v.sflags.toNat ||| draught) ++
    (sha384 s.configString).take 4 ++ leBytes 8 s.audit.count.toNat ++ (ds.flatMap fun d => d.take 16)
  body ++ hmac384 (beBytes 48 v.tagKey.toNat) (body ++ ds.flatMap id)

/-! ### Transitions (R333 to R335) -/

/-- The authorisation at SEAL_AUTH_ADDR is accepted (R335). After an erasure the owner slots cannot be read, and a block without ATTEST matches
no DEVICE (R331). -/
def State.authorised (s : State) (target : Nat) : Bool :=
  let obj := s.host.read (s.vault.authAddr.toNat / 64 * 64) 256
  let img := leNat obj
  let pub := (obj.drop 64).take 96
  s.vault.attest && !s.vault.blocked &&
    fld img 0 0 16 == 0x4155 && fld img 2 0 8 == target && fld img 8 0 64 == s.vault.nonce.toNat &&
    (obj.drop 16).take 48 == sha384 attestPublic && sha384 pub == leBytes 48 (Tab.at 0#384 s.vault.keySlots 4).toNat &&
    ecdsaVerify (beNat (pub.take 48)) (beNat (pub.drop 48)) (obj.take 160) (obj.drop 160)

/-- Whether a transition to DIAGNOSE needs an authorisation: slot 4 is programmed, or the state is MISSION (Table 16-4). -/
def Seal.needsAuth (v : Seal) (target : Nat) : Bool := target == 3 && (v.lc == 2 || v.slotMask.getLsbD 4)

/-- RESULT of a requested transition before its authorisation is read (Table 16-4); 0 when nothing refuses it. During a reset the block is
not in Run. -/
def State.lcResult (s : State) (target : Nat) : Nat :=
  let v := s.vault
  let known := (v.lc == 0 && target == 1) || (v.lc == 1 && target == 2) || ((v.lc == 1 || v.lc == 2) && target == 3) ||
    (decide (v.lc ≤ 3) && target == 4)
  if !known || (v.lc == 0 && target == 1 && !v.rootBlank) then 1
  else if s.pwr.block ≠ .run || v.resetting || ((List.range 128).any fun n => decide ((s.ring n).state ≠ .off)) then 2
  else if v.lc == 1 && target == 2 && !v.lockFuse then 4
  else if v.needsAuth target && v.entropyFail then 5
  else if v.needsAuth target && !v.slotMask.getLsbD 4 then 3
  else 0

/-- LC_FUSE bits that a transition blows, in order (Table 16-4). -/
def lcBits (fuse : BitVec 4) (target : Nat) : List Nat :=
  let all := if target = 1 then [0] else if target = 2 then [1] else if target = 3 then [2, 1] else [3, 2, 1, 0]
  all.filter fun b => !fuse.getLsbD b

/-- LC_FUSE with bits blown. -/
def blow (fuse : BitVec 4) (bits : List Nat) : BitVec 4 := bits.foldl (fun f b => f ||| BitVec.ofNat 4 (2 ^ b)) fuse

/-- The first `k` fuse fields of an accepted transition are blown: to PROVISIONED the ROOT field comes first (Table 16-4). -/
def Seal.blowFirst (v : Seal) (k : Nat) : Seal :=
  let root := decide (v.goal = 1#3)
  { v with
    rootBlank := v.rootBlank && !(root && decide (0 < k)),
    lcFuse := blow v.lcFuse ((lcBits v.lcFuse v.goal.toNat).take (k - bitNat root)) }

/-- How many fuse fields an accepted transition blows. -/
def Seal.fuseSteps (v : Seal) : Nat := bitNat (decide (v.goal = 1#3)) + (lcBits v.lcFuse v.goal.toNat).length

/-- A GO ends with a RESULT: the nonce is fresh, and an accepted transition sets BUSY, erases the volatile keys and begins to blow its fuses. -/
def State.lcEnd (s : State) (res : Nat) : State :=
  let s := { s with vault := { s.vault with result := BitVec.ofNat 4 res, deciding := false } }
  let s := s.freshNonce
  if res = 0 then
    let s := s.zeroiseKeys
    { s with vault := { s.vault with busy := true, blowing := true, goal := s.vault.target } }
  else s

/-- Whether a read of the authorisation is not yet answered. -/
def State.authorising (s : State) : Bool :=
  ((s.port 2).inflight ++ (s.port 2).waiting).any fun q => decide (q.purpose = .authorisation)

/-- Reads of an authorisation that is refused already decide nothing. -/
def State.forgetAuthorisation (s : State) : State :=
  let forget (q : Request) : Request := if q.purpose = .authorisation then { q with purpose := .descriptors 0 0#32 } else q
  let x := s.port 2
  s.setPort 2 { x with inflight := x.inflight.map forget, waiting := x.waiting.map forget }

/-- A part of the authorisation has been read through M2, or could not be: the last one decides, and an error or poison refuses at once. -/
def State.lcRead (s : State) (intact : Bool) : State :=
  if s.vault.deciding = false ∨ (intact && s.authorising) = true then s
  else
    let res := s.lcResult s.vault.target.toNat
    if intact then s.lcEnd (if res ≠ 0 then res else if s.authorised s.vault.target.toNat then 0 else 3)
    else s.forgetAuthorisation.lcEnd (if res ≠ 0 then res else 3)

/-- A request of the Seal at or above 2^52 is refused at M2 (R294); INFO is free (log entry 16). -/
def State.sealRefused (s : State) (a : Nat) : State :=
  let (w, s) := s.draw64
  s.logError ((ErrorEvent.plain 3 0x08 0 2 w).atAddr 3 a)

/-- The Seal's read of host bytes through M2 at Draught class; an address at or above 2^52 is refused at the port (R294). -/
def State.sealRead (s : State) (a n : Nat) (purpose : Purpose) (lost : State → State) : State :=
  if 2 ^ 52 < a + n then lost (s.sealRefused a)
  else (granules a n).foldl (fun s g => s.request 2 (Request.mk' false g.1 g.2 [] 2#2 0 0#32 purpose)) s

/-- GO with a TARGET (R333 to R335). A transition that needs an authorisation waits for its reading; until then another GO is ignored (log
entry 144). -/
def State.lcGo (s : State) (target : BitVec 3) : State :=
  if s.vault.lc = 4 then s.deny
  else if s.vault.busy || s.vault.deciding then s
  else
    let res := s.lcResult target.toNat
    let s := { s with vault := { s.vault with target := target } }
    if res = 0 ∧ s.vault.needsAuth target.toNat then
      { s with vault := { s.vault with deciding := true } }.sealRead (s.vault.authAddr.toNat / 64 * 64) 256 .authorisation fun s => s.lcRead false
    else s.lcEnd res

/-! ### Key slots and the alarm policy (R330, R340) -/

/-- The 48 bytes of KEY_DATA_0 to KEY_DATA_5 as a number, word 0 lowest. -/
def Seal.keyWord (v : Seal) : Nat := leNat ((List.range 6).flatMap fun w => leBytes 8 (Tab.at 0#64 v.keyData w).toNat)

/-- KEY_CTL with GO (R330); KEY_DATA is zeroed whatever the outcome. An INDEX above 4 names no slot: RESULT is free (log entry 19). Outside
PROVISIONED the write is ignored and counted, and RESULT says so (R336; log entry 47). -/
def State.keyGo (s : State) (index : BitVec 3) : State :=
  let v := s.vault
  let done (s : State) (r : BitVec 4) : State :=
    { s with vault := { s.vault with keyIndex := index, keyResult := r, keyData := [] } }
  if v.lc ≠ 1 then { s.deny with vault := { s.deny.vault with keyResult := 1#4, keyData := [] } }
  else if 4 < index.toNat then
    let (w, s) := s.draw64
    done s (w.setWidth 4)
  else if v.slotMask.getLsbD index.toNat then done s 2#4
  else if v.keyWord = 0 then done s 3#4
  else
    let s' := done s 0#4
    { s' with vault := { s'.vault with
        keySlots := Tab.put 0#384 v.keySlots index.toNat (BitVec.ofNat 384 v.keyWord),
        slotMask := v.slotMask ||| BitVec.ofNat 5 (2 ^ index.toNat) } }

/-- A write of SEAL_POLICY (R336, R340): POLICY in BLANK and PROVISIONED until the lock; LOCK = 1 in PROVISIONED blows POLICY and the lock. -/
def State.writePolicy (s : State) (d : W64) : State :=
  let v := s.vault
  if v.lockFuse || !(v.lc == 0 || v.lc == 1) then s.deny
  else
    let p : W32 := d.setWidth 32
    let s := { s with vault := { v with policy := p } }
    if d.getLsbD 32 then
      if v.lc = 1 then { s with vault := { s.vault with policyFuse := p, lockFuse := true } } else s.deny
    else s

/-! ### Attestation (R344) -/

/-- The 256 bytes of a report with its signature, under the secret number `k`. -/
def State.attestReport (s : State) (data : List W8) (k : Nat) : List W8 :=
  let v := s.vault
  let total := (List.range 16).foldl (fun n i => n + (Tab.at 0#32 v.alarmCount i).toNat) 0
  let body := leBytes 2 0x4154 ++ leBytes 1 v.lc ++
    leBytes 1 (bitNat v.lockFuse + 2 * bitNat v.halted + 4 * bitNat (decide (v.pend ≠ 0#16))) ++
    leBytes 4 (min total (2 ^ 32 - 1)) ++ leBytes 8 s.audit.count.toNat ++ sha384 s.configString ++
    (if s.blk.patchState = 2#3 then sha384 s.blk.patchImage else List.replicate 48 0#8) ++ data
  body ++ ecdsaSign attestKey k body

/-- ATT_CTL returns to IDLE with a RESULT. -/
def State.attIdle (s : State) (r : BitVec 4) : State :=
  { s with vault := { s.vault with attBusy := false, attSent := false, attFault := false, attResult := r } }

/-- What keeps a report from being signed: keys erased (2), a failed self-test or entropy source (3), or no ATTEST (2); 0 for nothing. -/
def Seal.attRefusal (v : Seal) : Nat :=
  if v.blocked then 2 else if v.selftestFail || v.entropyFail then 3 else if !v.attest then 2 else 0

/-- An access of a report has failed. -/
def State.reportFault (s : State) : State :=
  if s.vault.attBusy then { s with vault := { s.vault with attFault := true } } else s

/-- Bytes that the Seal writes to host memory through M2 at Draught class, in pieces of one granule. -/
def State.sealWrite (s : State) (a : Nat) (bytes : List W8) : State :=
  if 2 ^ 52 < a + bytes.length then (s.sealRefused a).reportFault
  else (granules a bytes.length).foldl (fun s g =>
    s.request 2 (Request.mk' true g.1 g.2 ((bytes.drop (g.1 - a)).take g.2) 2#2 0 0#32 .report)) s

/-- Whether a request of the report is not yet answered. -/
def State.reporting (s : State) : Bool :=
  ((s.port 2).inflight ++ (s.port 2).waiting).any fun q => decide (q.purpose = .reportData) || decide (q.purpose = .report)

/-- A read of DATA is answered; with the last one the report is signed and written (R344). -/
def State.reportRead (s : State) (bad : Bool) : State :=
  let s := if bad then s.reportFault else s
  if s.vault.attBusy = false ∨ s.reporting = true ∨ s.vault.attSent = true then s
  else if s.vault.attFault then s
  else if s.vault.attRefusal ≠ 0 then s.attIdle (BitVec.ofNat 4 s.vault.attRefusal)
  else match s.drbg with
    | (none, s) => s.attIdle 3#4
    | (some w, s) =>
      let a := s.vault.attAddr.toNat / 64 * 64
      let k := w.toNat % (p384Order - 1) + 1
      let s := { s with vault := { s.vault with attSent := true } }
      let s := s.sealWrite a (s.attestReport (s.host.read (a + 112) 48) k)
      if s.vault.attPub then s.sealWrite (a + 256) attestPublic else s

/-- GO of ATT_CTL: ignored where the state does not allow it, but for RESULT (log entry 47), and while BUSY; refused at once; or BUSY, with the
read of DATA, the two lines that hold bytes 112 to 159. -/
def State.attGo (s : State) (pub : Bool) : State :=
  let v := s.vault
  if !v.keyed then { s.deny with vault := { s.deny.vault with attResult := 1#4 } }
  else if v.attBusy then { s with vault := { v with attPub := pub } }
  else if v.attRefusal ≠ 0 then { s with vault := { v with attPub := pub, attResult := BitVec.ofNat 4 v.attRefusal } }
  else
    { s with vault := { v with attPub := pub, attBusy := true, attSent := false, attFault := false } }.sealRead
      (v.attAddr.toNat / 64 * 64 + 64) 128 .reportData fun s => s.reportFault

/-- ATT_CTL returns to IDLE once every access of the report is answered: RESULT 4 when one failed, or the command says so, else 0. -/
def State.attDone (s : State) (memError : Bool) : State :=
  if s.vault.attBusy = false ∨ s.reporting = true then s
  else if s.vault.attFault || memError then s.attIdle 4#4
  else if s.vault.attSent then s.attIdle 0#4
  else s

/-! ### Commands -/

/-- ATTEST_REPORT_DONE, with a memory error that no response of the port has reported (log entry 151). -/
def execAttestReportDone (memError : Bool) (s : State) : Result := .next (s.attDone memError)

/-- ENTROPY_HEALTH_FAIL (R327): the flag stops the DRBG and refuses every keyed service until a reset whose tests pass. -/
def execEntropyHealthFail (s : State) : Result :=
  .next (if s.cfg.hasSeal then { s with vault := { s.vault with entropyFail := true } } else s)

end Sys2Proof.Machine
end

