-- ==== Sys2Proof/Machine/Operands.lean ====
section
/-! DEFINITION. Operands: the four spaces of Table 05-3, elements and their packing (R33 to R38, R139, R140), rows of converted output
(R35, R40, R110), poison (R290, R347), and the reads and writes that a unit of work makes. -/

namespace Sys2Proof.Machine

/-! ### Spaces -/

/-- Bytes of one accumulator tile (R70). -/
def tileBytes : Nat := 65536

/-- The bytes of a space: 0 the hearth's store, 1 the Mantel, 2 the hearth's accumulator memory, 3 host memory. -/
def State.space (s : State) (space h : Nat) : Memory :=
  match space with
  | 0 => (s.hearth h).store
  | 1 => s.mantel
  | 2 => (s.hearth h).acc
  | _ => s.host

def State.poison (s : State) (space h : Nat) : List Nat :=
  match space with
  | 0 => (s.hearth h).storePoison
  | 1 => s.mantelPoison
  | 2 => (s.hearth h).accPoison
  | _ => s.hostPoison

/-- Bytes that one poison mark covers: a 64-bit word of SRAM, a 64-byte line elsewhere. -/
def markUnit (space : Nat) : Nat := if space = 0 ∨ space = 2 then 8 else 64

def State.peek (s : State) (space h a n : Nat) : List W8 := (s.space space h).read a n

/-- `w` bits at a bit address. -/
def State.peekBits (s : State) (space h bit w : Nat) : Nat :=
  (leNat (s.peek space h (bit / 8) ((bit % 8 + w + 7) / 8)) >>> (bit % 8)) % 2 ^ w

def State.tainted (s : State) (r : Range) : Bool := marked (markUnit r.space) (s.poison r.space r.hearth) r.lo r.len

/-- The unit number that stands for the Transom where a hearth's number stands. -/
def transomUnit : Nat := 64

/-- The port on which a hearth, or the Transom, sends a request for host address `a` (R293). -/
def State.portOf (s : State) (h a : Nat) : Nat := if h = transomUnit then s.transomPort a else hearthPort h a

/-- The source of E_MEM and E_POISON (R259): a memory port, a Mantel bank, or a hearth's SRAM. -/
def State.sourceDetail (s : State) (space h a : Nat) : Nat :=
  match space with
  | 1 => 0x100 + a / 2 ^ 28
  | 3 => s.portOf h a
  | _ => 0x300 + h

/-- An error record of a source (Table 17-3): unit types 0, 1 and 3 are the source codes of the DETAIL. -/
def State.logSource (s : State) (cause : Nat) (n : Nat) (pos : W32) (status : Nat) (space h a : Nat) : State :=
  let d := s.sourceDetail space h a
  let op := match s.entry n pos with
    | some e => descOpcode e.desc
    | none => 0
  s.logError (((ErrorEvent.plain 3 cause (d / 256) (d % 256) 0#64).of n pos op status).atAddr space a)

/-- The units that are stored uncorrectable. -/
def State.bad (s : State) (space h : Nat) : List Nat :=
  match space with
  | 0 => (s.hearth h).storeBad
  | 1 => s.mantelBad
  | 2 => (s.hearth h).accBad
  | _ => []

/-- The units that a read corrects. -/
def State.soft (s : State) (space h : Nat) : List Nat :=
  match space with
  | 0 => (s.hearth h).storeSoft
  | 1 => s.mantelSoft
  | 2 => (s.hearth h).accSoft
  | _ => []

/-- The units of a list that ranges of reads touch, each once, as ranges. -/
def unitsAmong (pick : Nat → Nat → List Nat) (rs : List Range) : List Range :=
  rs.foldl (fun acc r =>
    let unit := markUnit r.space
    if r.len = 0 then acc
    else ((pick r.space r.hearth).filter fun u => decide (r.lo / unit ≤ u) && decide (u ≤ (r.lo + r.len - 1) / unit)).foldl
      (fun acc u =>
        let q : Range := { space := r.space, hearth := if r.space = 1 then 0 else r.hearth, lo := unit * u, len := unit }
        if acc.contains q then acc else acc ++ [q]) acc) []

/-- The address of the first marked unit of a range. -/
def State.firstMark (s : State) (r : Range) : Nat :=
  let unit := markUnit r.space
  match (s.poison r.space r.hearth).find? fun u => decide (r.lo / unit ≤ u) && decide (u ≤ (r.lo + r.len - 1) / unit) with
  | some u => unit * u
  | none => r.lo

/-- What a read of a marked range meets: E_MEM at data stored uncorrectable (R289, Table 17-1), else E_POISON (R290, R347). -/
def State.markStatus (s : State) (r : Range) : Nat :=
  if marked (markUnit r.space) (s.bad r.space r.hearth) (s.firstMark r) 1 then stMem else stPoison

/-- A read meets a coded error at a unit: its bank's or its hearth's count rises, and an error record tells it (Table 17-4), with a free SYNDROME;
the INFO of a corrected one, the bit or symbol, is free too. -/
def State.countCoded (s : State) (n : Nat) (pos : W32) (double : Bool) (q : Range) : State :=
  let s := if q.space = 1 then s.modHearth (q.lo / 2 ^ 28) fun x =>
      { x with mantelCorrected := if double then x.mantelCorrected else satInc x.mantelCorrected,
               mantelUncorr := if double then satInc x.mantelUncorr else x.mantelUncorr }
    else s.modHearth q.hearth fun x =>
      { x with sramCe := if double then x.sramCe else satInc x.sramCe, sramUe := if double then satInc x.sramUe else x.sramUe }
  let (w, s) := s.draw64
  let (v, s) := s.draw64
  let cause := (if q.space = 1 then 0x04 else 0x01) + bitNat double
  let op := match s.entry n pos with
    | some e => descOpcode e.desc
    | none => 0
  let d := s.sourceDetail q.space q.hearth q.lo
  s.logError { (((ErrorEvent.plain (if double then 3 else 1) cause (d / 256) (d % 256) (if double then 0#64 else v)).of n pos op
    (if double then stMem else 0)).atAddr q.space q.lo) with syndrome := w.setWidth 32 }

/-- A unit of work reads ranges: every line and word that it meets stored uncorrectable, or that its code corrects, is counted and recorded
(R289, R346). A corrected line stays as stored. -/
def State.detect (s : State) (n : Nat) (pos : W32) (rs : List Range) : State :=
  let s' := (unitsAmong s.bad rs).foldl (fun s q => s.countCoded n pos true q) s
  ((unitsAmong s.soft rs).filter fun q => !(s.bad q.space q.hearth).contains (q.lo / markUnit q.space)).foldl
    (fun s q => s.countCoded n pos false q) s'

/-- POISON_CONSUMED, where the first marked unit of a range was stored with its mark (Table 17-4). -/
def State.logPoison (s : State) (n : Nat) (pos : W32) (r : Range) : State :=
  if s.markStatus r = stPoison then s.logSource 0x09 n pos stPoison r.space r.hearth (s.firstMark r) else s

/-- The error records of marked data that a unit of work meets: MANTEL_UE or SRAM_UE at its detection, POISON_CONSUMED later. -/
def State.logMark (s : State) (n : Nat) (pos : W32) (r : Range) : State := (s.detect n pos [r]).logPoison n pos r

/-- DETAIL of the status that marked data gives a descriptor. -/
def State.markDetail (s : State) (r : Range) : Nat := s.sourceDetail r.space r.hearth (s.firstMark r)

/-- A unit of work has consumed marked data: E_MEM where the error is first detected, E_POISON later (R347). -/
def State.consumed (s : State) (n : Nat) (pos : W32) (r : Range) : State :=
  (s.logPoison n pos r).fail n pos (s.markStatus r) (s.markDetail r)

/-- A unit of work makes its reads: errors are detected, and the first marked range ends the descriptor. The answer tells whether a range was
marked. -/
def State.meet (s : State) (n : Nat) (pos : W32) (rs : List Range) : State × Bool :=
  match rs.find? fun r => s.tainted r with
  | some r => ((s.detect n pos rs).consumed n pos r, true)
  | none => (s.detect n pos rs, false)

/-- A unit of work consumes marked data of one range. -/
def State.consumePoison (s : State) (n : Nat) (pos : W32) (r : Range) : State := (s.detect n pos [r]).consumed n pos r

/-- Bytes of one bank. -/
def bankBytes : Nat := 2 ^ 28

/-- Whether the bank that a Mantel address names is being wiped: accesses to it stall (R354). -/
def State.bankWiping (s : State) (a : Nat) : Bool := s.maint.running.contains (6, a / bankBytes)

/-- Whether a range of bytes touches a bank that is being wiped. -/
def State.stalls (s : State) (r : Range) : Bool :=
  decide (r.space = 1) && decide (r.len ≠ 0) &&
    (List.range ((r.lo + r.len - 1) / bankBytes - r.lo / bankBytes + 1)).any fun i => s.bankWiping (bankBytes * (r.lo / bankBytes + i))

/-! ### Writes -/

/-- The first marked unit that a write covers only in part. -/
def partialMark (unit : Nat) (m : List Nat) (a n : Nat) : Option Nat :=
  (unitsOf unit a n).find? fun u => m.contains u && !(decide (a ≤ unit * u) && decide (unit * u + unit ≤ a + n))

/-- The uncorrectable units after a write: one that it touches is replaced, or becomes a marked unit (R290). -/
def writeBad (unit : Nat) (m : List Nat) (a n : Nat) : List Nat :=
  if n = 0 then m else m.filter fun u => !(decide (a / unit ≤ u) && decide (u ≤ (a + n - 1) / unit))

/-- Bytes written into a space other than host memory, with their mark. -/
def State.poke (s : State) (space h a : Nat) (bytes : List W8) (poisoned : Bool) : State :=
  let n := bytes.length
  match space with
  | 0 => s.modHearth h fun x => { x with
      store := x.store.store a bytes, storePoison := writeMarks 8 x.storePoison a n poisoned, storeBad := writeBad 8 x.storeBad a n,
      storeSoft := writeBad 8 x.storeSoft a n }
  | 1 => { s with
      mantel := s.mantel.store a bytes, mantelPoison := writeMarks 64 s.mantelPoison a n poisoned, mantelBad := writeBad 64 s.mantelBad a n,
      mantelSoft := writeBad 64 s.mantelSoft a n }
  | 2 => s.modHearth h fun x => { x with
      acc := x.acc.store a bytes, accPoison := writeMarks 8 x.accPoison a n poisoned, accBad := writeBad 8 x.accBad a n,
      accSoft := writeBad 8 x.accSoft a n }
  | _ => s.storeHost a bytes poisoned

/-- A request of a position reaches its port; an address at or above 2^52 is refused there and ends the descriptor with E_MEM (R294).
INFO of the error record is free for a refusal, which has no response code (log entry 16). -/
def State.send (s : State) (p : Nat) (r : Request) : State :=
  if 2 ^ 52 ≤ r.addr then
    let (w, s) := s.draw64
    let op := match s.entry r.ring r.pos with
      | some e => descOpcode e.desc
      | none => 0
    let s := s.logError (((ErrorEvent.plain 3 0x08 0 p w).of r.ring r.pos op stMem).atAddr 3 r.addr)
    s.fail r.ring r.pos stMem p
  else s.request p r

/-- Whether a position's transfers enter its ring's seal session: those of a contributor, spills and the reading back of their records apart
(R279). -/
def State.sealing (s : State) (n : Nat) (pos : W32) : Bool :=
  match s.entry n pos with
  | some e => e.sealed && descOpcode e.desc != 0x03
  | none => false

/-- The write requests of a unit for bytes of host memory: one for each granule. -/
def State.sendWrite (s : State) (n : Nat) (pos : W32) (h a : Nat) (bytes : List W8) (poisoned : Bool) : State :=
  (granules a bytes.length).foldl (fun s g =>
    let s := if s.sealing n pos then s.sealWritten n 3 g.1 ((bytes.drop (g.1 - a)).take g.2) else s
    s.send (s.portOf h g.1)
      { Request.mk' true g.1 g.2 ((bytes.drop (g.1 - a)).take g.2) (s.classOf n) n pos .output with poison := poisonBits g.1 g.2 poisoned }) s

/-- The range is an output of the position. -/
def State.noteOutput (s : State) (n : Nat) (pos : W32) (r : Range) : State :=
  if r.len = 0 then s else s.modEntry n pos fun e => { e with outs := if e.outs.contains r then e.outs else e.outs ++ [r] }

/-- One output of a hearth, or of the Transom: bytes at an address of a space. A partial write into a marked unit keeps the mark and ends
the descriptor with E_POISON, or with E_MEM where the unit was uncorrectable (R290, R347). -/
def State.put (s : State) (n : Nat) (pos : W32) (space h a : Nat) (bytes : List W8) (poisoned : Bool) : State :=
  if bytes = [] then s
  else
    let r : Range := { space := space, hearth := if space = 0 ∨ space = 2 then h else 0, lo := a, len := bytes.length }
    let s := s.noteOutput n pos r
    if space = 3 then s.sendWrite n pos h a bytes poisoned
    else
      let unit := markUnit space
      let s := match partialMark unit (s.poison space h) a bytes.length with
        | some u => s.consumePoison n pos { r with hearth := h, lo := unit * u, len := unit }
        | none => s
      let s := s.poke space h a bytes poisoned
      if space = 1 && s.sealing n pos then s.sealWritten n 1 a bytes else s

/-- Several outputs of a hearth of which `bad` tells, by first byte and length, the lines that depend on marked data (R347). -/
def State.putLines (s : State) (n : Nat) (pos : W32) (space h : Nat) (ws : List (Nat × List W8)) (bad : Nat → Nat → Bool) : State :=
  (ws.flatMap cutLines).foldl (fun s w => s.put n pos space h w.1 w.2 (bad w.1 w.2.length)) s

/-- Several outputs of a hearth, in order. -/
def State.putAll (s : State) (n : Nat) (pos : W32) (space h : Nat) (ws : List (Nat × List W8)) (poisoned : Bool) : State :=
  ws.foldl (fun s w => s.put n pos space h w.1 w.2 poisoned) s

/-! ### Reads that a unit of work needs (log entry 17) -/

/-- The 64-byte-aligned pieces of the host ranges among the reads, each within a granule: (stove or 8, address, length). The hearth of a
host range is the one that reads it. A piece is read once for a stove (R300). -/
def hostPieces (rs : List Range) : List (Nat × Nat × Nat) :=
  rs.foldl (fun acc r =>
    if r.space = 3 then
      (granules (r.lo / 64 * 64) ((r.lo + r.len + 63) / 64 * 64 - r.lo / 64 * 64)).foldl
        (fun acc g => if acc.contains (r.hearth / 8, g) then acc else acc ++ [(r.hearth / 8, g)]) acc
    else acc) []

/-- The lines of the Mantel that ranges touch, each once. -/
def mantelLines (rs : List Range) : List Nat :=
  rs.foldl (fun acc r => if r.space = 1 then (unitsOf 64 r.lo r.len).foldl (fun acc u => Marks.insert u acc) acc else acc) []

/-- The lines of the Mantel that a unit of work of a contributor reads enter its session, each once (R279). -/
def State.sealReads (s : State) (n : Nat) (pos : W32) (role : Option Nat) (rs : List Range) : State :=
  if s.sealing n pos then (mantelLines rs).foldl (fun s u => s.sealRange n role 1 (64 * u) 64) s else s

/-- Whether a request of a position for operands is not yet answered. -/
def State.reading (s : State) (n : Nat) (pos : W32) : Bool :=
  s.ports.any fun p => (p.2.inflight ++ p.2.waiting).any fun q => q.ring == n && q.pos == pos && decide (q.purpose = .operand)

/-- Requests the pieces of host memory that have not been requested yet. -/
def State.readHost (s : State) (n : Nat) (pos : W32) (pieces : List (Nat × Nat × Nat)) : State :=
  pieces.foldl (fun s g =>
    s.send (s.portOf (8 * g.1) g.2.1) (Request.mk' false g.2.1 g.2.2 [] (s.classOf n) n pos .operand)) s

/-- What a unit of work finds about its reads. -/
inductive Readiness where
  /-- host data has been requested: `done` lists every piece requested so far -/
  | fetch (s : State) (done : List (Nat × Nat × Nat))
  /-- a response is outstanding -/
  | wait
  /-- all is there; the first marked range, if any -/
  | go (taint : Option Range)

/-- Whether the reads of a unit of work can be made now. -/
def State.readiness (s : State) (n : Nat) (pos : W32) (done : List (Nat × Nat × Nat)) (rs : List Range) : Readiness :=
  let missing := (hostPieces rs).filter fun g => !done.contains g
  if missing ≠ [] then .fetch (s.readHost n pos missing) (done ++ missing)
  else if s.reading n pos || rs.any (fun r => s.stalls r) then .wait
  else .go (rs.find? fun r => s.tainted r)

/-- A position whose status already ends it does no more work. -/
def State.ended (s : State) (n : Nat) (pos : W32) : Bool :=
  match s.entry n pos with
  | some e => e.status != 0#8
  | none => true

/-- A piece of work of a descriptor. It requests its host operands once, waits for them and for a bank under wipe, and then runs `act`,
told whether an input is marked. `own` are the reads that enter a seal session. An error that has ended the descriptor ends the work. -/
def State.piece (s : State) (n : Nat) (pos : W32) (role : Option Nat) (own rs outs : List Range)
    (act : State → Bool → State) : State :=
  if s.ended n pos then (if s.reading n pos then s else s.finish n pos)
  else if outs.any (fun r => s.stalls r) then s
  else
    let done := match s.entry n pos with
      | some e => e.reads
      | none => []
    match s.readiness n pos done rs with
    | .fetch s' d => s'.modEntry n pos fun e => { e with started := true, reads := d }
    | .wait => s
    | .go taint =>
      let s := (s.sealReads n pos role own).detect n pos rs
      let s := match taint with
        | some r => s.consumed n pos r
        | none => s
      act s taint.isSome

/-- A piece of work whose reads all enter the session. -/
def State.whole (s : State) (n : Nat) (pos : W32) (role : Option Nat) (rs outs : List Range) (act : State → Bool → State) : State :=
  s.piece n pos role rs rs outs act

/-! ### Elements (R33, R34, R139, R140) -/

/-- Where a row of elements stands: the address of element 0 and, for MX, of its first scale. -/
structure Row where
  space : Nat
  hearth : Nat
  base : Nat
  scales : Nat
  deriving DecidableEq, Repr

/-- Bits of one stored element. -/
def cvtBits (cvt : Nat) (raw : Bool) : Nat := if raw then 32 else fmtBits (cvtFmt cvt)

/-- Bytes of a block of an MX specifier: BB of R98. -/
def blockBytes (cvt : Nat) : Nat := cvtBlock cvt * fmtBits (cvtFmt cvt) / 8

/-- The bytes that an element occupies, and its scale. -/
def elementReads (cvt : Nat) (raw : Bool) (r : Row) (col : Nat) : List Range :=
  let w := cvtBits cvt raw
  let lo := w * col / 8
  let own : Range := { space := r.space, hearth := r.hearth, lo := r.base + lo, len := (w * col + w + 7) / 8 - lo }
  if cvtMx cvt && !raw then [own, { space := r.space, hearth := r.hearth, lo := r.scales + col / cvtBlock cvt, len := 1 }] else [own]

/-- The bytes that `n` elements from a column occupy, and their scales. -/
def rowReads (cvt : Nat) (raw : Bool) (r : Row) (col n : Nat) : List Range :=
  if n = 0 then []
  else
    let w := cvtBits cvt raw
    let lo := w * col / 8
    let own : Range := { space := r.space, hearth := r.hearth, lo := r.base + lo, len := (w * (col + n) + 7) / 8 - lo }
    if cvtMx cvt && !raw then
      let b := cvtBlock cvt
      [own, { space := r.space, hearth := r.hearth, lo := r.scales + col / b, len := (col + n - 1) / b - col / b + 1 }]
    else [own]

/-- The code of an element. -/
def State.code (s : State) (cvt : Nat) (raw : Bool) (r : Row) (col : Nat) : Nat :=
  let w := cvtBits cvt raw
  s.peekBits r.space r.hearth (8 * r.base + w * col) w

/-- The exact value of an element. -/
def State.elementValue (s : State) (cvt : Nat) (r : Row) (col : Nat) : FVal :=
  let c := s.code cvt false r col
  if cvtMx cvt then decodeMx (cvtFmt cvt) (leNat (s.peek r.space r.hearth (r.scales + col / cvtBlock cvt) 1)) c
  else decodeBare (cvtFmt cvt) c

/-- An element decoded to FP32 (R140, R38), with the flags of its load: FP32 and RAW bit for bit. -/
def State.element (s : State) (cvt : Nat) (raw : Bool) (r : Row) (col : Nat) : W32 × Nat :=
  if raw || (cvtFmt cvt == 0 && !cvtMx cvt) then (BitVec.ofNat 32 (s.code cvt raw r col), 0)
  else
    let v := s.elementValue cvt r col
    let (w, fl) := toF32 v
    (w, fl ||| flagIf v.isSnan fInv)

/-! ### Rows of output (R35, R110, R140) -/

/-- Adjacent pieces joined. -/
def joinPieces : List (Nat × List W8) → List (Nat × List W8)
  | [] => []
  | (a, bs) :: rest =>
    match joinPieces rest with
    | (b, cs) :: more => if a + bs.length = b then (a, bs ++ cs) :: more else (a, bs) :: (b, cs) :: more
    | [] => [(a, bs)]

/-- How many elements of `bits` bits make whole bytes: a byte of two, or a group of four (R33). -/
def packGroup (bits : Nat) : Nat := if bits = 4 then 2 else if bits = 6 then 4 else 1

/-- The codes of a group as bytes. -/
def packCodes (bits : Nat) (codes : List Nat) : List W8 :=
  leBytes (packGroup bits * bits / 8)
    ((List.range codes.length).foldl (fun acc k => acc + nth 0 codes k * 2 ^ (bits * k)) 0)

/-- Elements of a row to write: `vals` from column `col`, none where the element keeps its value; `len` is the row's length and `mode`
the rounding at a column. -/
structure RowWrite where
  col : Nat
  vals : List (Option W32)
  len : Nat
  mode : Nat → Rounding

/-- The value to write at a column. -/
def RowWrite.at (w : RowWrite) (c : Nat) : Option W32 := if w.col ≤ c then nth none w.vals (c - w.col) else none

/-- One group of bare elements: its bytes, when an element of it is written. -/
def State.bareGroup (s : State) (cvt : Nat) (raw : Bool) (r : Row) (w : RowWrite) (g : Nat) : List (Nat × List W8) × Nat :=
  let bits := cvtBits cvt raw
  let k := packGroup bits
  let cols := (List.range k).map fun i => k * g + i
  if cols.any fun c => (w.at c).isSome then
    let parts := cols.map fun c =>
      match w.at c with
      | some v => if raw then (v.toNat, 0) else convertBare (cvtFmt cvt) (w.mode c) (cvtSat cvt) (f32 v)
      | none => if c < w.len then (s.code cvt raw r c, 0) else (0, 0)
    ([(r.base + k * bits / 8 * g, packCodes bits (parts.map Prod.fst))], orFlags (parts.map Prod.snd))
  else ([], 0)

/-- One MX block: a block in which some elements keep their values is encoded anew from those values (R140); elements beyond the row are
+0 codes (R35). -/
def State.mxBlock (s : State) (cvt : Nat) (r : Row) (w : RowWrite) (b : Nat) : List (Nat × List W8) × Nat :=
  let size := cvtBlock cvt
  let cols := (List.range (min size (w.len - size * b))).map fun i => size * b + i
  if cols.any fun c => (w.at c).isSome then
    let xs := cols.map fun c =>
      match w.at c with
      | some v => f32 v
      | none => s.elementValue cvt r c
    let (sc, codes, fl) := convertMx (cvtFmt cvt) (cols.map w.mode) xs
    let bits := fmtBits (cvtFmt cvt)
    let all := codes ++ List.replicate (size - codes.length) 0
    let bytes := leBytes (size * bits / 8) ((List.range size).foldl (fun acc k => acc + nth 0 all k * 2 ^ (bits * k)) 0)
    ([(r.base + blockBytes cvt * b, bytes), (r.scales + b, [BitVec.ofNat 8 sc])], fl)
  else ([], 0)

/-- The bytes that a row's elements write, and the flags of their conversions. -/
def State.encodeRow (s : State) (cvt : Nat) (raw : Bool) (r : Row) (w : RowWrite) : List (Nat × List W8) × Nat :=
  let n := w.vals.length
  if n = 0 then ([], 0)
  else if cvtMx cvt && !raw then
    let size := cvtBlock cvt
    let parts := (List.range ((w.col + n - 1) / size - w.col / size + 1)).map fun i => s.mxBlock cvt r w (w.col / size + i)
    (joinPieces (parts.flatMap fun p => p.1.take 1) ++ joinPieces (parts.flatMap fun p => p.1.drop 1),
      orFlags (parts.map Prod.snd))
  else
    let k := packGroup (cvtBits cvt raw)
    let parts := (List.range ((w.col + n - 1) / k - w.col / k + 1)).map fun i => s.bareGroup cvt raw r w (w.col / k + i)
    (joinPieces (parts.flatMap Prod.fst), orFlags (parts.map Prod.snd))

/-- What the elements that keep their values are read from: the reads of a row's partial blocks. -/
def keptReads (cvt : Nat) (raw : Bool) (r : Row) (w : RowWrite) : List Range :=
  if cvtMx cvt && !raw then
    let size := cvtBlock cvt
    let n := w.vals.length
    ((List.range ((w.col + n - 1) / size - w.col / size + 1)).map fun i => w.col / size + i).flatMap fun b =>
      let cols := (List.range (min size (w.len - size * b))).map fun i => size * b + i
      if (cols.any fun c => (w.at c).isSome) && cols.any fun c => (w.at c).isNone then rowReads cvt raw r (size * b) cols.length else []
  else
    let k := packGroup (cvtBits cvt raw)
    if k = 1 then []
    else
      let n := w.vals.length
      ((List.range ((w.col + n - 1) / k - w.col / k + 1)).map fun i => w.col / k + i).flatMap fun g =>
        let cols := ((List.range k).map fun i => k * g + i).filter fun c => decide (c < w.len)
        if (cols.any fun c => (w.at c).isSome) && cols.any fun c => (w.at c).isNone then rowReads cvt raw r (k * g) cols.length else []

/-- The columns of a row of `len` elements that the bytes from `lo` depend on: (first, count). Bytes outside the row's elements are scales;
an element of an MX block depends on its whole block. -/
def Row.columns (r : Row) (cvt : Nat) (raw : Bool) (bytes lo n : Nat) : Nat × Nat :=
  let size := cvtBlock cvt
  let mx := cvtMx cvt && !raw
  if r.base ≤ lo ∧ lo < r.base + bytes then
    let a := (lo - r.base) * 8 / cvtBits cvt raw
    let z := ((lo - r.base + n) * 8 - 1) / cvtBits cvt raw
    if mx then (a / size * size, (z / size + 1) * size - a / size * size) else (a, z + 1 - a)
  else (size * (lo - r.scales), size * n)

/-! ### Failure (R258) -/

/-- An output that a failed descriptor wrote becomes undefined; its marks stay. -/
def State.spoil (s : State) (r : Range) : State :=
  let (bs, s) := s.drawBytes r.len
  match r.space with
  | 0 => s.modHearth r.hearth fun x => { x with store := x.store.store r.lo bs }
  | 1 => { s with mantel := s.mantel.store r.lo bs }
  | 2 => s.modHearth r.hearth fun x => { x with acc := x.acc.store r.lo bs }
  | _ => { s with host := s.host.store r.lo bs }

end Sys2Proof.Machine
end

