-- ==== Sys2Proof/Machine/Power.lean ====
section
/-! DEFINITION. Power states, wake, hearth states, operating points and the current cap (chapter 15), and the power switches (R376). -/

namespace Sys2Proof.Machine

/-! ### Operating points and the cap (Table 15-6, R317 to R321) -/

/-- VREQ_CODE of a PSTATE. -/
def pstateCode (p : Nat) : BitVec 8 := nth 0x30#8 [0x80#8, 0x64#8, 0x50#8, 0x40#8, 0x30#8] p

/-- The admission current of one hearth, in amperes; the stove base A_s is 20. -/
def pstateAmps (p : Nat) : Nat := nth 6 [29, 23, 18, 13, 6] p

/-- n_s of R320. -/
def Stove.admits (v : Stove) : Nat :=
  if v.cap = 0#10 then 8 else min 8 (max 1 ((v.cap.toNat - 20) / pstateAmps v.current.toNat))

/-- The admitted hearths of a mask: of each stove the lowest-numbered min(n_s, m_s) (R320). -/
def State.admitted (s : State) (mask : W64) : W64 :=
  let pick (v : Nat) : List Nat :=
    ((List.range 8).map fun i => 8 * v + i).filter (fun h => mask.getLsbD h) |>.take (s.stove v).admits
  BitVec.ofNat 64 (maskOf ((List.range s.cfg.stoves).flatMap pick))

/-- A sequence toward a PSTATE starts (R317): lowering switches the frequency first; raising requests the higher code and waits for VOK. -/
def Stove.start (v : Stove) (goal : BitVec 3) : Stove :=
  if goal = v.current then { v with sequence := .idle }
  else if v.current.toNat < goal.toNat then { v with sequence := .awaitSwitch goal true }
  else
    { v with
      sequence := .awaitVok goal v.code, vok := false,
      code := if v.code.toNat < (pstateCode goal.toNat).toNat then pstateCode goal.toNat else v.code }

/-- A sequence ends; the last TARGET written in it takes effect. -/
def Stove.ended (v : Stove) : Stove :=
  match v.nextTarget with
  | some t => { v with sequence := .idle, nextTarget := none }.start t
  | none => { v with sequence := .idle }

/-- A write of PSTATE_s.TARGET: 5 to 7 are ignored; during a sequence, and outside Run, it waits. -/
def State.writeTarget (s : State) (v : Nat) (t : BitVec 3) : State :=
  let x := s.stove v
  if 4 < t.toNat then s
  else if x.sequence = .idle ∧ s.pwr.block = .run then s.setStove v ({ x with target := t }.start t)
  else s.setStove v { x with target := t, nextTarget := some t }

/-- A direct write of VREQ_CODE_s (R318). -/
def State.writeCode (s : State) (v : Nat) (c : W8) : State :=
  let x := s.stove v
  if x.sequence = .idle ∧ (pstateCode x.current.toNat).toNat ≤ c.toNat ∧ c.toNat ≤ 0x80 then s.setStove v { x with code := c }
  else s.setStove v { x with refused := satInc x.refused }

/-- Whether the configuration has a stove. -/
def State.hasStove (s : State) (v : BitVec 3) : Bool := decide (v.toNat < s.cfg.stoves)

/-- Whether the configuration has a hearth. -/
def State.hasHearth (s : State) (h : BitVec 6) : Bool := decide (h.toNat < s.cfg.hearths)

/-! ### Power switches and rails (R364, R376, Table 18-3) -/

/-- Domain numbers of PSW_REQ (Table 18-13): 0 core, 1 + s stoves, 9 + h hearths. -/
def hearthDomain (h : Nat) : Nat := 9 + h
def stoveDomain (v : Nat) : Nat := 1 + v

def setBit {w : Nat} (x : BitVec w) (i : Nat) (b : Bool) : BitVec w :=
  if b then x ||| BitVec.ofNat w (2 ^ i) else x &&& ~~~(BitVec.ofNat w (2 ^ i))

def State.requestPower (s : State) (d : Nat) (on : Bool) : State :=
  { s with pwr := { s.pwr with pswReq := setBit s.pwr.pswReq d on } }

/-- Whether a domain has been asked for power and has it. -/
def State.domainUp (s : State) (d : Nat) : Bool := s.pwr.pswReq.getLsbD d && s.pwr.pswAck.getLsbD d

/-- Whether the core and every stove have power. -/
def State.coreUp (s : State) : Bool := (List.range (1 + s.cfg.stoves)).all fun d => s.domainUp d

/-- Whether every domain has power. -/
def State.allUp (s : State) : Bool := s.coreUp && s.allHearths.all fun h => s.domainUp (hearthDomain h)

/-- The rails of every stove are asked for anew: RAIL_ON_s is high, and PSW_REQ waits for VOK_s (R364). -/
def State.railsOn (s : State) : State :=
  { s with pwr := { s.pwr with
      stoves := Tab.build Stove.reset s.cfg.stoves fun v => { s.stove v with railOn := true, vok := false } } }

/-- RAIL_ON_s of every stove is low. -/
def State.railsOff (s : State) : State :=
  { s with pwr := { s.pwr with
      stoves := Tab.build Stove.reset s.cfg.stoves fun v => { s.stove v with railOn := false, vok := false } } }

/-- In a reset, PSW_REQ of a stove's hearths is raised once the stove has power (Table 18-3). -/
def State.raiseHearths (s : State) (v : Nat) : State :=
  if s.vault.resetting && s.domainUp (stoveDomain v) then
    ((List.range 8).map fun i => 8 * v + i).foldl (fun s h => if h < s.cfg.hearths then s.requestPower (hearthDomain h) true else s) s
  else s

/-- VOK_ASSERT: VOK is sampled high. A raise goes on to its frequency switch, and a stove whose rails were asked for raises its PSW_REQ, the
core with stove 0, whose clock it runs on (R317, R364; log entry 147). -/
def execVokAssert (stove : BitVec 3) (s : State) : Result :=
  if s.hasStove stove then
    let v := stove.toNat
    let x := s.stove v
    let s := s.setStove v { x with
      vok := true,
      sequence := match x.sequence with
        | .awaitVok g _ => .awaitSwitch g false
        | q => q }
    if x.railOn then
      let s := if v = 0 then s.requestPower 0 true else s
      .next ((s.requestPower (stoveDomain v) true).raiseHearths v)
    else .next s
  else .fault .absentUnit

/-- PSTATE_FREQ_SWITCH: at a COUNT multiple of 64 the divider switches; after a lowering the code follows. -/
def execPstateFreqSwitch (stove : BitVec 3) (s : State) : Result :=
  if s.hasStove stove then
    let x := s.stove stove.toNat
    match x.sequence with
    | .awaitSwitch g lower =>
      if s.audit.count.toNat % 64 = 0 then
        .next (s.setStove stove.toNat
          { x with current := g, code := if lower then pstateCode g.toNat else x.code }.ended)
      else .next s
    | _ => .next s
  else .fault .absentUnit

/-- VOK_TIMEOUT (R319): the sequence is abandoned, FAIL set and counted, and an error record written. -/
def execVokTimeout (stove : BitVec 3) (s : State) : Result :=
  if s.hasStove stove then
    let x := s.stove stove.toNat
    match x.sequence with
    | .awaitVok _ old =>
      .next ((s.setStove stove.toNat { x with code := old, fail := true, failCount := satInc x.failCount }.ended).logError
        (ErrorEvent.plain 2 0x10 7 stove.toNat (x.code.setWidth 64)))
    | _ => .next s
  else .fault .absentUnit

/-- Whether the stoves' controllers run: clocked, and no fatal event has stopped them (R305, R350). -/
def State.upkeep (s : State) : Bool := s.clocked && !s.err.stopped

/-- DAMPER_THROTTLE (R321): a window ends; above a nonzero CAP the next window of work that is not Flue is withheld. -/
def execDamperThrottle (stove : BitVec 3) (estimate : W16) (s : State) : Result :=
  if s.hasStove stove then
    let x := s.stove stove.toNat
    if !s.upkeep then .next s
    else if x.cap ≠ 0#10 ∧ x.cap.toNat < estimate.toNat then
      .next (s.setStove stove.toNat { x with withheld := true, throttleCount := satInc x.throttleCount })
    else .next (s.setStove stove.toNat { x with withheld := false })
  else .fault .absentUnit

/-- Whether the Damper withholds a hearth's work of a class now. -/
def State.withheld (s : State) (h : Nat) (cls : BitVec 2) : Bool := decide (cls ≠ 0#2) && (s.stove (h / 8)).withheld

/-! ### Hearth states (R308, R309, R311) -/

/-- The condition of the Mantel tier (Table 15-1). -/
inductive TierCondition where
  | refreshing
  | selfRefresh
  | off
  deriving DecidableEq, Repr

/-- The tier's condition: refreshing in Run, in self-refresh from the end of an entry to the end of a wake, off in Off and where it is absent. -/
def State.mantelTier (s : State) : TierCondition :=
  if s.cfg.hasMantel then
    match s.pwr.block with
    | .run => .refreshing
    | .entering => .refreshing
    | .doze => .selfRefresh
    | .hibernate => .selfRefresh
    | .waking => .selfRefresh
    | .off => .off
  else .off

/-- The contents of a hearth at what a wipe leaves (R337, Table 16-7), its tables cleared under R188. -/
def Hearth.wiped (x : Hearth) : Hearth :=
  { x with
    store := [], storePoison := [], storeBad := [], storeSoft := [], acc := [], accPoison := [], accBad := [], accSoft := [], tiles := [],
    groups := [], live := [], liveFill := 0#32, liveJob := none, liveBad := false, shadow := [], shadowFill := 0#32, shadowUse := .free,
    shadowBad := false, jobs := [], spillDue := false, yielding := false, flueDue := false, panels := [], stats := [], topk := [], topkK := [],
    slotPoison := [], slotBad := [], slotSoft := [], shapes := [],
    slots := [], active := false, sources := [], loading := false, loadBank := false, chains := [], sfuQueue := [],
    sfuLast := 0 }

/-- A hearth enters SHUT: unpowered, its contents and its wrapper's lost. -/
def State.shutHearth (s : State) (h : Nat) : State :=
  let s := (s.modHearth h fun x => { x.wiped with power := .shut, fromShut := false }).requestPower (hearthDomain h) false
  { s with jtag := { s.jtag with wrappers := Tab.put Wrapper.reset s.jtag.wrappers h Wrapper.reset } }

/-- A hearth starts its wake: from GATED at once; from RETAIN or SHUT it is WAKING (R309). -/
def State.wakeHearth (s : State) (h : Nat) : State :=
  let x := s.hearth h
  match x.power with
  | .gated => s.setHearth h { x with power := .active }
  | .retain => s.setHearth h { x with power := .waking, fromShut := false }
  | .shut =>
    let on := s.pwr.pswAck.getLsbD (hearthDomain h)
    (s.setHearth h { x with power := if on then .wiping else .waking, fromShut := true }).requestPower (hearthDomain h) true
  | _ => s

/-- HEARTH_SET ONLINE positions whose hearths are all ACTIVE complete (R324). -/
def State.settleOnline (s : State) : State :=
  (s.ring 0).entries.foldl (fun s e =>
    if e.stage = .running ∧ e.started ∧ descOpcode e.desc = 0x52 ∧ fld e.desc.toNat 16 0 2 = 1 ∧
      ((s.hearthsOf (BitVec.ofNat 64 (fld e.desc.toNat 24 0 64))).all fun h => decide ((s.hearth h).power = .active)) then
      s.finish 0 e.pos
    else s) s

/-- The hearths of a mask that are not ACTIVE start their wakes; a GATED one is ACTIVE at once. -/
def State.wakeMask (s : State) (mask : W64) : State := ((s.hearthsOf mask).foldl (fun s h => s.wakeHearth h) s).settleOnline

/-- Whether issued work of a hearth has not ended. -/
def State.hearthWork (s : State) (h : Nat) : Bool :=
  s.rings.any fun p => p.2.entries.any fun e => decide (e.stage = .running) && e.mask.getLsbD h

/-- Whether a maintenance activity of a hearth's SRAM and logic runs on it (Table 17-7, resource set H). -/
def State.hearthMaint (s : State) (h : Nat) : Bool :=
  s.maint.running.any fun a => a.2 == h && (a.1 == 1 || a.1 == 4 || a.1 == 5)

/-- HEARTH_IDLE_ENTRY: GATED, and from GATED RETAIN when IDLE_STATE asks for it. -/
def execHearthIdleEntry (hearth : BitVec 6) (s : State) : Result :=
  if s.hasHearth hearth then
    let h := hearth.toNat
    let x := s.hearth h
    if !s.upkeep || s.hearthWork h || s.hearthMaint h then .next s
    else if x.power = .active ∧ (x.idleState = 1#2 ∨ x.idleState = 2#2) then .next (s.setHearth h { x with power := .gated })
    else if x.power = .gated ∧ x.idleState = 2#2 then .next (s.setHearth h { x with power := .retain })
    else .next s
  else .fault .absentUnit

/-- HEARTH_WAKE_DONE: a waking hearth is ACTIVE; from SHUT it has been powered and wiped first. -/
def execHearthWakeDone (hearth : BitVec 6) (s : State) : Result :=
  if s.hasHearth hearth then
    let h := hearth.toNat
    let x := s.hearth h
    if x.power = .waking ∧ x.fromShut = false then
      .next (s.setHearth h { x with power := .active, wakeCount := satInc x.wakeCount }).settleOnline
    else if x.power = .wiping then
      .next (s.setHearth h { x.wiped with
        power := .active, fromShut := false, wakeCount := satInc x.wakeCount, wipeCount := satInc x.wipeCount }).settleOnline
    else .next s
  else .fault .absentUnit

/-! ### Refusals (R312, Table 15-5) -/

/-- A refused entry: counted, named, and reported by an event and by the descriptor's record. -/
def State.refuse (s : State) (n : Nat) (pos : W32) (code detail opcode : Nat) : State :=
  let p := s.pwr
  let s := { s with pwr := { p with
    refuseCount := Tab.put 0#32 p.refuseCount code (satInc (Tab.at 0#32 p.refuseCount code)),
    refuserCode := BitVec.ofNat 8 code, refuserDetail := BitVec.ofNat 16 detail, refuserOpcode := BitVec.ofNat 8 opcode } }
  (s.event .pwrRefused code detail).finishWith n pos stRefused detail

/-- A row that this chip sent awaits its DONE (Table 15-5, code 2). -/
def Exchange.awaitsDone (x : Exchange) : Bool := !x.closed && x.rowsTo.any fun p => !x.doneFrom.contains p.1

/-- Whether a hearth holds an open group or a PARKED tile. -/
def Hearth.holdsWork (x : Hearth) : Bool :=
  (x.groups.any fun g => g.2.isOpen) || x.tiles.any fun t => decide (t.2.state = .parked)

/-- Whether a packet lies in a receive buffer or in the pending area: also one that replay or the recorder holds there (R277, R278). -/
def State.holdsPackets (s : State) : Bool :=
  !s.xch.pendingArea.isEmpty || !s.xch.received.isEmpty || (s.audit.replayWaiting ++ s.audit.withheldRows).any fun c => (packetOf c).isSome

/-- The lowest refuser of a WAIT (Table 15-5); 0 when every agent agrees. -/
def State.refuser (s : State) (pos : W32) : Nat :=
  if (s.rings.any fun p => decide (p.1 ≠ 0) && decide (p.2.tail ≠ p.2.head)) || decide ((s.ring 0).tail ≠ pos + 1#32) then 1
  else if s.holdsPackets || s.xch.exchanges.any fun x => x.awaitsDone then 2
  else if !s.maint.running.isEmpty then 3
  else if s.vault.pend ≠ 0#16 then 4
  else if s.jtag.attached then 5
  else if s.pwr.stoves.any fun v => decide (v.2.sequence ≠ .idle) then 6
  else if (s.pwr.mode = 2#2 ∨ s.pwr.dozeHearth) ∧ ((s.hearths.any fun p => p.2.holdsWork) = true) then 7
  else 0

/-- The commit of an entry: Ember takes the doorbells, and holds the mirror's copies as they stand (R310, R385). -/
def State.commitEntry (s : State) : State :=
  { s with pwr := { s.pwr with
      block := .entering, committed := true, dueWake := none, heldEvent := s.blk.blkEvent, heldPatch := regPatchState s.blk,
      heldOffline := BitVec.ofNat 64 (maskOf (s.allHearths.filter fun h => (s.hearth h).offline)),
      heldLc := BitVec.ofNat 64 (regSealLc s.vault) } }

/-- WAIT (R310): with MODE = 0 it completes at once; otherwise it waits for the earlier positions, then refuses, or commits and its record is
written. -/
def execWait (ring : BitVec 7) (pos : W32) (s : State) : Result :=
  let n := ring.toNat
  match s.running n pos 0x50 with
  | none => .next s
  | some e =>
    if s.pwr.mode = 0#2 then .next (s.finish n pos)
    else if s.behind n e then .next s
    else
      let c := s.refuser pos
      if c ≠ 0 then .next (s.refuse n pos c c 0x50)
      else .next ((s.commitEntry.finish n pos).completionRecord n pos)

/-! ### Entry and wake (R311, R313, R314) -/

/-- With WAKE_TARGET.HEARTHS = 1, a hearth that is not OFFLINE starts its wake with the block (R311). -/
def State.wakeWithBlock (s : State) (hs : List Nat) : State :=
  if s.pwr.wakeHearths then hs.foldl (fun s h => if h < s.cfg.hearths ∧ (s.hearth h).offline = false then s.wakeHearth h else s) s else s

/-- A wake source: the wake of the block starts and the source is recorded; while an entry is under way it is kept, the first one, and the wake
starts when the domains have stopped (R313, R314). From Hibernate the rails are asked for (R364); from Doze the stoves' clocks start, and with
them the hearths' wakes (R311; log entry 148). -/
def State.startWake (s : State) (code : BitVec 3) : State :=
  let p := s.pwr
  match p.block with
  | .doze => { s with pwr := { p with
      sleeping := .doze, block := .waking, lastWake := code, wakeCount := satInc p.wakeCount } }.wakeWithBlock s.allHearths
  | .hibernate => { s with pwr := { p with
      sleeping := .hibernate, block := .waking, lastWake := code, wakeCount := satInc p.wakeCount } }.railsOn
  | .entering => { s with pwr := { p with dueWake := some (p.dueWake.getD code) } }
  | _ => s

/-- What is left of a hearth in Hibernate: its bank's XAB areas, and the counts that Ember holds (R357). -/
def Hearth.unpowered (x : Hearth) : Hearth :=
  { Hearth.reset with
    xab := x.xab, power := .shut, bistResult := x.bistResult, bistUnit := x.bistUnit, bistRuns := x.bistRuns,
    bistFails := x.bistFails, sramCe := x.sramCe, sramUe := x.sramUe, scrubPasses := x.scrubPasses }

/-- What Hibernate loses of the Seal: its registers of class B (Table 19-14). The key island keeps its keys, and what R331 blocks stays
blocked. -/
def Seal.unpowered (v : Seal) : Seal :=
  { v with
    keysErased := false, selftestFail := false, entropyFail := false, result := 0#4, target := 0#3, denied := 0#16, authAddr := 0#64,
    policy := if v.lockFuse then v.policyFuse else 0x55555555#32, keyRef := 0#2, keyData := [], keyIndex := 0#3, keyResult := 0#4,
    attAddr := 0#64, attPub := false, attBusy := false, attResult := 0#4, attSent := false, attFault := false, deciding := false }

/-- What Hibernate loses: every register and memory outside Ember, the key island and the Mantel (Table 15-2, class B of Table 19-6).
Ember keeps the doorbells that it holds. -/
def State.loseCore (s : State) : State :=
  { s with
    rings := Tab.remap Ring.reset s.rings fun r => { Ring.reset with held := r.held },
    hearths := Tab.remap Hearth.reset s.hearths Hearth.unpowered,
    ports := [], blk := Block.reset, xch := Transom.reset, vault := s.vault.unpowered,
    err := { Errors.reset with
      fatalValid := s.err.fatalValid, fatalCause := s.err.fatalCause, fatalType := s.err.fatalType,
      fatalUnit := s.err.fatalUnit, fatalStamp := s.err.fatalStamp },
    maint := Maint.reset,
    audit := { s.audit with
      recBase := 0#64, recEnable := false, recMode := false, recHold := false, recLog2 := 0#5, recKinds := 0#5,
      recRefused := false, recHead := 0#32, recTail := 0#32, recIndex := 0#32, diverged := false, divergeCount := 0#16,
      recLost := 0#32, recGap := 0#64, divergeAt := 0#32, recLimit := 0#32, recKey := none, replayWaiting := [], replayLive := false,
      withheldRows := [], windows := [], nonces := [] } }.freshNonce

/-- A hearth at the entry into Doze with DOZE_HEARTH = RETAIN: one that is SHUT, or not yet wiped after its wake from SHUT, is SHUT (R311). -/
def State.dozeHearth (s : State) (h : Nat) : State :=
  let x := s.hearth h
  if s.pwr.dozeHearth || x.fromShut || decide (x.power = .shut) then s.shutHearth h else s.setHearth h { x with power := .retain }

/-- The wake that a source asked for during the entry starts once the domains have stopped (R313). -/
def State.dueWake (s : State) : State :=
  match s.pwr.dueWake with
  | some code => { s with pwr := { s.pwr with dueWake := none } }.startWake code
  | none => s

/-- LOW_POWER_ENTER: after the WAIT's PHASE word is acknowledged the domains stop; in Hibernate the rails may go (R364), and no port is
released (R316). The exchange ports grant no credit in sleep (R314). -/
def execLowPowerEnter (s : State) : Result :=
  if s.pwr.block = .entering ∧ (s.ring 0).entries.isEmpty then
    if s.pwr.mode = 2#2 then
      let s := (s.allHearths.foldl (fun s h => s.shutHearth h) s).loseCore.railsOff
      .next { s with pwr := { s.pwr with
        block := .hibernate, committed := false, isoStoves := 0#8, isoPool := false, pswReq := 0#73 } }.dueWake
    else
      let s := s.allHearths.foldl (fun s h => s.dozeHearth h) s
      .next { s with pwr := { s.pwr with block := .doze, committed := false }, xch := { s.xch with rxCredits := [] } }.dueWake
  else .next s

/-- BLOCK_WAKE: a source of R314 starts the wake; a doorbell wakes only while DB_WAKE = 1 and a TAIL is held, an alarm only while one is
being handled whose policy is not LOG (R342). -/
def execBlockWake (source : BitVec 3) (s : State) : Result :=
  if source = 2#3 ∨ source = 3#3 ∨ (source = 1#3 ∧ s.pwr.dbWake ∧ (s.rings.any fun p => p.2.held.isSome) = true) ∨
    (source = 4#3 ∧ s.vault.handling.isSome = true) then .next (s.startWake source)
  else .next s

/-- PSW_ACK: the switch of a domain acknowledges. A hearth that waits for power starts its wipe; a stove that has power in a reset raises
its hearths' requests, and at a wake from Hibernate that handles no alarm starts the wakes of its hearths where WAKE_TARGET asks for it (R311, R342). -/
def execPswAck (domain : BitVec 7) (level : Bool) (s : State) : Result :=
  let d := domain.toNat
  if d < 9 + s.cfg.hearths then
    let s := { s with pwr := { s.pwr with pswAck := setBit s.pwr.pswAck d level } }
    if 9 ≤ d ∧ level then
      .next (s.modHearth (d - 9) fun x => if x.power = .waking ∧ x.fromShut then { x with power := .wiping } else x)
    else if 1 ≤ d ∧ level then
      let s := s.raiseHearths (d - 1)
      .next (if s.pwr.block = .waking ∧ s.pwr.sleeping = .hibernate ∧ s.vault.handling = none then
        s.wakeWithBlock ((List.range 8).map fun i => 8 * (d - 1) + i) else s)
    else .next s
  else .fault .absentUnit

/-- A credit grant is clamped into 16 to 4,096 (R369). -/
def clampCredit (c : Nat) : W16 := BitVec.ofNat 16 (min 4096 (max 16 c))

/-- The credit inputs of the ports are sampled; a port that the list leaves out keeps its grant (R295, R369). -/
def State.sampleCredits (s : State) (credits : List (BitVec 13 × BitVec 13)) : State :=
  (credits.zipIdx.filter fun c => decide (c.2 < s.portCount)).foldl (fun s c =>
    s.setPort c.2 { s.port c.2 with rdCredits := clampCredit c.1.1.toNat, wrCredits := clampCredit c.1.2.toNat }) s

/-- Sequences whose TARGET was written in sleep start (R317). -/
def State.startTargets (s : State) : State :=
  { s with pwr := { s.pwr with stoves := Tab.remap Stove.reset s.pwr.stoves fun v =>
    if v.sequence = .idle then v.ended else v } }

/-- A follower's lock is lost (R273). -/
def State.loseLock (s : State) : State :=
  if s.audit.role = 2#2 then
    { s with audit := { s.audit with
      locked := false, lockLost := true, lostCount := satInc s.audit.lostCount, goodPulses := 0, skewUnset := true } }
  else s

/-- The LOG alarms of sleep are queued as events (R342). -/
def State.releaseAlarms (s : State) : State :=
  s.pwr.queuedAlarms.foldl (fun s a => s.event .sealAlarm 0 (a.1 + 16 * a.2.toNat))
    { s with pwr := { s.pwr with queuedAlarms := [] } }

/-- The block is in Run again: credits sampled, transmit credit at zero (R371), waiting sequences and alarms. -/
def State.wakeUp (s : State) (credits : List (BitVec 13 × BitVec 13)) : State :=
  let fromHibernate := decide (s.pwr.sleeping = .hibernate)
  let s := { s with pwr := { s.pwr with block := .run, sleeping := .run }, xch := { s.xch with txCredits := [], rxCredits := [] } }
  let s := if fromHibernate then s.loseLock else s
  ((s.sampleCredits credits).startTargets).releaseAlarms

/-- The block reaches Run (R314): WAKE_DONE is set, and the held doorbells are taken. -/
def State.reachRun (s : State) (credits : List (BitVec 13 × BitVec 13)) : State :=
  let s := s.wakeUp credits
  (s.event .wakeDone 0 s.pwr.lastWake.toNat).takeHeld

/-- Whether a hearth that wakes with the block from RETAIN is not yet ACTIVE (R311). -/
def State.wakesHearths (s : State) : Bool := s.allHearths.any fun h => decide ((s.hearth h).power = .waking) && !(s.hearth h).fromShut

/-! ### HEARTH_SET (R322 to R324) -/

def heSetOp (e : Entry) : Nat := fld e.desc.toNat 16 0 2
def heSetMask (e : Entry) : W64 := BitVec.ofNat 64 (fld e.desc.toNat 24 0 64)

/-- The lowest Banked ring, not OFF, whose RING_HMASK names one of the hearths. -/
def State.pinningRing (s : State) (mask : W64) : Option Nat :=
  (List.range 128).find? fun n =>
    decide (s.classOf n = 1#2) && decide ((s.ring n).state ≠ .off) && decide ((s.ring n).hmask &&& mask ≠ 0#64)

def State.setOffline (s : State) (mask : W64) (b : Bool) : State :=
  (s.hearthsOf mask).foldl (fun s h => s.modHearth h fun x => { x with offline := b }) s

/-- HEARTH_SET_OFFLINE: a pinning ring refuses with code 8; otherwise OFFLINE is set on the named hearths. -/
def execHearthSetOffline (ring : BitVec 7) (pos : W32) (s : State) : Result :=
  let n := ring.toNat
  match s.running n pos 0x52 with
  | none => .next s
  | some e =>
    if heSetOp e ≠ 0 ∨ e.started then .next s
    else match s.pinningRing (heSetMask e) with
      | some r => .next (s.refuse n pos 8 (8 + 256 * r) 0x52)
      | none => .next ((s.setOffline (heSetMask e) true).modEntry n pos fun e => { e with started := true })

/-- What refuses a hearth's SHUT (R323 step 3): the lowest open GID, or the lowest PARKED tile. -/
def Hearth.offlineRefusal (x : Hearth) : Option (Nat × Nat) :=
  match x.groups.find? fun g => g.2.isOpen with
  | some g => some (stGroupOpen, g.1)
  | none =>
    match x.tiles.find? fun t => decide (t.2.state = .parked) with
    | some t => some (stTileBusy, t.1)
    | none => none

/-- The positions that await an activity complete, and it leaves the arbiter and the schedule (R353, R356). -/
def State.maintEnd (s : State) (x : Nat × Nat) : State :=
  let m := s.maint
  let s := { s with maint := { m with
    running := m.running.erase x, queued := m.queued.erase x, scheduled := m.scheduled.filter (· != x),
    waiting := m.waiting.filter fun w => !(w.2.1 == x.1 && w.2.2 == x.2) } }
  m.waiting.foldl (fun s w => if w.2.1 == x.1 && w.2.2 == x.2 then s.finish 0 w.1 else s) s

/-- A hearth goes offline: it is SHUT, and a scrub that runs on it ends there (R308, R323). -/
def State.offlineHearth (s : State) (h : Nat) : State :=
  let s := s.shutHearth h
  if s.maint.running.contains (1, h) then s.maintEnd (1, h) else s

/-- The change of one started OFFLINE, once the work of its hearths has ended. Of several hearths that refuse, the lowest one's status and DETAIL
are reported (DESIGN CHOICE, log entry 149). -/
def State.settleOffline (s : State) (e : Entry) : State :=
  let hs := s.hearthsOf (heSetMask e)
  if hs.any fun h => s.hearthWork h then s
  else match hs.findSome? fun h => (s.hearth h).offlineRefusal with
    | some (st, d) => (s.setOffline (heSetMask e) false).finishWith 0 e.pos st d
    | none => (hs.foldl (fun s h => s.offlineHearth h) s).finish 0 e.pos

/-- HEARTH_OFFLINE_SETTLE. -/
def execHearthOfflineSettle (s : State) : Result :=
  .next ((s.ring 0).entries.foldl (fun s e =>
    if e.stage = .running ∧ e.started ∧ descOpcode e.desc = 0x52 ∧ heSetOp e = 0 then s.settleOffline e else s) s)

/-- HEARTH_SET_ONLINE: OFFLINE is cleared and each named hearth that was OFFLINE starts its wake and wipe. -/
def execHearthSetOnline (ring : BitVec 7) (pos : W32) (s : State) : Result :=
  let n := ring.toNat
  match s.running n pos 0x52 with
  | none => .next s
  | some e =>
    if heSetOp e ≠ 1 ∨ e.started then .next s
    else
      let s := (s.hearthsOf (heSetMask e)).foldl (fun s h =>
        if (s.hearth h).offline then (s.modHearth h fun x => { x with offline := false }).wakeHearth h else s) s
      .next (s.modEntry n pos fun e => { e with started := true }).settleOnline

end Sys2Proof.Machine
end

