-- ==== Sys2Proof/Machine/Maint.lean ====
section
/-! DEFINITION. Fatal events (R350) and maintenance: the arbiter, scrub, recalibration, self-test and wipes (R352 to R356). -/

namespace Sys2Proof.Machine

/-! ### Fatal events -/

/-- A fatal event: issue and every engine stop, ERR_FATAL latches, and the record is attempted (R350). -/
def State.fatal (s : State) (cause unitType unit : Nat) (info : W64) : State :=
  if s.err.stopped then s
  else
    { s with err := { s.err with
      stopped := true, fatalValid := true, fatalCause := BitVec.ofNat 8 cause, fatalType := BitVec.ofNat 4 unitType,
      fatalUnit := BitVec.ofNat 8 unit, fatalStamp := s.stamp } }.logError (ErrorEvent.plain 4 cause unitType unit info)

/-- FATAL_EVENT. -/
def execFatalEvent (cause unitType unit : W8) (info : W64) (s : State) : Result :=
  .next (s.fatal cause.toNat unitType.toNat unit.toNat info)

/-- FATAL_HALT: the block drops every AWAKE and takes no doorbell. -/
def execFatalHalt (s : State) : Result :=
  .next (if s.err.stopped then { s with err := { s.err with fatalHalted := true } } else s)

/-! ### The arbiter (R353) -/

/-- The rank of an activity (Table 17-7). -/
def maintRank (a : Nat) : Nat := nth 0 [0, 1, 1, 2, 3, 4, 4] a

/-- Whether an activity holds its hearth's SRAM and logic; otherwise it holds the bank above. -/
def maintOnHearth (a : Nat) : Bool := a == 1 || a == 4 || a == 5

/-- Two activities hold one resource. -/
def maintOverlap (x y : Nat × Nat) : Bool := x.2 == y.2 && maintOnHearth x.1 == maintOnHearth y.1

/-- Queues a request behind every request of its rank or a higher one. -/
def maintBehind (x : Nat × Nat) (q : List (Nat × Nat)) : List (Nat × Nat) :=
  (q.filter fun y => maintRank x.1 ≤ maintRank y.1) ++ [x] ++ q.filter fun y => maintRank y.1 < maintRank x.1

/-- Queues an aborted activity ahead of every request of its rank. -/
def maintAhead (x : Nat × Nat) (q : List (Nat × Nat)) : List (Nat × Nat) :=
  (q.filter fun y => maintRank x.1 < maintRank y.1) ++ [x] ++ q.filter fun y => maintRank y.1 ≤ maintRank x.1

/-- A request; one for an activity and target already running or queued joins it. -/
def State.maintRequest (s : State) (x : Nat × Nat) : State :=
  if s.maint.running.contains x || s.maint.queued.contains x then s
  else { s with maint := { s.maint with queued := maintBehind x s.maint.queued } }

/-- PAUSE_AUTO holds an activity that only the schedule asked for. -/
def Maint.held (m : Maint) (x : Nat × Nat) : Bool :=
  m.paused && m.scheduled.contains x && !m.waiting.any fun w => w.2.1 == x.1 && w.2.2 == x.2

/-- The first queued activity that may start: no overlapping activity of equal or higher rank runs. -/
def Maint.startable (m : Maint) : Option (Nat × Nat) :=
  m.queued.find? fun x => !m.held x && !m.running.any fun y => maintOverlap x y && decide (maintRank x.1 ≤ maintRank y.1)

/-- One running activity is aborted by another: counted, flagged and recorded; it queues again. -/
def State.maintAbort (s : State) (x cause : Nat × Nat) : State :=
  { s with maint := { s.maint with
      running := s.maint.running.erase x, queued := maintAhead x s.maint.queued, aborted := true,
      abortCount := satInc s.maint.abortCount } }.logError
    (ErrorEvent.plain 0 0x12 9 x.2 (BitVec.ofNat 64 (x.1 + 256 * cause.1)))

/-- Whether the arbiter's units can work on an activity now: their clocks run and no fatal event and no wipe of the Seal stops them; a bank's
work needs its tier refreshing (R305, R350, R353). -/
def State.maintains (s : State) (x : Nat × Nat) : Bool :=
  s.upkeep && !s.vault.wiping && (maintOnHearth x.1 || decide (s.mantelTier = .refreshing))

/-- An activity starts; a scrub of a hearth in RETAIN or SHUT is skipped (R308); BIST wakes its hearth. -/
def State.maintBegin (s : State) (x : Nat × Nat) : State :=
  let s := { s with maint := { s.maint with queued := s.maint.queued.erase x, running := s.maint.running ++ [x] } }
  let p := (s.hearth x.2).power
  if x.1 = 1 ∧ p ≠ .active ∧ p ≠ .gated then s.maintEnd x
  else if x.1 = 4 then s.wakeHearth x.2
  else s

/-- MAINT_GRANT. -/
def execMaintGrant (s : State) : Result :=
  match s.maint.startable with
  | none => .next s
  | some x =>
    if s.maintains x then
      let lower := s.maint.running.filter fun y => maintOverlap x y
      .next ((lower.foldl (fun s y => s.maintAbort y x) s).maintBegin x)
    else .next s

/-! ### Schedule, temperature, steps, ends -/

/-- MAINT_SCHEDULE: a period of MAINT_REQ expires; a period of zero never does. -/
def execMaintSchedule (activity : BitVec 3) (target : BitVec 6) (s : State) : Result :=
  if s.hasHearth target then
    let x := (activity.toNat, target.toNat)
    let period := nth 0#16 [0#16, s.maint.sramPeriod, s.maint.mantelPeriod, s.maint.recalPeriod] x.1
    if period = 0#16 ∨ s.maintains x = false then .next s
    else
      let s := s.maintRequest x
      .next { s with maint := { s.maint with scheduled := if s.maint.scheduled.contains x then s.maint.scheduled else s.maint.scheduled ++ [x] } }
  else .fault .absentUnit

/-- TEMP_HI_CHANGE (R286): the state of the tier above a hearth changes, and a recalibration is requested. -/
def execTempHiChange (hearth : BitVec 6) (hi : Bool) (s : State) : Result :=
  if s.hasHearth hearth then
    if (s.hearth hearth.toNat).tempHi = hi ∨ s.maintains (3, hearth.toNat) = false then .next s
    else .next ((s.modHearth hearth.toNat fun x => { x with tempHi := hi }).maintRequest (3, hearth.toNat))
  else .fault .absentUnit

/-- Bytes of one SRAM scrub pass: store, accumulator memory and shape table (Table 17-7: 13 MiB). -/
def sramPass : Nat := 13 * 2 ^ 20

/-- The space and address that an SRAM scrub pointer stands for. -/
def sramPlace (p : Nat) : Nat × Nat :=
  if p < 2 ^ 23 then (0, p) else if p < 3 * 2 ^ 22 then (2, p - 2 ^ 23) else (0xFF, p - 3 * 2 ^ 22)

/-- A fresh undefined value as the SYNDROME and INFO of a coded error. -/
def State.codedError (s : State) (severity cause unitType unit space addr : Nat) (infoFree : Bool) : State :=
  let (w, s) := s.draw64
  let (v, s) := s.draw64
  s.logError { (ErrorEvent.plain severity cause unitType unit (if infoFree then v else 0#64)).atAddr space addr with
    syndrome := w.setWidth 32 }

/-- What a scrub finds in a line of which some units are stored uncorrectable or correctable: the report of the command, or worse. 0 clean, 1
corrected, 2 uncorrectable, 3 a newer write stands (R292). -/
def scrubFinds (outcome : Nat) (bad soft : Bool) : Nat :=
  if outcome = 3 then 3 else if bad || outcome == 2 then 2 else if soft || outcome == 1 then 1 else 0

/-- The units of a list that lie outside a line of `n` units from unit `u`. -/
def outsideLine (m : List Nat) (u n : Nat) : List Nat := m.filter fun k => !(decide (u ≤ k) && decide (k < u + n))

/-- One line of an SRAM scrub: corrected and rewritten, or uncorrectable and left unchanged, so that a later read of it detects the error. An
uncorrectable line that no soft error accounts for is marked at its first word (log entry 74). -/
def State.sramScrub (s : State) (h : Nat) (found : Nat) : State :=
  let x := s.hearth h
  let (sp, a) := sramPlace x.sramPtr
  let on (m : List Nat) : Bool := (outsideLine m (a / 8) 8).length != m.length
  let known := (sp == 0 && on x.storeBad) || (sp == 2 && on x.accBad)
  let outcome := scrubFinds found known ((sp == 0 && on x.storeSoft) || (sp == 2 && on x.accSoft))
  let mark (here : Bool) (m : List Nat) : List Nat := if outcome = 2 ∧ known = false ∧ here = true then Marks.insert (a / 8) m else m
  let clean (here : Bool) (m : List Nat) : List Nat := if outcome = 1 ∧ here = true then outsideLine m (a / 8) 8 else m
  let s := s.setHearth h { x with
    sramPtr := (x.sramPtr + 64) % sramPass,
    sramCe := if outcome = 1 then satInc x.sramCe else x.sramCe,
    sramUe := if outcome = 2 then satInc x.sramUe else x.sramUe,
    storePoison := mark (sp == 0) x.storePoison, storeBad := mark (sp == 0) x.storeBad, storeSoft := clean (sp == 0) x.storeSoft,
    accPoison := mark (sp == 2) x.accPoison, accBad := mark (sp == 2) x.accBad, accSoft := clean (sp == 2) x.accSoft }
  if outcome = 1 then s.codedError 1 0x01 3 h sp a true
  else if outcome = 2 then s.codedError 2 0x02 3 h sp a false
  else s

/-- One line of a bank's scrub. -/
def State.mantelScrub (s : State) (h : Nat) (found : Nat) : State :=
  let x := s.hearth h
  let a := bankBytes * h + x.mantelPtr
  let outcome := scrubFinds found (s.mantelBad.contains (a / 64)) (s.mantelSoft.contains (a / 64))
  let s := s.setHearth h { x with
    mantelPtr := (x.mantelPtr + 64) % bankBytes,
    mantelCorrected := if outcome = 1 then satInc x.mantelCorrected else x.mantelCorrected,
    mantelUncorr := if outcome = 2 then satInc x.mantelUncorr else x.mantelUncorr }
  let s := if outcome = 2 then { s with
    mantelPoison := Marks.insert (a / 64) s.mantelPoison, mantelBad := Marks.insert (a / 64) s.mantelBad }
    else if outcome = 1 then { s with mantelSoft := Marks.drop (a / 64) s.mantelSoft } else s
  if outcome = 1 then s.codedError 1 0x04 1 h 1 a true
  else if outcome = 2 then s.codedError 2 0x05 1 h 1 a false
  else s

/-- MAINT_STEP. -/
def execMaintStep (activity : BitVec 3) (target : BitVec 6) (outcome : BitVec 2) (s : State) : Result :=
  if s.maint.running.contains (activity.toNat, target.toNat) && s.maintains (activity.toNat, target.toNat) then
    if activity = 1#3 then .next (s.sramScrub target.toNat outcome.toNat)
    else if activity = 2#3 then .next (s.mantelScrub target.toNat outcome.toNat)
    else .next s
  else .next s

/-- A bank's data, its XAB areas and its marks at zero (WIPE_BANK; Table 16-7). -/
def State.wipeBank (s : State) (h : Nat) : State :=
  ({ s with
      mantel := s.mantel.zero (bankBytes * h) bankBytes,
      mantelPoison := s.mantelPoison.filter fun u => !decide (u / 2 ^ 22 = h),
      mantelBad := s.mantelBad.filter fun u => !decide (u / 2 ^ 22 = h),
      mantelSoft := s.mantelSoft.filter fun u => !decide (u / 2 ^ 22 = h) }).modHearth h fun x => { x with xab := [] }

/-- BIST ends: its result, counts and record; the hearth is wiped and left SHUT and OFFLINE (R355). -/
def State.bistDone (s : State) (h : Nat) (pass : Bool) (unit : W8) : State :=
  let s := s.modHearth h fun x => { x with
    bistResult := if pass then 1#2 else 2#2, bistUnit := if pass then 0#8 else unit, bistRuns := satInc x.bistRuns,
    bistFails := if pass then x.bistFails else satInc x.bistFails, offline := true }
  let s := s.shutHearth h
  if pass then s else s.logError (ErrorEvent.plain 2 0x13 9 h (unit.setWidth 64))

/-- MAINT_ACTIVITY_DONE. A self-test ends only on a hearth that its wake has made ACTIVE. -/
def execMaintActivityDone (activity : BitVec 3) (target : BitVec 6) (pass : Bool) (unit : W8) (s : State) : Result :=
  let x := (activity.toNat, target.toNat)
  if s.maint.running.contains x && s.maintains x && (x.1 != 4 || decide ((s.hearth x.2).power = .active)) then
    let h := x.2
    let s :=
      if x.1 = 1 then s.modHearth h fun y => { y with scrubPasses := satInc y.scrubPasses, sramPtr := 0 }
      else if x.1 = 2 then s.modHearth h fun y => { y with mantelPtr := 0 }
      else if x.1 = 4 then s.bistDone h pass unit
      else if x.1 = 5 then s.modHearth h Hearth.wiped
      else if x.1 = 6 then s.wipeBank h
      else s
    .next (s.maintEnd x)
  else .next s

/-! ### MAINT (R356, Table 17-8) -/

def maintOp (e : Entry) : Nat := fld e.desc.toNat 16 0 3
def maintTarget (e : Entry) : Nat × Nat := (fld e.desc.toNat 17 0 3, fld e.desc.toNat 18 0 6)

/-- MAINT_START. -/
def execMaintStart (ring : BitVec 7) (pos : W32) (s : State) : Result :=
  let n := ring.toNat
  match s.running n pos 0x51 with
  | none => .next s
  | some e =>
    if maintOp e ≠ 0 ∨ e.started then .next s
    else
      let x := maintTarget e
      let s := (s.maintRequest x).modEntry n pos fun e => { e with started := true }
      .next { s with maint := { s.maint with waiting := s.maint.waiting ++ [(pos, x.1, x.2)] } }

/-- MAINT_CANCEL: a queued or running activity of rank 3 or below ends; a scrub keeps its pointer, and BIST records no result. -/
def execMaintCancel (ring : BitVec 7) (pos : W32) (s : State) : Result :=
  let n := ring.toNat
  match s.running n pos 0x51 with
  | none => .next s
  | some e =>
    if maintOp e ≠ 1 then .next s
    else
      let x := maintTarget e
      if maintRank x.1 ≤ 3 then
        let s := if x.1 = 4 ∧ s.maint.running.contains x then s.shutHearth x.2 else s
        .next ((s.maintEnd x).finish n pos)
      else .next (s.finish n pos)

/-- PAUSE_AUTO: scheduled scrub and recalibration stop and wait, keeping their pointers. -/
def execPauseAuto (ring : BitVec 7) (pos : W32) (s : State) : Result :=
  let n := ring.toNat
  match s.running n pos 0x51 with
  | none => .next s
  | some e =>
    if maintOp e ≠ 2 then .next s
    else
      let m := { s.maint with paused := true }
      let stopped := m.running.filter fun x => m.held x
      let m := { m with
        running := m.running.filter fun x => !m.held x
        queued := stopped.foldr maintAhead m.queued }
      .next ({ s with maint := m }.finish n pos)

/-- RESUME_AUTO. -/
def execResumeAuto (ring : BitVec 7) (pos : W32) (s : State) : Result :=
  let n := ring.toNat
  match s.running n pos 0x51 with
  | none => .next s
  | some e =>
    if maintOp e ≠ 3 then .next s
    else .next ({ s with maint := { s.maint with paused := false } }.finish n pos)

end Sys2Proof.Machine
end

