-- ==== Sys2Proof/Machine/Dot.lean ====
section
/-! DEFINITION. The dot product (chapter 3): chunk widths, exact products, the chunk step with its window and its single rounding, and the
binary64 sums of the auto-spill. -/

namespace Sys2Proof.Machine

/-- The chunk width of an operand format (Table 03-1). -/
def chunkWidth (fmt : Nat) : Nat :=
  match fmt with
  | 0 => 1
  | 1 => 4
  | 2 => 4
  | 7 => 16
  | _ => 8

/-- c of a pair of formats (R50). -/
def pairWidth (a b : Nat) : Nat := min (chunkWidth a) (chunkWidth b)

/-- A term of the window sum in units of g = 2^(E - 40), truncated toward zero, and whether it lost a nonzero part. -/
def truncTerm (u : Int) (t : FVal) : Int × Bool :=
  match t with
  | .fin n m e =>
    let k : Nat := if u ≤ e then units m e u else m / 2 ^ (u - e).toNat
    let lost := decide (e < u) && decide (m % 2 ^ (u - e).toNat ≠ 0)
    (if n then -(k : Int) else (k : Int), lost)
  | _ => (0, false)

/-- FP32 max as a value: (2 - 2^-23) * 2^127. -/
def f32Max : FVal := .fin false (2 ^ 24 - 1) 104

/-- round_window of R54: `w` units of `2^u`, with the sticky bit. -/
def roundWindow (mode : Rounding) (w : Int) (u : Int) (st : Bool) : W32 × Nat :=
  if w = 0 then (0#32, flagIf st fInexact)
  else
    let m := w.natAbs
    let n := decide (w < 0)
    let sign := BitVec.ofNat 32 ((formatOf 0).signBit n)
    if 128 ≤ exponentOf m u then (sign ||| posInf32, fOvf ||| fInexact)
    else
      let f := formatOf 0
      let q := f.quantum m u
      let (k, exact) := roundTo mode st m u q
      let inexact := !exact || st
      (sign ||| BitVec.ofNat 32 (f.pack k q),
        flagIf (f32Max.lt (.fin false m u)) fOvf ||| flagIf inexact fInexact |||
          flagIf (inexact && decide (exponentOf m u < -126)) fUnf)

/-- The largest exponent of nonzero finite terms. -/
def topExponent (terms : List FVal) : Option Int :=
  terms.foldl (fun acc t => match t with
    | .fin _ m e => if m = 0 then acc else
      match acc with
      | none => some (exponentOf m e)
      | some x => some (max x (exponentOf m e))
    | _ => acc) none

/-- chunk_step of R54 on the terms of one chunk: acc and the products. -/
def chunkTerms (mode : Rounding) (terms : List FVal) : W32 × Nat :=
  if terms.any FVal.isNan then (qnan32, 0)
  else
    let pos := terms.any fun t => t.isInf && !t.isNeg
    let neg := terms.any fun t => t.isInf && t.isNeg
    if pos && neg then (qnan32, fInv)
    else if pos then (posInf32, 0)
    else if neg then (negInf32, 0)
    else match topExponent terms with
      | none => (if terms.all FVal.isNeg then negZero32 else 0#32, 0)
      | some e =>
        let u := e - 40
        let ts := terms.map (truncTerm u)
        roundWindow mode (ts.foldl (fun a t => a + t.1) 0) u (ts.any fun t => t.2)

/-- One chunk step of a cell: acc and the pairs of operand elements of the chunk, at their exact values. -/
def chunkStep (mode : Rounding) (acc : W32) (pairs : List (FVal × FVal)) : W32 × Nat :=
  let (w, fl) := chunkTerms mode (f32 acc :: pairs.map fun p => p.1.mul p.2)
  (w, fl ||| flagIf (pairs.any fun p => productInv p.1 p.2) fInv)

/-- A spill (R59): acc added exactly to the XAB value and rounded by RNE into binary64; no flag. -/
def spillAdd (xab : W64) (acc : W32) : W64 := toF64 ((f64 xab).add (f32 acc))

/-- The result of an accumulation that has spilled (R59): the exact sum rounded into FP32 by RNE, with the flags of R54. -/
def spillEnd (xab : W64) (acc : W32) : W32 × Nat :=
  let a := f64 xab
  let b := f32 acc
  let v := a.add b
  let (w, fl) := toF32 v
  (w, (match v with
    | .fin _ _ _ => fl
    | _ => 0) ||| flagIf (a.isInf && b.isInf && a.isNeg != b.isNeg) fInv)

/-- -0 of binary64, where every XAB value starts (R59). -/
def negZero64 : W64 := 0x8000000000000000#64

end Sys2Proof.Machine
end

