-- ==== Sys2Proof/Machine/Checks.lean ====
section
/-! DEFINITION. What the body checks share: breaches and the DETAIL of E_DESC (R259), conversion specifiers (R39), extents of rows in a space
(R97, R139, R284), and the dealing of work over hearths (R104). -/

namespace Sys2Proof.Machine

/-! ### Breaches (R259) -/

/-- A field that takes part in a breach: the place code and the byte offset. -/
abbrev Breach := Nat × Nat

/-- Place codes (R259). -/
def plDescriptor : Nat := 0
def plEpilogue : Nat := 1
def plStream : Nat := 2
def plImage : Nat := 3
def plConfig : Nat := 4
def plSpill : Nat := 5
def plCounts : Nat := 6
def plPeer : Nat := 7

/-- The fields of a breached rule. -/
def breach (bad : Bool) (place : Nat) (offs : List Nat) : List Breach := if bad then offs.map fun o => (place, o) else []

/-- A reserved bit that is set names the byte it stands in (log entry 18). -/
def reservedBreach (place img size : Nat) (fields : List (Nat × Nat × Nat)) : List Breach :=
  match reservedByte img size fields with
  | some o => [(place, o)]
  | none => []

/-- DETAIL of E_DESC: the lowest place, then the lowest offset, saturating at 0xFFF. -/
def breachDetail (bs : List Breach) : Nat :=
  bs.foldl (fun acc b => min acc (4096 * b.1 + min b.2 0xFFF)) 0xFFFF

/-- A status with its DETAIL; none when nothing refuses. -/
abbrev Verdict := Option (Nat × Nat)

def descVerdict (bs : List Breach) : Verdict := if bs = [] then none else some (stDesc, breachDetail bs)

/-- The first verdict that refuses. -/
def firstVerdict : List Verdict → Verdict
  | [] => none
  | some v :: _ => some v
  | none :: rest => firstVerdict rest

/-- The common header of a descriptor. -/
def headerFields : List (Nat × Nat × Nat) :=
  [(0, 0, 8), (1, 0, 2), (2, 0, 5), (4, 0, 32), (8, 0, 4), (9, 0, 4)]

/-- Reserved bits of a body: the fields of its table, with the header left to R259's second step. -/
def bodyReserved (d : Nat) (fields : List (Nat × Nat × Nat)) : List Breach :=
  reservedBreach plDescriptor d 128 ((0, 0, 128) :: fields)

/-! ### Spaces -/

/-- Bytes of a space (Table 05-3, R284); zero for the Mantel where it is absent. -/
def State.spaceSize (s : State) (space : Nat) : Nat :=
  match space with
  | 0 => 0x800000
  | 1 => if s.cfg.hasMantel then s.cfg.hearths * 2 ^ 28 else 0
  | 2 => 64 * tileBytes
  | _ => 2 ^ 52

/-- Bytes of a row of `n` elements, whole bytes or groups (R33); an MX row stores whole blocks (R35). -/
def rowBytes (cvt : Nat) (raw : Bool) (n : Nat) : Nat :=
  let bits := cvtBits cvt raw
  if cvtMx cvt && !raw then ceilDiv n (cvtBlock cvt) * blockBytes cvt
  else ceilDiv n (packGroup bits) * (packGroup bits * bits / 8)

/-- The extent (first byte, one past the last) of rows with a stride. -/
def extent (addr stride rows bytes : Nat) : Nat × Nat := (addr, addr + (rows - 1) * stride + bytes)

/-- The extent of the scales of rows of `n` elements. -/
def scaleExtent (cvt addr scaleOff stride rows n : Nat) : Nat × Nat :=
  extent (addr + scaleOff) (stride / blockBytes cvt) rows (ceilDiv n (cvtBlock cvt))

def overlaps (x y : Nat × Nat) : Bool := decide (x.1 < y.2) && decide (y.1 < x.2)

/-! ### Dealing (R104) -/

/-- T items over hearths in contiguous runs: (hearth, first item, count), for hearths that receive some. -/
def deal (hs : List Nat) (t : Nat) : List (Nat × Nat × Nat) :=
  let p := ceilDiv t hs.length
  ((hs.zip (List.range hs.length)).map fun q => (q.1, q.2 * p, min t ((q.2 + 1) * p) - q.2 * p)).filter fun q => decide (0 < q.2.2)

/-- The same with a run length that is a multiple of `f` (R144). -/
def dealBy (f : Nat) (hs : List Nat) (t : Nat) : List (Nat × Nat × Nat) :=
  let p := ceilDiv (ceilDiv t hs.length) f * f
  ((hs.zip (List.range hs.length)).map fun q => (q.1, q.2 * p, min t ((q.2 + 1) * p) - q.2 * p)).filter fun q => decide (0 < q.2.2)

/-- The hearths that share an issued descriptor: the admitted ones under AUTO (R106, R320). -/
def State.workHearths (s : State) (e : Entry) : List Nat :=
  if descSplit e.desc = 15 then s.hearthsOf e.admitted else s.hearthsOf e.mask

/-- Whether a hearth works now: its core runs and nothing has stopped the block. -/
def State.hearthRuns (s : State) (h : Nat) : Bool :=
  decide (h < s.cfg.hearths) && decide ((s.hearth h).power = .active) && decide (s.pwr.block = .run) && !s.err.stopped &&
    !s.vault.halted && decide (s.vault.handling = none) && !s.vault.resetting

end Sys2Proof.Machine
end

