-- ==== Sys2Proof/Machine/Epilogue.lean ====
section
/-! DEFINITION. The drain epilogue (chapter 6): the record of Table 06-2, scale and bias, the mask, row statistics and exponents, top-k,
conversion and write, and the statistics and top-k records. -/

namespace Sys2Proof.Machine

/-! ### The epilogue record (Table 06-2), as the number of its 256 bytes; zero when EPI_EN = 0 -/

def epiScaleRow (r : Nat) : Bool := flag r 0 0
def epiScaleCol (r : Nat) : Bool := flag r 0 1
def epiBias (r : Nat) : Nat := fld r 0 2 2
def epiMask (r : Nat) : Nat := fld r 0 4 3
def epiStats (r : Nat) : Bool := flag r 0 7
def epiStatsInit (r : Nat) : Bool := flag r 1 0
def epiStatsOut (r : Nat) : Bool := flag r 1 1
def epiExpOut (r : Nat) : Bool := flag r 1 2
def epiTopk (r : Nat) : Bool := flag r 1 3
def epiTopkInit (r : Nat) : Bool := flag r 1 4
def epiTopkOut (r : Nat) : Bool := flag r 1 5

/-- The mask as stages 3 and 4 read it: no stage reads it while neither is on (R115, R117). -/
def epiMaskRead (r : Nat) : Nat := if epiStats r || epiTopk r then epiMask r else 0

def epiRsSlot (r : Nat) : Nat := fld r 2 0 4
def epiTkSlot (r : Nat) : Nat := fld r 3 0 2
def epiK (r : Nat) : Nat := fld r 4 0 5
def epiRsSpace (r : Nat) : Nat := fld r 5 0 2
def epiTkSpace (r : Nat) : Nat := fld r 5 2 2
def epiExpMul (r : Nat) : W32 := BitVec.ofNat 32 (fld r 8 0 32)
def epiRowScaleAddr (r : Nat) : Nat := fld r 24 0 32
def epiColScaleAddr (r : Nat) : Nat := fld r 28 0 32
def epiBiasAddr (r : Nat) : Nat := fld r 32 0 32
def epiMaskAddr (r : Nat) : Nat := fld r 36 0 32
def epiMaskStride (r : Nat) : Nat := fld r 40 0 32
def epiRsAddr (r : Nat) : Nat := fld r 48 0 64
def epiTkAddr (r : Nat) : Nat := fld r 56 0 64

def epiFields : List (Nat × Nat × Nat) :=
  [(0, 0, 8), (1, 0, 6), (2, 0, 4), (3, 0, 2), (4, 0, 5), (5, 0, 4), (8, 0, 288), (48, 0, 128)]

/-- An output: OUT_ADDR, OUT_STRIDE, OUT_CVT, OUT_SPACE, OUT_SCALE_OFF (Tables 05-1 and 05-7). -/
structure OutSpec where
  addr : Nat
  stride : Nat
  cvt : Nat
  space : Nat
  scaleOff : Nat
  deriving DecidableEq, Repr

/-- Row m of an output (R110). -/
def OutSpec.row (o : OutSpec) (h m : Nat) : Row :=
  { space := o.space, hearth := h, base := o.addr + m * o.stride,
    scales := o.addr + o.scaleOff + m * (o.stride / blockBytes o.cvt) }

/-! ### Scale and bias (R116) -/

/-- Stages 1 and 2: y and its flags. Absent vectors are none. -/
def scaleBias (x : W32) (rs cs b : Option W32) : W32 × Nat :=
  let (t, f1) := match rs with
    | some v => fMul x v
    | none => (x, 0)
  match cs, b with
  | some c, some d => let (y, f2) := fMa t c d; (y, f1 ||| f2)
  | some c, none => let (y, f2) := fMul t c; (y, f1 ||| f2)
  | none, some d => let (y, f2) := fAdd t d; (y, f1 ||| f2)
  | none, none => (t, f1)

/-! ### The mask (R117) -/

def State.maskedBy (s : State) (h mode off rowBase colBase addr stride m n : Nat) : Bool :=
  let mg : Nat := (rowBase + m) % 2 ^ 32
  let ng : Nat := (colBase + n) % 2 ^ 32
  match mode with
  | 1 => decide (Int.ofNat mg + signedOf 32 off < Int.ofNat ng)
  | 2 => decide (leNat (s.peek 0 h (addr + 4 * m) 4) ≤ ng)
  | 3 => (leNat (s.peek 0 h (addr + m * stride + n / 8) 1)).testBit (n % 8)
  | _ => false

/-- The mask of an epilogue record. -/
def State.masked (s : State) (h r m n : Nat) : Bool :=
  s.maskedBy h (epiMask r) (fld r 12 0 32) (fld r 16 0 32) (fld r 20 0 32) (epiMaskAddr r) (epiMaskStride r) m n

/-! ### Row statistics (R120) -/

/-- The larger of two FP32 values under maximumNumber; the first of equals. -/
def maxNumber (a b : W32) : W32 := if (f32 a).isNan || (f32 a).lt (f32 b) then b else a

/-- The pairwise tree over neighbouring columns, one level at a time. -/
def wideLevel : List Wide → List Wide
  | x :: y :: rest => x.add y :: wideLevel rest
  | rest => rest

def wideTree : Nat → List Wide → Wide
  | 0, xs => nth Wide.zero xs 0
  | k + 1, xs => wideTree k (wideLevel xs)

/-- The exponent of an element: z against the anchor (R120, R122); +0 when masked or -inf. -/
def statsExp (anchored : Bool) (a : W32) : Option W32 → Wide
  | none => Wide.zero
  | some z =>
    let v := f32 z
    if v.isInf && v.isNeg then Wide.zero
    else if v.isNan then .nan
    else if v.isInf then .inf
    else if anchored then exp2w (rn32 (v.add (f32 a).neg))
    else Wide.zero

/-- One row of one tile: the entry after it, the exponents, and the flags. `ys` has none at masked columns. -/
def statsRow (mul : W32) (en : StatsEntry) (ys : List (Option W32)) : StatsEntry × List Wide × Nat :=
  let zs := ys.map fun y => y.map fun v => rn32 ((f32 mul).mul (f32 v))
  let live := zs.filterMap id
  let anyNan := live.any fun z => (f32 z).isNan
  let infs := (live.filter fun z => (f32 z).isInf && !(f32 z).isNeg).length
  let finite := live.filter fun z => !(f32 z).isNan && !(f32 z).isInf
  let mt := live.foldl maxNumber negInf32
  let en := if !en.anchorSet && !finite.isEmpty then
      { en with a := finite.foldl maxNumber negInf32, anchorSet := true } else en
  let es := zs.map (statsExp en.anchorSet en.a)
  let st := wideTree 7 (es.map fun e => if e.finite then e else Wide.zero)
  let ninf := satAdd en.ninf infs
  let mnew := maxNumber en.m mt
  let diff (x : W32) : Wide := exp2w (rn32 ((f32 x).add (f32 mnew).neg))
  let l := if mnew = posInf32 then Wide.round ninf.toNat 0
    else if mnew = negInf32 then Wide.zero
    else (en.l.mul (diff en.m)).add (st.mul (diff en.a))
  ({ en with m := mnew, l := l, ninf := ninf, nan := en.nan || anyNan }, es,
    flagIf anyNan (fNanSeen ||| fRowNan) ||| flagIf (decide (0 < infs)) fRowInf)

/-- The statistics record of a row (Table 06-6), and ROW_EMPTY. -/
def statsRecord (en : StatsEntry) : List W8 × Nat :=
  let isEmpty := en.m == negInf32
  (leBytes 4 en.m.toNat ++ leBytes 4 (rn32 en.l.value).toNat ++ leBytes 4 (if en.anchorSet then en.a else negInf32).toNat ++
    leBytes 2 en.ninf.toNat ++
    leBytes 2 (bitNat isEmpty + 2 * bitNat (en.ninf != 0#16) + 4 * bitNat en.nan + 8 * bitNat en.anchorSet),
    flagIf isEmpty fRowEmpty)

/-- The FP32 exponent that stage 5 converts, and OVF (R122, R123): `d` beyond 1,000, or a result of 2^128 or more; none for d = +inf
(Table 06-5), nor for a +inf of a row without an anchor. -/
def expOut (e : Wide) (fromInf : Bool) : W32 × Nat :=
  let w := rn32 e.value
  (w, flagIf (w == posInf32 && !fromInf) fOvf)

/-! ### Top-k (R127, R128) -/

/-- Whether a candidate ranks before another: a greater value, or an equal value at a lower column. -/
def ranksBefore (a b : W32 × W32) : Bool :=
  (f32 b.1).lt (f32 a.1) || ((f32 a.1).eq (f32 b.1) && decide (a.2.toNat < b.2.toNat))

def insertRank (c : W32 × W32) : List (W32 × W32) → List (W32 × W32)
  | [] => [c]
  | x :: rest => if ranksBefore c x then c :: x :: rest else x :: insertRank c rest

/-- The first k of a ranking and a tile's candidates together. -/
def mergeRank (k : Nat) (ranking cands : List (W32 × W32)) : List (W32 × W32) :=
  cands.foldl (fun acc c => (insertRank c acc).take k) ranking

/-- The record of a row: k entries, completed with fill entries. -/
def topkRecord (k : Nat) (ranking : List (W32 × W32)) : List W8 :=
  (List.range k).flatMap fun j =>
    let e := nth (negInf32, 0xFFFFFFFF#32) ranking j
    leBytes 4 e.1.toNat ++ leBytes 4 e.2.toNat

/-! ### One tile through the epilogue -/

/-- What a tile's pass through the epilogue needs: the record, the region M × N, the tile, the output and the seed, the statistics and
top-k slots of its tile row, and whether it is the first and the last tile of that row on its hearth. -/
structure TilePass where
  img : Nat
  m : Nat
  n : Nat
  ti : Nat
  tj : Nat
  out : OutSpec
  seed : W64
  rowIndex : Nat
  first : Bool
  last : Bool
  deriving DecidableEq, Repr

def TilePass.rows (t : TilePass) : Nat := min 128 (t.m - 128 * t.ti)
def TilePass.cols (t : TilePass) : Nat := min 128 (t.n - 128 * t.tj)
def TilePass.rsKey (t : TilePass) (r : Nat) : Nat := (epiRsSlot t.img + t.rowIndex) * 128 + r
def TilePass.tkSlot (t : TilePass) : Nat := epiTkSlot t.img + t.rowIndex

/-- Blocks of 1,024 elements that hold a row of the region. -/
def TilePass.blocks (t : TilePass) : Nat := ceilDiv t.rows 8

/-- What a tile's pass writes, records included. -/
def TilePass.writes (t : TilePass) (h : Nat) : List Range :=
  let place (space lo len : Nat) : Range := { space := space, hearth := h, lo := lo, len := len }
  let m0 := 128 * t.ti
  (if t.out.space = 2 then []
  else (List.range t.rows).flatMap fun r => rowReads t.out.cvt false (t.out.row h (m0 + r)) (128 * t.tj) t.cols) ++
  (if t.last && epiStats t.img && epiStatsOut t.img then [place (epiRsSpace t.img) (epiRsAddr t.img + 16 * m0) (16 * t.rows)] else []) ++
  if t.last && epiTopk t.img && epiTopkOut t.img then
    [place (epiTkSpace t.img) (epiTkAddr t.img + 8 * epiK t.img * m0) (8 * epiK t.img * t.rows)] else []

/-- The hearth-store ranges that a tile reads beside its elements. -/
def TilePass.reads (t : TilePass) (h : Nat) : List Range :=
  let r := t.img
  let m0 := 128 * t.ti
  let n0 := 128 * t.tj
  let range (lo len : Nat) : Range := { space := 0, hearth := h, lo := lo, len := len }
  (if epiScaleRow r then [range (epiRowScaleAddr r + 4 * m0) (4 * t.rows)] else []) ++
  (if epiScaleCol r then [range (epiColScaleAddr r + 4 * n0) (4 * t.cols)] else []) ++
  (match epiBias r with
    | 1 => [range (epiBiasAddr r + 4 * n0) (4 * t.cols)]
    | 2 => [range (epiBiasAddr r + 4 * m0) (4 * t.rows)]
    | _ => []) ++
  (match epiMaskRead r with
    | 2 => [range (epiMaskAddr r + 4 * m0) (4 * t.rows)]
    | 3 => (List.range t.rows).map fun i => range (epiMaskAddr r + (m0 + i) * epiMaskStride r + n0 / 8) (ceilDiv t.cols 8)
    | _ => [])

/-- An FP32 word of the hearth's store. -/
def State.storeWord (s : State) (h a : Nat) : W32 := BitVec.ofNat 32 (leNat (s.peek 0 h a 4))

/-- Row r of the tile: stages 1 to 5. `word c` is the element of column c. Values for stage 6, the entry and ranking after, and flags. -/
def State.tileRow (s : State) (t : TilePass) (h r : Nat) (word : Nat → W32) (en : StatsEntry) (ranking : List (W32 × W32)) (k : Nat) :
    List W32 × StatsEntry × List (W32 × W32) × Nat :=
  let m := 128 * t.ti + r
  let q := t.img
  let cols := (List.range t.cols).map fun c => 128 * t.tj + c
  let rs := if epiScaleRow q then some (s.storeWord h (epiRowScaleAddr q + 4 * m)) else none
  let ys := cols.map fun n =>
    scaleBias (word (n - 128 * t.tj)) rs
      (if epiScaleCol q then some (s.storeWord h (epiColScaleAddr q + 4 * n)) else none)
      (match epiBias q with
        | 1 => some (s.storeWord h (epiBiasAddr q + 4 * n))
        | 2 => some (s.storeWord h (epiBiasAddr q + 4 * m))
        | _ => none)
  let fl := orFlags (ys.map Prod.snd)
  let pairs := (ys.map Prod.fst).zip cols
  let shown := pairs.map fun p => if s.masked h q m p.2 then none else some p
  let (en', es, fl3) := if epiStats q then statsRow (epiExpMul q) en (shown.map fun x => x.map Prod.fst) else (en, [], 0)
  let seen := shown.filterMap id
  let nans := epiTopk q && seen.any fun p => (f32 p.1).isNan
  let ranking' := if epiTopk q then
      mergeRank k ranking ((seen.filter fun p => !(f32 p.1).isNan).map fun p =>
        (p.1, BitVec.ofNat 32 ((fld q 20 0 32 + p.2) % 2 ^ 32)))
    else ranking
  let zInf (x : Option (W32 × Nat)) : Bool := match x with
    | some p =>
      let z := f32 (rn32 ((f32 (epiExpMul q)).mul (f32 p.1)))
      z.isInf || (en'.anchorSet && (f32 (rn32 (z.add (f32 en'.a).neg))).isInf)
    | none => false
  let outs := if epiExpOut q then (es.zip shown).map fun p => expOut p.1 (zInf p.2) else (ys.map Prod.fst).map fun y => (y, 0)
  let flExp := if t.out.space = 2 then 0 else orFlags (outs.map Prod.snd)
  (outs.map Prod.fst, en', ranking', fl ||| fl3 ||| flagIf nans fNanSeen ||| flExp)

/-! ### Marks of row entries (Table 17-1) -/

/-- The keys of the row entries that a tile's row reads and writes, as marks name them. -/
def TilePass.slotKeys (t : TilePass) (r : Nat) : List Nat :=
  (if epiStats t.img then [t.rsKey r] else []) ++ if epiTopk t.img then [4096 + (t.tkSlot * 128 + r)] else []

/-- A row entry meets a coded error. -/
def State.countSlot (s : State) (n : Nat) (pos : W32) (h : Nat) (double : Bool) : State :=
  let s := s.modHearth h fun x =>
    { x with sramCe := if double then x.sramCe else satInc x.sramCe, sramUe := if double then satInc x.sramUe else x.sramUe }
  let (w, s) := s.draw64
  let (v, s) := s.draw64
  s.logError { ((ErrorEvent.plain (if double then 3 else 1) (if double then 0x02 else 0x01) 3 h (if double then 0#64 else v)).of n pos
    (match s.entry n pos with
      | some e => descOpcode e.desc
      | none => 0) (if double then stMem else 0)) with syndrome := w.setWidth 32 }

/-- A tile's row reads its entries: a marked one ends the descriptor, with E_MEM where the error is first detected (R346, R347). A row whose slots
restart reads none. -/
def State.slotReads (s : State) (n : Nat) (pos : W32) (h : Nat) (t : TilePass) (r : Nat) : State × Bool :=
  let x := s.hearth h
  let keys := (t.slotKeys r).filter fun k => !(t.first && (if k < 4096 then epiStatsInit t.img else epiTopkInit t.img))
  let bad := keys.filter fun k => x.slotBad.contains k
  let s := bad.foldl (fun s _ => s.countSlot n pos h true) s
  let s := (keys.filter fun k => x.slotSoft.contains k && !x.slotBad.contains k).foldl (fun s _ => s.countSlot n pos h false) s
  if bad ≠ [] then (s.fail n pos stMem (0x300 + h), true)
  else if keys.any fun k => x.slotPoison.contains k then
    ((s.logSource 0x09 n pos stPoison 0 h 0).fail n pos stPoison (0x300 + h), true)
  else (s, false)

/-- A tile's row writes its entries: they are stored anew, with a mark where they depend on marked data. -/
def Hearth.markSlots (x : Hearth) (keys : List Nat) (poisoned : Bool) : Hearth :=
  let off (m : List Nat) : List Nat := m.filter fun k => !keys.contains k
  { x with slotPoison := if poisoned then keys.foldl (fun m k => Marks.insert k m) x.slotPoison else off x.slotPoison,
           slotBad := off x.slotBad, slotSoft := off x.slotSoft }

/-- A row of the tile passes the epilogue: its slots, its output and its flags. -/
def State.drainRow (s : State) (n : Nat) (pos : W32) (h : Nat) (t : TilePass) (word : Nat → W32) (poisoned : Bool) (r : Nat) : State :=
  let (s, bad) := s.slotReads n pos h t r
  let poisoned := poisoned || bad
  let x := s.hearth h
  let en := if t.first && epiStatsInit t.img then StatsEntry.reset else Tab.at StatsEntry.reset x.stats (t.rsKey r)
  let k := Tab.at 0 x.topkK t.tkSlot
  let key := t.tkSlot * 128 + r
  let (vals, en', ranking, fl) := s.tileRow t h r word en (Tab.at [] x.topk key) k
  let s := s.raise n pos fl
  let s := if epiStats t.img then s.modHearth h fun x => { x with stats := Tab.put StatsEntry.reset x.stats (t.rsKey r) en' } else s
  let s := if epiTopk t.img then s.modHearth h fun x => { x with topk := Tab.put [] x.topk key ranking } else s
  let s := s.modHearth h fun x => x.markSlots (t.slotKeys r) poisoned
  if t.out.space = 2 then s
  else
    let m := 128 * t.ti + r
    let row := t.out.row h m
    let w : RowWrite := { col := 128 * t.tj, vals := vals.map some, len := t.n, mode := fun c => cvtMode t.out.cvt t.seed m c }
    let (ws, fl) := s.encodeRow t.out.cvt false row w
    (s.putAll n pos t.out.space h ws poisoned).raise n pos fl

/-- At a tile row's first tile the top-k slot restarts, or takes its k when it has none (R128). -/
def State.startTopk (s : State) (h : Nat) (t : TilePass) : State :=
  if epiTopk t.img && t.first && (epiTopkInit t.img || Tab.at 0 (s.hearth h).topkK t.tkSlot == 0) then
    s.modHearth h fun x => { x with
      topkK := Tab.put 0 x.topkK t.tkSlot (epiK t.img),
      topk := Tab.keep x.topk fun i => i / 128 != t.tkSlot }
  else s

/-- Records after a tile row's last tile (R125, R129). -/
def State.writeRowRecords (s : State) (n : Nat) (pos : W32) (h : Nat) (t : TilePass) (poisoned : Bool) : State :=
  let x := s.hearth h
  let rows := List.range t.rows
  let recs := rows.map fun r => statsRecord (Tab.at StatsEntry.reset x.stats (t.rsKey r))
  let s := if epiStats t.img && epiStatsOut t.img then
      (s.put n pos (epiRsSpace t.img) h (epiRsAddr t.img + 16 * (128 * t.ti)) (recs.flatMap Prod.fst) poisoned).raise n pos
        (orFlags (recs.map Prod.snd))
    else s
  if epiTopk t.img && epiTopkOut t.img then
    let k := Tab.at 0 x.topkK t.tkSlot
    s.put n pos (epiTkSpace t.img) h (epiTkAddr t.img + 8 * k * (128 * t.ti))
      (rows.flatMap fun r => topkRecord k (Tab.at [] x.topk (t.tkSlot * 128 + r))) poisoned
  else s

/-- The vectors that a tile reads: marked ones end the descriptor with E_POISON or E_MEM. -/
def State.epilogueInputs (s : State) (n : Nat) (pos : W32) (h : Nat) (t : TilePass) : State × Bool :=
  s.meet n pos (t.reads h)

/-- Block b of a tile, 1,024 elements, passes stages 1 to 6. -/
def State.epilogueBlock (s : State) (n : Nat) (pos : W32) (h : Nat) (t : TilePass) (words : Tab W32) (d : W32) (poisoned : Bool)
    (b : Nat) : State :=
  (List.range (min 8 (t.rows - 8 * b))).foldl (fun s i =>
    let r := 8 * b + i
    let row := Tab.slice words (128 * r) 128
    s.drainRow n pos h t (fun c => Tab.at d row (128 * r + c)) poisoned r) s

/-- After a tile row's last tile its records are written, unless an error has ended the descriptor: the row is not finished (R119, R387). -/
def State.endTileRow (s : State) (n : Nat) (pos : W32) (h : Nat) (t : TilePass) (poisoned : Bool) : State :=
  if t.last && !s.ended n pos then s.writeRowRecords n pos h t poisoned else s

/-- A tile passes the epilogue (R113): `words` are its 128 × 128 elements, row-major. An error stops it at the end of a block of 1,024
elements (R387). -/
def State.epilogue (s : State) (n : Nat) (pos : W32) (h : Nat) (t : TilePass) (words : Tab W32) (d : W32) (poisoned : Bool) : State :=
  let (s, bad) := s.epilogueInputs n pos h t
  let s := (List.range t.blocks).foldl (fun s b =>
    if b ≠ 0 ∧ s.ended n pos then s else s.epilogueBlock n pos h t words d (poisoned || bad) b) (s.startTopk h t)
  s.endTileRow n pos h t (poisoned || bad)

/-! ### Tile numbers and rows (R102, R118) -/

/-- Tile t of TM × TN tiles: its row and column. -/
def tileAt (order : Bool) (tm tn t : Nat) : Nat × Nat := if order then (t / tn, t % tn) else (t % tm, t / tm)

/-- The tile rows of a run of tiles, in the order in which the hearth first drains them. -/
def tileRows (order : Bool) (tm tn : Nat) (tiles : List Nat) : List Nat :=
  tiles.foldl (fun acc t => if acc.contains (tileAt order tm tn t).1 then acc else acc ++ [(tileAt order tm tn t).1]) []

/-- The place of tile `t` among the tiles of a hearth: its row's index, and whether it is that row's first and last. -/
def rowPlace (order : Bool) (tm tn : Nat) (tiles : List Nat) (t : Nat) : Nat × Bool × Bool :=
  let i := (tileAt order tm tn t).1
  let same := tiles.filter fun u => (tileAt order tm tn u).1 == i
  ((tileRows order tm tn tiles).idxOf i, same.head? == some t, same.getLast? == some t)

/-! ### Checks (R115) -/

/-- Breaches of a hearth's record, read alone. A MASK_STRIDE of a bit mask that is no multiple of 64 is refused, which Table 06-2 states and the
list of R115 leaves out: DESIGN CHOICE, log entry 136. -/
def State.epiBreaches (s : State) (r m n : Nat) : List Breach :=
  let p := plEpilogue
  let vec (on : Bool) (at' enable addr len : Nat) : List Breach :=
    breach (on && decide (addr % 64 ≠ 0)) p [enable, at'] ++ breach (on && decide (s.spaceSize 0 < addr + len)) p [at']
  let recs (on : Bool) (at' space addr len : Nat) : List Breach :=
    breach (on && decide (space < 2) && decide (addr % 64 ≠ 0)) p [1, at'] ++
      breach (on && decide (space ≠ 2) && decide (s.spaceSize space < addr + len)) p [at']
  let k := epiK r
  reservedBreach p r 256 epiFields ++
    breach (decide (epiBias r = 3) || decide (3 < epiMask r)) p [0] ++
    breach (!epiStats r && (epiExpOut r || epiStatsInit r || epiStatsOut r)) p [0, 1] ++
    breach (!epiTopk r && (epiTopkInit r || epiTopkOut r)) p [1] ++
    breach ((epiTopk r && (decide (k = 0) || decide (16 < k))) || (!epiTopk r && decide (k ≠ 0))) p [1, 4] ++
    breach (decide (epiRsSpace r = 2) || decide (epiTkSpace r = 2)) p [5] ++
    vec (epiScaleRow r) 24 0 (epiRowScaleAddr r) (4 * m) ++ vec (epiScaleCol r) 28 0 (epiColScaleAddr r) (4 * n) ++
    vec (decide (epiBias r = 1 ∨ epiBias r = 2)) 32 0 (epiBiasAddr r) (4 * if epiBias r = 1 then n else m) ++
    vec (decide (epiMaskRead r = 2)) 36 0 (epiMaskAddr r) (4 * m) ++
    vec (decide (epiMaskRead r = 3)) 36 0 (epiMaskAddr r) ((m - 1) * epiMaskStride r + ceilDiv n 8) ++
    breach (decide (epiMaskRead r = 3) && decide (epiMaskStride r % 64 ≠ 0)) p [40] ++
    recs (epiStats r && epiStatsOut r) 48 (epiRsSpace r) (epiRsAddr r) (16 * m) ++
    recs (epiTopk r && epiTopkOut r) 56 (epiTkSpace r) (epiTkAddr r) (8 * k * m)

/-- Whether an unfinished descriptor names a top-k slot of a hearth: its k is not settled yet. -/
def State.topkHeld (s : State) (h slot : Nat) : Bool := s.rings.any fun p => p.2.entries.any fun e => e.holds.topk.contains (h, slot)

/-- Breaches of the record of hearth `h` against the dealing: (hearth, tiles) of every hearth that drains (R115, R118, R126, R128). Its slots
are those of its own tile rows; a slot that a descriptor still names is judged by no k here (R128 makes a Flue descriptor E_TILE_BUSY,
and any other waits). -/
def State.epiDealBreaches (s : State) (h r : Nat) (order : Bool) (tm tn : Nat) (homes : List (Nat × List Nat)) : List Breach :=
  if !epiStats r && !epiTopk r then []
  else
    let all := homes.map fun q => (q.1, tileRows order tm tn q.2)
    let rowsOf := all.filter fun q => q.1 == h
    let split := rowsOf.any fun q => all.any fun w => q.1 != w.1 && q.2.any fun i => w.2.contains i
    let slots (q : Nat × List Nat) : Bool :=
      (epiStats r && decide (16 < epiRsSlot r + q.2.length)) || (epiTopk r && decide (4 < epiTkSlot r + q.2.length))
    let wrongK (q : Nat × List Nat) : Bool :=
      epiTopk r && !epiTopkInit r && (List.range q.2.length).any fun i =>
        let k := Tab.at 0 (s.hearth q.1).topkK (epiTkSlot r + i)
        k != 0 && k != epiK r && !s.topkHeld q.1 (epiTkSlot r + i)
    breach split 0 [8] ++ breach (rowsOf.any slots) 0 [8] ++ breach (rowsOf.any wrongK) 0 [8]

/-- Breaches of an output of M rows and N columns, its fields from byte `at'` (R97, R110). -/
def State.outBreaches (s : State) (o : OutSpec) (at' m n : Nat) : List Breach :=
  let ok := cvtValid o.cvt
  let mx := cvtMx o.cvt
  let lim := s.spaceSize o.space
  breach (!ok) 0 [at' + 12] ++
    breach (decide (o.scaleOff ≠ 0) && !mx) 0 [at' + 12, at' + 16] ++
    breach (decide (o.space = 2) && decide (o.addr ≠ 0)) 0 [at', at' + 14] ++
    breach (decide (o.addr % 64 ≠ 0)) 0 [at'] ++ breach (decide (o.stride % 64 ≠ 0)) 0 [at' + 8] ++
    (if ok then
      breach (mx && decide (o.stride % blockBytes o.cvt ≠ 0)) 0 [at' + 8] ++
        (if o.space = 2 ∨ m = 0 ∨ n = 0 then []
        else
          breach (decide (lim < (extent o.addr o.stride m (rowBytes o.cvt false n)).2)) 0 [at'] ++
            breach (mx && decide (lim < (scaleExtent o.cvt o.addr o.scaleOff o.stride m n).2)) 0 [at', at' + 16])
    else [])

/-- The ranges of an output. -/
def OutSpec.extents (o : OutSpec) (m n : Nat) : List (Nat × Nat) :=
  if o.space = 2 then []
  else extent o.addr o.stride m (rowBytes o.cvt false n) ::
    if cvtMx o.cvt then [scaleExtent o.cvt o.addr o.scaleOff o.stride m n] else []

end Sys2Proof.Machine
end

