-- ==== Sys2Proof/Machine/Matmul.lean ====
section
/-! DEFINITION. MATMUL and DRAIN descriptors (chapter 5): their bodies, the placement of operands (R98), tiles and parts and their dealing
(R102 to R106), panels (R107), and the body checks. -/

namespace Sys2Proof.Machine

/-! ### Bodies (Tables 05-1, 05-2, 05-7) -/

structure Operand where
  addr : Nat
  stride : Nat
  scaleOff : Nat
  fmt : Nat
  mx : Bool
  mxb : Bool
  trans : Bool
  space : Nat
  deriving DecidableEq, Repr

/-- An operand specifier at byte `o` of a descriptor (Table 05-2). -/
def operandAt (d o : Nat) : Operand :=
  { addr := fld d o 0 64, stride := fld d (o + 8) 0 32, scaleOff := fld d (o + 12) 0 32, fmt := fld d (o + 16) 0 4,
    mx := flag d (o + 16) 4, mxb := flag d (o + 16) 5, trans := flag d (o + 16) 6, space := fld d (o + 17) 0 2 }

structure Matmul where
  begins : Bool
  ends : Bool
  preload : Nat
  sr : Bool
  nospill : Bool
  group : Bool
  order : Bool
  gid : Nat
  atile : Nat
  m : Nat
  n : Nat
  k : Nat
  a : Operand
  b : Operand
  preAddr : Nat
  preStride : Nat
  stageBase : Nat
  stageSize : Nat
  out : OutSpec
  epi : Bool
  epiOff : Nat
  seed : W64
  split : Nat
  deriving DecidableEq, Repr

def matmulOf (desc : DescBits) : Matmul :=
  let d := desc.toNat
  { begins := flag d 16 0, ends := flag d 16 1, preload := fld d 16 2 2, sr := flag d 16 4, nospill := flag d 16 5,
    group := flag d 16 6, order := flag d 16 7, gid := fld d 17 0 4, atile := fld d 18 0 6, m := fld d 20 0 24,
    n := fld d 24 0 24, k := fld d 28 0 32, a := operandAt d 32, b := operandAt d 52, preAddr := fld d 72 0 64,
    preStride := fld d 80 0 32, stageBase := 4096 * fld d 84 0 16, stageSize := 4096 * fld d 86 0 16,
    out := { addr := fld d 88 0 64, stride := fld d 96 0 32, cvt := fld d 100 0 16, space := fld d 102 0 2, scaleOff := fld d 104 0 32 },
    epi := flag d 108 31, epiOff := fld d 108 0 23, seed := BitVec.ofNat 64 (fld d 112 0 64), split := descSplit desc }

def matmulFields : List (Nat × Nat × Nat) :=
  [(16, 0, 8), (17, 0, 4), (18, 0, 6), (20, 0, 24), (24, 0, 24), (28, 0, 32), (32, 0, 135), (49, 0, 2), (52, 0, 135), (69, 0, 2),
    (72, 0, 240), (102, 0, 2), (104, 0, 32), (108, 0, 23), (108, 31, 1), (112, 0, 64)]

/-- A DRAIN body as the parts of MATMUL that it shares (Table 05-7). -/
structure Drain where
  order : Bool
  atile : Nat
  m : Nat
  n : Nat
  out : OutSpec
  epi : Bool
  epiOff : Nat
  seed : W64
  deriving DecidableEq, Repr

def drainOf (desc : DescBits) : Drain :=
  let d := desc.toNat
  { order := flag d 16 0, atile := fld d 17 0 6, m := fld d 20 0 24, n := fld d 24 0 24,
    out := { addr := fld d 32 0 64, stride := fld d 40 0 32, cvt := fld d 44 0 16, space := fld d 46 0 2, scaleOff := fld d 48 0 32 },
    epi := flag d 52 31, epiOff := fld d 52 0 23, seed := BitVec.ofNat 64 (fld d 56 0 64) }

def drainFields : List (Nat × Nat × Nat) :=
  [(16, 0, 1), (17, 0, 6), (20, 0, 24), (24, 0, 24), (32, 0, 112), (46, 0, 2), (48, 0, 32), (52, 0, 23), (52, 31, 1), (56, 0, 64)]

/-! ### Tiles, parts and their dealing -/

def tilesAcross (n : Nat) : Nat := ceilDiv n 128

def Matmul.tm (b : Matmul) : Nat := tilesAcross b.m
def Matmul.tn (b : Matmul) : Nat := tilesAcross b.n
def Matmul.tiles (b : Matmul) : Nat := b.tm * b.tn

/-- The largest power of two not above `n`, up to 16. -/
def pow2Below (n : Nat) : Nat := if 16 ≤ n then 16 else if 8 ≤ n then 8 else if 4 ≤ n then 4 else if 2 ≤ n then 2 else 1

/-- The number of parts of each tile over `h` hearths (Table 05-6, R106). -/
def Matmul.parts (b : Matmul) (h : Nat) : Nat :=
  match b.split with
  | 0 => 1
  | 15 => if b.begins && b.ends && !b.group && decide (b.tiles < h) then pow2Below (h / b.tiles) else 1
  | k => 2 ^ k

/-- Kp of R105: the elements of each part. -/
def Matmul.partLen (b : Matmul) (s : Nat) : Nat := if s = 1 then b.k else 32 * ceilDiv b.k (32 * s)

/-- The tiles of a group, rising. -/
def groupTiles (mask : W64) : List Nat := bitsBelow 64 mask.toNat

/-- One work item of a MATMUL: its hearth, tile, part and ATILE. -/
structure Item where
  hearth : Nat
  tile : Nat
  part : Nat
  atile : Nat
  deriving DecidableEq, Repr

/-- The items of a MATMUL in dealing order (R104, R105), parts beyond K included. -/
def State.matmulItems (s : State) (b : Matmul) (hs : List Nat) : List Item :=
  let sp := b.parts hs.length
  (deal hs (b.tiles * sp)).flatMap fun q =>
    let own := groupTiles (Tab.at Group.reset (s.hearth q.1).groups b.gid).tiles
    (List.range q.2.2).map fun i =>
      let w := q.2.1 + i
      { hearth := q.1, tile := w / sp, part := w % sp, atile := if b.group then nth 0 own i else b.atile + i }

/-- The home of each tile, with the tiles that each hearth drains: (hearth, tiles). -/
def drainHomes (items : List Item) : List (Nat × List Nat) :=
  let hs := items.foldl (fun acc i => if acc.contains i.hearth then acc else acc ++ [i.hearth]) []
  (hs.map fun h => (h, (items.filter fun i => i.hearth == h && i.part == 0).map Item.tile)).filter fun q => !q.2.isEmpty

/-- The tiles of a DRAIN: (hearth, tile, ATILE). -/
def Drain.items (b : Drain) (hs : List Nat) : List Item :=
  (deal hs (tilesAcross b.m * tilesAcross b.n)).flatMap fun q =>
    (List.range q.2.2).map fun i => { hearth := q.1, tile := q.2.1 + i, part := 0, atile := b.atile + i }

/-- The epilogue record that a hearth read at issue; zero when EPI_EN = 0 (R114). -/
def Entry.record (e : Entry) (h : Nat) : Nat := Tab.at 0 e.records h

/-- The pass of a tile through the epilogue on its home. -/
def Matmul.tilePass (b : Matmul) (e : Entry) (items : List Item) (h t : Nat) : TilePass :=
  let own := (items.filter fun i => i.hearth == h && i.part == 0).map Item.tile
  let ij := tileAt b.order b.tm b.tn t
  let place := rowPlace b.order b.tm b.tn own t
  { img := e.record h, m := b.m, n := b.n, ti := ij.1, tj := ij.2, out := b.out, seed := b.seed, rowIndex := place.1,
    first := place.2.1, last := place.2.2 }

def Drain.tilePass (b : Drain) (e : Entry) (items : List Item) (h t : Nat) : TilePass :=
  let own := (items.filter fun i => i.hearth == h).map Item.tile
  let tm := tilesAcross b.m
  let tn := tilesAcross b.n
  let ij := tileAt b.order tm tn t
  let place := rowPlace b.order tm tn own t
  { img := e.record h, m := b.m, n := b.n, ti := ij.1, tj := ij.2, out := b.out, seed := b.seed, rowIndex := place.1,
    first := place.2.1, last := place.2.2 }

/-! ### Operand elements (R98) -/

/-- An operand and whether K runs along its stored rows. -/
structure Placed where
  op : Operand
  kInner : Bool
  deriving DecidableEq, Repr

def Matmul.placedA (b : Matmul) : Placed := ⟨b.a, !b.a.trans⟩
def Matmul.placedB (b : Matmul) : Placed := ⟨b.b, b.b.trans⟩

def Operand.cvt (o : Operand) : Nat := o.fmt + (if o.mx then 128 else 0) + (if o.mxb then 256 else 0)
def Operand.base (o : Operand) : Nat := if o.space = 2 then (o.addr % 64) * tileBytes else o.addr
def Operand.pitch (o : Operand) : Nat := if o.space = 2 then 512 else o.stride

/-- Stored row r of an operand, for a hearth; a streamed operand's rows keep their Mantel addresses. -/
def Operand.rowAt (o : Operand) (h r : Nat) : Row :=
  { space := o.space, hearth := h, base := o.base + r * o.pitch, scales := o.addr + o.scaleOff + r * (o.stride / blockBytes o.cvt) }

/-- The exact value of an operand element (row or column `i`, index k), read from given bytes. -/
def Placed.value (p : Placed) (mem : Memory) (i k : Nat) : FVal :=
  let o := p.op
  let r := o.rowAt 0 (if p.kInner then i else k)
  let col := if p.kInner then k else i
  let w := fmtBits o.fmt
  let bit := 8 * r.base + w * col
  let code := (leNat (mem.read (bit / 8) ((bit % 8 + w + 7) / 8)) >>> (bit % 8)) % 2 ^ w
  if o.mx then decodeMx o.fmt (mem.byte (r.scales + col / cvtBlock o.cvt)).toNat code else decodeBare o.fmt code

/-- The bytes that elements (i0 .. i0+n-1, k0 .. k0+kn-1) of an operand occupy. -/
def Placed.reads (p : Placed) (h i0 n k0 kn : Nat) : List Range :=
  if p.kInner then (List.range n).flatMap fun i => rowReads p.op.cvt false (p.op.rowAt h (i0 + i)) k0 kn
  else (List.range kn).flatMap fun k => rowReads p.op.cvt false (p.op.rowAt h (k0 + k)) i0 n

/-! ### Panels (R107) -/

/-- The streamed operand, when there is one. -/
def Matmul.streamed (b : Matmul) : Option Placed :=
  if b.a.space = 1 then some b.placedA else if b.b.space = 1 then some b.placedB else none

/-- The bytes of a panel, rounded up to 4 KiB: K × 128 elements with their scales, without the padding of rows to whole bytes, groups or
blocks: DESIGN CHOICE, log entry 132. -/
def Matmul.panelBytes (b : Matmul) (p : Placed) : Nat :=
  let elems := ceilDiv (b.k * 128 * fmtBits p.op.fmt) 8
  let scales := if p.op.mx then 128 * ceilDiv b.k (cvtBlock p.op.cvt) else 0
  4096 * ceilDiv (elems + scales) 4096

/-- The panel of a job: its tile column, or its tile row under ORDER = 1. Every part of a K-split tile uses the one panel. -/
def Matmul.panelOf (b : Matmul) (j : TileJob) : Nat := if b.order then j.ti else j.tj

/-- What a panel reads of the Mantel: all of K for 128 columns or rows. -/
def Matmul.panelReads (b : Matmul) (p : Placed) (id : Nat) : List Range :=
  let outer := if b.order then b.m else b.n
  p.reads 0 (128 * id) (min 128 (outer - 128 * id)) 0 b.k

/-! ### Checks (R94 to R108) -/

def inPair (xs : List Nat) (a b : Nat) : Bool := xs.contains a && xs.contains b

/-- Table 05-4. -/
def pairing (a b : Nat) : Bool := inPair [7, 5, 6, 3, 4] a b || inPair [1, 2] a b || (a == 0 && b == 0)

/-- Breaches of one operand at byte `at'`; `outer` is M or N and stands at byte `oat` (R96 to R98). -/
def State.operandBreaches (s : State) (p : Placed) (at' outer oat k : Nat) : List Breach :=
  let o := p.op
  let fmtOk := if o.mx then decide (3 ≤ o.fmt) && decide (o.fmt ≤ 7) else decide (o.fmt ≤ 7)
  let narrow := o.mx || decide (fmtBits o.fmt < 8)
  let common := breach (!fmtOk) 0 [at' + 16] ++ breach (o.mxb && !o.mx) 0 [at' + 16] ++
    breach (decide (o.scaleOff ≠ 0) && !o.mx) 0 [at' + 12, at' + 16] ++ breach (decide (o.space = 3)) 0 [at' + 17]
  if o.space = 2 then
    common ++ breach (decide (o.fmt ≠ 0)) 0 [at' + 16] ++ breach (decide (64 ≤ o.addr)) 0 [at'] ++
      breach (decide (o.stride ≠ 0)) 0 [at' + 8] ++ breach (decide (128 < outer)) 0 [oat] ++ breach (decide (128 < k)) 0 [28]
  else if o.space = 3 ∨ !fmtOk then common
  else
    let rows := if p.kInner then outer else k
    let cols := if p.kInner then k else outer
    let lim := s.spaceSize o.space
    common ++ breach (narrow && !p.kInner) 0 [at' + 16] ++
      breach (decide (o.addr % 64 ≠ 0)) 0 [at'] ++ breach (decide (o.stride % 64 ≠ 0)) 0 [at' + 8] ++
      breach (decide ((o.addr + o.scaleOff) % 64 ≠ 0)) 0 [at', at' + 12] ++
      (if outer = 0 ∨ k = 0 then []
      else
        breach (o.mx && decide (o.stride % blockBytes o.cvt ≠ 0)) 0 [at' + 8] ++
          breach (decide (lim < (extent o.addr o.stride rows (rowBytes o.cvt false cols)).2)) 0 [at'] ++
          breach (o.mx && decide (lim < (scaleExtent o.cvt o.addr o.scaleOff o.stride rows cols).2)) 0 [at', at' + 12])

/-- The ranges of an operand: rows of whole bytes, groups and blocks (R33, R35). -/
def Placed.extents (p : Placed) (outer k : Nat) : List (Nat × Nat) :=
  let o := p.op
  let rows := if p.kInner then outer else k
  let cols := if p.kInner then k else outer
  if o.space = 2 then [(0, tileBytes)]
  else extent o.addr o.stride rows (rowBytes o.cvt false cols) ::
    if o.mx then [scaleExtent o.cvt o.addr o.scaleOff o.stride rows cols] else []

/-- Overlaps of outputs and the stage with each other and with the inputs (R108): ranges with the field that places each. -/
def overlapBreaches (ins outs : List ((Nat × Nat) × Nat)) : List Breach :=
  match outs with
  | [] => []
  | x :: rest => ((ins ++ rest).flatMap fun y => breach (overlaps x.1 y.1) 0 [x.2, y.2]) ++ overlapBreaches ins rest

def Matmul.preExtent (b : Matmul) : Nat × Nat :=
  if b.preload = 2 then extent b.preAddr b.preStride b.m (4 * b.n) else (b.preAddr, b.preAddr + 4 * b.n)

/-- Field breaches of a MATMUL, read from the descriptor alone. With END = 0 the output fields still name a range that R108 compares (DESIGN
CHOICE, log entry 134), and EPI_OFF need be a multiple of 256 only when EPI_EN = 1 (DESIGN CHOICE, log entry 135). -/
def State.matmulFieldBreaches (s : State) (desc : DescBits) : List Breach :=
  let b := matmulOf desc
  let pa := b.placedA
  let pb := b.placedB
  let pre := decide (b.preload = 1 ∨ b.preload = 2)
  let inStore (space : Nat) (rs : List (Nat × Nat)) (at' : Nat) : List ((Nat × Nat) × Nat) :=
    if space = 0 then rs.map fun r => (r, at') else []
  let stage : List ((Nat × Nat) × Nat) := if b.stageSize = 0 then [] else [((b.stageBase, b.stageBase + b.stageSize), 84)]
  let zero := decide (b.m = 0 ∨ b.n = 0 ∨ b.k = 0)
  bodyReserved desc.toNat matmulFields ++
    breach (decide (b.m = 0)) 0 [20] ++ breach (decide (b.n = 0)) 0 [24] ++ breach (decide (b.k = 0)) 0 [28] ++
    breach (!b.group && decide (b.gid ≠ 0)) 0 [16, 17] ++ breach (b.group && decide (b.atile ≠ 0)) 0 [16, 18] ++
    breach (b.group && (b.begins || b.ends)) 0 [16] ++ breach (b.group && decide (b.split ≠ 0)) 0 [9, 16] ++
    breach (decide (1 ≤ b.split) && decide (b.split ≤ 4) && (!b.begins || !b.ends || b.group)) 0 [9, 16] ++
    breach (decide (b.preload ≠ 0) && (!b.begins || b.group)) 0 [16] ++
    breach (!pre && decide (b.preAddr ≠ 0)) 0 [16, 72] ++ breach (decide (b.preload ≠ 2) && decide (b.preStride ≠ 0)) 0 [16, 80] ++
    breach (decide (b.preload = 1) && decide (b.preAddr % 64 ≠ 0)) 0 [16, 72] ++ breach (decide (b.preStride % 64 ≠ 0)) 0 [80] ++
    breach (pre && decide (s.spaceSize 0 < b.preExtent.2)) 0 [72] ++
    s.operandBreaches pa 32 b.m 20 b.k ++ s.operandBreaches pb 52 b.n 24 b.k ++
    breach (!pairing b.a.fmt b.b.fmt) 0 [48, 68] ++
    breach (decide (b.a.space = 1 ∧ b.b.space = 1)) 0 [49, 69] ++
    (match b.streamed with
      | none => breach (decide (b.stageSize ≠ 0)) 0 [49, 69, 86]
      | some p =>
        breach (decide (b.a.space = 1) != b.order) 0 [16, 49] ++
          breach (decide (b.stageSize < 2 * b.panelBytes p)) 0 [86] ++
          breach (decide (s.spaceSize 0 < b.stageBase + b.stageSize)) 0 [84]) ++
    s.outBreaches b.out 88 b.m b.n ++
    breach (b.epi && decide (b.epiOff % 256 ≠ 0)) 0 [108] ++
    (if zero then []
    else overlapBreaches
      (inStore b.a.space (pa.extents b.m b.k) 32 ++ inStore b.b.space (pb.extents b.n b.k) 52 ++
        (if pre then [(b.preExtent, 72)] else []) ++ (if b.epi then [((b.epiOff, b.epiOff + 256), 108)] else []))
      (stage ++ inStore b.out.space (b.out.extents b.m b.n) 88))

/-- Breaches of the dealing of a MATMUL and of its group (R81, R104): a rule that depends on the dealing reads the mask. -/
def State.matmulDealBreaches (s : State) (n : Nat) (b : Matmul) (hs : List Nat) : List Breach :=
  let sp := b.parts hs.length
  let group (h : Nat) : Group := Tab.at Group.reset (s.hearth h).groups b.gid
  let own (h : Nat) : Bool := (group h).isOpen && decide ((group h).cls = s.classOf n)
  let dealt := deal hs (b.tiles * sp)
  let count (h : Nat) : Nat := match dealt.find? fun q => q.1 == h with
    | some q => q.2.2
    | none => 0
  if b.m = 0 ∨ b.n = 0 then []
  else if b.group then
    breach (hs.any fun h => !own h) 0 [17] ++ breach (hs.any fun h => own h && count h != (groupTiles (group h).tiles).length) 0 [8]
  else breach (decide (64 < b.atile + ceilDiv (b.tiles * sp) hs.length)) 0 [8, 18]

/-- Breaches of a MATMUL that read its output tiles or its epilogue records (R98, R115). The ATILE of a part at or beyond K counts as an
output tile: DESIGN CHOICE, log entry 133. -/
def State.matmulRecordBreaches (s : State) (b : Matmul) (hs : List Nat) (recs : List (Nat × Nat)) : List Breach :=
  let items := s.matmulItems b hs
  let homes := drainHomes items
  let own (o : Operand) : Bool := decide (o.space = 2) && items.any fun i => i.atile == o.addr % 64
  breach (own b.a) 0 [8, 32] ++ breach (own b.b) 0 [8, 52] ++
    recs.flatMap fun r => s.epiBreaches r.2 b.m b.n ++ s.epiDealBreaches r.1 r.2 b.order b.tm b.tn homes

/-- Breaches of a DRAIN, its dealing among them. EPI_OFF need be a multiple of 256 only when EPI_EN = 1 (DESIGN CHOICE, log entry 135). -/
def State.drainFieldBreaches (s : State) (desc : DescBits) (hs : List Nat) : List Breach :=
  let b := drainOf desc
  let outs := if b.out.space = 0 ∧ b.m ≠ 0 ∧ b.n ≠ 0 then (b.out.extents b.m b.n).map fun r => (r, 32) else []
  bodyReserved desc.toNat drainFields ++ breach (decide (b.m = 0)) 0 [20] ++ breach (decide (b.n = 0)) 0 [24] ++
    breach (decide (descSplit desc ≠ 0)) 0 [9] ++ s.outBreaches b.out 32 b.m b.n ++
    breach (b.epi && decide (b.epiOff % 256 ≠ 0)) 0 [52] ++
    overlapBreaches (if b.epi then [((b.epiOff, b.epiOff + 256), 52)] else []) outs ++
    breach (decide (64 < b.atile + ceilDiv (tilesAcross b.m * tilesAcross b.n) hs.length)) 0 [8, 17]

/-- Breaches of a DRAIN that read its epilogue records (R115). -/
def State.drainRecordBreaches (s : State) (b : Drain) (hs : List Nat) (recs : List (Nat × Nat)) : List Breach :=
  let tm := tilesAcross b.m
  let tn := tilesAcross b.n
  let items := b.items hs
  recs.flatMap fun r => s.epiBreaches r.2 b.m b.n ++ s.epiDealBreaches r.1 r.2 b.order tm tn (drainHomes items)

/-- The epilogue records of the hearths that execute a descriptor, read at issue (R114). -/
def State.readRecords (s : State) (epi : Bool) (off : Nat) (items : List Item) : List (Nat × Nat) :=
  if epi then
    let hs := items.foldl (fun acc i => if acc.contains i.hearth then acc else acc ++ [i.hearth]) []
    hs.map fun h => (h, leNat (s.peek 0 h off 256))
  else []

/-- The bytes of a range list: the footprint of R268. -/
def footprint (rs : List (Nat × Nat)) : Nat := rs.foldl (fun a r => a + (r.2 - r.1)) 0

/-- Bytes of ranges that a descriptor names in a space, on `hs` hearths: those of a hearth's own memories stand on each hearth that works for it
(DESIGN CHOICE, log entry 120). -/
def placedFootprint (space hs : Nat) (rs : List (Nat × Nat)) : Nat := footprint rs * if space = 0 ∨ space = 2 then hs else 1

/-- Bytes of an epilogue record, its vectors and its records (R268). -/
def epiFootprint (epi : Bool) (r m n : Nat) : Nat :=
  if !epi then 0
  else 256 + (if epiScaleRow r then 4 * m else 0) + (if epiScaleCol r then 4 * n else 0) +
    (if epiBias r = 1 then 4 * n else if epiBias r = 2 then 4 * m else 0) +
    (if epiMaskRead r = 2 then 4 * m else if epiMaskRead r = 3 then (m - 1) * epiMaskStride r + ceilDiv n 8 else 0) +
    (if epiStats r && epiStatsOut r then 16 * m else 0) + (if epiTopk r && epiTopkOut r then 8 * epiK r * m else 0)

/-- The Flue limits of a MATMUL and of a DRAIN on `hs` hearths (Table 13-3): the first exceeded. -/
def Matmul.limit (b : Matmul) (hs epiBytes : Nat) : Nat :=
  let bytes := placedFootprint b.a.space hs (b.placedA.extents b.m b.k) + placedFootprint b.b.space hs (b.placedB.extents b.n b.k) +
    placedFootprint b.out.space hs (b.out.extents b.m b.n) +
    placedFootprint 0 hs ((if b.preload = 1 ∨ b.preload = 2 then [b.preExtent] else []) ++ [(0, b.stageSize)]) + epiBytes
  if 2 ^ 26 < 128 * b.tm * (128 * b.tn) * b.k then 1 else if 2 ^ 24 < bytes then 3 else 0

def Drain.limit (b : Drain) (hs epiBytes : Nat) : Nat :=
  if 2 ^ 24 < b.m * b.n then 2
  else if 2 ^ 24 < placedFootprint b.out.space hs (b.out.extents b.m b.n) + epiBytes + tileBytes * tilesAcross b.m * tilesAcross b.n then 3
  else 0

end Sys2Proof.Machine
end

