-- ==== Sys2Proof/Machine/Grate.lean ====
section
/-! DEFINITION. The Grate (chapters 3 to 5): dealing a MATMUL, panels, loads, swaps, chunk steps, auto-spills, drains, and the combination
of K-split parts. -/

namespace Sys2Proof.Machine

/-! ### Tiles in memory -/

def Hearth.tile (x : Hearth) (a : Nat) : TileInfo := Tab.at TileInfo.reset x.tiles a
def Hearth.setTile (x : Hearth) (a : Nat) (t : TileInfo) : Hearth := { x with tiles := Tab.put TileInfo.reset x.tiles a t }
def State.modTile (s : State) (h a : Nat) (f : TileInfo → TileInfo) : State :=
  s.modHearth h fun x => x.setTile a (f (x.tile a))

/-- FP32 words that bytes spell. -/
def wordsOf : List W8 → List W32
  | a :: b :: c :: d :: rest => BitVec.ofNat 32 (leNat [a, b, c, d]) :: wordsOf rest
  | _ => []

/-- The 16,384 words of a tile as a table, in which -0 is not listed (the starting value of R51). -/
def tileWords (acc : Memory) (a : Nat) : Tab W32 :=
  Tab.ofList negZero32 0 ((List.range 128).flatMap fun r => wordsOf (acc.read (a * tileBytes + 512 * r) 512))

/-- Row r of a cell set whose unlisted cells hold `d`. -/
def cellRow (d : W32) (t : Tab W32) (r : Nat) : List W32 := Tab.list d t (128 * r) 128

/-- Row r of a table of words. -/
def rowWords (t : Tab W32) (r : Nat) : List W32 := cellRow negZero32 t r

def tableBytes (t : Tab W32) : List W8 := (List.range 128).flatMap fun r => (rowWords t r).flatMap fun w => leBytes 4 w.toNat

/-- A tile's words are written into accumulator memory. -/
def State.storeTile (s : State) (h a : Nat) (t : Tab W32) : State := s.poke 2 h (a * tileBytes) (tableBytes t) false

def tileRange (h a : Nat) : Range := { space := 2, hearth := h, lo := a * tileBytes, len := tileBytes }

/-- Every word of a tile is marked (R347). -/
def State.markTile (s : State) (h a : Nat) : State :=
  s.modHearth h fun x => { x with accPoison := writeMarks 8 x.accPoison (a * tileBytes) tileBytes true }

/-- The XAB area of an ATILE: binary64 values, -0 until a spill writes them (R59). -/
def xabBytes : Nat := 131072
def Hearth.xabAt (x : Hearth) (a i : Nat) : W64 :=
  if (x.tile a).spilled then BitVec.ofNat 64 (x.xab.nat (a * xabBytes + 8 * i) 8) else negZero64

/-! ### Jobs -/

def TileJob.of (j : TileJob) (n : Nat) (pos : W32) : Bool := j.ring == n && j.pos == pos

/-- Jobs stand in issue order, Flue ahead of every other class (R267). -/
def insertJob (j : TileJob) : List TileJob → List TileJob
  | [] => [j]
  | x :: rest =>
    if (j.flue && !x.flue) || (j.flue == x.flue && decide (j.order < x.order)) then j :: x :: rest else x :: insertJob j rest

/-- The shadow set is free: it holds no tile that drains, and no load. -/
def Hearth.freeShadow (x : Hearth) : Hearth := { x with shadowUse := .free, shadow := [], shadowBad := false }

/-- A queue that changes may leave a loaded tile behind: the load is given up, the tile still stands in memory. -/
def Hearth.dropStaleLoad (x : Hearth) : Hearth :=
  match x.shadowUse with
  | .loaded j => if x.jobs.head? = some j then x else x.freeShadow
  | _ => x

def Hearth.addJob (x : Hearth) (j : TileJob) : Hearth := { x with jobs := insertJob j x.jobs }.dropStaleLoad

/-- The job of a work item. -/
def itemJob (n : Nat) (e : Entry) (b : Matmul) (sp : Nat) (flue : Bool) (i : Item) : TileJob :=
  let len := b.partLen sp
  let ij := tileAt b.order b.tm b.tn i.tile
  { ring := n, pos := e.pos, tile := i.tile, ti := ij.1, tj := ij.2, atile := i.atile, part := i.part, parts := sp,
    kNext := i.part * len, kEnd := min b.k (i.part * len + len), load := if b.begins then decide (b.preload ≠ 0 ∧ i.part = 0) else true,
    preload := decide ((b.preload = 1 ∨ b.preload = 2) ∧ i.part = 0), ends := b.ends, order := e.order, flue := flue }

/-- The items that perform work: a part that starts at or beyond K does not (R105). -/
def Matmul.working (b : Matmul) (sp : Nat) (items : List Item) : List Item :=
  items.filter fun i => decide (i.part * b.partLen sp < b.k)

/-- A tile is taken by a dealt job: its accumulation is open, and its element count holds every dealt MATMUL (R58). -/
def TileInfo.dealt (t : TileInfo) (b : Matmul) : TileInfo :=
  if b.begins then { t with isOpen := true, elements := b.k, spilled := false, fresh := false }
  else { t with elements := t.elements + b.k }

/-- MATMUL: its tiles and parts are dealt to the hearths (R104 to R106). -/
def State.dealMatmul (s : State) (n : Nat) (e : Entry) : State :=
  let b := matmulOf e.desc
  let hs := s.workHearths e
  let sp := b.parts hs.length
  let items := b.working sp (s.matmulItems b hs)
  let flue := decide (s.classOf n = 0#2)
  let s := items.foldl (fun s i =>
    s.modHearth i.hearth fun x => (x.setTile i.atile ((x.tile i.atile).dealt b)).addJob (itemJob n e b sp flue i)) s
  s.modEntry n e.pos fun e => { e with started := true, left := items.length + if sp = 1 then 0 else b.tiles }

def execMatmul (ring : BitVec 7) (pos : W32) (s : State) : Result :=
  match s.running ring.toNat pos 0x01 with
  | some e => .next (if e.started then s else s.dealMatmul ring.toNat e)
  | none => .next s

/-- A share of a position's work on a hearth is done; the last one ends it. -/
def State.shareDone (s : State) (n : Nat) (pos : W32) : State :=
  let s := s.modEntry n pos fun e => { e with left := e.left - 1 }
  match s.entry n pos with
  | some e => if e.left = 0 then s.finish n pos else s
  | none => s

def State.act (s : State) (n : Nat) (pos : W32) (h : Nat) : State :=
  s.modEntry n pos fun e => { e with acted := e.acted ||| BitVec.ofNat 64 (2 ^ h) }

/-- A position's work stops everywhere (R387): its jobs, passes and panels leave every hearth. -/
def Hearth.purge (n : Nat) (pos : W32) (x : Hearth) : Hearth :=
  let mine (j : TileJob) : Bool := j.of n pos
  let x := { x with jobs := x.jobs.filter (fun j => !mine j), panels := x.panels.filter (fun p => !(p.ring == n && p.pos == pos)),
                    chains := x.chains.filter fun c => !(c.ring == n && c.pos == pos) }
  let x := match x.liveJob with
    | some j => if mine j then { x with liveJob := none, live := [], liveBad := false, spillDue := false, yielding := false } else x
    | none => x
  match x.shadowUse with
  | .draining j => if mine j then x.freeShadow else x
  | .loaded j => if mine j then x.freeShadow else x
  | .free => x

/-- Adds of a position that wait in an ordering buffer. -/
def Port.purge (n : Nat) (pos : W32) (p : Port) : Port := { p with adds := p.adds.filter fun a => !(a.ring == n && a.pos == pos) }

def State.stopWork (s : State) (n : Nat) (pos : W32) : State :=
  ({ s with hearths := Tab.remap Hearth.reset s.hearths (Hearth.purge n pos),
            ports := Tab.remap Port.reset s.ports (Port.purge n pos) }).finish n pos

/-- The work of a position that an error has ended stops; any other goes on. -/
def State.stopIfEnded (s : State) (n : Nat) (pos : W32) : State := if s.ended n pos then s.stopWork n pos else s

/-! ### Panels (R107) -/

/-- The job whose panel is fetched next: the live one and then the queue, of the first descriptor alone. -/
def Hearth.grateJobs (x : Hearth) : List TileJob := (match x.liveJob with
  | some j => [j]
  | none => []) ++ x.jobs

/-- The Mantel bytes of a list of ranges. -/
def snapshot (m : Memory) (rs : List Range) : Memory :=
  m.filter fun p => rs.any fun r => decide (r.lo ≤ p.1) && decide (p.1 < r.lo + r.len)

def Hearth.hasPanel (x : Hearth) (j : TileJob) (id : Nat) : Option Panel :=
  x.panels.find? fun p => p.ring == j.ring && p.pos == j.pos && p.id == id

/-- The live job has read its last chunk: panels of its descriptor that no waiting job needs leave their halves. -/
def Hearth.dropPanels (x : Hearth) (b : Matmul) (j : TileJob) : Hearth :=
  { x with panels := x.panels.filter fun p => p.ring != j.ring || p.pos != j.pos ||
      x.jobs.any fun k => k.ring == j.ring && k.pos == j.pos && b.panelOf k == p.id }

/-- The jobs of a position that a hearth still has to finish, a draining tile among them. -/
def Hearth.jobsOf (x : Hearth) (n : Nat) (pos : W32) : List TileJob :=
  ((match x.shadowUse with
    | .draining j => [j]
    | _ => []) ++ x.grateJobs).filter fun j => j.of n pos

/-- A tile of a MATMUL has committed on its hearth (R77), whose share ends with its last tile (R78). -/
def State.tileDone (s : State) (n : Nat) (pos : W32) (h a : Nat) : State :=
  let none' := ((s.hearth h).jobsOf n pos).isEmpty
  (s.modEntry n pos fun e => let e := e.committed h a; if none' then e.leave h else e).shareDone n pos

/-- STAGE_PANEL_FETCH: the next panel of the hearth's first MATMUL goes into the free half of the stage, with the mark of marked data
(R347), which ends the descriptor. -/
def State.fetchPanel (s : State) (h : Nat) : State :=
  let x := s.hearth h
  match x.grateJobs with
  | [] => s
  | j :: _ =>
    match s.entry j.ring j.pos with
    | none => s
    | some e =>
      let b := matmulOf e.desc
      match b.streamed with
      | none => s
      | some p =>
        let mine := x.panels.filter fun q => q.ring == j.ring && q.pos == j.pos
        let ids := (x.grateJobs.filter fun k => k.of j.ring j.pos).map b.panelOf
        let reads := fun id => b.panelReads p id
        match ids.find? fun id => !(mine.any fun q => q.id == id) with
        | none => s
        | some id =>
          if decide (2 ≤ mine.length) || (reads id).any (fun r => s.stalls r) then s
          else if s.ended j.ring j.pos then s.stopWork j.ring j.pos
          else
            let half := match mine.head? with
              | some q => 1 - q.half
              | none => 0
            let s := s.act j.ring j.pos h
            let s := s.sealReads j.ring j.pos none (reads id)
            let (bs, s) := s.drawBytes (b.panelBytes p)
            let (s, bad) := s.meet j.ring j.pos (reads id)
            let s := s.poke 0 h (b.stageBase + half * (b.stageSize / 2)) bs bad
            if bad then s.stopWork j.ring j.pos
            else
              s.modHearth h fun x =>
                { x with panels := x.panels ++ [{ ring := j.ring, pos := j.pos, id := id, half := half, data := snapshot s.mantel (reads id) }] }

def execStagePanelFetch (hearth : BitVec 6) (s : State) : Result :=
  if hearth.toNat < s.cfg.hearths then .next (if s.hearthRuns hearth.toNat then s.fetchPanel hearth.toNat else s) else .fault .absentUnit

/-! ### Loads (R69, R101) -/

/-- acc0 of an element of a preloaded tile: the source's value inside the region, -0 outside. -/
def State.preloadWord (s : State) (h : Nat) (b : Matmul) (j : TileJob) (r c : Nat) : W32 :=
  let m := 128 * j.ti + r
  let n := 128 * j.tj + c
  if m < b.m ∧ n < b.n then
    s.storeWord h (b.preAddr + (if b.preload = 2 then m * b.preStride else 0) + 4 * n)
  else negZero32

def State.preloadTable (s : State) (h : Nat) (b : Matmul) (j : TileJob) : Tab W32 :=
  Tab.ofList negZero32 0 ((List.range 128).flatMap fun r => (List.range 128).map fun c => s.preloadWord h b j r c)

/-- The hearth-store ranges that a preload reads. -/
def preloadReads (h : Nat) (b : Matmul) (j : TileJob) : List Range :=
  let cols := min 128 (b.n - 128 * j.tj)
  let rows := if b.preload = 2 then min 128 (b.m - 128 * j.ti) else 1
  (List.range rows).map fun r =>
    { space := 0, hearth := h, lo := b.preAddr + (if b.preload = 2 then (128 * j.ti + r) * b.preStride else 0) + 4 * (128 * j.tj),
      len := 4 * cols }

/-- The preload values are written into the tile's place in accumulator memory (R101). -/
def State.writePreload (s : State) (h : Nat) (b : Matmul) (j : TileJob) : State :=
  if j.preload then
    let (s, bad) := s.meet j.ring j.pos (preloadReads h b j)
    let s := s.storeTile h j.atile (s.preloadTable h b j)
    if bad then s.markTile h j.atile else s
  else s

/-- Whether a Flue MATMUL that has issued to a hearth is still to be dealt there: work of other classes leaves the Grate to it (R267). -/
def State.grateHeld (s : State) (h : Nat) : Bool :=
  s.rings.any fun p => s.flueRing p.1 && p.2.entries.any fun e =>
    decide (e.stage = .running) && descOpcode e.desc == 0x01 && !e.started && e.work.contains h

/-- TILE_LOAD: the tile of the Grate's next job is copied into the free shadow set. -/
def State.tileLoad (s : State) (h : Nat) : State :=
  let x := s.hearth h
  match x.jobs with
  | [] => s
  | j :: _ =>
    let info := x.tile j.atile
    let liveHere := match x.liveJob with
      | some l => l.atile == j.atile
      | none => false
    match s.entry j.ring j.pos with
    | none => s
    | some e =>
      if s.ended j.ring j.pos then s.stopWork j.ring j.pos
      else if j.load && !info.fresh && decide (x.shadowUse = .free) && !liveHere && !(s.grateHeld h && !j.flue) then
        let s := s.act j.ring j.pos h
        let s := s.writePreload h (matmulOf e.desc) j
        let (s, bad) := if s.ended j.ring j.pos then (s, false) else s.meet j.ring j.pos [tileRange h j.atile]
        if bad then (s.markTile h j.atile).stopWork j.ring j.pos
        else if s.ended j.ring j.pos then s.stopWork j.ring j.pos
        else
          s.modHearth h fun x =>
            let j' := { j with preload := false }
            { x with shadow := tileWords x.acc j.atile, shadowFill := negZero32, shadowBad := false, shadowUse := .loaded j', jobs := j' :: x.jobs.drop 1 }
      else s

def execTileLoad (hearth : BitVec 6) (s : State) : Result :=
  if hearth.toNat < s.cfg.hearths then .next (if s.hearthRuns hearth.toNat then s.tileLoad hearth.toNat else s) else .fault .absentUnit

/-! ### Swaps (R66, R67, R73) -/

/-- The first chunk index of a job that begins an accumulation (R105). -/
def Matmul.firstChunk (b : Matmul) (j : TileJob) : Nat := j.part * b.partLen j.parts / pairWidth b.a.fmt b.b.fmt

/-- A job becomes live on a live set; `bad` says that a cell of the set has lost its parity. -/
def Hearth.goLive (x : Hearth) (b : Matmul) (j : TileJob) (words : Tab W32) (bad : Bool) : Hearth :=
  let t := x.tile j.atile
  let starts := b.begins && decide (j.kNext = j.part * b.partLen j.parts)
  let t := { t with state := .live, fresh := false, chunk := if starts then b.firstChunk j else t.chunk }
  { (x.setTile j.atile t) with
    live := words, liveFill := negZero32, liveBad := bad, liveJob := some j, jobs := x.jobs.drop 1, spillDue := false, yielding := false,
    flueDue := false }

/-- A job needs no load: it begins at -0, or its tile's memory holds the starting -0 of a group (R69). -/
def Hearth.noLoad (x : Hearth) (j : TileJob) : Bool := !j.load || (x.tile j.atile).fresh

/-- The next job goes live when its values are at hand: loaded in the shadow set, or -0. `held` says that the Grate waits for Flue. -/
def Hearth.takeNext (x : Hearth) (body : TileJob → Matmul) (loaded : Option (TileJob × Tab W32 × Bool)) (busy : Option Nat) (held : Bool) :
    Hearth :=
  match x.jobs.head? with
  | none => x
  | some j =>
    if held && !j.flue then x
    else match loaded with
    | some (l, words, bad) => if l = j then x.goLive (body j) j words bad else x
    | none => if x.noLoad j ∧ busy ≠ some j.atile then x.goLive (body j) j [] false else x

/-- The live tile leaves for the shadow set. -/
def Hearth.swapOut (x : Hearth) (j : TileJob) : Hearth :=
  let x := x.setTile j.atile { x.tile j.atile with state := .draining }
  { x with shadow := x.live, shadowFill := x.liveFill, shadowBad := x.liveBad, shadowUse := .draining j, live := [], liveBad := false,
           liveJob := none, spillDue := false, yielding := false, flueDue := false }

def Hearth.loadedTile (x : Hearth) : Option (TileJob × Tab W32 × Bool) :=
  match x.shadowUse with
  | .loaded j => some (j, x.shadow, x.shadowBad)
  | _ => none

def ShadowUse.drains : ShadowUse → Bool
  | .draining _ => true
  | _ => false

/-- The next job continues the live accumulation on the same tile, so the tile stays live (R73). -/
def Hearth.continues (x : Hearth) (body : TileJob → Matmul) (j : TileJob) : Option TileJob :=
  match x.jobs.head? with
  | some k => if !j.ends && k.atile == j.atile && !(body k).begins then some k else none
  | none => none

/-- TILE_SWAP. -/
def State.tileSwap (s : State) (h : Nat) : State :=
  let x := s.hearth h
  let body (j : TileJob) : Matmul := match s.entry j.ring j.pos with
    | some e => matmulOf e.desc
    | none => matmulOf 0#1024
  let held := s.grateHeld h
  if x.shadowUse.drains || x.spillDue then s
  else match x.liveJob with
    | none =>
      match x.jobs.head? with
      | some j => if held && !j.flue then s else s.setHearth h (x.freeShadow.takeNext body x.loadedTile none held)
      | none => s.setHearth h x.freeShadow
    | some j =>
      if j.kNext = j.kEnd then
        match x.continues body j with
        | some k =>
          (s.setHearth h { x with liveJob := some k, jobs := x.jobs.drop 1, yielding := false }).tileDone j.ring j.pos h j.atile
        | none => s.setHearth h ((x.swapOut j).takeNext body x.loadedTile (some j.atile) held)
      else if x.yielding then
        let y := { (x.swapOut j) with jobs := insertJob { j with load := true } x.jobs }
        (s.setHearth h (y.takeNext body x.loadedTile (some j.atile) held)).raise j.ring j.pos fPreempted
      else s

def execTileSwap (hearth : BitVec 6) (s : State) : Result :=
  if hearth.toNat < s.cfg.hearths then .next (if s.hearthRuns hearth.toNat then s.tileSwap hearth.toNat else s) else .fault .absentUnit

/-! ### Chunk steps (R49 to R62) -/

/-- Elements (128 of them, from i0) of an operand for the chunk's indices; those beyond the operand enter as +0 (R102). -/
def Placed.slice (p : Placed) (mem : Memory) (i0 outer k0 kn : Nat) : List (List FVal) :=
  (List.range 128).map fun i =>
    (List.range kn).map fun k => if i0 + i < outer then p.value mem (i0 + i) (k0 + k) else FVal.zero

/-- The bytes that an operand of a job is read from: the store, a tile, or the panel in the stage. -/
def Hearth.operandBytes (x : Hearth) (b : Matmul) (j : TileJob) (o : Operand) : Option Memory :=
  match o.space with
  | 0 => some x.store
  | 2 => some x.acc
  | _ => (x.hasPanel j (b.panelOf j)).map Panel.data

/-- The rounding of a cell's chunk step (R54, R62). -/
def Matmul.rounding (b : Matmul) (h a chunk r c : Nat) : Rounding :=
  if b.sr then .sr ((genH b.seed h a r c chunk).toNat % 65536) else .rne

/-- One chunk step of every cell: the live set after it, and the flags of the cells inside M × N (R57). -/
def Matmul.stepCells (b : Matmul) (h chunk : Nat) (j : TileJob) (fill : W32) (live : Tab W32) (as bs : List (List FVal)) : Tab W32 × Nat :=
  let rows := (List.range 128).map fun r =>
    let a := nth [] as r
    ((cellRow fill live r).zip (bs.zip (List.range 128))).map fun q =>
      let (w, fl) := chunkStep (b.rounding h j.atile chunk r q.2.2) q.1 (a.zip q.2.1)
      (w, if 128 * j.ti + r < b.m ∧ 128 * j.tj + q.2.2 < b.n then fl else 0)
  (Tab.ofList negZero32 0 (rows.flatMap fun row => row.map Prod.fst), orFlags (rows.map fun row => orFlags (row.map Prod.snd)))

/-- Whether an auto-spill follows a chunk (R59). The last chunk of each part of a K-split, which needs END, counts as the last chunk of a
descriptor carrying END: DESIGN CHOICE, log entry 131. -/
def Matmul.spills (b : Matmul) (hasMantel : Bool) (j : TileJob) (chunk : Nat) (kNext : Nat) : Bool :=
  !b.nospill && hasMantel && decide ((chunk + 1) % 65536 = 0) && !(j.ends && decide (kNext = j.kEnd))

/-- The hearth-store and tile ranges that a chunk reads. -/
def Matmul.chunkReads (b : Matmul) (h : Nat) (j : TileJob) (kn : Nat) : List Range :=
  let side (p : Placed) (i0 outer : Nat) : List Range :=
    if p.op.space = 1 then [] else p.reads h i0 (min 128 (outer - i0)) j.kNext kn
  side b.placedA (128 * j.ti) b.m ++ side b.placedB (128 * j.tj) b.n

/-- The group of a member MATMUL is touched (R84). -/
def Hearth.touch (x : Hearth) (b : Matmul) : Hearth :=
  if b.group then
    { x with groups := Tab.put Group.reset x.groups b.gid { Tab.at Group.reset x.groups b.gid with touched := true } }
  else x

/-- BOUND_VOID (R60): without auto-spill, an accumulation above 2^20 chunks at the end of its descriptor. -/
def Matmul.boundVoid (b : Matmul) (hasMantel : Bool) (j : TileJob) (chunks : Nat) : Bool :=
  (b.nospill || !hasMantel) && decide (2 ^ 20 < chunks - if j.parts = 1 then 0 else b.firstChunk j)

/-- CHUNK_STEP of a live job. -/
def State.chunkOf (s : State) (h : Nat) (j : TileJob) (b : Matmul) : State :=
  let x := s.hearth h
  match x.operandBytes b j b.a, x.operandBytes b j b.b with
  | some ma, some mb =>
    let kn := min (pairWidth b.a.fmt b.b.fmt) (j.kEnd - j.kNext)
    let (s, bad) := s.meet j.ring j.pos (b.chunkReads h j kn)
    let x := s.hearth h
    if bad then ((s.act j.ring j.pos h).markTile h j.atile).stopWork j.ring j.pos
    else
      let t := x.tile j.atile
      let as := b.placedA.slice ma (128 * j.ti) b.m j.kNext kn
      let bs := b.placedB.slice mb (128 * j.tj) b.n j.kNext kn
      let (live, fl) := b.stepCells h t.chunk j x.liveFill x.live as bs
      let k' := j.kNext + kn
      let j' := { j with kNext := k' }
      let stops := x.flueDue && !j.flue && (decide ((t.chunk + 1) % 256 = 0) || decide (k' = j.kEnd))
      let x' := { ((x.setTile j.atile { t with chunk := t.chunk + 1 }).touch b) with
        live := live, liveJob := some j', spillDue := b.spills s.cfg.hasMantel j t.chunk k',
        yielding := stops && decide (k' ≠ j.kEnd), flueDue := x.flueDue && !stops }
      let void := decide (k' = j.kEnd) && b.boundVoid s.cfg.hasMantel j (t.chunk + 1)
      let s := ((s.setHearth h (if k' = j.kEnd then x'.dropPanels b j' else x')).act j.ring j.pos h).raise j.ring j.pos
        (fl ||| flagIf void fBoundVoid)
      if k' = j.kEnd ∧ (x.jobs.any fun q => q.of j.ring j.pos) = false then s.modEntry j.ring j.pos fun e => e.takenAll h else s
  | _, _ => s

/-- CHUNK_STEP. -/
def State.chunk (s : State) (h : Nat) : State :=
  let x := s.hearth h
  match x.liveJob with
  | none => s
  | some j =>
    if j.kNext = j.kEnd || x.spillDue || x.yielding || (!j.flue && s.withheld h 1#2) then s
    else match s.entry j.ring j.pos with
      | some e => if e.status ≠ 0#8 then s.stopWork j.ring j.pos else s.chunkOf h j (matmulOf e.desc)
      | none => s

def execChunkStep (hearth : BitVec 6) (s : State) : Result :=
  if hearth.toNat < s.cfg.hearths then .next (if s.hearthRuns hearth.toNat then s.chunk hearth.toNat else s) else .fault .absentUnit

/-! ### Cell parity (Table 17-1) -/

/-- A cell of a tile that leaves its set has lost its parity (Table 17-1): the whole tile is marked in memory, and its descriptor ends with
E_MEM. -/
def State.cellParity (s : State) (h : Nat) (j : TileJob) (words : Tab W32) : State :=
  let s := ((s.act j.ring j.pos h).storeTile h j.atile words).markTile h j.atile
  let s := s.logError ((ErrorEvent.plain 3 0x03 3 h (BitVec.ofNat 64 j.atile)).of j.ring j.pos 0x01 stMem)
  (s.fail j.ring j.pos stMem (0x300 + h)).stopWork j.ring j.pos

/-! ### Auto-spill (R59) -/

/-- AUTO_SPILL: the live set passes through the shadow set into the XAB, and the cells restart at -0. A tile loaded in the shadow set, which is
free to the swap (R67), gives way: it still stands in memory and is loaded again. -/
def Hearth.autoSpill (x : Hearth) (j : TileJob) : Hearth :=
  let old := (List.range 128).map fun r => (rowWords x.live r, r)
  let bytes := old.flatMap fun q => (q.1.zip (List.range 128)).flatMap fun w =>
    leBytes 8 (spillAdd (x.xabAt j.atile (128 * q.2 + w.2)) w.1).toNat
  { (x.setTile j.atile { x.tile j.atile with spilled := true }) with
    xab := x.xab.store (j.atile * xabBytes) bytes, live := [], liveFill := negZero32, spillDue := false, shadow := [],
    shadowBad := false, shadowUse := .free }

def execAutoSpill (hearth : BitVec 6) (s : State) : Result :=
  if hearth.toNat < s.cfg.hearths then
    let h := hearth.toNat
    let x := s.hearth h
    match x.liveJob with
    | some j =>
      if s.hearthRuns h && x.spillDue && !x.shadowUse.drains && !s.bankWiping (h * 2 ^ 28) then
        .next (if x.liveBad then s.cellParity h j x.live else s.setHearth h (x.autoSpill j))
      else .next s
    | none => .next s
  else .fault .absentUnit

/-! ### Drains (R68, R73, R113) -/

/-- The result of a tile whose accumulation ends: with a spill, the exact sum with the XAB value, rounded once (R59). -/
def Hearth.tileResult (x : Hearth) (b : Matmul) (j : TileJob) (words : Tab W32) : Tab W32 × Nat :=
  if (x.tile j.atile).spilled then
    let rows := (List.range 128).map fun r =>
      ((rowWords words r).zip (List.range 128)).map fun q =>
        let (w, fl) := spillEnd (x.xabAt j.atile (128 * r + q.2)) q.1
        (w, if 128 * j.ti + r < b.m ∧ 128 * j.tj + q.2 < b.n then fl else 0)
    (Tab.ofList negZero32 0 (rows.flatMap fun row => row.map Prod.fst), orFlags (rows.map fun row => orFlags (row.map Prod.snd)))
  else (words, 0)

/-- The tile's accumulation is over: IDLE, with nothing left in the XAB. -/
def TileInfo.closed (t : TileInfo) : TileInfo :=
  { t with state := .idle, isOpen := false, elements := 0, chunk := 0, spilled := false, fresh := false }

/-- TILE_DRAIN_COMMIT of a job whose accumulation ends. -/
def State.commitEnd (s : State) (h : Nat) (j : TileJob) (e : Entry) (words : Tab W32) : State :=
  let b := matmulOf e.desc
  let (result, fl) := (s.hearth h).tileResult b j words
  let s := s.storeTile h j.atile result
  let s := s.modTile h j.atile TileInfo.closed
  let s := s.raise j.ring j.pos fl
  let s := s.act j.ring j.pos h
  if j.parts = 1 then
    let items := b.working 1 (s.matmulItems b (s.workHearths e))
    let s := s.epilogue j.ring j.pos h (b.tilePass e items h j.tile) result negZero32 false
    if s.ended j.ring j.pos then s.stopWork j.ring j.pos else s.tileDone j.ring j.pos h j.atile
  else (s.modEntry j.ring j.pos fun e => { e with arrived := e.arrived ++ [(j.tile, j.part)] }).shareDone j.ring j.pos

/-- A park commits: the tile's raw values stand in memory and its accumulation stays open. -/
def State.commitPark (s : State) (h : Nat) (j : TileJob) (words : Tab W32) : State :=
  let s := s.storeTile h j.atile words
  let s := s.modTile h j.atile fun t => { t with state := .parked }
  if j.kNext = j.kEnd then s.tileDone j.ring j.pos h j.atile else s

/-- Whether the output of a tile that ends goes to a bank under wipe: the drain waits (R354). -/
def State.drainStalls (s : State) (h : Nat) (j : TileJob) (e : Entry) : Bool :=
  let b := matmulOf e.desc
  j.ends && decide (j.kNext = j.kEnd) && decide (j.parts = 1) &&
    ((b.tilePass e (b.working 1 (s.matmulItems b (s.workHearths e))) h j.tile).writes h).any fun r => s.stalls r

/-- TILE_DRAIN_COMMIT. -/
def State.drainCommit (s : State) (h : Nat) : State :=
  let x := s.hearth h
  match x.shadowUse with
  | .draining j =>
    let words := x.shadow
    let s0 := s
    let s := s.setHearth h x.freeShadow
    match s.entry j.ring j.pos with
    | some e =>
      if e.status ≠ 0#8 then s.stopWork j.ring j.pos
      else if s0.drainStalls h j e then s0
      else if x.shadowBad then s.cellParity h j words
      else if j.ends && decide (j.kNext = j.kEnd) then s.commitEnd h j e words
      else s.commitPark h j words
    | none => s.commitPark h j words
  | _ => s

def execTileDrainCommit (hearth : BitVec 6) (s : State) : Result :=
  if hearth.toNat < s.cfg.hearths then .next (if s.hearthRuns hearth.toNat then s.drainCommit hearth.toNat else s) else .fault .absentUnit

/-! ### K-split combination (R105, R270, R271) -/

/-- RN(acc + part), element by element; flags of the region alone. -/
def addTables (b : Matmul) (ti tj : Nat) (x y : Tab W32) : Tab W32 × Nat :=
  let rows := (List.range 128).map fun r =>
    ((rowWords x r).zip ((rowWords y r).zip (List.range 128))).map fun q =>
      let (w, fl) := fAdd q.1 q.2.1
      (w, if 128 * ti + r < b.m ∧ 128 * tj + q.2.2 < b.n then fl else 0)
  (Tab.ofList negZero32 0 (rows.flatMap fun row => row.map Prod.fst), orFlags (rows.map fun row => orFlags (row.map Prod.snd)))

/-- The parts of a tile in the order in which the home adds them. -/
def combineOrder (e : Entry) (draught : Bool) (tile : Nat) (parts : List Nat) : List Nat :=
  if draught then (e.arrived.filter fun a => a.1 == tile).map Prod.snd else parts

/-- K_SPLIT_COMBINE: once every working part of a tile has finished, and every earlier tile of the home has combined. The pair
(tile, parts) marks a combined tile in `arrived`. -/
def State.combine (s : State) (n : Nat) (e : Entry) (tile : Nat) : State :=
  let b := matmulOf e.desc
  let hs := s.workHearths e
  let sp := b.parts hs.length
  let items := b.working sp (s.matmulItems b hs)
  let mine := items.filter fun i => i.tile == tile
  match mine.find? fun i => i.part == 0 with
  | none => s
  | some home =>
    let parts := mine.map Item.part
    let here := (items.filter fun i => i.hearth == home.hearth && i.part == 0).map Item.tile
    let before := (here.filter fun t => decide (t < tile)).all fun t => e.arrived.contains (t, sp)
    let t := b.tilePass e items home.hearth tile
    if sp = 1 || ((t.writes home.hearth).any fun r => s.stalls r) || !(parts.all fun p => e.arrived.contains (tile, p)) || e.arrived.contains (tile, sp) || !before ||
        !s.hearthRuns home.hearth then s
    else
      let draught := decide (s.classOf n = 2#2) || decide (s.classOf n = 3#2)
      let order := combineOrder e draught tile parts
      let words (p : Nat) : Tab W32 := match mine.find? fun i => i.part == p with
        | some i => tileWords (s.hearth i.hearth).acc i.atile
        | none => []
      let ij := tileAt b.order b.tm b.tn tile
      let first := words (nth 0 order 0)
      let (result, fl) := (order.drop 1).foldl (fun acc p =>
        let (t, f) := addTables b ij.1 ij.2 acc.1 (words p)
        (t, acc.2 ||| f)) (first, 0)
      let (s, bad) := s.meet n e.pos (mine.map fun i => tileRange i.hearth i.atile)
      let s := s.storeTile home.hearth home.atile result
      let s := if bad then s.markTile home.hearth home.atile else s
      let s := s.raise n e.pos (fl ||| flagIf (draught && decide (3 ≤ sp) && order != parts) fVaried)
      let s := s.modEntry n e.pos fun e => { e with arrived := e.arrived ++ [(tile, sp)] }
      let s := s.epilogue n e.pos home.hearth t result negZero32 bad
      if s.ended n e.pos then s.stopWork n e.pos
      else (s.modEntry n e.pos fun e => mine.foldl (fun e i => e.committed i.hearth i.atile) e).shareDone n e.pos

def execKSplitCombine (ring : BitVec 7) (pos : W32) (tile : BitVec 32) (s : State) : Result :=
  match s.running ring.toNat pos 0x01 with
  | some e =>
    .next (if !e.started then s else if e.status ≠ 0#8 then s.stopWork ring.toNat pos else s.combine ring.toNat e tile.toNat)
  | none => .next s

/-! ### DRAIN (R109) -/

/-- The tiles of a DRAIN on one hearth. -/
def drainOwn (items : List Item) (h : Nat) : List Item := items.filter fun i => i.hearth == h

/-- Pieces of a tile: blocks of 1,024 elements, at whose boundaries a DRAIN yields (R110, R267). -/
def tilePieces : Nat := 16

/-- The shares of a DRAIN: each hearth with its pieces. -/
def drainShares (items : List Item) : List (Nat × Nat) :=
  (items.foldl (fun acc i => if acc.contains i.hearth then acc else acc ++ [i.hearth]) []).map fun h =>
    (h, tilePieces * (drainOwn items h).length)

/-- Whether the epilogue of a hearth is free for a piece: the hearth runs, no swap-out drain holds it (R110), no Flue descriptor has issued
to the hearth (R267), and the piece's output does not wait for a bank under wipe (R354). -/
def State.mayDrain (s : State) (n : Nat) (e : Entry) (items : List Item) (h : Nat) : Bool :=
  s.hearthRuns h && !s.withheld h (s.classOf n) && !s.yields n h && !(s.hearth h).shadowUse.drains &&
    match (drainOwn items h)[e.pieces h / tilePieces]? with
    | some i => !(((drainOf e.desc).tilePass e items h i.tile).writes h).any fun r => s.stalls r
    | none => true

/-- One piece of a DRAIN: the block of 1,024 elements after `k` pieces of a hearth's share passes the epilogue. -/
def State.drainPiece (s : State) (n : Nat) (e : Entry) (items : List Item) (h k : Nat) : State :=
  match (drainOwn items h)[k / tilePieces]? with
  | none => s
  | some i =>
    let t := (drainOf e.desc).tilePass e items h i.tile
    let b := k % tilePieces
    let final := decide (t.blocks ≤ b + 1)
    let s := s.act n e.pos h
    let own : Range := { tileRange h i.atile with lo := i.atile * tileBytes + 4096 * b, len := 512 * min 8 (t.rows - 8 * b) }
    let (s, bad) := s.meet n e.pos [own]
    let (s, bad') := s.epilogueInputs n e.pos h t
    let s := if b = 0 then s.startTopk h t else s
    let s := s.epilogueBlock n e.pos h t (tileWords (s.hearth h).acc i.atile) negZero32 (bad || bad') b
    let s := if final then (s.endTileRow n e.pos h t false).modEntry n e.pos fun e => e.taken h i.atile else s
    s.advance n e.pos (drainShares items) h (if final then tilePieces * (k / tilePieces + 1) else k + 1)
      (tilePieces * (drainOwn items h).length)

/-- DRAIN: the next piece of the first hearth that may act. An error that has ended the descriptor ends its work (R387). -/
def State.drain (s : State) (n : Nat) (e : Entry) : State :=
  let items := (drainOf e.desc).items (s.workHearths e)
  if e.status ≠ 0#8 then s.finish n e.pos
  else match e.nextPiece (drainShares items) (s.mayDrain n e items) with
    | some q => s.drainPiece n e items q.1 q.2
    | none => s

def execDrain (ring : BitVec 7) (pos : W32) (s : State) : Result :=
  match s.running ring.toNat pos 0x02 with
  | some e => .next (s.drain ring.toNat e)
  | none => .next s

end Sys2Proof.Machine
end

