-- ==== Sys2Proof/Machine/Groups.lean ====
section
/-! DEFINITION. Accumulation groups (chapter 4): GROUP descriptors (Table 04-5), their checks (Table 04-6), spill records (Table 04-7), and
OPEN, SPILL, RESUME and CLOSE. -/

namespace Sys2Proof.Machine

/-- The body of a GROUP descriptor (Table 04-5). -/
structure GroupDesc where
  op : Nat
  gid : Nat
  keep : Bool
  tiles : W64
  xaddr : Nat
  xstride : Nat
  deriving DecidableEq, Repr

def groupOf (desc : DescBits) : GroupDesc :=
  let d := desc.toNat
  { op := fld d 16 0 2, gid := fld d 16 4 4, keep := flag d 17 0, tiles := BitVec.ofNat 64 (fld d 24 0 64), xaddr := fld d 32 0 64,
    xstride := fld d 40 0 64 }

def groupFields : List (Nat × Nat × Nat) := [(16, 0, 2), (16, 4, 4), (17, 0, 1), (24, 0, 64), (32, 0, 64), (40, 0, 64)]

def Hearth.group (x : Hearth) (g : Nat) : Group := Tab.at Group.reset x.groups g
def Hearth.setGroup (x : Hearth) (g : Nat) (v : Group) : Hearth := { x with groups := Tab.put Group.reset x.groups g v }

/-- Whether an open group holds a tile (Table 04-10). -/
def Hearth.held (x : Hearth) (a : Nat) : Bool := x.groups.any fun g => g.2.isOpen && g.2.tiles.getLsbD a

/-- A tile that OPEN and RESUME refuse: LIVE, DRAINING or PARKED, or held by an open group. -/
def Hearth.busyTile (x : Hearth) (a : Nat) : Bool := (x.tile a).isOpen || decide ((x.tile a).state ≠ .idle) || x.held a

/-! ### Spill records (Table 04-7) -/

def spillHeader : Nat := 4096
def spillBlock : Nat := 131072

/-- The record of the i-th hearth of the mask (R82). -/
def GroupDesc.record (b : GroupDesc) (i : Nat) : Nat := b.xaddr + i * b.xstride

/-- The hearths of the mask with their records. -/
def GroupDesc.places (b : GroupDesc) (hs : List Nat) : List (Nat × Nat) :=
  (hs.zip (List.range hs.length)).map fun q => (q.1, b.record q.2)

/-- The header of a record, as the number of its 4,096 bytes. -/
def State.spillImage (s : State) (xa : Nat) : Nat := s.mantel.nat xa spillHeader

def spillHasData (img : Nat) : Bool := flag img 4 1

/-- Value (i, c) of a record; -0 everywhere while DATA = 0 (R90). -/
def State.spillValues (s : State) (xa : Nat) (has : Bool) (i : Nat) : Tab W64 :=
  if has then
    let bs := s.mantel.read (xa + spillHeader + spillBlock * i) spillBlock
    Tab.build negZero64 16384 fun c => BitVec.ofNat 64 (leNat ((bs.drop (8 * c)).take 8))
  else []

/-! ### Checks (Table 04-6) -/

/-- Field rules of Table 04-5. -/
def State.groupFieldBreaches (s : State) (desc : DescBits) : List Breach :=
  let b := groupOf desc
  let spills := decide (b.op = 1 ∨ b.op = 2)
  bodyReserved desc.toNat groupFields ++
    breach (b.keep && decide (b.op ≠ 0)) 0 [16, 17] ++
    breach (decide (b.tiles ≠ 0#64) && decide (b.op = 1 ∨ b.op = 3)) 0 [16, 24] ++
    breach (decide (b.xaddr ≠ 0) && !spills) 0 [16, 32] ++
    breach (decide (b.xaddr % 4096 ≠ 0)) 0 [32] ++ breach (decide (b.xstride % 4096 ≠ 0)) 0 [40] ++
    breach (spills && !s.cfg.hasMantel) 0 [32]

/-- Bytes of a record of T tiles. -/
def spillBytes (tiles : Nat) : Nat := spillHeader + spillBlock * tiles

/-- The breach of a record that RESUME refuses; of several, the lowest place and offset (R259). -/
def recordBreaches (img tiles cls : Nat) : List Breach :=
  breach (fld img 3 0 8 != tiles) 0 [24] ++ breach (fld img 0 0 16 != 0x4752) plSpill [0] ++
    breach (fld img 2 0 8 != 1) plSpill [2] ++ breach (fld img 5 0 8 != cls) plSpill [5]

/-- The first busy tile of a mask. -/
def Hearth.busyOf (x : Hearth) (tiles : W64) : Option Nat := (groupTiles tiles).find? fun a => x.busyTile a

/-- The rows of Table 04-6 for one hearth, in table order: the number of the row and its status. A marked header is judged by no field: the
RESUME ends with E_POISON when it runs (R88). -/
def State.groupRefusal (s : State) (n : Nat) (b : GroupDesc) (h xa : Nat) : Option (Nat × Nat × Nat) :=
  let x := s.hearth h
  let g := x.group b.gid
  let row (k : Nat) (bs : List Breach) : Option (Nat × Nat × Nat) := (descVerdict bs).map fun v => (k, v.1, v.2)
  let firstOf (a c : Option (Nat × Nat × Nat)) : Option (Nat × Nat × Nat) := match a with
    | some v => some v
    | none => c
  let busy (k : Nat) : Option (Nat × Nat × Nat) := (x.busyOf b.tiles).map fun a => (k, stTileBusy, a)
  let notOwn := breach (!g.isOpen || decide (g.cls ≠ s.classOf n)) 0 [16]
  let tiles := (groupTiles b.tiles).length
  let lim := s.spaceSize 1
  match b.op with
  | 0 =>
    if g.isOpen then some (1, stGroupOpen, b.gid) else firstOf (row 2 (breach (decide (b.tiles = 0#64)) 0 [24])) (busy 3)
  | 1 =>
    firstOf (row 1 notOwn) (firstOf (row 2 (breach (g.bound.isSome && decide (g.bound ≠ some (BitVec.ofNat 64 xa))) 0 [32]))
      (row 3 (breach (decide (lim < xa + spillBytes (groupTiles g.tiles).length)) 0 [32])))
  | 2 =>
    if g.isOpen then some (1, stGroupOpen, b.gid)
    else if lim < xa + spillHeader then row 2 [(0, 32)]
    else
      let marked := s.tainted { space := 1, hearth := 0, lo := xa, len := spillHeader }
      firstOf (row 2 ((if marked then [] else recordBreaches (s.spillImage xa) tiles (s.classOf n).toNat) ++
        breach (decide (tiles = 0)) 0 [24] ++ breach (decide (lim < xa + spillBytes tiles)) 0 [32])) (busy 3)
  | _ => row 1 notOwn

/-- The status of Table 04-6 that applies first in table order, over every hearth of the mask (R82). -/
def State.groupVerdict (s : State) (n : Nat) (desc : DescBits) (hs : List Nat) : Verdict :=
  let b := groupOf desc
  match descVerdict (s.groupFieldBreaches desc) with
  | some v => some v
  | none =>
    ((b.places hs).filterMap fun q => s.groupRefusal n b q.1 q.2).foldl
      (fun (acc : Option (Nat × Nat × Nat)) v => match acc with
        | some w => if v.1 < w.1 then some v else some w
        | none => some v) none |>.map fun v => (v.2.1, v.2.2)

/-! ### The four operations -/

/-- The tile begins its accumulation within a group. -/
def TileInfo.enter (keep : Bool) (elements chunk : Nat) : TileInfo :=
  { state := .idle, isOpen := true, elements := elements, chunk := chunk, spilled := false, fresh := !keep }

/-- The tile is released with the value that stands in memory. -/
def Hearth.release (x : Hearth) (tiles : List Nat) : Hearth :=
  tiles.foldl (fun x a => x.setTile a (x.tile a).closed) x

/-- The range of a tile whose value is set; its words at -0. -/
def State.clearTile (s : State) (h a : Nat) (w : W32) : State :=
  s.storeTile h a (Tab.build negZero32 16384 fun _ => w)

/-- OPEN on one hearth. -/
def State.openGroup (s : State) (n : Nat) (b : GroupDesc) (h : Nat) : State :=
  let tiles := groupTiles b.tiles
  let s := if b.keep then s else tiles.foldl (fun s a => s.clearTile h a negZero32) s
  s.modHearth h fun x =>
    (tiles.foldl (fun (x : Hearth) a => x.setTile a (TileInfo.enter b.keep 0 0)) x).setGroup b.gid
      { isOpen := true, tiles := b.tiles, touched := false, bound := none, keep := b.keep, cls := s.classOf n }

/-- The exact sum of a tile's memory value, its XAB area and its record's value, for element c. -/
def Hearth.groupSum (x : Hearth) (a : Nat) (words : Tab W32) (vals : Tab W64) (c : Nat) : FVal :=
  ((f32 (Tab.at negZero32 words c)).add (f64 (x.xabAt a c))).add (f64 (Tab.at negZero64 vals c))

/-- The header that a SPILL writes. -/
def spillHeaderBytes (g : Group) (x : Hearth) (has : Bool) (cls count : Nat) (stamp : W64) : List W8 :=
  let tiles := groupTiles g.tiles
  let entry (a : Nat) : List W8 := leBytes 4 a ++ leBytes 4 (x.tile a).elements ++ leBytes 4 (x.tile a).chunk ++ leBytes 4 0
  let head := leBytes 2 0x4752 ++ [0x01#8] ++ leBytes 1 tiles.length ++
    leBytes 1 (bitNat g.touched + 2 * bitNat has + 4 * bitNat g.keep) ++ leBytes 1 cls ++ leBytes 2 count ++
    leBytes 8 stamp.toNat ++ leBytes 48 0 ++ tiles.flatMap entry
  head ++ leBytes (spillHeader - head.length) 0

/-- Whether a SPILL writes the header alone (R90). -/
def Group.headerOnly (g : Group) : Bool := !g.touched && !g.keep && g.bound.isNone

/-- SPILL on one hearth. -/
def State.spillGroup (s : State) (n : Nat) (pos : W32) (b : GroupDesc) (h xa : Nat) : State :=
  let x := s.hearth h
  let g := x.group b.gid
  let old := s.spillImage xa
  let had := g.bound.isSome && spillHasData old
  let count := if g.bound.isSome then min 0xFFFF (fld old 6 0 16 + 1) else 1
  let tiles := groupTiles g.tiles
  let block (q : Nat × Nat) : List W8 :=
    let words := tileWords x.acc q.1
    let vals := s.spillValues xa had q.2
    (List.range 16384).flatMap fun c => leBytes 8 (toF64 (x.groupSum q.1 words vals c)).toNat
  let ws := (xa, spillHeaderBytes g x (!g.headerOnly) (s.classOf n).toNat count s.audit.count) ::
    if g.headerOnly then [] else (tiles.zip (List.range tiles.length)).map fun q => (xa + spillHeader + spillBlock * q.2, block q)
  (s.putAll n pos 1 h ws false).modHearth h fun x => (x.release tiles).setGroup b.gid Group.reset

/-- RESUME on one hearth. -/
def State.resumeGroup (s : State) (n : Nat) (pos : W32) (b : GroupDesc) (h xa : Nat) : State :=
  let img := s.spillImage xa
  let tiles := groupTiles b.tiles
  let s := tiles.foldl (fun s a => s.clearTile h a negZero32) s
  let s := s.put n pos 1 h (xa + 2) [0x02#8] false
  s.modHearth h fun x =>
    ((tiles.zip (List.range tiles.length)).foldl (fun (x : Hearth) q =>
      x.setTile q.1 (TileInfo.enter false (fld img (64 + 16 * q.2 + 4) 0 32) (fld img (64 + 16 * q.2 + 8) 0 32))) x).setGroup b.gid
      { isOpen := true, tiles := b.tiles, touched := flag img 4 0, bound := some (BitVec.ofNat 64 xa), keep := flag img 4 2,
        cls := s.classOf n }

/-- The result of a tile at CLOSE, and its flags (R85, R86). -/
def State.closeTile (s : State) (x : Hearth) (g : Group) (a i : Nat) : Tab W32 × Nat :=
  if !g.touched && !g.keep then (Tab.build negZero32 16384 fun _ => 0#32, 0)
  else
    let words := tileWords x.acc a
    let xa := match g.bound with
      | some r => r.toNat
      | none => 0
    let has := g.bound.isSome && spillHasData (s.spillImage xa)
    if !has && !(x.tile a).spilled then (words, 0)
    else
      let vals := s.spillValues xa has i
      let cells := (List.range 16384).map fun c =>
        let parts := [f32 (Tab.at negZero32 words c), f64 (x.xabAt a c), f64 (Tab.at negZero64 vals c)]
        let v := x.groupSum a words vals c
        let (w, fl) := toF32 v
        (w, (match v with
            | .fin _ _ _ => fl
            | _ => 0) |||
          flagIf (!(parts.any fun p => p.isNan) && (parts.any fun p => p.isInf && p.isNeg) && parts.any fun p => p.isInf && !p.isNeg) fInv)
      (Tab.ofList negZero32 0 (cells.map Prod.fst), orFlags (cells.map Prod.snd))

/-- CLOSE on one hearth. -/
def State.closeGroup (s : State) (n : Nat) (pos : W32) (b : GroupDesc) (h : Nat) : State :=
  let x := s.hearth h
  let g := x.group b.gid
  let tiles := groupTiles g.tiles
  let s := (tiles.zip (List.range tiles.length)).foldl (fun (s : State) q =>
    let (t, fl) := s.closeTile x g q.1 q.2
    (s.storeTile h q.1 t).raise n pos fl) s
  let s := match g.bound with
    | some r => s.put n pos 1 h (r.toNat + 2) [0x03#8] false
    | none => s
  s.modHearth h fun x => (x.release tiles).setGroup b.gid Group.reset

/-- What a GROUP descriptor reads on one hearth: its record, and the tiles whose values it takes. -/
def State.groupReads (s : State) (b : GroupDesc) (h xa : Nat) : List Range :=
  let g := (s.hearth h).group b.gid
  let blocks (at' : Nat) (k : Nat) : List Range :=
    { space := 1, hearth := 0, lo := at', len := spillHeader } ::
      if spillHasData (s.spillImage at') then [{ space := 1, hearth := 0, lo := at' + spillHeader, len := spillBlock * k }] else []
  let own := (groupTiles g.tiles).map fun a => tileRange h a
  let bound := match g.bound with
    | some r => blocks r.toNat own.length
    | none => []
  match b.op with
  | 0 => []
  | 1 => bound ++ if g.headerOnly then [] else own
  | 2 => blocks xa (groupTiles b.tiles).length
  | _ => bound ++ if g.touched || g.keep then own else []

/-- What a GROUP descriptor writes of the Mantel on one hearth. -/
def State.groupOuts (s : State) (b : GroupDesc) (h xa : Nat) : List Range :=
  let g := (s.hearth h).group b.gid
  match b.op with
  | 0 => []
  | 1 => [{ space := 1, hearth := 0, lo := xa, len := if g.headerOnly then spillHeader else spillBytes (groupTiles g.tiles).length }]
  | 2 => [{ space := 1, hearth := 0, lo := xa, len := 64 }]
  | _ => match g.bound with
    | some r => [{ space := 1, hearth := 0, lo := r.toNat, len := 64 }]
    | none => []

/-- The 4 KiB pieces of data that a GROUP descriptor moves on one hearth, at whose boundaries it yields (R267): tiles that it sets, and value
blocks that it writes or folds. -/
def State.groupPieces (s : State) (b : GroupDesc) (h : Nat) : Nat :=
  let g := (s.hearth h).group b.gid
  let own := (groupTiles g.tiles).length
  let folds := (match g.bound with
    | some r => spillHasData (s.spillImage r.toNat)
    | none => false) || (groupTiles g.tiles).any fun a => ((s.hearth h).tile a).spilled
  match b.op with
  | 0 => if b.keep then 1 else tileBytes / 4096 * (groupTiles b.tiles).length
  | 1 => if g.headerOnly then 1 else 1 + spillBlock / 4096 * own
  | 2 => tileBytes / 4096 * (groupTiles b.tiles).length
  | _ => max 1 (if !g.touched && !g.keep then tileBytes / 4096 * own else if folds then spillBlock / 4096 * own else 1)

/-- The breach of a record that a RESUME finds when it runs: another RESUME has taken the record since the checks (R88, R91). -/
def State.resumeRefusal (s : State) (n : Nat) (b : GroupDesc) (ps : List (Nat × Nat)) : Verdict :=
  if b.op = 2 then
    descVerdict (ps.flatMap fun q => recordBreaches (s.spillImage q.2) (groupTiles b.tiles).length (s.classOf n).toNat)
  else none

/-- A GROUP descriptor of one operation: the next piece of the first hearth that may act. With the last piece of all the operation takes
effect on every hearth; marked data, or a record that fails its checks by then, stops it before any hearth acts (R82, R88). -/
def State.groupWork (s : State) (n : Nat) (pos : W32) (op : Nat) (act : State → GroupDesc → List (Nat × Nat) → State) : State :=
  match s.running n pos 0x03 with
  | none => s
  | some e =>
    let b := groupOf e.desc
    let ps := b.places (s.hearthsOf e.mask)
    let shares := ps.map fun q => (q.1, s.groupPieces b q.1)
    if b.op ≠ op then s
    else match e.nextPiece shares fun h => s.hearthRuns h && !s.yields n h with
      | none => s
      | some (h, k) =>
        let total := Tab.at 1 shares h
        let lastOfAll := decide (k + 1 = total) && shares.all fun q => q.1 == h || decide (q.2 ≤ e.pieces q.1)
        s.piece n pos none [] (ps.flatMap fun q => s.groupReads b q.1 q.2) (ps.flatMap fun q => s.groupOuts b q.1 q.2) fun s bad =>
          if bad then s.finish n pos
          else if !lastOfAll then s.modEntry n pos fun e => { e with started := true, prog := Tab.put 0 e.prog h (k + 1) }
          else match s.resumeRefusal n b ps with
            | some v => s.finishWith n pos v.1 v.2
            | none => (act s b ps).finish n pos

def execGroupOpen (ring : BitVec 7) (pos : W32) (s : State) : Result :=
  .next (s.groupWork ring.toNat pos 0 fun s b ps => ps.foldl (fun s q => s.openGroup ring.toNat b q.1) s)

def execGroupSpill (ring : BitVec 7) (pos : W32) (s : State) : Result :=
  .next (s.groupWork ring.toNat pos 1 fun s b ps =>
    (ps.foldl (fun s q => s.spillGroup ring.toNat pos b q.1 q.2) s).raise ring.toNat pos fSpilled)

def execGroupResume (ring : BitVec 7) (pos : W32) (s : State) : Result :=
  .next (s.groupWork ring.toNat pos 2 fun s b ps => ps.foldl (fun s q => s.resumeGroup ring.toNat pos b q.1 q.2) s)

/-- CLOSE; EMPTY_GROUP when the group is untouched on every hearth of the mask (R86). -/
def execGroupClose (ring : BitVec 7) (pos : W32) (s : State) : Result :=
  .next (s.groupWork ring.toNat pos 3 fun s b ps =>
    let untouched := ps.all fun q => !((s.hearth q.1).group b.gid).touched
    (ps.foldl (fun s q => s.closeGroup ring.toNat pos b q.1) s).raise ring.toNat pos (flagIf untouched fEmptyGroup))

end Sys2Proof.Machine
end

