-- ==== Sys2Proof/Machine/Streams.lean ====
section
/-! DEFINITION. CHAIN descriptors (chapter 7): the body and the stream record (Tables 07-1 and 07-4), the walk and its dealing (R142, R144),
the places of stream elements (R139), and the body checks (R137, R139, R141, R155, R156, R169, R187). -/

namespace Sys2Proof.Machine

/-! ### Bodies -/

structure Chain where
  nstage : Nat
  ndim : Nat
  nstream : Nat
  fillEn : Bool
  fold : Bool
  dims : List Nat
  streamOff : Nat
  fill : W32
  seed : W64
  words : List Nat
  deriving DecidableEq, Repr

def chainOf (desc : DescBits) : Chain :=
  let d := desc.toNat
  { nstage := fld d 16 0 4, ndim := fld d 17 0 3, nstream := fld d 17 3 3, fillEn := flag d 17 6, fold := flag d 17 7,
    dims := (List.range 5).map fun k => fld d (20 + 4 * k) 0 32, streamOff := fld d 40 0 32,
    fill := BitVec.ofNat 32 (fld d 44 0 32), seed := BitVec.ofNat 64 (fld d 48 0 64),
    words := (List.range 8).map fun k => fld d (56 + 8 * k) 0 64 }

def chainFields : List (Nat × Nat × Nat) := [(16, 0, 4), (17, 0, 8), (20, 0, 256), (52, 0, 544)]

/-- The stages of the program. -/
def Chain.stages (c : Chain) : List LaneStage := (c.words.take c.nstage).map LaneStage.decode

/-- The stages with their numbers. -/
def Chain.numbered (c : Chain) : List (Nat × LaneStage) := (List.range c.stages.length).zip c.stages

/-- The counts of the five dimensions; one at or beyond NDIM. -/
def Chain.counts (c : Chain) : List Nat := (List.range 5).map fun k => if k < c.ndim then nth 0 c.dims k else 1

def Chain.count (c : Chain) (k : Nat) : Nat := nth 1 c.counts k
def Chain.elements (c : Chain) : Nat := c.counts.foldl (fun a b => a * b) 1

/-- An out-of-range index yields FILL, or +0 (R149). -/
def Chain.missing (c : Chain) : W32 := if c.fillEn then c.fill else 0#32

/-- A stream entry (Table 07-4). -/
structure Stream where
  addr : Nat
  scaleOff : Nat
  stride0 : Int
  strides : List Int
  cvt : Nat
  space : Nat
  output : Bool
  raw : Bool
  gather : Bool
  glen : Nat
  deriving DecidableEq, Repr

def streamAt (img j : Nat) : Stream :=
  let o := 16 + 40 * j
  { addr := fld img o 0 64, scaleOff := fld img (o + 8) 0 32, stride0 := signedOf 32 (fld img (o + 12) 0 32),
    strides := (List.range 4).map fun d => signedOf 32 (fld img (o + 16 + 4 * d) 0 32), cvt := fld img (o + 32) 0 16,
    space := fld img (o + 34) 0 2, output := flag img (o + 34) 2, raw := flag img (o + 34) 3, gather := flag img (o + 34) 4,
    glen := fld img (o + 36) 0 32 }

def Chain.streams (c : Chain) (img : Nat) : List Stream := (List.range c.nstream).map fun j => streamAt img j

def Stream.none : Stream := streamAt 0 0

/-- Constant k of the record. -/
def chainConst (img k : Nat) : W32 := BitVec.ofNat 32 (fld img (4 * k) 0 32)

def Stream.mx (st : Stream) : Bool := cvtMx st.cvt && !st.raw
def Stream.bits (st : Stream) : Nat := cvtBits st.cvt st.raw
def Stream.packed (st : Stream) : Bool := st.mx || decide (st.bits < 8)
def Stream.size (st : Stream) : Nat := max 1 (st.bits / 8)
def Stream.base (st : Stream) : Nat := if st.space = 2 then (st.addr % 64) * tileBytes else st.addr

/-- Bytes between dimension-0 neighbours of whole-byte elements. -/
def Stream.step (st : Stream) : Int := if st.stride0 = 0 then (st.size : Int) else st.stride0

/-- Whether the stream counts the distribution dimension from 0 on each hearth. -/
def Stream.isLocal (st : Stream) : Bool := decide (st.space = 0 ∨ st.space = 2)

/-! ### Places of elements (R139) -/

/-- Σ idx_d · STRIDE_d over dimensions 1 to 4. -/
def Stream.lineOffset (st : Stream) (idx : List Nat) : Int :=
  (idx.zip st.strides).foldl (fun a p => a + (p.1 : Int) * p.2) 0

/-- The row that holds element idx0 of a line, and the element's column in it. -/
def Stream.place (st : Stream) (h : Nat) (idx : List Nat) (i0 : Nat) : Row × Nat :=
  let o := st.lineOffset idx
  if st.stride0 = 0 then
    ({ space := st.space, hearth := h, base := ((st.base : Int) + o).toNat,
       scales := ((st.addr + st.scaleOff : Nat) + o / (blockBytes st.cvt : Int)).toNat }, i0)
  else
    ({ space := st.space, hearth := h, base := ((st.base : Int) + o + (i0 : Int) * st.stride0).toNat, scales := 0 }, 0)

/-- The bytes of an element, and its scale. -/
def Stream.reads (st : Stream) (h : Nat) (idx : List Nat) (i0 : Nat) : List Range :=
  let p := st.place h idx i0
  elementReads st.cvt st.raw p.1 p.2

/-- The address of an atomic add (R169). -/
def Stream.atomicAddr (st : Stream) (idx : List Nat) (j : Nat) : Nat := ((st.addr : Int) + st.lineOffset idx + 4 * (j : Int)).toNat

/-! ### The walk (R142, R144) -/

/-- The distribution dimension. -/
def Chain.dist (c : Chain) : Option Nat := ((List.range c.ndim).filter fun k => decide (1 ≤ k) && decide (1 < c.count k)).getLast?

/-- Lines of a folded pass. -/
def Chain.linesPerPass (c : Chain) (lanes : Nat) : Nat := lanes / c.count 0

/-- The runs of the distribution dimension: (hearth, first index, count). -/
def Chain.deal (c : Chain) (lanes : Nat) (hs : List Nat) : List (Nat × Nat × Nat) :=
  match c.dist with
  | none => (hs.take 1).map fun h => (h, 0, 1)
  | some d => if c.fold ∧ d = 1 then dealBy (c.linesPerPass lanes) hs (c.count d) else Machine.deal hs (c.count d)

/-- The counts of dimensions 1 to 4 on a hearth that received `n` indices. -/
def Chain.localCounts (c : Chain) (n : Nat) : List Nat :=
  (List.range 4).map fun k => if c.dist = some (k + 1) then n else c.count (k + 1)

def Chain.passesPerLine (c : Chain) (lanes : Nat) : Nat := ceilDiv (c.count 0) lanes

/-- The passes of a run of `n` indices. -/
def Chain.passes (c : Chain) (lanes n : Nat) : Nat :=
  let cs := c.localCounts n
  if c.fold then ceilDiv (nth 1 cs 0) (c.linesPerPass lanes) * (cs.drop 1).foldl (fun a b => a * b) 1
  else c.passesPerLine lanes * cs.foldl (fun a b => a * b) 1

/-- The digits of a number in a mixed radix, lowest first. -/
def mixed : List Nat → Nat → List Nat
  | [], _ => []
  | c :: cs, n => n % c :: mixed cs (n / c)

/-- An active lane: idx0, and the indices of dimensions 1 to 4 as the hearth counts them and globally. -/
structure PassLane where
  i0 : Nat
  own : List Nat
  glob : List Nat
  deriving DecidableEq, Repr

def Chain.globalOf (c : Chain) (first : Nat) (own : List Nat) : List Nat :=
  match c.dist with
  | some (d + 1) => setNth own d (nth 0 own d + first)
  | _ => own

/-- The active lanes of pass p, by line. -/
def Chain.lines (c : Chain) (lanes first n p : Nat) : List (List PassLane) :=
  let cs := c.localCounts n
  let d0 := c.count 0
  let line (own : List Nat) (from' k : Nat) : List PassLane :=
    (List.range k).map fun i => { i0 := from' + i, own := own, glob := c.globalOf first own }
  if c.fold then
    let f := c.linesPerPass lanes
    let c1 := nth 1 cs 0
    let g := ceilDiv c1 f
    let rest := mixed (cs.drop 1) (p / g)
    let l0 := p % g * f
    (List.range (min f (c1 - l0))).map fun k => line ((l0 + k) :: rest) 0 d0
  else
    let per := c.passesPerLine lanes
    let from' := p % per * lanes
    [line (mixed cs (p / per)) from' (min lanes (d0 - from'))]

/-- The flat index of dimensions 1 to 4, dimension 1 fastest: the row of the SR bits (R140). -/
def Chain.flatRow (c : Chain) (glob : List Nat) : Nat :=
  ((glob.zip (c.counts.drop 1)).reverse).foldl (fun acc p => acc * p.2 + p.1) 0

def PassLane.idx (l : PassLane) (st : Stream) : List Nat := if st.isLocal then l.own else l.glob

/-! ### Ranges and overlap (R139, R141) -/

/-- The streams whose position does not move with idx0: the destinations of reductions and atomic adds. -/
def Chain.lineStreams (c : Chain) : List Nat :=
  (c.stages.filter fun g => isReduction g.op || isAtomicAdd g.op).map fun g => g.dst - 32

/-- How many indices of dimension 0 stream j spans. -/
def Chain.span (c : Chain) (j : Nat) (st : Stream) : Nat :=
  if st.gather then st.glen else if c.lineStreams.contains j then 1 else c.count 0

/-- The extreme indices of dimensions 1 to 4 of a stream on a hearth. -/
def Chain.indexRanges (c : Chain) (st : Stream) (first n : Nat) : List (Nat × Nat) :=
  (List.range 4).map fun k =>
    if c.dist = some (k + 1) then
      let a := if st.isLocal then 0 else first
      (a, a + n - 1)
    else (0, c.count (k + 1) - 1)

/-- Bounding byte ranges (first, one past the last) of a stream: its elements, and its scales. -/
def Stream.bounds (st : Stream) (span : Nat) (ranges : List (Nat × Nat)) : List (Int × Int) :=
  let ends := (ranges.zip st.strides).map fun q => ((q.1.1 : Int) * q.2, (q.1.2 : Int) * q.2)
  let lo := ends.foldl (fun a q => a + min q.1 q.2) 0
  let hi := ends.foldl (fun a q => a + max q.1 q.2) 0
  let base : Int := st.base
  if st.packed then
    let own := (base + lo, base + hi + (rowBytes st.cvt st.raw span : Int))
    if st.mx then
      let bb : Int := blockBytes st.cvt
      let sc : Int := st.addr + st.scaleOff
      [own, (sc + lo / bb, sc + hi / bb + (ceilDiv span (cvtBlock st.cvt) : Int))]
    else [own]
  else
    let e := st.step * ((span : Int) - 1)
    [(base + lo + min 0 e, base + hi + max 0 e + (st.size : Int))]

def overlapsInt (x y : Int × Int) : Bool := decide (x.1 < y.2) && decide (y.1 < x.2)

/-- An output that coincides exactly with an input. -/
def Stream.same (a b : Stream) : Bool :=
  a.space == b.space && a.addr == b.addr && a.stride0 == b.stride0 && a.strides == b.strides && a.bits == b.bits

/-! ### Checks -/

/-- Source codes (Table 07-3), with what each names. -/
def srcLegal (p : SrcPlace) (code : Nat) (sts : List Stream) : Bool :=
  let stream (gather : Bool) : Bool := decide (32 ≤ code) && decide (code < 38) &&
    (match sts[code - 32]? with
      | some st => !st.output && st.gather == gather
      | none => false)
  let pred := decide (52 ≤ code) && decide (code ≤ 55)
  let any := decide (code < 32) || stream false || (decide (38 ≤ code) && decide (code ≤ 49)) || pred
  match p with
  | .unused => code == 63
  | .any => any
  | .anyOrNone => any || code == 63
  | .register => decide (code < 32)
  | .predicate => pred
  | .predicateOrNone => pred || code == 63
  | .gather => stream true

def dstLegal (p : DstPlace) (code : Nat) (sts : List Stream) : Bool :=
  let stream := decide (32 ≤ code) && decide (code < 38) &&
    (match sts[code - 32]? with
      | some st => st.output
      | none => false)
  match p with
  | .unused => code == 63
  | .value => decide (code < 32) || code == 63 || stream
  | .compare => decide (code < 32) || code == 63 || (decide (52 ≤ code) && decide (code ≤ 55))
  | .stream => stream

/-- The stream of an atomic add (R169). -/
def atomicLegal (op : Nat) (st : Stream) : Bool :=
  decide (st.space = 3) && decide (st.stride0 = 0) && if op = 0x71 then st.cvt == 0 && !st.raw else st.raw

/-- Whether a stage word is legal (R135, R136, R155, R156, R169). -/
def stageLegal (w : Nat) (sts : List Stream) : Bool :=
  let g := LaneStage.decode w
  match opRow g.op with
  | none => false
  | some r =>
    decide (w < 2 ^ 52) && (g.pen || (g.pred == 0 && !g.pneg)) && dstLegal r.dst g.dst sts && srcLegal r.a g.a sts &&
      srcLegal r.b g.b sts && srcLegal r.c g.c sts && immLegal r.imm g.imm g.b g.c &&
      (!isAtomicAdd g.op || match sts[g.dst - 32]? with
        | some st => atomicLegal g.op st
        | none => false)

/-- A stage that names a stream at or beyond NSTREAM. -/
def stageBeyond (w n : Nat) : Bool :=
  let g := LaneStage.decode w
  [g.dst, g.a, g.b, g.c].any fun x => decide (32 + n ≤ x) && decide (x < 38)

/-- Field breaches of a CHAIN, read from the descriptor alone (R137, R142). -/
def State.chainFieldBreaches (s : State) (desc : DescBits) : List Breach :=
  let c := chainOf desc
  let d0 := nth 0 c.dims 0
  bodyReserved desc.toNat chainFields ++
    breach (decide (c.nstage = 0) || decide (8 < c.nstage)) 0 [16] ++
    breach (decide (c.ndim = 0) || decide (5 < c.ndim) || decide (c.nstream = 0) || decide (6 < c.nstream)) 0 [17] ++
    ((List.range 8).flatMap fun k => breach (decide (c.nstage ≤ k) && decide (nth 0 c.words k ≠ 0)) 0 [16, 56 + 8 * k]) ++
    ((List.range 5).flatMap fun k => breach (decide (k < c.ndim) == decide (nth 0 c.dims k = 0)) 0 [17, 20 + 4 * k]) ++
    breach (decide (2 ^ 48 ≤ c.elements)) 0 [20] ++
    breach (decide (descSplit desc ≠ 0) && decide (descSplit desc ≠ 15)) 0 [9] ++
    breach (decide (c.streamOff % 256 ≠ 0) || decide (s.spaceSize 0 < c.streamOff + 256)) 0 [40] ++
    breach (c.fold && (decide (c.ndim < 2) || decide (d0 = 0) || decide (2 ^ log2Of d0 ≠ d0) || decide (s.cfg.lanes / 2 < d0))) 0 [17, 20] ++
    ((List.range (min 8 c.nstage)).flatMap fun k => breach (stageBeyond (nth 0 c.words k) c.nstream) 0 [17, 56 + 8 * k])

/-- Breaches of stream j's own fields (R138 to R140). -/
def State.streamBreaches (s : State) (img j : Nat) : List Breach :=
  let st := streamAt img j
  let o := 16 + 40 * j
  let b (bad : Bool) (offs : List Nat) : List Breach := breach bad plStream (offs.map fun k => o + k)
  let ok := if st.raw then st.cvt == 0 else cvtValid st.cvt && (st.output || (decide (cvtRnd st.cvt = 0) && !cvtSat st.cvt))
  let bb := (blockBytes st.cvt : Int)
  let each (bad : Int → Bool) : List Breach := (List.range 4).flatMap fun d => b (bad (nth 0 st.strides d)) [16 + 4 * d]
  (match reservedByte (img >>> (8 * o)) 40 [(0, 0, 277), (36, 0, 32)] with
    | some k => [(plStream, o + k)]
    | none => []) ++
    b (st.gather && st.output) [34] ++ b (st.gather != decide (st.glen ≠ 0)) [34, 36] ++
    b (st.raw && decide (st.cvt ≠ 0)) [32, 34] ++ b (!st.raw && !ok) [32] ++
    b (decide (st.scaleOff ≠ 0) && !cvtMx st.cvt) [8, 32] ++ b (decide (st.space = 1) && !s.cfg.hasMantel) [34] ++
    b (decide (st.space = 2) && decide (64 ≤ st.addr)) [0, 34] ++
    if !ok then []
    else
      b (st.packed && decide (st.stride0 ≠ 0)) [12, 32] ++
        b (decide (st.space = 2) && !st.raw && decide (st.cvt % 16 ≠ 0 ∨ cvtMx st.cvt)) [32, 34] ++
        if st.packed then
          b (decide (st.space ≠ 2) && decide (st.addr % 64 ≠ 0)) [0] ++
            b (st.mx && decide ((st.addr + st.scaleOff) % 64 ≠ 0)) [0, 8] ++
            each fun x => decide (x % 64 ≠ 0) || (st.mx && decide (x % bb ≠ 0))
        else
          b (decide (st.base % st.size ≠ 0)) [0] ++ each fun x => decide (x % (st.size : Int) ≠ 0)

/-- Streams that leave their space, or overlap against R141, on one hearth. -/
def State.boundBreaches (s : State) (c : Chain) (sts : List Stream) (first n : Nat) : List Breach :=
  let js := (List.range sts.length).zip sts
  let bounds := js.map fun q => (q.1, q.2, q.2.bounds (c.span q.1 q.2) (c.indexRanges q.2 first n))
  let outside := bounds.flatMap fun q =>
    ((List.range q.2.2.length).zip q.2.2).flatMap fun r =>
      breach (decide (r.2.1 < 0) || decide ((s.spaceSize q.2.1.space : Int) < r.2.2)) plStream [16 + 40 * q.1 + 8 * r.1]
  let clash := bounds.flatMap fun q => bounds.flatMap fun r =>
    breach (q.2.1.output && q.1 != r.1 && q.2.1.isLocal && q.2.1.space == r.2.1.space && !(!r.2.1.output && q.2.1.same r.2.1) &&
      q.2.2.any fun x => r.2.2.any fun y => overlapsInt x y) plStream [16 + 40 * q.1, 16 + 40 * r.1]
  outside ++ clash

/-- The bank and slot records of a hearth. -/
def Hearth.slot (x : Hearth) (bank : Bool) (k : Nat) : Nat := (Tab.at 0#256 x.slots (32 * bitNat bank + k)).toNat
def Hearth.shape (x : Hearth) (bank : Bool) (k : Nat) : W64 := Tab.at 0#64 x.shapes (65536 * bitNat bank + k)

/-- Breaches of a CHAIN on one hearth, whose record is `img` and whose bank is `bank`. -/
def State.chainHearthBreaches (s : State) (c : Chain) (h first n img : Nat) (bank : Bool) : List Breach :=
  let sts := c.streams img
  let js := List.range c.nstream
  let names (j : Nat) : List Nat := (c.numbered.filter fun q => q.2.dst == 32 + j && (opRow q.2.op).isSome).map Prod.fst
  let used := js.flatMap fun j =>
    let st := streamAt img j
    breach (decide (1 < (names j).length)) 0 ((names j).map fun k => 56 + 8 * k) ++
      breach (st.output && (names j).isEmpty) plStream [16 + 40 * j + 34]
  let own := js.flatMap fun j => s.streamBreaches img j
  (c.numbered.flatMap fun q => breach (!stageLegal (nth 0 c.words q.1) sts) 0 [56 + 8 * q.1]) ++ used ++ own ++
    (if own = [] then s.boundBreaches c sts first n else []) ++
    c.numbered.flatMap fun q => breach (isShape q.2.op && !slotValid ((s.hearth h).slot bank (q.2.imm % 32))) 0 [56 + 8 * q.1]

/-- The stream record of a hearth, as the number of its 256 bytes. -/
def State.streamRecord (s : State) (c : Chain) (h : Nat) : Nat := leNat (s.peek 0 h c.streamOff 256)

/-- Every breach of a CHAIN; `bank h` is the bank it reads on hearth h. -/
def State.chainBreaches (s : State) (desc : DescBits) (hs : List Nat) (bank : Nat → Bool) : List Breach :=
  match s.chainFieldBreaches desc with
  | [] =>
    let c := chainOf desc
    (c.deal s.cfg.lanes hs).flatMap fun q => s.chainHearthBreaches c q.1 q.2.1 q.2.2 (s.streamRecord c q.1) (bank q.1)
  | bs => bs

/-- The ATILEs of a stream in space 2 on one hearth. -/
def Chain.streamTiles (c : Chain) (j : Nat) (st : Stream) (first n : Nat) : List Nat :=
  if st.space = 2 then
    (st.bounds (c.span j st) (c.indexRanges st first n)).flatMap fun q =>
      (List.range 64).filter fun a => decide (q.1 < ((tileBytes * (a + 1) : Nat) : Int)) && decide (((tileBytes * a : Nat) : Int) < q.2)
  else []

/-- The footprint of a CHAIN for the Flue limits (R268): its streams, and the record on every hearth. -/
def State.chainFootprint (s : State) (c : Chain) (hs : List Nat) : Nat :=
  ((c.deal s.cfg.lanes hs).map fun q =>
    256 + (((List.range c.nstream).map fun j =>
      let st := streamAt (s.streamRecord c q.1) j
      ((st.bounds (c.span j st) (c.indexRanges st q.2.1 q.2.2)).map fun r => (r.2 - r.1).toNat).foldl (fun a b => a + b) 0).foldl
        (fun a b => a + b) 0)).foldl (fun a b => a + b) 0

/-- The first stage that E_VARY refuses (R171). -/
def Chain.varyStage (c : Chain) : Option Nat := (c.numbered.find? fun q => q.2.op == 0x78 || q.2.op == 0x79).map Prod.fst

end Sys2Proof.Machine
end

