-- ==== Sys2Proof/Machine/Chain.lean ====
section
/-! DEFINITION. The lanes (chapter 7): dealing a CHAIN, one pass of its program, gathers, atomic adds in walk order (R172, R299), Chimney
lines, and the SFU's grants (R175). -/

namespace Sys2Proof.Machine

/-! ### One lane -/

/-- The registers and predicates of a lane in a pass (R133): both start at zero. -/
structure LaneVal where
  regs : Tab W32
  preds : Nat
  deriving DecidableEq, Repr

def LaneVal.zero : LaneVal := { regs := [], preds := 0 }

/-- What a pass works on: `done` lists the pieces of host memory that have been read for it. -/
structure PassCtx where
  c : Chain
  sts : List Stream
  img : Nat
  h : Nat
  bank : Bool
  lanes : List PassLane
  /-- how many indices of the distribution dimension the hearth received -/
  indices : Nat
  inputs : List (List W32)
  /-- which elements of each input carry poison -/
  tainted : List (List Bool)
  done : List (Nat × Nat × Nat)
  count : W64

def PassCtx.vl (x : PassCtx) : Nat := x.lanes.length

/-- The lane of a pass, and its number. -/
def PassCtx.numbered (x : PassCtx) : List (Nat × PassLane) := (List.range x.vl).zip x.lanes

/-- Whether the value of a source code in lane i depends on marked data; `marks` holds the marked registers and predicates of each lane, by
their codes (R347). -/
def PassCtx.taint (x : PassCtx) (marks : List Nat) (i code : Nat) : Bool :=
  if 32 ≤ code ∧ code < 38 then nth false (nth [] x.tainted (code - 32)) i else (nth 0 marks i).testBit code

/-- The value of a source code in lane i (Table 07-3). -/
def PassCtx.source (x : PassCtx) (vals : List LaneVal) (i code : Nat) : W32 :=
  let v := nth LaneVal.zero vals i
  let l := nth { i0 := 0, own := [], glob := [] } x.lanes i
  if code < 32 then Tab.at 0#32 v.regs code
  else if code < 38 then nth 0#32 (nth [] x.inputs (code - 32)) i
  else if code < 42 then chainConst x.img (code - 38)
  else if code = 42 then BitVec.ofNat 32 i
  else if code < 48 then BitVec.ofNat 32 (if code = 43 then l.i0 else nth 0 l.glob (code - 44))
  else if code = 48 then BitVec.ofNat 32 x.vl
  else if code < 52 then 0#32
  else w32Bool (v.preds.testBit (code - 52))

/-- Whether a stage acts in a lane (R146). -/
def LaneStage.acts (g : LaneStage) (v : LaneVal) : Bool := !g.pen || (v.preds.testBit g.pred != g.pneg)

/-- A lane writes a register or a predicate. -/
def LaneVal.write (v : LaneVal) (dst : Nat) (w : W32) : LaneVal :=
  if dst < 32 then { v with regs := Tab.put 0#32 v.regs dst w }
  else if 52 ≤ dst ∧ dst ≤ 55 then
    { v with preds := if w = 0#32 then v.preds &&& (15 - 2 ^ (dst - 52)) else v.preds ||| 2 ^ (dst - 52) }
  else v

/-! ### One pass -/

/-- What a pass has done so far: the lanes, and by lane the registers and predicates that depend on marked data; the flags; the elements of
output streams, with their marks; the leaves of reductions (stage, opcode, leaves by lane, marks by lane); the adds (lane, stream, index,
operand, integer, marked); the reads of gathers; whether every host piece read so far is there; whether a varying stage acted; and the SFU
requests (stage, group). -/
structure PassRun where
  vals : List LaneVal
  marks : List Nat
  flags : Nat
  outs : List (Nat × List (Option W32) × List Bool)
  leaves : List (Nat × Nat × List (Option Leaf) × List Bool)
  adds : List (Nat × Nat × Nat × W32 × Bool × Bool)
  reads : List Range
  ready : Bool
  varied : Bool
  sfu : List (Nat × Nat)

/-- A register or predicate of a lane takes a value that depends on marked data, or one that does not. -/
def markCode (m code : Nat) (bad : Bool) : Nat := if bad then m ||| 2 ^ code else if m.testBit code then m - 2 ^ code else m

/-- Whether the choice of a lane to act depends on marked data. -/
def PassRun.choiceMark (r : PassRun) (g : LaneStage) (i : Nat) : Bool := g.pen && (nth 0 r.marks i).testBit (52 + g.pred)

/-- The marks of a stage's destination: an acting lane takes those of what it read, and a lane whose choice depends on marked data keeps a
mark. -/
def PassRun.markAll (r : PassRun) (g : LaneStage) (acts bad : List Bool) : List Nat :=
  r.marks.zipIdx.map fun q =>
    let b := nth false bad q.2
    if nth false acts q.2 then markCode q.1 g.dst b else if r.choiceMark g q.2 then markCode q.1 g.dst true else q.1

/-- The results of a stage reach the acting lanes, with the marks of what they depend on. -/
def PassRun.give (r : PassRun) (g : LaneStage) (res : List (Option (W32 × Nat))) (bad : List Bool) : PassRun :=
  let fl := orFlags (res.filterMap fun v => v.map Prod.snd)
  if 32 ≤ g.dst ∧ g.dst < 38 then
    { r with flags := r.flags ||| fl, outs := r.outs ++ [(g.dst - 32, res.map fun v => v.map Prod.fst, bad)] }
  else
    { r with
      flags := r.flags ||| fl, marks := r.markAll g (res.map fun v => v.isSome) bad,
      vals := (r.vals.zip res).map fun q => match q.2 with
        | some w => q.1.write g.dst w.1
        | none => q.1 }

/-- The 32-lane groups in which at least one lane acts. -/
def actingGroups (acts : List Bool) : List Nat :=
  (List.range (ceilDiv acts.length 32)).filter fun g => ((acts.drop (32 * g)).take 32).any id

/-- The SR bits of a lane (R42, R163). -/
def PassCtx.srBits (x : PassCtx) (l : PassLane) : Nat := conversionBits x.c.seed (x.c.flatRow l.glob) l.i0

/-! ### Values that R141 leaves undefined -/

/-- How many index tuples fall on a place: dimensions (index, count, bits per index), and the distance still to make up. -/
def coincidences (w : Nat) : List (Nat × Nat × Int) → Int → Nat
  | [], t => if t.natAbs < w then 1 else 0
  | (i, n, st) :: rest, t => (List.range n).foldl (fun acc (k : Nat) => acc + coincidences w rest (t + ((k : Int) - i) * st)) 0

/-- Each dimension steps over all the places of the dimensions before it, so that no position repeats. -/
def nested (w : Int) : List (Nat × Int) → Bool
  | [] => true
  | (n, st) :: rest => if n ≤ 1 then nested w rest else decide (w ≤ (st.natAbs : Int)) && nested (((n - 1) * st.natAbs : Nat) + w) rest

/-- Whether the position of an output at these indices repeats in the walk. -/
def Chain.repeats (c : Chain) (j : Nat) (b : Stream) (n : Nat) (l : PassLane) : Bool :=
  let counts := if b.isLocal then c.localCounts n else c.counts.drop 1
  let w0 : Int := if b.stride0 = 0 then (b.bits : Int) else 8 * b.stride0
  let dims := (c.span j b, w0) :: (counts.zip (b.strides.map fun s => 8 * s))
  !nested b.bits dims && decide (1 < coincidences b.bits (((l.i0 :: l.idx b).zip dims).map fun q => (q.1, q.2.1, q.2.2)) 0)

/-- Whether an element read from stream `st` at a lane is undefined: it lies in the range of an output of spaces 1 and 3 that it does not
coincide with, or at a repeated position of one that it coincides with (R141). -/
def PassCtx.undefinedAt (x : PassCtx) (st : Stream) (l : PassLane) (rs : List Range) : Bool :=
  ((List.range x.sts.length).zip x.sts).any fun q =>
    q.2.output && q.2.space == st.space &&
      if q.2.same st then x.c.repeats q.1 q.2 x.indices l
      else !st.isLocal && (q.2.bounds (x.c.span q.1 q.2) (x.c.indexRanges q.2 0 (match x.c.dist with
          | some d => x.c.count d
          | none => 1))).any fun r => rs.any fun o => overlapsInt r (o.lo, o.lo + o.len)

/-- An element of a stream as a lane reads it: where R141 leaves it undefined, a free value; `k` tells the values of one lane in a pass
apart. -/
def State.loadAt (s : State) (x : PassCtx) (i k : Nat) (st : Stream) (l : PassLane) : W32 × Nat :=
  if x.undefinedAt st l (st.reads x.h (l.idx st) l.i0) then (Config.freeWord32 (s.draws + 16 * i + k), 0)
  else
    let p := st.place x.h (l.idx st) l.i0
    s.element st.cvt st.raw p.1 p.2

/-- Whether an element of a stream as a lane reads it carries poison. -/
def State.taintAt (s : State) (x : PassCtx) (st : Stream) (l : PassLane) : Bool := (st.reads x.h (l.idx st) l.i0).any fun r => s.tainted r

/-- The result of an opcode in lane i, for the opcodes that read lanes alone, other lanes, or the shape tables. -/
def State.laneValue (s : State) (x : PassCtx) (vals : List LaneVal) (g : LaneStage) (i : Nat) (l : PassLane) : W32 × Nat :=
  let src := x.source vals i
  let a := src g.a
  let b := if isShift g.op && g.b == 63 then BitVec.ofNat 32 g.imm else src g.b
  let other (k : Nat) : W32 := x.source vals k g.a
  if isPermute g.op then
    match permuteIndex g.op g.imm i x.vl b with
    | some k => (other k, 0)
    | none => (x.c.missing, fPermOor)
  else if g.op = 0x48 then packLane g.imm x.vl i other
  else if g.op = 0x49 then (unpackLane g.imm i other, 0)
  else if isShape g.op then laneShapeOp g.op ((s.hearth x.h).slot x.bank (g.imm % 32)) ((s.hearth x.h).shape x.bank) a b
  else if g.op = 0x78 then (x.count.setWidth 32, 0)
  else if g.op = 0x79 then ((x.count >>> 32).setWidth 32, 0)
  else laneResult g.op g.imm (x.srBits l) a b (src g.c)
where
  isShift (op : Nat) : Bool := op == 0x14 || op == 0x15 || op == 0x16

/-- Whether what a stage computes in lane i depends on marked data: on a source, on the lane that a permute or a PACK reads, or on the choice
to act. -/
def PassRun.stageMark (r : PassRun) (x : PassCtx) (g : LaneStage) (i : Nat) : Bool :=
  let m := x.taint r.marks
  let w := 32 / fmtBits (cvtFmt g.imm)
  let own := if isPermute g.op then
      m i g.b || (match permuteIndex g.op g.imm i x.vl (x.source r.vals i g.b) with
        | some k => m k g.a
        | none => false)
    else if g.op = 0x48 then (List.range w).any fun k => m (w * i + k) g.a
    else if g.op = 0x49 then m (i / w) g.a
    else m i g.a || m i g.b || m i g.c
  own || r.choiceMark g i

/-- The marks that a stage gives its results. -/
def PassRun.stageMarks (r : PassRun) (x : PassCtx) (g : LaneStage) : List Bool := (List.range x.vl).map fun i => r.stageMark x g i

/-- A GATHER stage (R151), stage k of the program: the reads of the acting lanes and their elements. -/
def State.gatherStage (s : State) (x : PassCtx) (r : PassRun) (k : Nat) (g : LaneStage) (acts : List Bool) : PassRun :=
  let st := nth Stream.none x.sts (g.a - 32)
  let want := (x.numbered.zip acts).map fun q =>
    if q.2 then some (q.1.1, { q.1.2 with i0 := (x.source r.vals q.1.1 g.b).toNat }) else none
  let own := want.flatMap fun w => match w with
    | some (_, l) => if l.i0 < st.glen then st.reads x.h (l.idx st) l.i0 else []
    | none => []
  let res := want.map fun w => w.map fun q => if q.2.i0 < st.glen then s.loadAt x q.1 (8 + k) st q.2 else (x.c.missing, fPermOor)
  let bad := want.map fun w => match w with
    | some (i, l) => x.taint r.marks i g.b || r.choiceMark g i || (decide (l.i0 < st.glen) && s.taintAt x st l)
    | none => false
  if r.ready then
    { r with reads := r.reads ++ own, ready := (hostPieces own).all fun p => x.done.contains p }.give g res bad
  else r.give g res bad

/-- An atomic add stage (R169): the adds of the acting lanes below their bounds. -/
def PassRun.atomicStage (r : PassRun) (x : PassCtx) (g : LaneStage) (acts : List Bool) : PassRun :=
  let want := (x.numbered.zip acts).filterMap fun q =>
    if q.2 then
      let v (code : Nat) : W32 := x.source r.vals q.1.1 code
      some (q.1.1, (v g.b).toNat, (v g.c).toNat, v g.a)
    else none
  { r with
    adds := r.adds ++ (want.filter fun w => decide (w.2.1 < w.2.2.1)).map fun w =>
      (w.1, g.dst - 32, w.2.1, w.2.2.2, g.op == 0x72, r.stageMark x g w.1),
    flags := r.flags ||| flagIf (want.any fun w => decide (w.2.2.1 ≤ w.2.1)) fPermOor }

/-- A stage runs in every lane (R157). `banked` says that the ring is Banked, which decides what varies (Table 08-10). -/
def State.stage (s : State) (x : PassCtx) (banked : Bool) (r : PassRun) (k : Nat) (g : LaneStage) : PassRun :=
  let acts := r.vals.map g.acts
  let some' := acts.any id
  let r := { r with
    varied := r.varied || (some' && (g.op == 0x78 || g.op == 0x79 || (g.op == 0x71 && !banked))),
    sfu := if isSfu g.op then r.sfu ++ (actingGroups acts).map fun n => (k, n) else r.sfu }
  if g.op = 0x00 then r
  else if g.op = 0x70 then s.gatherStage x r k g acts
  else if isAtomicAdd g.op then r.atomicStage x g acts
  else if isReduction g.op then
    let ls := (x.numbered.zip acts).map fun q => if q.2 then some (reduceLeaf g.op (x.source r.vals q.1.1 g.a)) else none
    { r with
      leaves := r.leaves ++ [(k, g.op, ls.map fun v => v.map Prod.fst,
        (acts.zip (r.stageMarks x g)).zipIdx.map fun q => (q.1.1 && q.1.2) || r.choiceMark g q.2)],
      flags := r.flags ||| orFlags (ls.filterMap fun v => v.map Prod.snd) }
  else
    r.give g ((x.numbered.zip acts).map fun q => if q.2 then some (s.laneValue x r.vals g q.1.1 q.1.2) else none) (r.stageMarks x g)

/-- The program runs. -/
def State.program (s : State) (x : PassCtx) (banked : Bool) (start : PassRun) : PassRun :=
  x.c.numbered.foldl (fun r q => s.stage x banked r q.1 q.2) start

/-! ### Inputs -/

/-- The streams that a source of some stage names. -/
def Chain.named (c : Chain) (j : Nat) : Bool := c.stages.any fun g => g.a == 32 + j || g.b == 32 + j || g.c == 32 + j

/-- The elements of input stream j in every lane, with the flags of their loads. -/
def State.loadStream (s : State) (x : PassCtx) (j : Nat) (st : Stream) : List (W32 × Nat) :=
  x.numbered.map fun q => s.loadAt x q.1 j st q.2

/-- The reads of an input stream in a pass. -/
def PassCtx.streamReads (x : PassCtx) (st : Stream) : List Range := x.lanes.flatMap fun l => st.reads x.h (l.idx st) l.i0

/-! ### Outputs -/

/-- A write of a pass: the first byte, the bytes within one 64-byte line, and whether a value in them depends on marked data. -/
abbrev LineWrite := Nat × List W8 × Bool

/-- The writes of a row cut into lines, with their marks: `bad` are the columns to write that depend on marked data, and a kept element carries
its own (R347). -/
def State.rowLines (s : State) (cvt : Nat) (raw : Bool) (r : Row) (w : RowWrite) (bad : List Bool) (ws : List (Nat × List W8)) :
    List LineWrite :=
  let mark (c : Nat) : Bool := match w.at c with
    | some _ => nth false bad (c - w.col)
    | none => decide (c < w.len) && ((rowReads cvt raw r c 1).any fun q => s.tainted q)
  (ws.flatMap cutLines).map fun q =>
    let k := r.columns cvt raw (rowBytes cvt raw w.len) q.1 q.2.length
    (q.1, q.2, (List.range k.2).any fun i => mark (k.1 + i))

/-- The elements of one line for one output stream: a packed line is one row, other strides write element by element. -/
def State.lineWrites (s : State) (x : PassCtx) (j : Nat) (st : Stream) (line : List PassLane) (vals : List (Option W32)) (bad : List Bool) :
    List LineWrite × Nat × List Range :=
  let mode (l : PassLane) (i0 : Nat) : Rounding := cvtMode st.cvt x.c.seed (x.c.flatRow l.glob) i0
  match line with
  | [] => ([], 0, [])
  | l :: _ =>
    if st.stride0 = 0 then
      let p := st.place x.h (l.idx st) l.i0
      let w : RowWrite := { col := l.i0, vals := vals, len := x.c.span j st, mode := mode l }
      let (ws, fl) := s.encodeRow st.cvt st.raw p.1 w
      (s.rowLines st.cvt st.raw p.1 w bad ws, fl, keptReads st.cvt st.raw p.1 w)
    else
      let each := (line.zip (vals.zip bad)).map fun q =>
        let p := st.place x.h (q.1.idx st) q.1.i0
        let (ws, fl) := s.encodeRow st.cvt st.raw p.1 { col := 0, vals := [q.2.1], len := 1, mode := fun _ => mode q.1 q.1.i0 }
        ((ws.flatMap cutLines).map fun w => (w.1, w.2, q.2.2), fl)
      (each.flatMap Prod.fst, orFlags (each.map Prod.snd), [])

/-- The writes of lines, in order. -/
def State.putEach (s : State) (n : Nat) (pos : W32) (space h : Nat) (ws : List LineWrite) : State :=
  ws.foldl (fun s w => s.put n pos space h w.1 w.2.1 w.2.2) s

/-- A list cut into pieces of the lengths of lines. -/
def cutBy {α : Type} : List (List PassLane) → List α → List (List α)
  | [], _ => []
  | l :: ls, xs => xs.take l.length :: cutBy ls (xs.drop l.length)

/-- Every write of a pass, in stage order: (stream, writes), the flags of conversions, and the reads of kept elements. -/
def State.passWrites (s : State) (x : PassCtx) (lines : List (List PassLane)) (outs : List (Nat × List (Option W32) × List Bool)) :
    List (Nat × List LineWrite) × Nat × List Range :=
  let all := outs.map fun o =>
    let st := nth Stream.none x.sts o.1
    let parts := (lines.zip ((cutBy lines o.2.1).zip (cutBy lines o.2.2))).map fun q => s.lineWrites x o.1 st q.1 q.2.1 q.2.2
    ((o.1, parts.flatMap fun p => p.1), orFlags (parts.map fun p => p.2.1), parts.flatMap fun p => p.2.2)
  (all.map Prod.fst, orFlags (all.map fun a => a.2.1), all.flatMap fun a => a.2.2)

/-- The Chimney's results of a pass: for each reduction, its lines' leaves (R147). -/
def treeLines (c : Chain) (lanes op : Nat) (lines : List (List PassLane)) (ls : List (Option Leaf)) : List (Option Leaf × Nat) :=
  if c.fold then (cutBy lines ls).map fun xs => reduceTree op (log2Of (c.count 0)) xs
  else [reduceTree op (log2Of lanes) ls]

/-- A Chimney line kept between passes: present, value, compensation. -/
def keptLine (t : Tab (List W32)) (k : Nat) : Option Leaf :=
  match Tab.at [] t k with
  | [a, b] => some (a, b)
  | _ => none

def keepLine (t : Tab (List W32)) (k : Nat) (v : Option Leaf) : Tab (List W32) :=
  Tab.put [] t k (match v with
    | some x => [x.1, x.2]
    | none => [])

/-- The result of a line is written at idx0 = 0 (R148). -/
def State.writeLine (s : State) (n : Nat) (pos : W32) (x : PassCtx) (j : Nat) (line : List PassLane) (w : W32) (poisoned : Bool) : State :=
  match line with
  | [] => s
  | l :: _ =>
    let st := nth Stream.none x.sts j
    let l0 := { l with i0 := 0 }
    let (ws, fl, _) := s.lineWrites x j st [l0] [some w] [poisoned]
    (s.putEach n pos st.space x.h ws).raise n pos fl

/-! ### Atomic adds (R169, R172, R298, R299) -/

/-- The ticket of an ORDERED_ADD: ring, hearth position, and the low 19 bits of the position (R299). -/
def addTicket (n position : Nat) (pos : W32) : W32 := BitVec.ofNat 7 n ++ BitVec.ofNat 6 position ++ pos.setWidth 19

/-- The request of one add: an ORDERED_ADD carries its ticket, an ATOMIC_ADD none, and neither the ORDERED attribute (R294). -/
def atomicRequest (cls : BitVec 2) (n : Nat) (pos : W32) (a : OrderedAdd) (ordered : Bool) : Request :=
  { Request.mk' true a.addr 4 (leBytes 4 a.operand.toNat) cls n pos (.atomic ordered a.int a.operand) with
    ticket := if ordered then addTicket n a.position pos else 0#32, poison := poisonBits a.addr 4 a.poisoned }

/-- Whether every lower position with work has sent its end mark to a port. -/
def Port.cleared (p : Port) (n : Nat) (pos : W32) (lower : List Nat) : Bool := lower.all fun k => p.marks.contains (n, pos, k)

/-- Whether adds of the same descriptor that walk order places before one still wait in a port's buffer (R172). -/
def Port.addsBefore (p : Port) (a : OrderedAdd) : Bool :=
  p.adds.any fun b => b.ring == a.ring && b.pos == a.pos && decide (b.position ≤ a.position)

/-- One add leaves a hearth at a position of the mask: on a Banked ring in walk order at the home port, else in order of arrival. -/
def State.sendAdd (s : State) (h : Nat) (lower : List Nat) (a : OrderedAdd) : State :=
  let cls := s.classOf a.ring
  if cls = 1#2 then
    let p := s.transomPort a.addr
    let x := s.port p
    if x.cleared a.ring a.pos lower && !x.addsBefore a then s.send p (atomicRequest cls a.ring a.pos a true)
    else s.setPort p { x with adds := x.adds ++ [a] }
  else s.send (hearthPort h a.addr) (atomicRequest cls a.ring a.pos a false)

/-- A hearth's end mark at every port. -/
def State.endMarks (s : State) (n : Nat) (pos : W32) (position : Nat) : State :=
  (List.range s.portCount).foldl (fun s p => s.setPort p { s.port p with marks := (s.port p).marks ++ [(n, pos, position)] }) s

/-- The places in the mask, below one, that received work. -/
def lowerPositions (hs : List Nat) (runs : List (Nat × Nat × Nat)) (position : Nat) : List Nat :=
  (List.range position).filter fun k => runs.any fun q => some q.1 == hs[k]?

/-! ### Dealing (R144) -/

/-- CHAIN: the runs are dealt, and each hearth reads its record. -/
def State.dealChain (s : State) (n : Nat) (e : Entry) : State :=
  let c := chainOf e.desc
  let runs := c.deal s.cfg.lanes (s.workHearths e)
  let (s, bad) := s.meet n e.pos (runs.map fun q => { space := 0, hearth := q.1, lo := c.streamOff, len := 256 })
  if bad then s.finish n e.pos
  else
    let s := runs.foldl (fun (s : State) q =>
      s.modHearth q.1 fun x => { x with chains := x.chains ++ [{
        ring := n, pos := e.pos, first := q.2.1, count := q.2.2, pass := 0, passes := c.passes s.cfg.lanes q.2.2,
        record := s.streamRecord c q.1, lines := [], marks := [], reads := [] }] }) s
    s.modEntry n e.pos fun e => { e with started := true, left := runs.length }

def execChain (ring : BitVec 7) (pos : W32) (s : State) : Result :=
  match s.running ring.toNat pos 0x10 with
  | some e => .next (if e.started then s else s.dealChain ring.toNat e)
  | none => .next s

/-! ### A pass -/

/-- The pass's place in the walk. -/
def ChainRun.isLast (r : ChainRun) (c : Chain) (lanes : Nat) : Bool :=
  c.fold || decide (r.pass % c.passesPerLine lanes + 1 = c.passesPerLine lanes)

/-- The run goes on to its next pass, or leaves its hearth. -/
def State.advanceRun (s : State) (h : Nat) (r r' : ChainRun) : State :=
  s.modHearth h fun x =>
    { x with chains := if r'.pass = r'.passes then x.chains.erase r else x.chains.map fun q => if q = r then r' else q }

/-- Requests of a pass join the SFU's queue (R175), behind those of older passes. -/
def Hearth.queueSfu (x : Hearth) (qs : List (Nat × Nat)) : Hearth :=
  let k := match x.sfuQueue.getLast? with
    | some q => q.1 + 1
    | none => 0
  { x with sfuQueue := x.sfuQueue ++ qs.map fun q => (k, q.1, q.2) }

/-- The reductions of a pass: lines joined in pass order, and written when they end, marked when an operand of the line was (R347). `kept` and
`held` are the lines in progress, by stage, and those of them that have consumed marked data. -/
def State.reduceLines (s : State) (n : Nat) (pos : W32) (x : PassCtx) (lines : List (List PassLane)) (last : Bool)
    (leaves : List (Nat × Nat × List (Option Leaf) × List Bool)) (kept : Tab (List W32)) (held : List Nat) :
    State × Tab (List W32) × List Nat :=
  leaves.foldl (fun acc q =>
    let (s, kept, held) := acc
    let (k, op, ls, bad) := q
    let j := (LaneStage.decode (nth 0 x.c.words k)).dst - 32
    let parts := treeLines x.c s.cfg.lanes op lines ls
    let s := s.raise n pos (orFlags (parts.map Prod.snd))
    if x.c.fold then
      ((lines.zip (parts.zip (cutBy lines bad))).foldl (fun s p =>
        let (w, fl) := reduceResult op p.2.1.1
        (s.writeLine n pos x j p.1 w (p.2.2.any id)).raise n pos fl) s, kept, held)
    else
      let (v, fl) := reduceJoin op (keptLine kept k) (nth (none, 0) parts 0).1
      let s := s.raise n pos fl
      let poisoned := held.contains k || bad.any id
      if last then
        let (w, fl) := reduceResult op v
        ((s.writeLine n pos x j (nth [] lines 0) w poisoned).raise n pos fl, keepLine kept k none, held.filter (· != k))
      else (s, keepLine kept k v, if poisoned && !held.contains k then held ++ [k] else held)) (s, kept, held)

/-- One add of a pass is sent: of lane i, stream j, element k. -/
def State.passAdd (s : State) (n : Nat) (pos : W32) (h position : Nat) (lower : List Nat) (x : PassCtx)
    (a : Nat × Nat × Nat × W32 × Bool × Bool) : State :=
  let (i, j, k, w, int, bad) := a
  let st := nth Stream.none x.sts j
  let l := nth { i0 := 0, own := [], glob := [] } x.lanes i
  s.sendAdd h lower { ring := n, pos := pos, position := position, addr := st.atomicAddr (l.idx st) k, int := int, operand := w,
                      poisoned := bad }

/-- The effects of a pass whose reads are all there. -/
def State.commitPass (s : State) (n : Nat) (e : Entry) (h : Nat) (r : ChainRun) (x : PassCtx) (lines : List (List PassLane))
    (p : PassRun) (flags : Nat) : State :=
  let hs := s.workHearths e
  let runs := x.c.deal s.cfg.lanes hs
  let position := hs.idxOf h
  let lower := lowerPositions hs runs position
  let (ws, fl, _) := s.passWrites x lines p.outs
  let s := s.raise n e.pos (flags ||| p.flags ||| fl ||| flagIf p.varied fVaried)
  let s := ws.foldl (fun s o => s.putEach n e.pos (nth Stream.none x.sts o.1).space h o.2) s
  let (s, kept, held) := s.reduceLines n e.pos x lines (r.isLast x.c s.cfg.lanes) p.leaves r.lines r.marks
  let adds := (List.range x.vl).flatMap fun i => p.adds.filter fun a => a.1 == i
  let s := adds.foldl (fun s a => s.passAdd n e.pos h position lower x a) s
  let s := s.modHearth h fun y => y.queueSfu p.sfu
  let r' := { r with pass := r.pass + 1, lines := kept, marks := held, reads := [] }
  let s := (s.advanceRun h r r').act n e.pos h
  let s := { s with draws := s.draws + 16 * x.vl }
  let s := if r'.pass = r'.passes then
    ((if s.classOf n = 1#2 then s.endMarks n e.pos position else s).modEntry n e.pos fun e => e.leave h).shareDone n e.pos else s
  s.stopIfEnded n e.pos

/-- Adds that would overfill the ordering buffer of a home port stall a position that is not the lowest (R299). -/
def State.addsStall (s : State) (n : Nat) (e : Entry) (h : Nat) (x : PassCtx) (p : PassRun) : Bool :=
  let hs := s.workHearths e
  let lower := lowerPositions hs (x.c.deal s.cfg.lanes hs) (hs.idxOf h)
  decide (s.classOf n = 1#2) && !p.adds.isEmpty &&
    (List.range s.portCount).any fun k => !(s.port k).cleared n e.pos lower && decide (4096 < (s.port k).adds.length + p.adds.length)

/-- What a pass of a run computes before it has an effect: its lanes, its lines, what the program leaves, the flags of the loads, the reads, and
the ranges of the Mantel that it writes. -/
structure PassPlan where
  ctx : PassCtx
  lines : List (List PassLane)
  run : PassRun
  flags : Nat
  reads : List Range
  outs : List Range

/-- The Mantel ranges that a pass writes: the writes of its output streams, and the lines that its reductions end. -/
def State.passOuts (s : State) (x : PassCtx) (lines : List (List PassLane)) (last : Bool) (p : PassRun) : List Range :=
  let at1 (a n : Nat) : Range := { space := 1, hearth := 0, lo := a, len := n }
  let streams := ((s.passWrites x lines p.outs).1.filter fun o => (nth Stream.none x.sts o.1).space == 1).flatMap fun o =>
    o.2.map fun w => at1 w.1 w.2.1.length
  let sums := if x.c.fold || last then p.leaves.flatMap fun q =>
      let st := nth Stream.none x.sts ((LaneStage.decode (nth 0 x.c.words q.1)).dst - 32)
      if st.space = 1 then lines.flatMap fun l => match l with
        | [] => []
        | l :: _ => st.reads x.h (l.idx st) 0
      else []
    else []
  streams ++ sums

def State.planPass (s : State) (h : Nat) (r : ChainRun) (e : Entry) : PassPlan :=
  let c := chainOf e.desc
  let sts := c.streams r.record
  let lines := c.lines s.cfg.lanes r.first r.count r.pass
  let x0 : PassCtx := { c := c, sts := sts, img := r.record, h := h, bank := e.banks.getLsbD h, lanes := lines.flatten, indices := r.count,
                        inputs := [], tainted := [], done := r.reads, count := s.audit.count }
  let loads := ((List.range sts.length).zip sts).map fun q =>
    if c.named q.1 && !q.2.gather && !q.2.output then
      (x0.streamReads q.2, s.loadStream x0 q.1 q.2, x0.lanes.map fun l => s.taintAt x0 q.2 l) else ([], [], [])
  let x := { x0 with inputs := loads.map fun q => q.2.1.map Prod.fst, tainted := loads.map fun q => q.2.2 }
  let own := loads.flatMap Prod.fst
  let start : PassRun := { vals := x.lanes.map fun _ => LaneVal.zero, marks := x.lanes.map fun _ => 0, flags := 0, outs := [], leaves := [], adds := [], reads := own,
                           ready := (hostPieces own).all fun p => r.reads.contains p, varied := false, sfu := [] }
  let p := s.program x (decide (s.classOf r.ring = 1#2)) start
  let kept := if p.ready then (s.passWrites x lines p.outs).2.2 else []
  { ctx := x, lines := lines, run := p, flags := orFlags (loads.flatMap fun q => q.2.1.map Prod.snd), reads := p.reads ++ kept,
    outs := if p.ready then s.passOuts x lines (r.isLast c s.cfg.lanes) p else [] }

/-- One pass of a run. -/
def State.runPass (s : State) (h : Nat) (r : ChainRun) (e : Entry) : State :=
  let n := r.ring
  let q := s.planPass h r e
  match s.readiness n r.pos r.reads q.reads with
  | .fetch s' d => (s'.advanceRun h r { r with reads := d }).stopIfEnded n r.pos
  | .wait => s
  | .go _ =>
    if s.addsStall n e h q.ctx q.run || q.outs.any (fun o => s.stalls o) then s
    else ((s.sealReads n r.pos none q.reads).meet n r.pos q.reads).1.commitPass n e h r q.ctx q.lines q.run q.flags

/-- The place of a run in the order of service: Flue first, then issue order (R154, R267). -/
def State.runRank (s : State) (r : ChainRun) : Nat × Nat :=
  (if s.classOf r.ring = 0#2 then 0 else 1, match s.entry r.ring r.pos with
    | some e => e.order
    | none => 0)

/-- The run that a hearth's lanes serve. -/
def State.nextRun (s : State) (rs : List ChainRun) : Option ChainRun :=
  rs.foldl (fun acc r => match acc with
    | none => some r
    | some b => if (s.runRank r).1 < (s.runRank b).1 ∨ ((s.runRank r).1 = (s.runRank b).1 ∧ (s.runRank r).2 < (s.runRank b).2)
        then some r else some b) none

/-- CHAIN_PASS: the next pass of the run that the lanes serve. A run of another class waits while a Flue descriptor has the hearth (R154,
R267). -/
def State.chainPass (s : State) (h : Nat) : State :=
  let rs := (s.hearth h).chains
  match s.nextRun rs with
  | none => s
  | some r =>
    if s.withheld h (s.classOf r.ring) || s.yields r.ring h then s
    else match s.entry r.ring r.pos with
      | some e =>
        if e.status ≠ 0#8 then s.stopWork r.ring r.pos else s.runPass h r e
      | none => s

def execChainPass (hearth : BitVec 6) (s : State) : Result :=
  if hearth.toNat < s.cfg.hearths then .next (if s.hearthRuns hearth.toNat then s.chainPass hearth.toNat else s) else .fault .absentUnit

/-! ### The SFU (R175) -/

/-- The request granted next: the oldest pass, then the lowest stage, then the groups round from the last one granted. -/
def Hearth.sfuNext (x : Hearth) : Option (Nat × Nat × Nat) :=
  match x.sfuQueue with
  | [] => none
  | q :: _ =>
    let mine := x.sfuQueue.filter fun r => r.1 == q.1
    let low := mine.foldl (fun a r => min a r.2.1) q.2.1
    let groups := (mine.filter fun r => r.2.1 == low).map fun r => r.2.2
    match ((List.range 8).map fun k => (x.sfuLast + 1 + k) % 8).find? fun g => groups.contains g with
    | some g => some (q.1, low, g)
    | none => none

def Hearth.sfuGrant (x : Hearth) : Hearth :=
  match x.sfuNext with
  | some q => { x with sfuQueue := x.sfuQueue.erase q, sfuLast := q.2.2 }
  | none => x

/-- SFU_GRANT: at most two requests are granted; results do not depend on the order. -/
def execSfuGrant (hearth : BitVec 6) (s : State) : Result :=
  if hearth.toNat < s.cfg.hearths then
    .next (if s.hearthRuns hearth.toNat then s.modHearth hearth.toNat fun x => x.sfuGrant.sfuGrant else s)
  else .fault .absentUnit

/-! ### ORDERED_ADD_RELEASE (R299) -/

/-- The positions below one that received work, for an issued CHAIN. -/
def State.lowerOf (s : State) (a : OrderedAdd) : List Nat :=
  match s.entry a.ring a.pos with
  | some e =>
    let hs := s.workHearths e
    lowerPositions hs ((chainOf e.desc).deal s.cfg.lanes hs) a.position
  | none => []

/-- The buffered adds whose lower positions have all ended leave, in ticket order. -/
def State.releaseAdds (s : State) (p : Nat) : State :=
  let x := s.port p
  let free := x.adds.filter fun a => x.cleared a.ring a.pos (s.lowerOf a)
  let ordered := (List.range 64).flatMap fun k => free.filter fun a => a.position == k
  let s := s.setPort p { x with adds := x.adds.filter fun a => !free.contains a }
  ordered.foldl (fun s a => s.send p (atomicRequest (s.classOf a.ring) a.ring a.pos a true)) s

def execOrderedAddRelease (port : BitVec 5) (s : State) : Result :=
  if port.toNat < s.portCount then .next (s.releaseAdds port.toNat) else .fault .absentUnit

end Sys2Proof.Machine
end

