-- ==== Sys2Proof/Machine/Planes.lean ====
section
/-! DEFINITION. Arrays of rows, as NORM, COPY and FILL place them (R139, R196, R300): rows, breaches and ranges; COPY and FILL
(R300 to R302). -/

namespace Sys2Proof.Machine

/-! ### Rows of an array -/

/-- An array of rows: address, row stride, scale offset, conversion, space, and whether it holds raw words. -/
structure Plane where
  addr : Nat
  stride : Nat
  scaleOff : Nat
  cvt : Nat
  space : Nat
  raw : Bool
  deriving DecidableEq, Repr

/-- The bytes of a descriptor at which the fields of an array stand. -/
structure PlaneAt where
  addr : Nat
  stride : Nat
  scaleOff : Nat
  cvt : Nat
  space : Nat
  deriving DecidableEq, Repr

def Plane.mx (p : Plane) : Bool := cvtMx p.cvt && !p.raw
def Plane.bits (p : Plane) : Nat := cvtBits p.cvt p.raw
def Plane.packed (p : Plane) : Bool := p.mx || decide (p.bits < 8)
def Plane.size (p : Plane) : Nat := max 1 (p.bits / 8)
def Plane.base (p : Plane) : Nat := if p.space = 2 then (p.addr % 64) * tileBytes else p.addr
def Plane.isLocal (p : Plane) : Bool := decide (p.space = 0 ∨ p.space = 2)

/-- Row r of the array, on a hearth. -/
def Plane.row (p : Plane) (h r : Nat) : Row :=
  { space := p.space, hearth := h, base := p.base + r * p.stride, scales := p.addr + p.scaleOff + r * (p.stride / blockBytes p.cvt) }

/-- The row's address index (R196, R300): its place on its hearth in spaces 0 and 2, its number elsewhere. -/
def Plane.index (p : Plane) (own m : Nat) : Nat := if p.isLocal then own else m

/-- The ranges (first, one past the last) of `rows` rows of `n` elements. -/
def Plane.extents (p : Plane) (rows n : Nat) : List (Nat × Nat) :=
  extent p.base p.stride rows (rowBytes p.cvt p.raw n) ::
    if p.mx then [scaleExtent p.cvt p.addr p.scaleOff p.stride rows n] else []

/-- Arrays that coincide exactly (R141). -/
def Plane.same (p q : Plane) : Bool := p.space == q.space && p.addr == q.addr && p.stride == q.stride && p.bits == q.bits

/-- Breaches of an array by R139 and R284. `load` is an input, whose specifier has no RND or SAT; `raws` are the fields that the rule of a raw
array reads beside. -/
def State.planeBreaches (s : State) (p : Plane) (at' : PlaneAt) (load : Bool) (rawAt : List Nat) (rows n : Nat) : List Breach :=
  let ok := if p.raw then p.cvt == 0 else cvtValid p.cvt && (!load || (decide (cvtRnd p.cvt = 0) && !cvtSat p.cvt))
  let lim := s.spaceSize p.space
  let rawOf := if p.raw then rawAt else []
  breach (p.raw && !ok) 0 (at'.cvt :: rawAt) ++ breach (!p.raw && !ok) 0 [at'.cvt] ++
    breach (decide (p.scaleOff ≠ 0) && !cvtMx p.cvt) 0 [at'.cvt, at'.scaleOff] ++
    breach (decide (p.space = 1) && !s.cfg.hasMantel) 0 [at'.space] ++
    breach (decide (p.space = 2) && decide (64 ≤ p.addr)) 0 [at'.addr, at'.space] ++
    if !ok then []
    else
      breach (decide (p.space = 2) && !p.raw && (p.mx || decide (cvtFmt p.cvt ≠ 0))) 0 (at'.cvt :: at'.space :: rawAt) ++
        (if p.packed then
          breach (decide (p.base % 64 ≠ 0)) 0 [at'.addr] ++
            breach (p.mx && decide ((p.addr + p.scaleOff) % 64 ≠ 0)) 0 [at'.addr, at'.scaleOff] ++
            breach (decide (p.stride % 64 ≠ 0) || (p.mx && decide (p.stride % blockBytes p.cvt ≠ 0))) 0 [at'.stride]
        else
          breach (decide (p.base % p.size ≠ 0)) 0 (at'.addr :: rawOf) ++ breach (decide (p.stride % p.size ≠ 0)) 0 (at'.stride :: rawOf)) ++
        if rows = 0 ∨ n = 0 then []
        else
          breach (decide (lim < (extent p.base p.stride rows (rowBytes p.cvt p.raw n)).2)) 0 [at'.addr] ++
            breach (p.mx && decide (lim < (scaleExtent p.cvt p.addr p.scaleOff p.stride rows n).2)) 0 [at'.addr, at'.scaleOff]

/-- The elements of a row in FP32, with the flags of their loads. -/
def State.loadRow (s : State) (p : Plane) (h r n : Nat) : List (W32 × Nat) :=
  (List.range n).map fun c => s.element p.cvt p.raw (p.row h r) c

def Plane.reads (p : Plane) (h r n : Nat) : List Range := rowReads p.cvt p.raw (p.row h r) 0 n

/-- Elements of a row of `len` from column `col` are written; `row` is the row of its SR bits, and `bad` tells of columns (first, count) whether
a line that holds them depends on marked data. -/
def State.storeSpan (s : State) (n : Nat) (pos : W32) (p : Plane) (h r : Nat) (seed : W64) (row col len : Nat) (vals : List W32)
    (bad : Option (Nat → Nat → Bool)) : State :=
  let w : RowWrite := { col := col, vals := vals.map some, len := len, mode := fun c => cvtMode p.cvt seed row c }
  let at' := p.row h r
  let (ws, fl) := s.encodeRow p.cvt p.raw at' w
  (match bad with
    | none => s.putAll n pos p.space h ws false
    | some f => s.putLines n pos p.space h ws fun lo k =>
        let c := at'.columns p.cvt p.raw (rowBytes p.cvt p.raw len) lo k
        f c.1 c.2).raise n pos fl

/-- A whole row is written, every line of it marked or none. -/
def State.storeRow (s : State) (n : Nat) (pos : W32) (p : Plane) (h r : Nat) (seed : W64) (row : Nat) (vals : List W32) (poisoned : Bool) : State :=
  s.storeSpan n pos p h r seed row 0 vals.length vals (if poisoned then some fun _ _ => true else none)

/-- The ATILEs of an array in space 2. -/
def Plane.tiles (p : Plane) (rows n : Nat) : List Nat :=
  if p.space = 2 ∧ rows ≠ 0 ∧ n ≠ 0 then
    let e := extent p.base p.stride rows (rowBytes p.cvt p.raw n)
    (List.range 64).filter fun a => decide (e.1 < tileBytes * (a + 1)) && decide (tileBytes * a < e.2)
  else []

/-- What stands where a read is undefined (R141, R197): the state with free bytes there, and the count of draws that the machine goes on with. -/
def State.blur (s : State) (rs : List Range) : State :=
  rs.foldl State.spoil s

/-- The parts that ranges of inputs share with ranges of outputs. -/
def sharedParts (space : Nat) (ins outs : List (Nat × Nat)) : List Range :=
  ins.flatMap fun x => outs.flatMap fun y =>
    if overlaps x y then [{ space := space, hearth := 0, lo := max x.1 y.1, len := min x.2 y.2 - max x.1 y.1 }] else []

/-! ### COPY and FILL (Tables 14-4 and 14-5) -/

structure Mover where
  bcast : Bool
  rows : Nat
  cols : Nat
  src : Option Plane
  value : W32
  dst : Plane
  seed : W64
  deriving DecidableEq, Repr

def planeAt (d : Nat) (a : PlaneAt) (raw : Bool) : Plane :=
  { addr := fld d a.addr 0 64, stride := fld d a.stride 0 32, scaleOff := fld d a.scaleOff 0 32, cvt := fld d a.cvt 0 16,
    space := fld d a.space 0 2, raw := raw }

def copySrcAt : PlaneAt := { addr := 32, stride := 40, scaleOff := 44, cvt := 48, space := 50 }
def copyDstAt : PlaneAt := { addr := 52, stride := 60, scaleOff := 64, cvt := 68, space := 70 }
def fillDstAt : PlaneAt := copySrcAt

def copyOf (desc : DescBits) : Mover :=
  let d := desc.toNat
  let raw := flag d 16 1
  { bcast := flag d 16 0, rows := fld d 20 0 24, cols := fld d 24 0 32, src := some (planeAt d copySrcAt raw), value := 0#32,
    dst := planeAt d copyDstAt raw, seed := BitVec.ofNat 64 (fld d 72 0 64) }

def fillOf (desc : DescBits) : Mover :=
  let d := desc.toNat
  { bcast := flag d 16 0, rows := fld d 20 0 24, cols := fld d 24 0 32, src := none, value := BitVec.ofNat 32 (fld d 28 0 32),
    dst := planeAt d fillDstAt (flag d 16 1), seed := BitVec.ofNat 64 (fld d 56 0 64) }

def copyFields : List (Nat × Nat × Nat) := [(16, 0, 2), (20, 0, 24), (24, 0, 32), (32, 0, 146), (52, 0, 146), (72, 0, 64)]
def fillFields : List (Nat × Nat × Nat) := [(16, 0, 2), (20, 0, 24), (24, 0, 32), (28, 0, 32), (32, 0, 146), (56, 0, 64)]

/-- Elements of a row: words of 4 bytes under RAW. -/
def Mover.elems (b : Mover) : Nat := if b.dst.raw then b.cols / 4 else b.cols

/-- The rows of each hearth: (hearth, first row, count). `all` is the effective mask, `hs` the hearths that share rows. -/
def Mover.deal (b : Mover) (all hs : List Nat) : List (Nat × Nat × Nat) :=
  if b.bcast then all.map fun h => (h, 0, b.rows) else Machine.deal hs b.rows

/-- The rows that an end addresses: the most on any hearth where rows count on their hearth. -/
def Plane.rowSpan (p : Plane) (runs : List (Nat × Nat × Nat)) (rows : Nat) : Nat :=
  if p.isLocal then runs.foldl (fun a q => max a q.2.2) 0 else rows

/-- Breaches of a COPY or FILL (R302). -/
def State.moverBreaches (s : State) (desc : DescBits) (fields : List (Nat × Nat × Nat)) (dstAt : PlaneAt) (b : Mover) (all hs : List Nat) :
    List Breach :=
  let runs := b.deal all hs
  let n := b.elems
  let own := bodyReserved desc.toNat fields ++
    breach (decide (descSplit desc ≠ 0) && decide (descSplit desc ≠ 15)) 0 [9] ++
    breach (decide (b.rows = 0)) 0 [20] ++ breach (decide (b.cols = 0)) 0 [24] ++
    breach (b.dst.raw && decide (b.cols % 4 ≠ 0)) 0 [16, 24] ++
    breach (b.bcast && !b.dst.isLocal) 0 [16, dstAt.space] ++
    s.planeBreaches b.dst dstAt false [16] (b.dst.rowSpan runs b.rows) n ++
    (match b.src with
      | some p => s.planeBreaches p copySrcAt true [16] (p.rowSpan runs b.rows) n
      | none => [])
  match own, b.src with
  | [], some p =>
    breach (p.space == b.dst.space && p.isLocal && !p.same b.dst &&
      (p.extents (p.rowSpan runs b.rows) n).any fun x => (b.dst.extents (b.dst.rowSpan runs b.rows) n).any fun y => overlaps x y)
      0 [copySrcAt.addr, dstAt.addr]
  | _, _ => own

/-- The bytes of an array over the rows of its hearths: what stands in a hearth's memories counts on each (R268). -/
def Plane.footprint (p : Plane) (runs : List (Nat × Nat × Nat)) (rows n : Nat) : Nat :=
  if p.isLocal then runs.foldl (fun a q => a + Machine.footprint (p.extents q.2.2 n)) 0 else Machine.footprint (p.extents rows n)

def Mover.footprint (b : Mover) (runs : List (Nat × Nat × Nat)) : Nat :=
  b.dst.footprint runs b.rows b.elems + match b.src with
    | some p => p.footprint runs b.rows b.elems
    | none => 0

/-- The pieces of a share of COPY or FILL: whole rows, or whole blocks of a longer row, of at most 4 KiB of the data moved, at whose
boundaries it yields (R267; log entry 139). -/
def Mover.rowData (b : Mover) : Nat := rowBytes b.dst.cvt b.dst.raw b.elems
def Mover.rowsAtOnce (b : Mover) : Nat := max 1 (4096 / b.rowData)
def Mover.colsAtOnce (b : Mover) : Nat := if b.rowData ≤ 4096 then b.elems else 4096 * 8 / b.dst.bits / 32 * 32

def Mover.pieces (b : Mover) (rows : Nat) : Nat :=
  if b.rowData ≤ 4096 then ceilDiv rows b.rowsAtOnce else rows * ceilDiv b.elems b.colsAtOnce

/-- Piece k of a share of `rows` rows: (row, first column, columns). -/
def Mover.spans (b : Mover) (rows k : Nat) : List (Nat × Nat × Nat) :=
  if b.rowData ≤ 4096 then
    (List.range (min b.rowsAtOnce (rows - k * b.rowsAtOnce))).map fun i => (k * b.rowsAtOnce + i, 0, b.elems)
  else
    let per := ceilDiv b.elems b.colsAtOnce
    let c := k % per * b.colsAtOnce
    [(k / per, c, min b.colsAtOnce (b.elems - c))]

/-- The bytes of a span of an array, for a share whose first row is `first`. -/
def Plane.spanReads (p : Plane) (h first : Nat) (q : Nat × Nat × Nat) : List Range :=
  rowReads p.cvt p.raw (p.row h (p.index q.1 (first + q.1))) q.2.1 q.2.2

/-- Whether a hearth reads a source's lines: under BCAST the first hearth of a stove reads them once for the stove (R300). -/
def Mover.readsFor (b : Mover) (runs : List (Nat × Nat × Nat)) (h : Nat) : Bool :=
  match b.src with
  | some p => !b.bcast || p.isLocal || (runs.find? fun q => q.1 / 8 == h / 8).map Prod.fst == some h
  | none => false

/-- What stands where a read that R141 leaves undefined falls: the parts that source and destination share in spaces 1 and 3. -/
def Mover.void (b : Mover) : List Range :=
  match b.src with
  | some p => if p.space = b.dst.space ∧ p.isLocal = false ∧ p.same b.dst = false then
      sharedParts p.space (p.extents b.rows b.elems) (b.dst.extents b.rows b.elems) else []
  | none => []

/-- One span is moved. -/
def State.moveSpan (s : State) (n : Nat) (pos : W32) (b : Mover) (h first : Nat) (view : State) (tainted : Bool) (q : Nat × Nat × Nat) : State :=
  let m := first + q.1
  let (vals, fl) : List W32 × Nat := match b.src with
    | some p =>
      let from' := if b.void = [] then s else view
      let xs := (List.range q.2.2).map fun c => from'.element p.cvt p.raw (p.row h (p.index q.1 m)) (q.2.1 + c)
      (xs.map Prod.fst, orFlags (xs.map Prod.snd))
    | none => (List.replicate q.2.2 b.value, 0)
  let bad : Option (Nat → Nat → Bool) := match b.src with
    | some p => if tainted then some fun c k =>
        (rowReads p.cvt p.raw (p.row h (p.index q.1 m)) c (min k (b.elems - c))).any fun r => s.tainted r else none
    | none => none
  (s.storeSpan n pos b.dst h (b.dst.index q.1 m) b.seed m q.2.1 b.elems vals bad).raise n pos fl

/-- A COPY or FILL moves the next piece of the first hearth that may act: its hearth runs, the Damper lets it, and no Flue descriptor has the
hearth. -/
def State.mover (s : State) (n : Nat) (e : Entry) (b : Mover) : State :=
  let runs := b.deal (s.hearthsOf e.mask) (s.workHearths e)
  let shares := runs.map fun q => (q.1, b.pieces q.2.2)
  let may (h : Nat) : Bool := s.hearthRuns h && !s.withheld h (s.classOf n) && !s.yields n h
  match if e.status ≠ 0#8 then shares.head?.map fun q => (q.1, 0) else e.nextPiece shares may with
  | none => s
  | some (h, k) =>
    match runs.find? fun q => q.1 == h with
    | none => s
    | some q =>
      let spans := b.spans q.2.2 k
      let reads := match b.src with
        | some p => spans.flatMap fun x => p.spanReads h q.2.1 x
        | none => []
      s.piece n e.pos none (if b.readsFor runs h then reads else []) reads (spans.flatMap fun x => b.dst.spanReads h q.2.1 x) fun s bad =>
        let view := s.blur b.void
        let s := { s with draws := view.draws }
        let s := spans.foldl (fun s x => s.moveSpan n e.pos b h q.2.1 view bad x) s
        (s.act n e.pos h).advance n e.pos shares h (k + 1) (b.pieces q.2.2)

def execCopy (ring : BitVec 7) (pos : W32) (s : State) : Result :=
  match s.running ring.toNat pos 0x30 with
  | some e => .next (s.mover ring.toNat e (copyOf e.desc))
  | none => .next s

def execFill (ring : BitVec 7) (pos : W32) (s : State) : Result :=
  match s.running ring.toNat pos 0x31 with
  | some e => .next (s.mover ring.toNat e (fillOf e.desc))
  | none => .next s

end Sys2Proof.Machine
end

