-- ==== Sys2Proof/Machine/Norm.lean ====
section
/-! DEFINITION. NORM (chapter 10): the body and its checks (R194, R195), softmax from the row and from records (R198 to R202), MERGE (R201),
RMS and layer normalisation (R203 to R208). -/

namespace Sys2Proof.Machine

/-! ### Bodies (Table 10-2) -/

structure Norm where
  op : Nat
  mask : Nat
  onepass : Bool
  statsIn : Bool
  statsOut : Bool
  gamma : Bool
  beta : Bool
  anchored : Bool
  tkFull : Bool
  tkInplace : Bool
  k : Nat
  rsSpace : Nat
  rows : Nat
  cols : Nat
  eps : W32
  expMul : W32
  maskOff : Nat
  rowBase : Nat
  colBase : Nat
  src : Plane
  dst : Plane
  gammaAddr : Nat
  betaAddr : Nat
  maskAddr : Nat
  maskStride : Nat
  parts : Nat
  rsIn : Nat
  rsOut : Nat
  seed : W64
  deriving DecidableEq, Repr

def normOf (desc : DescBits) : Norm :=
  let d := desc.toNat
  let w (o : Nat) : Nat := fld d o 0 32
  let a (o : Nat) : Nat := fld d o 0 64
  { op := fld d 16 0 4, mask := fld d 16 4 3, onepass := flag d 16 7, statsIn := flag d 17 0, statsOut := flag d 17 1,
    gamma := flag d 17 2, beta := flag d 17 3, anchored := flag d 17 4, tkFull := flag d 17 5, tkInplace := flag d 17 6,
    k := fld d 18 0 5, rsSpace := fld d 19 0 2, rows := fld d 20 0 24, cols := fld d 24 0 24, eps := BitVec.ofNat 32 (w 28),
    expMul := BitVec.ofNat 32 (w 32), maskOff := w 36, rowBase := w 40, colBase := w 44,
    src := { addr := a 48, stride := w 56, scaleOff := w 76, cvt := fld d 60 0 16, space := fld d 19 2 2, raw := false },
    dst := { addr := a 64, stride := w 72, scaleOff := w 80, cvt := fld d 62 0 16, space := fld d 19 4 2, raw := false },
    gammaAddr := w 84, betaAddr := w 88, maskAddr := w 92, maskStride := w 96, parts := fld d 100 0 16, rsIn := a 104, rsOut := a 112,
    seed := BitVec.ofNat 64 (a 120) }

def normFields : List (Nat × Nat × Nat) :=
  [(16, 0, 8), (17, 0, 7), (18, 0, 5), (19, 0, 6), (20, 0, 24), (24, 0, 24), (28, 0, 592), (104, 0, 192)]

def normSrcAt : PlaneAt := { addr := 48, stride := 56, scaleOff := 76, cvt := 60, space := 19 }
def normDstAt : PlaneAt := { addr := 64, stride := 72, scaleOff := 80, cvt := 62, space := 19 }

/-- The operation takes rows of elements. -/
def Norm.elementwise (b : Norm) : Bool := decide (b.op ≤ 3)
def Norm.writesRows (b : Norm) : Bool := b.elementwise || (decide (b.op = 4) && !b.tkInplace)
def Norm.readsRecords (b : Norm) : Bool := b.statsIn || decide (b.op = 5)
def Norm.writesRecords (b : Norm) : Bool := b.statsOut || decide (b.op = 5)

/-- The two-pass statistics of LAYERNORM (R205). -/
def Norm.twoPass (b : Norm) : Bool := decide (b.src.space = 0) && decide (b.cols ≤ 262144) && !b.onepass

/-- A record address: multiples of 64 in spaces 0 and 1, of 4 in space 3. -/
def recordAlign (space : Nat) : Nat := if space = 3 then 4 else 64

/-- A range of a space, with the byte of the field that places it, and whether it holds the scales of an array. -/
structure PlacedRange where
  space : Nat
  ends : Nat × Nat
  field : Nat
  scales : Bool
  deriving DecidableEq, Repr

def PlacedRange.size (r : PlacedRange) : Nat := r.ends.2 - r.ends.1

/-- The rows that an array or a vector of records spans in a space, on a hearth with `own` of the descriptor's rows (R196). -/
def Norm.span (b : Norm) (own space : Nat) : Nat := if space = 0 ∨ space = 2 then own else b.rows

/-- The weights replace values in the top-k records (R202). -/
def Norm.inPlace (b : Norm) : Bool := decide (b.op = 4) && b.tkInplace

/-- What a NORM reads and writes over `own` rows of a hearth: inputs and outputs. -/
def Norm.ranges (b : Norm) (own : Nat) : List PlacedRange × List PlacedRange :=
  let rows (space : Nat) : Nat := b.span own space
  let plane (p : Plane) (at' : Nat) : List PlacedRange :=
    ((p.extents (rows p.space) b.cols).zip [false, true]).map fun e => { space := p.space, ends := e.1, field := at', scales := e.2 }
  let one (on : Bool) (space lo len at' : Nat) : List PlacedRange :=
    if on then [{ space := space, ends := (lo, lo + len), field := at', scales := false }] else []
  ((if b.elementwise then plane b.src 48 else []) ++
    one (decide (b.op = 4)) b.src.space b.src.addr (8 * b.k * rows b.src.space) 48 ++
    one b.readsRecords b.rsSpace b.rsIn (if b.op = 5 then 16 * ((b.parts - 1) * b.rows + rows b.rsSpace) else 16 * rows b.rsSpace) 104 ++
    one b.gamma 0 b.gammaAddr (4 * b.cols) 84 ++ one b.beta 0 b.betaAddr (4 * b.cols) 88 ++
    one (decide (b.mask = 2)) 0 b.maskAddr (4 * b.rows) 92 ++
    one (decide (b.mask = 3)) 0 b.maskAddr ((b.rows - 1) * b.maskStride + ceilDiv b.cols 8) 92,
   (if b.writesRows then plane b.dst 64 else []) ++ one b.inPlace b.src.space b.src.addr (8 * b.k * rows b.src.space) 48 ++
    one b.writesRecords b.rsSpace b.rsOut (16 * rows b.rsSpace) 112)

/-- Ranges that R141 lets coincide: the elements of the input and output arrays, their scales where these are the same bytes, the top-k records
whose weights replace their values, and the statistics records in and out. -/
def Norm.coincide (b : Norm) (x y : PlacedRange) : Bool :=
  (x.field == 48 && y.field == 64 && b.elementwise && b.src.same b.dst && x.scales == y.scales && (!x.scales || x.ends == y.ends)) ||
    (x.field == 48 && y.field == 48 && b.inPlace) ||
    (x.field == 104 && y.field == 112 && decide (b.op ≠ 5) && b.rsIn == b.rsOut)

/-- The bytes of every range that the descriptor reads or writes, each hearth's own and those of the shared spaces (R268); `runs` are the rows of
each hearth. The descriptor row counts the vectors, which stand in every hearth's store. -/
def Norm.footprint (b : Norm) (runs : List (Nat × Nat × Nat)) : Nat :=
  let isOwn (r : PlacedRange) : Bool := decide (r.space = 0 ∨ r.space = 2)
  let sum (rs : List PlacedRange) : Nat := rs.foldl (fun a r => a + r.size) 0
  let all (own : Nat) : List PlacedRange := (b.ranges own).1 ++ (b.ranges own).2
  sum ((all b.rows).filter fun r => !isOwn r) + runs.foldl (fun a q => a + sum ((all q.2.2).filter isOwn)) 0

/-- Breaches of a NORM (R195, Table 10-3). -/
def State.normBreaches (s : State) (desc : DescBits) (hs : List Nat) : List Breach :=
  let b := normOf desc
  let runs := deal hs b.rows
  let own := runs.foldl (fun a q => max a q.2.2) 0
  let allowed (on : Bool) (ops : List Nat) : List Breach := breach (on && !ops.contains b.op) 0 [16, 17]
  let softmax := decide (b.op ≤ 1)
  let rsl (on : Bool) (sel at' : Nat) (space addr : Nat) : List Breach := breach (on && decide (addr % recordAlign space ≠ 0)) 0 [sel, at']
  let vec (on : Bool) (sel at' addr : Nat) : List Breach := breach (on && decide (addr % 64 ≠ 0)) 0 [sel, at']
  let rows (space : Nat) : Nat := b.span own space
  let io := b.ranges own
  let outside (r : PlacedRange) : List Breach := breach (decide (s.spaceSize r.space < r.ends.2)) 0 [r.field]
  let fields := bodyReserved desc.toNat normFields ++
    breach (decide (5 < b.op)) 0 [16] ++ breach (decide (3 < b.mask)) 0 [16] ++
    breach (b.onepass && decide (b.op ≠ 3)) 0 [16] ++ allowed b.statsIn [0, 1, 4] ++ allowed b.statsOut [0, 1, 2, 3] ++
    allowed b.gamma [2, 3] ++ allowed b.beta [3] ++ allowed b.anchored [0] ++ allowed b.tkFull [4] ++ allowed b.tkInplace [4] ++
    breach (b.anchored && !b.statsIn) 0 [17] ++ breach (decide (b.op = 4) && (b.statsIn != b.tkFull)) 0 [16, 17] ++
    breach (b.tkInplace && decide (b.dst.addr ≠ 0 ∨ b.dst.stride ≠ 0 ∨ b.dst.cvt ≠ 0)) 0 [17, 62, 64, 72] ++
    breach ((b.eps.getLsbD 31 && decide (b.eps ≠ negZero32)) || (f32 b.eps).isInf || (f32 b.eps).isNan) 0 [28] ++
    breach (decide (b.rows = 0)) 0 [20] ++ breach (decide (b.cols = 0) && decide (b.op ≠ 5)) 0 [24] ++
    breach (softmax && !b.statsIn && (decide (b.src.space = 1 ∨ b.src.space = 3) || decide (262144 < b.cols))) 0 [16] ++
    breach (decide (b.op = 4) && (decide (b.k = 0) || decide (16 < b.k) || decide (b.cols ≠ b.k) || decide (b.src.space = 2) ||
      decide (b.src.cvt ≠ 0))) 0 [16] ++
    breach (decide (b.op ≠ 4) && decide (b.k ≠ 0)) 0 [16, 18] ++
    breach (decide (b.op = 5) && (decide (b.parts < 2) || decide (1024 < b.parts))) 0 [16, 100] ++
    breach (decide (b.op ≠ 5) && decide (b.parts ≠ 0)) 0 [16, 100] ++
    breach (decide (b.op = 4 ∨ b.op = 5) && decide (b.src.stride ≠ 0)) 0 [16, 56] ++
    breach (decide (b.rsSpace = 2)) 0 [19] ++
    breach (decide (descSplit desc ≠ 0) && decide (descSplit desc ≠ 15)) 0 [9] ++
    rsl (b.readsRecords && decide (b.op ≠ 5)) 17 104 b.rsSpace b.rsIn ++ rsl (decide (b.op = 5)) 16 104 b.rsSpace b.rsIn ++
    rsl b.statsOut 17 112 b.rsSpace b.rsOut ++ rsl (decide (b.op = 5)) 16 112 b.rsSpace b.rsOut ++
    rsl (decide (b.op = 4)) 16 48 b.src.space b.src.addr ++
    vec b.gamma 17 84 b.gammaAddr ++ vec b.beta 17 88 b.betaAddr ++ vec (decide (b.mask = 2 ∨ b.mask = 3)) 16 92 b.maskAddr ++
    breach (decide (b.mask = 3) && decide (b.maskStride % 64 ≠ 0)) 0 [16, 96] ++
    (if b.elementwise then s.planeBreaches b.src normSrcAt true [] (rows b.src.space) b.cols
    else
      breach (!cvtValid b.src.cvt || decide (cvtRnd b.src.cvt ≠ 0) || cvtSat b.src.cvt) 0 [60] ++
        breach (decide (b.src.scaleOff ≠ 0) && !cvtMx b.src.cvt) 0 [60, 76]) ++
    (if b.writesRows then s.planeBreaches b.dst normDstAt false [] (rows b.dst.space) b.cols
    else breach (!cvtValid b.dst.cvt) 0 [62] ++ breach (decide (b.dst.scaleOff ≠ 0) && !cvtMx b.dst.cvt) 0 [62, 80])
  if fields = [] then
    ((io.1.filter fun r => r.field != 48 || decide (b.op = 4)).flatMap outside) ++ ((io.2.filter fun r => r.field != 64).flatMap outside) ++
      overlapOf b io.1 io.2
  else fields
where
  overlapOf (b : Norm) (ins : List PlacedRange) : List PlacedRange → List Breach
    | [] => []
    | y :: rest =>
      ((ins ++ rest).flatMap fun x =>
        breach (x.space == y.space && (x.space == 0 || x.space == 2) && overlaps x.ends y.ends && !b.coincide x y) 0 [x.field, y.field]) ++
        overlapOf b ins rest

/-! ### Fixed functions -/

def one32 : W32 := 0x3F800000#32

/-- RCP of Table 09-2. -/
def rcp (x : W32) : W32 × Nat :=
  let (l, f1) := laneLog2 x
  let (n, f2) := fSign true l
  let (p, f3) := laneExp2 n
  let (e, f4) := fNma x p one32
  let (y, f5) := fMa p e p
  (y, f1 ||| f2 ||| f3 ||| f4 ||| f5)

/-- RSQRT of Table 09-2. -/
def rsqrt (x : W32) : W32 × Nat :=
  let (l, f1) := laneLog2 x
  let (h, f2) := fMul l 0xBF000000#32
  let (y, f3) := laneExp2 h
  (y, f1 ||| f2 ||| f3)

/-- rsqrt1 (R203). -/
def rsqrt1 (v : W32) : W32 × Nat :=
  if v = 0#32 ∨ v = negZero32 then (posInf32, 0)
  else if v = posInf32 then (0#32, 0)
  else
    let (r, f1) := rsqrt v
    let (h, f2) := fMul v r
    let (e, f3) := fNma h r one32
    let (q, f4) := fMul r 0x3F000000#32
    let (y, f5) := fMa q e r
    (y, f1 ||| f2 ||| f3 ||| f4 ||| f5)

/-- The FP32 value nearest 1 / n: 64 bits of the quotient, and an odd last bit where a remainder is left. -/
def recipNat (n : Nat) : W32 :=
  let q := 2 ^ 64 / n
  rn32 (.fin false (2 * q + if 2 ^ 64 % n = 0 then 0 else 1) (-65))

def natF32 (n : Nat) : W32 := rn32 (.fin false n 0)

/-- A row through the Chimney, in passes of LANES columns (R147, R167); none where an element takes no part. -/
def reduceRowFrom (op lanes : Nat) : Nat → List (Option W32) → Option Leaf → Option Leaf × Nat
  | 0, _, acc => (acc, 0)
  | k + 1, xs, acc =>
    let ls := (xs.take lanes).map fun x => x.map fun v => reduceLeaf op v
    let (v, f1) := reduceTree op (log2Of lanes) (ls.map fun l => l.map Prod.fst)
    let (acc', f2) := reduceJoin op acc v
    let (r, f3) := reduceRowFrom op lanes k (xs.drop lanes) acc'
    (r, orFlags (ls.filterMap fun l => l.map Prod.snd) ||| f1 ||| f2 ||| f3)

def reduceRow (op lanes : Nat) (xs : List (Option W32)) : W32 × Nat :=
  let (v, f1) := reduceRowFrom op lanes (ceilDiv xs.length lanes) xs none
  let (w, f2) := reduceResult op v
  (w, f1 ||| f2)

/-- Each present element through a function; flags together. -/
def mapRow (f : W32 → W32 × Nat) (xs : List (Option W32)) : List (Option W32) × Nat :=
  let ys := xs.map fun x => x.map f
  (ys.map fun y => y.map Prod.fst, orFlags (ys.filterMap fun y => y.map Prod.snd))

/-! ### Softmax (R198 to R200) -/

/-- A statistics record (Table 06-6). -/
structure StatsRec where
  m : W32
  l : W32
  a : W32
  ninf : Nat
  rflags : Nat
  deriving DecidableEq, Repr

def StatsRec.bytes (r : StatsRec) : List W8 :=
  leBytes 4 r.m.toNat ++ leBytes 4 r.l.toNat ++ leBytes 4 r.a.toNat ++ leBytes 2 r.ninf ++ leBytes 2 r.rflags

def statsRecOf (img : Nat) : StatsRec :=
  { m := BitVec.ofNat 32 (fld img 0 0 32), l := BitVec.ofNat 32 (fld img 4 0 32), a := BitVec.ofNat 32 (fld img 8 0 32),
    ninf := fld img 12 0 16, rflags := fld img 14 0 16 }

def StatsRec.isEmpty (r : StatsRec) : Bool := r.rflags.testBit 0
def StatsRec.isInf (r : StatsRec) : Bool := r.rflags.testBit 1
def StatsRec.isNan (r : StatsRec) : Bool := r.rflags.testBit 2

/-- The output of masked and absent elements. -/
def restOut (log : Bool) : W32 := if log then negInf32 else 0#32

/-- The weight of each +inf (Table 10-4). -/
def infWeight (log : Bool) (n : Nat) : W32 :=
  if log then (if n = 1 then 0#32 else (fMul (laneLog2 (natF32 n)).1 0xBF317218#32).1) else recipNat n

/-- Read 3 of R198: `ds` and `es` with none at masked elements. -/
def softOut (log : Bool) (ds es : List (Option W32)) (l : W32) : List W32 × Nat :=
  if log then
    let (l2, f1) := laneLog2 l
    let (ts, f2) := mapRow (fun d => fSub d l2) ds
    let (ys, f3) := mapRow (fun t => fMul t 0x3F317218#32) ts
    (ys.map fun y => y.getD negInf32, f1 ||| f2 ||| f3)
  else
    let (r, f1) := rcp l
    let (ys, f2) := mapRow (fun e => fMul e r) es
    (ys.map fun y => y.getD 0#32, f1 ||| f2)

/-- A row without NaN. -/
def softFinite (log : Bool) (lanes : Nat) (zs : List (Option W32)) : List W32 × Nat × StatsRec :=
  let live := zs.filterMap id
  let ninf := (live.filter fun z => z == posInf32).length
  if ninf ≠ 0 then
    (zs.map fun z => if z = some posInf32 then infWeight log ninf else restOut log, fRowInf,
      { m := posInf32, l := natF32 ninf, a := negInf32, ninf := min ninf 0xFFFF, rflags := 2 })
  else if live.all fun z => z == negInf32 then
    (zs.map fun _ => restOut log, fRowEmpty, { m := negInf32, l := 0#32, a := negInf32, ninf := 0, rflags := 1 })
  else
    let (m, f1) := reduceRow 0x62 lanes zs
    let (ds, f2) := mapRow (fun z => fSub z m) zs
    let (es, f3) := mapRow laneExp2 ds
    let (l, f4) := reduceRow 0x64 lanes es
    let (ys, f5) := softOut log ds es l
    (ys, f1 ||| f2 ||| f3 ||| f4 ||| f5, { m := m, l := l, a := m, ninf := 0, rflags := 8 })

/-- A row from its values (R198, R199); `xs` has none at masked elements. -/
def softRow (log : Bool) (lanes : Nat) (mul : W32) (xs : List (Option W32)) : List W32 × Nat × StatsRec :=
  let (zs, f) := mapRow (fun x => fMul mul x) xs
  let nan (z : Option W32) : Bool := match z with
    | some w => (f32 w).isNan
    | none => false
  if zs.any nan then
    let (_, g, r) := softFinite log lanes (zs.map fun z => if nan z then none else z)
    (zs.map fun _ => qnan32, f ||| (g &&& (fRowInf ||| fRowEmpty)) ||| fRowNan ||| fNanSeen, { r with rflags := r.rflags ||| 4 })
  else
    let (ys, g, r) := softFinite log lanes zs
    (ys, f ||| g, r)

/-- A row from its record (R200). -/
def softFromRecord (log anchored : Bool) (mul : W32) (r : StatsRec) (xs : List (Option W32)) : List W32 × Nat :=
  if r.isNan then
    (xs.map fun _ => qnan32, fRowNan ||| fNanSeen ||| flagIf r.isInf fRowInf ||| flagIf r.isEmpty fRowEmpty)
  else if r.isInf then
    let here := (xs.filter fun x => x == some posInf32).length
    let n := if r.ninf = 0xFFFF then here else r.ninf
    (xs.map fun x => if x = some posInf32 ∧ n ≠ 0 then infWeight log n else restOut log, fRowInf)
  else if r.isEmpty then (xs.map fun _ => restOut log, fRowEmpty)
  else if anchored then
    let (d, f1) := fSub r.a r.m
    let (e, f2) := laneExp2 d
    let (q, f3) := rcp r.l
    let (c, f4) := fMul e q
    let (ys, f5) := mapRow (fun x => fMul x c) xs
    (ys.map fun y => y.getD 0#32, f1 ||| f2 ||| f3 ||| f4 ||| f5)
  else
    let (zs, f1) := mapRow (fun x => fMul mul x) xs
    let (ds, f2) := mapRow (fun z => fSub z r.m) zs
    let (es, f3) := mapRow laneExp2 ds
    let (ys, f4) := softOut log ds es r.l
    (ys, f1 ||| f2 ||| f3 ||| f4)

/-! ### MERGE (R201) -/

def mergeRecords (ps : List StatsRec) : StatsRec × Nat :=
  let nan := ps.any StatsRec.isNan
  let ninf := min 0xFFFF (ps.foldl (fun a p => a + p.ninf) 0)
  let m := (ps.drop 1).foldl (fun a p => maxNumber a p.m) (ps.headD { m := negInf32, l := 0#32, a := negInf32, ninf := 0, rflags := 0 }).m
  let m := if (f32 m).isNan then qnan32 else m
  let anchor := ps.find? fun p => p.rflags.testBit 3
  let isEmpty := ps.all StatsRec.isEmpty
  let (l, fl, inf) : W32 × Nat × Bool :=
    if isEmpty then (0#32, 0, false)
    else if m = posInf32 then (natF32 ninf, 0, true)
    else
      let (l, fl) := (ps.filter fun p => !(f32 p.m).isInf && !(f32 p.m).isNan).foldl (fun acc p =>
        let (d, f1) := fSub p.m m
        let (e, f2) := laneExp2 d
        let (l, f3) := fMa p.l e acc.1
        (l, acc.2 ||| f1 ||| f2 ||| f3)) (0#32, 0)
      (l, fl, false)
  ({ m := m, l := l, a := (match anchor with
      | some p => p.a
      | none => negInf32), ninf := ninf,
     rflags := bitNat isEmpty + 2 * bitNat inf + 4 * bitNat nan + 8 * bitNat anchor.isSome },
   fl ||| flagIf nan fRowNan ||| flagIf inf fRowInf ||| flagIf isEmpty fRowEmpty)

/-! ### RMS and layer normalisation (R204 to R208) -/

/-- The record of Table 10-5. -/
def normRecord (mean var rstd : W32) (count : Nat) : List W8 :=
  leBytes 4 mean.toNat ++ leBytes 4 var.toNat ++ leBytes 4 rstd.toNat ++ leBytes 4 count

/-- Mean, variance and flags of a LAYERNORM row. -/
def layerStats (two : Bool) (lanes : Nat) (xs : List (Option W32)) (k inv : W32) : W32 × W32 × Nat :=
  let (ds, f1) := mapRow (fun x => fSub x k) xs
  let (s1, f2) := reduceRow 0x64 lanes ds
  if two then
    let (mu, f3) := fMa s1 inv k
    let (es, f4) := mapRow (fun x => fSub x mu) xs
    let (s2, f5) := reduceRow 0x65 lanes es
    let (var, f6) := fMul s2 inv
    (mu, var, f1 ||| f2 ||| f3 ||| f4 ||| f5 ||| f6)
  else
    let (s2, f3) := reduceRow 0x65 lanes ds
    let (md, f4) := fMul s1 inv
    let (q, f5) := fMul s2 inv
    let (var, f6) := fNma md md q
    let neg := (f32 var).lt FVal.zero
    let (mu, f7) := fAdd k md
    (mu, if neg then 0#32 else var, f1 ||| f2 ||| f3 ||| f4 ||| f5 ||| f6 ||| f7 ||| flagIf neg fVarClamp)

/-- A row of RMSNORM or LAYERNORM: outputs, record, flags. `xs` has none at masked elements. -/
def normRow (b : Norm) (lanes : Nat) (xs : List (Option W32)) (gamma beta : Nat → W32) : List W32 × List W8 × Nat :=
  let live := xs.filterMap id
  let n := live.length
  let all (w : W32) : List W32 := xs.map fun _ => w
  if live.any fun x => (f32 x).isNan then (all qnan32, normRecord qnan32 qnan32 qnan32 n, fRowNan ||| fNanSeen)
  else if live.any fun x => (f32 x).isInf then (all qnan32, normRecord qnan32 qnan32 qnan32 n, fRowInf ||| fInv)
  else if n = 0 then (all 0#32, normRecord 0#32 0#32 0#32 0, fRowEmpty)
  else
    let inv := recipNat n
    let (mu, var, f1) : W32 × W32 × Nat :=
      if b.op = 2 then
        let (s2, f1) := reduceRow 0x65 lanes xs
        let (ms, f2) := fMul s2 inv
        (0#32, ms, f1 ||| f2)
      else layerStats b.twoPass lanes xs (nth 0#32 live 0) inv
    let (v, f2) := fAdd var (if b.eps = negZero32 then 0#32 else b.eps)
    let (r, f3) := rsqrt1 v
    let out (q : Option W32 × Nat) : W32 × Nat := match q.1 with
      | none => (0#32, 0)
      | some x =>
        let (d, g1) := if b.op = 2 then (x, 0) else fSub x mu
        let (t, g2) := fMul d r
        let (y, g3) := if b.beta then fMa t (gamma q.2) (beta q.2) else fMul t (gamma q.2)
        (y, g1 ||| g2 ||| g3)
    let ys := (xs.zip (List.range xs.length)).map out
    (ys.map Prod.fst, normRecord mu var r n, f1 ||| f2 ||| f3 ||| orFlags (ys.map Prod.snd))

/-! ### One row of a descriptor -/

/-- A hearth's row: its hearth, its index there, and its descriptor row. -/
structure NormRow where
  h : Nat
  own : Nat
  m : Nat
  deriving DecidableEq, Repr

def Norm.recIndex (b : Norm) (q : NormRow) : Nat := if b.rsSpace = 0 then q.own else q.m
def Norm.topkAddr (b : Norm) (q : NormRow) : Nat := b.src.addr + 8 * b.k * b.src.index q.own q.m

def State.normMasked (s : State) (b : Norm) (h m c : Nat) : Bool :=
  s.maskedBy h b.mask b.maskOff b.rowBase b.colBase b.maskAddr b.maskStride m c

/-- The elements with the masked ones left out. -/
def State.unmasked (s : State) (b : Norm) (q : NormRow) (xs : List W32) : List (Option W32) :=
  (xs.zip (List.range xs.length)).map fun p => if s.normMasked b q.h q.m p.2 then none else some p.1

/-- The statistics record that a row reads. -/
def State.readStats (s : State) (b : Norm) (q : NormRow) (part : Nat) : StatsRec :=
  statsRecOf (leNat (s.peek b.rsSpace q.h (b.rsIn + 16 * (part * b.rows + b.recIndex q)) 16))

/-- The records that a row reads: its top-k record and its statistics records. -/
def Norm.recordReads (b : Norm) (q : NormRow) : List Range :=
  let range (space lo len : Nat) : Range := { space := space, hearth := q.h, lo := lo, len := len }
  let recs (p : Nat) : Range := range b.rsSpace (b.rsIn + 16 * (p * b.rows + b.recIndex q)) 16
  (if b.op = 4 then [range b.src.space (b.topkAddr q) (8 * b.k)] else []) ++
    if b.op = 5 then (List.range b.parts).map recs else if b.statsIn then [recs 0] else []

/-- The ranges that a row reads: its elements, its records, its part of the mask, and the vectors of its hearth. -/
def Norm.rowReads (b : Norm) (q : NormRow) : List Range :=
  let store (on : Bool) (lo len : Nat) : List Range := if on then [{ space := 0, hearth := q.h, lo := lo, len := len }] else []
  (if b.elementwise then b.src.reads q.h (b.src.index q.own q.m) b.cols else []) ++ b.recordReads q ++
    store (decide (b.mask = 2)) (b.maskAddr + 4 * q.m) 4 ++
    store (decide (b.mask = 3)) (b.maskAddr + q.m * b.maskStride) (ceilDiv b.cols 8) ++
    store b.gamma b.gammaAddr (4 * b.cols) ++ store b.beta b.betaAddr (4 * b.cols)

/-- The ranges that a row writes. -/
def Norm.rowOuts (b : Norm) (q : NormRow) : List Range :=
  (if b.writesRows then b.dst.reads q.h (b.dst.index q.own q.m) b.cols else []) ++
    (if b.inPlace then [{ space := b.src.space, hearth := q.h, lo := b.topkAddr q, len := 8 * b.k }] else []) ++
    if b.writesRecords then [{ space := b.rsSpace, hearth := q.h, lo := b.rsOut + 16 * b.recIndex q, len := 16 }] else []

/-- A statistics record is written. -/
def State.writeStats (s : State) (n : Nat) (pos : W32) (b : Norm) (q : NormRow) (bytes : List W8) (poisoned : Bool) : State :=
  s.put n pos b.rsSpace q.h (b.rsOut + 16 * b.recIndex q) bytes poisoned

/-- Outputs of a row of elements. -/
def State.writeRow (s : State) (n : Nat) (pos : W32) (b : Norm) (q : NormRow) (ys : List W32) (poisoned : Bool) : State :=
  s.storeRow n pos b.dst q.h (b.dst.index q.own q.m) b.seed ((b.rowBase + q.m) % 2 ^ 32) ys poisoned

/-- SOFTMAX and LOGSOFTMAX of one row, read in `view`. -/
def State.softmaxRow (s view : State) (n : Nat) (pos : W32) (b : Norm) (q : NormRow) (poisoned : Bool) : State :=
  let log := decide (b.op = 1)
  let xs := view.loadRow b.src q.h (b.src.index q.own q.m) b.cols
  let us := view.unmasked b q (xs.map Prod.fst)
  let fl := orFlags (xs.map Prod.snd)
  let (ys, f, r) : List W32 × Nat × StatsRec :=
    if b.statsIn then
      let r := view.readStats b q 0
      let (ys, f) := softFromRecord log b.anchored b.expMul r us
      (ys, f, r)
    else softRow log s.cfg.lanes b.expMul us
  let s := (s.writeRow n pos b q ys poisoned).raise n pos (fl ||| f)
  if b.statsOut then s.writeStats n pos b q r.bytes poisoned else s

/-- RMSNORM and LAYERNORM of one row. -/
def State.normaliseRow (s view : State) (n : Nat) (pos : W32) (b : Norm) (q : NormRow) (poisoned : Bool) : State :=
  let xs := view.loadRow b.src q.h (b.src.index q.own q.m) b.cols
  let us := view.unmasked b q (xs.map Prod.fst)
  let gamma (c : Nat) : W32 := if b.gamma then view.storeWord q.h (b.gammaAddr + 4 * c) else one32
  let beta (c : Nat) : W32 := view.storeWord q.h (b.betaAddr + 4 * c)
  let (ys, bytes, f) := normRow b s.cfg.lanes us gamma beta
  let s := (s.writeRow n pos b q ys poisoned).raise n pos (orFlags (xs.map Prod.snd) ||| f)
  if b.statsOut then s.writeStats n pos b q bytes poisoned else s

/-- TOPK_SOFTMAX of one row (R202); fill entries take weight +0 in every row. -/
def State.topkRow (s view : State) (n : Nat) (pos : W32) (b : Norm) (q : NormRow) (poisoned : Bool) : State :=
  let at' := b.topkAddr q
  let img := leNat (view.peek b.src.space q.h at' (8 * b.k))
  let entries := (List.range b.k).map fun j => (BitVec.ofNat 32 (fld img (8 * j) 0 32), fld img (8 * j + 4) 0 32)
  let us := (entries.zip (List.range b.k)).map fun p =>
    if p.1.2 = 0xFFFFFFFF ∨ view.normMasked b q.h q.m p.2 = true then none else some p.1.1
  let (ws, f) : List W32 × Nat :=
    if b.tkFull then softFromRecord false false b.expMul (view.readStats b q 0) us
    else
      let (ys, f, _) := softRow false s.cfg.lanes b.expMul us
      (ys, f)
  let ys := (ws.zip entries).map fun p => if p.2.2 = 0xFFFFFFFF then 0#32 else p.1
  let s := s.raise n pos f
  if b.tkInplace then
    s.putAll n pos b.src.space q.h ((ys.zip (List.range b.k)).map fun p => (at' + 8 * p.2, leBytes 4 p.1.toNat)) poisoned
  else s.writeRow n pos b q ys poisoned

/-- MERGE of one row. -/
def State.mergeRow (s view : State) (n : Nat) (pos : W32) (b : Norm) (q : NormRow) (poisoned : Bool) : State :=
  let (r, f) := mergeRecords ((List.range b.parts).map fun p => view.readStats b q p)
  (s.writeStats n pos b q r.bytes poisoned).raise n pos f

/-! ### Undefined reads (R141, R197) -/

/-- What two ranges share. -/
def Range.meet (x y : Range) : List Range :=
  if x.space = y.space ∧ (x.space = 1 ∨ x.space = 3 ∨ x.hearth = y.hearth) ∧ overlaps (x.lo, x.lo + x.len) (y.lo, y.lo + y.len) = true then
    [{ x with lo := max x.lo y.lo, len := min (x.lo + x.len) (y.lo + y.len) - max x.lo y.lo }]
  else []

/-- Parts of inputs in spaces 1 and 3 that an output overlaps without coinciding (R141). -/
def Norm.voids (b : Norm) : List Range :=
  let io := b.ranges b.rows
  io.1.flatMap fun x => io.2.flatMap fun y =>
    if x.space = y.space ∧ (x.space = 1 ∨ x.space = 3) ∧ b.coincide x y = false then sharedParts x.space [x.ends] [y.ends] else []

/-- The statistics and top-k records that an issued descriptor writes. -/
def State.recordOuts (s : State) (e : Entry) : List Range :=
  let epi (m : Nat) : List Range := e.records.flatMap fun q =>
    (if epiStats q.2 && epiStatsOut q.2 then [{ space := epiRsSpace q.2, hearth := q.1, lo := epiRsAddr q.2, len := 16 * m }] else []) ++
      if epiTopk q.2 && epiTopkOut q.2 then [{ space := epiTkSpace q.2, hearth := q.1, lo := epiTkAddr q.2, len := 8 * epiK q.2 * m }] else []
  match descOpcode e.desc with
  | 0x01 => epi (matmulOf e.desc).m
  | 0x02 => epi (drainOf e.desc).m
  | 0x11 =>
    let b := normOf e.desc
    (deal (s.workHearths e) b.rows).flatMap fun q =>
      ((b.ranges q.2.2).2.filter fun r => r.field == 112 || r.field == 48).map fun r =>
        { space := r.space, hearth := q.1, lo := r.ends.1, len := r.size }
  | _ => []

/-- What of a row's reads is undefined: inputs that an output overlaps, and records whose writer is unfinished (R197). -/
def State.rowVoid (s : State) (n : Nat) (pos : W32) (b : Norm) (q : NormRow) : List Range :=
  let others := s.issuedAll.filter fun x => !(x.1 == n && x.2.pos == pos) && decide (x.2.stage ≠ .recorded)
  let late := others.flatMap fun x => s.recordOuts x.2
  ((b.rowReads q).flatMap fun r => b.voids.flatMap fun v => r.meet v) ++ (b.recordReads q).flatMap fun r => late.flatMap fun v => r.meet v

/-! ### Passes (R196, R211)

A hearth yields to Flue at a pass boundary, and `prog` counts its passes. What a row does, it does at its last pass, from the values that stand then,
so that a yield inside a row keeps the row's place and nothing else (log entry 140). -/

/-- How often a row is read (Table 10-8). -/
def Norm.readings (b : Norm) : Nat :=
  if b.statsIn ∨ b.op = 4 ∨ b.op = 5 then 1 else if b.op ≤ 1 then 3 else if b.op = 2 ∨ b.twoPass = false then 2 else 3

/-- Passes of a row of elements: every reading takes the row LANES columns at a time. -/
def Norm.rowPasses (b : Norm) (lanes : Nat) : Nat := if b.elementwise then b.readings * ceilDiv b.cols lanes else 1

/-- Rows that one pass takes: 16 at 256 lanes for TOPK_SOFTMAX (Table 10-8). -/
def Norm.rowsAtOnce (b : Norm) (lanes : Nat) : Nat := if b.op = 4 then lanes / 16 else 1

/-- Passes of a hearth's `own` rows. -/
def Norm.passes (b : Norm) (lanes own : Nat) : Nat := b.rowPasses lanes * ceilDiv own (b.rowsAtOnce lanes)

/-- The rows, as the hearth counts them, whose last pass is pass k. -/
def Norm.rowsEnding (b : Norm) (lanes own k : Nat) : List Nat :=
  if (k + 1) % b.rowPasses lanes = 0 then
    let g := k / b.rowPasses lanes
    (List.range (min (b.rowsAtOnce lanes) (own - g * b.rowsAtOnce lanes))).map fun i => g * b.rowsAtOnce lanes + i
  else []

/-- The SFU requests of pass k of row q, as (stage, lane group) (R175; log entry 141): EXP2 of the unmasked elements in the reading that forms it, and
the row's own EXP2 and LOG2 in its last pass. -/
def State.normRequests (s : State) (b : Norm) (q : NormRow) (k : Nat) : List (Nat × Nat) :=
  let lanes := s.cfg.lanes
  let groups := ceilDiv lanes 32
  let last := (k + 1) % b.rowPasses lanes == 0
  let scalars (j : Nat) : List (Nat × Nat) := if last then (List.range j).map fun i => (i + 1, 0) else []
  let perElement : List (Nat × Nat) :=
    let p := k % b.rowPasses lanes
    let chunks := ceilDiv b.cols lanes
    let c := p % chunks * lanes
    if decide (p / chunks = 1) || b.statsIn then
      (actingGroups ((List.range (min lanes (b.cols - c))).map fun i => !s.normMasked b q.h q.m (c + i))).map fun g => (0, g)
    else []
  match b.op with
  | 0 => if b.anchored then scalars 3 else perElement ++ scalars 2
  | 1 => perElement ++ scalars 1
  | 4 => (List.range 3).flatMap fun i => (List.range groups).map fun g => (i, g)
  | 5 => (List.range b.parts).map fun p => (p, 0)
  | _ => scalars 2

/-! ### The commands -/

/-- A row is computed, from `view` where something it reads is undefined. -/
def State.normOne (s : State) (n : Nat) (pos : W32) (act : State → State → Norm → NormRow → Bool → State) (b : Norm) (bad : Bool)
    (q : NormRow) : State :=
  let view := s.blur (s.rowVoid n pos b q)
  act { s with draws := view.draws } view b q bad

/-- The next pass of a NORM of one of the operations `ops`, on the first hearth that may act: its hearth runs, the Damper lets it, and no Flue
descriptor has the hearth. -/
def State.norm (s : State) (n : Nat) (pos : W32) (ops : List Nat) (act : State → State → Norm → NormRow → Bool → State) : State :=
  match s.running n pos 0x11 with
  | none => s
  | some e =>
    let b := normOf e.desc
    let lanes := s.cfg.lanes
    let runs := deal (s.workHearths e) b.rows
    let shares := runs.map fun q => (q.1, b.passes lanes q.2.2)
    let may (h : Nat) : Bool := s.hearthRuns h && !s.withheld h (s.classOf n) && !s.yields n h
    if !ops.contains b.op then s
    else match if e.status ≠ 0#8 then shares.head?.map fun q => (q.1, 0) else e.nextPiece shares may with
      | none => s
      | some (h, k) => match runs.find? fun q => q.1 == h with
        | none => s
        | some q =>
          let row (i : Nat) : NormRow := { h := h, own := i, m := q.2.1 + i }
          let rows := (b.rowsEnding lanes q.2.2 k).map row
          s.whole n pos none (rows.flatMap b.rowReads) (rows.flatMap b.rowOuts) fun s bad =>
            let s := rows.foldl (fun s r => s.normOne n pos act b bad r) s
            let s := s.modHearth h fun x => x.queueSfu (s.normRequests b (row (k / b.rowPasses lanes * b.rowsAtOnce lanes)) k)
            (s.act n pos h).advance n pos shares h (k + 1) (b.passes lanes q.2.2)

def execSoftmax (ring : BitVec 7) (pos : W32) (s : State) : Result :=
  .next (s.norm ring.toNat pos [0] fun s view b q bad => s.softmaxRow view ring.toNat pos b q bad)

def execLogsoftmax (ring : BitVec 7) (pos : W32) (s : State) : Result :=
  .next (s.norm ring.toNat pos [1] fun s view b q bad => s.softmaxRow view ring.toNat pos b q bad)

def execRmsnorm (ring : BitVec 7) (pos : W32) (s : State) : Result :=
  .next (s.norm ring.toNat pos [2] fun s view b q bad => s.normaliseRow view ring.toNat pos b q bad)

def execLayernorm (ring : BitVec 7) (pos : W32) (s : State) : Result :=
  .next (s.norm ring.toNat pos [3] fun s view b q bad => s.normaliseRow view ring.toNat pos b q bad)

def execTopkSoftmax (ring : BitVec 7) (pos : W32) (s : State) : Result :=
  .next (s.norm ring.toNat pos [4] fun s view b q bad => s.topkRow view ring.toNat pos b q bad)

def execMerge (ring : BitVec 7) (pos : W32) (s : State) : Result :=
  .next (s.norm ring.toNat pos [5] fun s view b q bad => s.mergeRow view ring.toNat pos b q bad)

end Sys2Proof.Machine
end

