-- ==== Sys2Proof/Machine/Routes.lean ====
section
/-! DEFINITION. The exchange configuration block, routes and count tables (R212 to R219), EPOCH_INSTALL (R214), and the bodies and local
checks of DISPATCH and COMBINE (R220, R221). -/

namespace Sys2Proof.Machine

/-! ### The configuration block (Table 11-1) -/

/-- Whether the Transom works: present, in Run or before the domains have stopped, and not stopped by a fatal event, an alarm or a reset. -/
def State.transomRuns (s : State) : Bool :=
  s.cfg.hasTransom && decide (s.pwr.block = .run ∨ s.pwr.block = .entering) && !s.err.stopped && !s.vault.halted &&
    decide (s.vault.handling = none) && !s.vault.resetting

/-- A configuration block at a Mantel address. -/
structure XchConfig where
  addr : Nat
  format : Nat
  self : Nat
  members : Nat
  nexp : Nat
  mapTag : Nat
  deriving DecidableEq, Repr

def State.configAt (s : State) (a : Nat) : XchConfig :=
  let m := s.mantel
  { addr := a, format := m.nat a 2, self := m.nat (a + 2) 2, members := m.nat (a + 4) 4, nexp := m.nat (a + 8) 4,
    mapTag := m.nat (a + 12) 4 }

/-- MO of Table 11-1. -/
def XchConfig.mapOffset (c : XchConfig) : Nat := 64 + ceilDiv (2 * c.members) 64 * 64

def XchConfig.size (c : XchConfig) : Nat := c.mapOffset + 4 * c.nexp

/-- Little-endian numbers of `w` bytes each. -/
def numbersOf (w : Nat) : Nat → List W8 → List Nat
  | 0, _ => []
  | n + 1, bs => leNat (bs.take w) :: numbersOf w n (bs.drop w)

def State.memberList (s : State) (c : XchConfig) : List Nat :=
  numbersOf 2 c.members (s.mantel.read (c.addr + 64) (2 * c.members))

/-- The expert map: the chip of each expert, none where VALID = 0. -/
def State.expertMap (s : State) (c : XchConfig) : List (Option Nat) :=
  (numbersOf 4 c.nexp (s.mantel.read (c.addr + c.mapOffset) (4 * c.nexp))).map fun w =>
    if w.testBit 31 then some (w % 65536) else none

/-- The installed block, read in place (R214). -/
def State.installed (s : State) : XchConfig := s.configAt s.xch.cfgAddr.toNat

/-- The members, rising. -/
def State.chips (s : State) : List Nat := if s.xch.members = 0 then [] else s.memberList s.installed

/-- The experts of a chip, rising. -/
def expertsOf (map : List (Option Nat)) (chip : Nat) : List Nat :=
  (map.zipIdx.filter fun q => q.1 == some chip).map Prod.snd

def rising : List Nat → Bool
  | a :: b :: rest => decide (a < b) && rising (b :: rest)
  | _ => true

/-- The breaches of a configuration block (R214). A block that leaves the Mantel is not localised. -/
def State.configBreaches (s : State) (a : Nat) : List Breach :=
  let c := s.configAt a
  if s.spaceSize 1 < a + 64 ∨ a % 64 ≠ 0 then [(0xF, 0)]
  else if 65536 < c.members then breach (decide (c.format ≠ 0x4358)) plConfig [0] ++ [(plConfig, 4)]
  else if 65536 < c.nexp ∨ s.spaceSize 1 < a + c.size then breach (decide (c.format ≠ 0x4358)) plConfig [0] ++ [(plConfig, 4), (plConfig, 8)]
  else
    let ms := s.memberList c
    breach (decide (c.format ≠ 0x4358)) plConfig [0] ++ breach (!rising ms) plConfig [4, 64] ++
      breach (!ms.contains c.self) plConfig [2, 4] ++
      breach ((s.expertMap c).any fun e => match e with
        | some chip => !ms.contains chip
        | none => false) plConfig [4, 8]

/-- Whether a ROUTE_BUILD, DISPATCH or COMBINE is issued and not completed. -/
def State.exchangeBusy (s : State) : Bool :=
  s.rings.any fun p => p.2.entries.any fun e => decide (0x20 ≤ descOpcode e.desc) && decide (descOpcode e.desc ≤ 0x22)

/-- The pending FENCE KIND EPOCH of ring 0. -/
def State.epochFence (s : State) : Option Entry :=
  (s.ring 0).entries.find? fun e => decide (e.stage = .running) && epochFenceDesc e.desc

/-- EPOCH_INSTALL (R214): once no exchange descriptor is outstanding, the block is checked and installed. -/
def State.epochInstall (s : State) : State :=
  match s.epochFence with
  | none => s
  | some e =>
    if !s.cfg.hasTransom then s.finishWith 0 e.pos stDesc (breachDetail [(plConfig, 0)])
    else if !s.transomRuns || s.exchangeBusy then s
    else
      let a := s.xch.nextCfg.toNat
      let c := s.configAt a
      match descVerdict (s.configBreaches a) with
      | some v => s.finishWith 0 e.pos v.1 v.2
      | none =>
        let r : Range := { space := 1, hearth := 0, lo := a, len := c.size }
        let (s, bad) := s.meet 0 e.pos [r]
        if bad then s.finish 0 e.pos
        else
          { s with xch := { s.xch with
              self := BitVec.ofNat 16 c.self, epoch := s.xch.epoch + 1#16, members := c.members, cfgAddr := s.xch.nextCfg } }.finish 0 e.pos

def execEpochInstall (s : State) : Result := .next s.epochInstall

/-! ### Route entries (Table 11-2) and count tables (Table 11-4) -/

def RouteEntry.ofNat (w : Nat) : RouteEntry :=
  { token := fld w 0 0 24, slot := fld w 3 0 4, valid := flag w 3 7, chip := fld w 4 0 16, expert := fld w 6 0 16,
    offset := fld w 8 0 32, weight := BitVec.ofNat 32 (fld w 12 0 32) }

/-- Bytes 0 to 3 of an entry: TOKEN and SLOT. -/
def tokenSlot (token slot : Nat) : Nat := token % 2 ^ 24 + 2 ^ 24 * (slot % 16)

def RouteEntry.bytes (r : RouteEntry) : List W8 :=
  leBytes 4 (tokenSlot r.token r.slot + (if r.valid then 2 ^ 31 else 0)) ++ leBytes 2 r.chip ++ leBytes 2 r.expert ++
    leBytes 4 r.offset ++ leBytes 4 r.weight.toNat

def RouteEntry.null (t j : Nat) : RouteEntry :=
  { token := t, slot := j, valid := false, chip := 0, expert := 0, offset := 0xFFFFFFFF, weight := 0#32 }

/-- A route record of `n` entries. -/
def State.routeAt (s : State) (a n : Nat) : List RouteEntry :=
  (numbersOf 16 n (s.mantel.read a (16 * n))).map RouteEntry.ofNat

/-! ### ROUTE_BUILD -/

structure RouteDesc where
  k : Nat
  space : Nat
  tokens : Nat
  inAddr : Nat
  rrAddr : Nat
  ctAddr : Nat
  deriving DecidableEq, Repr

def routeOf (desc : DescBits) : RouteDesc :=
  let d := desc.toNat
  { k := fld d 16 0 5, space := fld d 17 0 2, tokens := fld d 20 0 25, inAddr := fld d 24 0 64, rrAddr := fld d 32 0 64,
    ctAddr := fld d 40 0 64 }

def routeFields : List (Nat × Nat × Nat) := [(16, 0, 5), (17, 0, 2), (20, 0, 25), (24, 0, 64), (32, 0, 64), (40, 0, 64)]

/-- R216, and the ranges of R284. A missing configuration block, and an absent Mantel, are not localised. -/
def State.routeBreaches (s : State) (desc : DescBits) : List Breach :=
  let b := routeOf desc
  let lim := s.spaceSize 1
  let badSpace := !(decide (b.space = 3) || (decide (b.space = 1) && s.cfg.hasMantel))
  bodyReserved desc.toNat routeFields ++ breach (decide (b.k = 0) || decide (16 < b.k)) 0 [16] ++
    breach (decide (b.tokens = 0) || decide (2 ^ 24 < b.tokens)) 0 [20] ++ breach badSpace 0 [17] ++
    breach (decide (b.inAddr % 64 ≠ 0)) 0 [24] ++ breach (decide (b.rrAddr % 64 ≠ 0)) 0 [32] ++
    breach (decide (b.ctAddr % 64 ≠ 0)) 0 [40] ++ breach (decide (s.xch.members = 0) || !s.cfg.hasMantel) 0xF [0] ++
    breach (!badSpace && decide (s.spaceSize b.space < b.inAddr + 8 * b.k * b.tokens)) 0 [24] ++
    breach (decide (lim < b.rrAddr + 16 * b.k * b.tokens)) 0 [32] ++
    breach (decide (lim < b.ctAddr + 64 + 4 * s.installed.nexp)) 0 [40]

/-- What the walk of R217 carries: the entries, newest first, the counts by expert, and the nulled entries. -/
structure RouteWalk where
  entries : List RouteEntry
  counts : Tab Nat
  valid : Nat
  nulled : Nat
  deriving DecidableEq, Repr

/-- One top-k entry. -/
def RouteWalk.entry (w : RouteWalk) (map : List (Option Nat)) (t j : Nat) (value : W32) (at' : Nat) : RouteWalk :=
  if at' = 0xFFFFFFFF then { w with entries := RouteEntry.null t j :: w.entries }
  else match nth none map at' with
    | none => { w with entries := RouteEntry.null t j :: w.entries, nulled := w.nulled + 1 }
    | some chip =>
      let o := Tab.at 0 w.counts at'
      let e : RouteEntry := { token := t, slot := j, valid := true, chip := chip, expert := at', offset := o, weight := value }
      { w with entries := e :: w.entries, counts := Tab.put 0 w.counts at' (o + 1), valid := w.valid + 1 }

/-- The walk over the words of the top-k records: value, position, value, position, … -/
def routeWalk (map : List (Option Nat)) (k : Nat) : Nat → Nat → List Nat → RouteWalk → RouteWalk
  | 0, _, _, w => w
  | n + 1, i, v :: p :: rest, w => routeWalk map k n (i + 1) rest (w.entry map (i / k) (i % k) (BitVec.ofNat 32 v) p)
  | _, _, _, w => w

/-- The count table that a walk leaves. -/
def State.countTable (s : State) (b : RouteDesc) (w : RouteWalk) : List W8 :=
  let c := s.installed
  leBytes 2 0x5443 ++ leBytes 2 s.xch.epoch.toNat ++ leBytes 4 c.mapTag ++ leBytes 4 b.tokens ++ leBytes 1 b.k ++ leBytes 3 0 ++
    leBytes 4 c.nexp ++ leBytes 4 w.valid ++ leBytes 4 w.nulled ++ leBytes 36 0 ++
    (List.range c.nexp).flatMap fun e => leBytes 4 (Tab.at 0 w.counts e)

/-- ROUTE_BUILD. -/
def State.routeBuild (s : State) (n : Nat) (e : Entry) : State :=
  let b := routeOf e.desc
  let count := b.k * b.tokens
  let c := s.installed
  if !s.transomRuns then s
  else
    s.whole n e.pos none
      [{ space := b.space, hearth := transomUnit, lo := b.inAddr, len := 8 * count }, { space := 1, hearth := 0, lo := c.addr, len := c.size }]
      [{ space := 1, hearth := 0, lo := b.rrAddr, len := 16 * count }, { space := 1, hearth := 0, lo := b.ctAddr, len := 64 + 4 * c.nexp }]
      fun s bad =>
        let words := numbersOf 4 (2 * count) (s.peek b.space 0 b.inAddr (8 * count))
        let w := routeWalk (s.expertMap c) b.k count 0 words { entries := [], counts := [], valid := 0, nulled := 0 }
        let table := s.countTable b w
        let s := s.put n e.pos 1 transomUnit b.rrAddr (w.entries.reverse.flatMap RouteEntry.bytes) bad
        let s := s.put n e.pos 1 transomUnit b.ctAddr table bad
        (s.raise n e.pos (flagIf (decide (0 < w.nulled)) fPermOor)).finish n e.pos

def execRouteBuild (ring : BitVec 7) (pos : W32) (s : State) : Result :=
  match s.running ring.toNat pos 0x20 with
  | some e => .next (s.routeBuild ring.toNat e)
  | none => .next s

/-! ### The exchange descriptors (Table 11-5) -/

structure XchDesc where
  combine : Bool
  reverse : Bool
  twin : Bool
  srcTwin : Bool
  release : Bool
  elemFmt : Nat
  xid : W16
  tokens : Nat
  k : Nat
  bset : Nat
  lbset : Nat
  owners : Nat
  rowBytes : Nat
  rrAddr : Nat
  ctAddr : Nat
  tokAddr : Nat
  tokStride : Nat
  outCvt : Nat
  tokSpace : Nat
  stageAddr : Nat
  btAddr : Nat
  btBytes : Nat
  rgAddr : Nat
  seed : W64
  deriving DecidableEq, Repr

def xchOf (desc : DescBits) : XchDesc :=
  let d := desc.toNat
  { combine := descOpcode desc == 0x22, reverse := flag d 16 0, twin := flag d 16 1, srcTwin := flag d 16 2,
    release := flag d 16 3, elemFmt := fld d 17 0 4, xid := BitVec.ofNat 16 (fld d 18 0 16), tokens := fld d 20 0 25,
    k := fld d 24 0 5, bset := fld d 25 0 8, lbset := fld d 26 0 8, owners := fld d 27 0 3, rowBytes := fld d 28 0 32,
    rrAddr := fld d 32 0 64, ctAddr := fld d 40 0 64, tokAddr := fld d 48 0 64, tokStride := fld d 56 0 32,
    outCvt := fld d 60 0 16, tokSpace := fld d 62 0 2, stageAddr := fld d 64 0 64, btAddr := fld d 72 0 64,
    btBytes := fld d 80 0 32, rgAddr := fld d 88 0 64, seed := BitVec.ofNat 64 (fld d 96 0 64) }

def xchFields : List (Nat × Nat × Nat) :=
  [(16, 0, 4), (17, 0, 4), (18, 0, 16), (20, 0, 25), (24, 0, 5), (25, 0, 8), (26, 0, 8), (27, 0, 3), (28, 0, 32), (32, 0, 64),
   (40, 0, 64), (48, 0, 64), (56, 0, 32), (60, 0, 16), (62, 0, 2), (64, 0, 64), (72, 0, 64), (80, 0, 32), (88, 0, 64), (96, 0, 64)]

/-- DISPATCH forward and COMBINE with REVERSE allocate; the other two return rows (R222). -/
def XchDesc.allocates (b : XchDesc) : Bool := b.combine == b.reverse
def XchDesc.returns (b : XchDesc) : Bool := b.combine != b.reverse

/-- Every operation but DISPATCH forward takes its layout from LBSET. -/
def XchDesc.reads (b : XchDesc) : Bool := b.combine || b.reverse

/-- Bytes of an element of a row. -/
def XchDesc.elemBytes (b : XchDesc) : Nat := if b.elemFmt = 0 then 4 else 2

/-- Elements of a row. -/
def XchDesc.elems (b : XchDesc) : Nat := b.rowBytes / b.elemBytes

/-- Packets of a row (R230). -/
def XchDesc.packets (b : XchDesc) : Nat := ceilDiv b.rowBytes 256

/-- Bytes of the combine stage (R227). -/
def XchDesc.stageBytes (b : XchDesc) (draught : Bool) : Nat :=
  if draught then b.tokens * 4 * b.elems else b.tokens * b.k * b.rowBytes

/-- Bytes of one token-side row. -/
def XchDesc.tokBytes (b : XchDesc) : Nat := if b.returns then Machine.rowBytes b.outCvt false b.elems else b.rowBytes

def State.bufferSet (s : State) (k : Nat) : Option BufferSet := Tab.at none s.xch.sets k

/-- Fields that an operation does not use (Table 11-5): their offset and value, where unused. -/
def XchDesc.unused (b : XchDesc) : List (Nat × Nat) :=
  (if b.allocates then [] else [(16, bitNat b.twin), (25, b.bset), (27, b.owners), (72, b.btAddr), (80, b.btBytes)]) ++
    (if b.reads then [] else [(16, bitNat b.srcTwin), (16, bitNat b.release), (17, b.elemFmt), (26, b.lbset)]) ++
    (if b.combine || b.reverse then [(40, b.ctAddr)] else []) ++
    (if b.returns then [] else [(60, b.outCvt), (64, b.stageAddr), (96, b.seed.toNat)]) ++
    (if b.combine && b.reverse then [] else [(88, b.rgAddr)])

/-- Fields out of range, misaligned, or in a space that is not allowed. -/
def State.xchFieldBreaches (s : State) (desc : DescBits) : List Breach :=
  let b := xchOf desc
  let badSpace := !(decide (b.tokSpace = 3) || (decide (b.tokSpace = 1) && s.cfg.hasMantel))
  bodyReserved desc.toNat xchFields ++ (b.unused.flatMap fun u => breach (decide (u.2 ≠ 0)) 0 [16, u.1]) ++
    breach (decide (b.rowBytes < 64) || decide (65536 < b.rowBytes) || decide (b.rowBytes % 64 ≠ 0)) 0 [28] ++
    breach (decide (b.k = 0) || decide (16 < b.k)) 0 [24] ++ breach (decide (b.tokens = 0) || decide (2 ^ 24 < b.tokens)) 0 [20] ++
    breach (b.allocates && (decide (b.owners = 0) || decide (4 < b.owners))) 0 [16, 27] ++ breach (decide (2 < b.elemFmt)) 0 [17] ++
    breach (b.returns && (!cvtValid b.outCvt || cvtMx b.outCvt)) 0 [60] ++
    ([(32, b.rrAddr), (40, b.ctAddr), (48, b.tokAddr), (56, b.tokStride), (64, b.stageAddr), (72, b.btAddr), (88, b.rgAddr)].flatMap
      fun q => breach (decide (q.2 % 64 ≠ 0)) 0 [q.1]) ++
    breach badSpace 0 [62] ++ breach (!s.cfg.hasMantel) 0xF [0]

/-- Ranges that leave their space (R227, R284). -/
def State.xchRangeBreaches (s : State) (desc : DescBits) (draught : Bool) : List Breach :=
  let b := xchOf desc
  let lim := s.spaceSize 1
  let tok := s.spaceSize b.tokSpace
  breach (decide (lim < b.rrAddr + 16 * b.tokens * b.k)) 0 [32] ++
    breach (decide (tok < b.tokAddr + (b.tokens - 1) * b.tokStride + b.tokBytes)) 0 [48] ++
    breach (b.returns && decide (lim < b.stageAddr + b.stageBytes draught)) 0 [64] ++
    breach (b.allocates && decide (lim < b.btAddr + b.btBytes)) 0 [72] ++
    breach (b.combine && b.reverse && decide (tok < b.rgAddr + 4 * b.tokens * b.k)) 0 [88] ++
    breach (!b.reads && decide (lim < b.ctAddr + 64 + 4 * s.installed.nexp)) 0 [40]

/-- Breaches against the count table, the buffer sets and the exchanges in progress (R213, R218, R221). -/
def State.xchStateBreaches (s : State) (desc : DescBits) : List Breach :=
  let b := xchOf desc
  let m := s.mantel
  let table :=
    if b.reads then []
    else
      breach (decide (m.nat b.ctAddr 2 ≠ 0x5443)) plCounts [0] ++ breach (decide (m.nat (b.ctAddr + 8) 4 ≠ b.tokens)) 0 [20] ++
        breach (decide (m.nat (b.ctAddr + 12) 1 ≠ b.k)) 0 [24]
  let sets :=
    if b.reads then
      match s.bufferSet b.lbset with
      | none => [(0, 26)]
      | some v =>
        breach (decide (v.rowBytes ≠ b.rowBytes)) 0 [26, 28] ++ breach (decide (v.tokens ≠ b.tokens)) 0 [20, 26] ++
          breach (decide (v.k ≠ b.k)) 0 [24, 26] ++ breach (b.srcTwin && !v.twin) 0 [16, 26]
    else []
  let twice := s.rings.any fun p => p.2.entries.any fun e =>
    let x := xchOf e.desc
    descOpcode e.desc == descOpcode desc && x.reverse == b.reverse && x.xid == b.xid &&
      (decide (e.stage = .running) || (decide (e.stage = .finished) && e.started))
  table ++ sets ++ breach (b.allocates && (s.bufferSet b.bset).isSome) 0 [16, 25] ++ breach twice 0 [0, 16, 18]

/-- E_EPOCH at issue: a stale count table (R218), or a set of another epoch (R236). -/
def State.xchStale (s : State) (desc : DescBits) : Bool :=
  let b := xchOf desc
  if b.reads then
    match s.bufferSet b.lbset with
    | some v => v.epoch != s.xch.epoch
    | none => false
  else
    decide (s.xch.members = 0) || decide (s.mantel.nat (b.ctAddr + 2) 2 ≠ s.xch.epoch.toNat) ||
      decide (s.mantel.nat (b.ctAddr + 4) 4 ≠ s.installed.mapTag)

/-- The local checks of DISPATCH and COMBINE, at issue. -/
def State.xchVerdict (s : State) (n : Nat) (desc : DescBits) : Verdict :=
  let own := s.xchFieldBreaches desc
  let bs := if own = [] then s.xchRangeBreaches desc (decide (s.classOf n = 2#2)) ++ s.xchStateBreaches desc else own
  match descVerdict bs with
  | some v => some v
  | none => if s.xchStale desc then some (stEpoch, 0xFFFF) else none

end Sys2Proof.Machine
end

