-- ==== Sys2Proof/Machine/Transom.lean ====
section
/-! DEFINITION. The exchange engine (chapter 11): packets, failures, buffers, where rows land, the four operations, and their completion
(R222 to R237). -/

namespace Sys2Proof.Machine

/-! ### Exchanges in progress -/

def Exchange.isOf (x : Exchange) (n : Nat) (pos : W32) : Bool := !x.closed && x.ring == n && x.pos == pos

def State.exchange (s : State) (n : Nat) (pos : W32) : Option Exchange := s.xch.exchanges.find? fun x => x.isOf n pos

def State.modExchange (s : State) (n : Nat) (pos : W32) (f : Exchange → Exchange) : State :=
  { s with xch := { s.xch with exchanges := s.xch.exchanges.map fun x => if x.isOf n pos then f x else x } }

/-- Whether a packet belongs to an exchange: the triple of R213. -/
def Exchange.owns (x : Exchange) (p : Packet) : Bool := x.xid == p.xid && x.combine == p.combine && x.reverse == p.reverse

/-- A new exchange; XCH_TIMEOUT counts from its descriptor's issue (R235). -/
def Exchange.start (n : Nat) (e : Entry) (route : List RouteEntry) : Exchange :=
  let b := xchOf e.desc
  { xid := b.xid, combine := b.combine, reverse := b.reverse, ring := n, pos := e.pos, order := e.order, route := route, counts := [],
    layout := none, allocated := false, readySent := false, readyFrom := [], sentTo := [], rowsTo := [], pieces := [], rowsFrom := [],
    grads := [], dws := [], dwGot := [], doneFrom := [], doneTo := [], tokensOut := [], badReads := [], heard := [],
    started := e.issued, closed := false }

/-! ### Packets (Table 11-9) -/

def pkOut : Nat := 1
def pkRet : Nat := 2
def pkCount : Nat := 3
def pkReady : Nat := 4
def pkDone : Nat := 5
def pkDw : Nat := 6
def pkStale : Nat := 7
def pkAbort : Nat := 8

/-- Header bytes 0 to 27. -/
def packetHeader (p : Packet) : List W8 :=
  [p.type, BitVec.ofNat 8 (bitNat p.combine + 2 * bitNat p.reverse + 4 * bitNat p.last + 8 * p.vc.toNat)] ++
    leBytes 2 p.len.toNat ++ leBytes 2 p.srcChip.toNat ++ leBytes 2 p.dstChip.toNat ++ leBytes 2 p.epoch.toNat ++
    leBytes 2 p.xid.toNat ++ leBytes 2 p.expert.toNat ++ leBytes 2 p.pktIndex.toNat ++ leBytes 4 p.tokenSlot.toNat ++
    leBytes 4 p.offset.toNat ++ leBytes 4 p.weight.toNat

/-- CHECK of R230. -/
def packetCrc (p : Packet) : W32 := crc32c (packetHeader p ++ p.payload)

/-- Units of credit (R231). -/
def packetUnits (p : Packet) : Nat := ceilDiv (32 + p.len.toNat) 64

/-- A packet without payload, from this chip to a member. -/
def State.packet (s : State) (x : Exchange) (type vc dst : Nat) : Packet :=
  { type := BitVec.ofNat 8 type, combine := x.combine, reverse := x.reverse, last := true, vc := BitVec.ofNat 2 vc, len := 0#16,
    srcChip := s.xch.self, dstChip := BitVec.ofNat 16 dst, epoch := s.xch.epoch, xid := x.xid, expert := 0#16, pktIndex := 0#16,
    tokenSlot := 0#32, offset := 0#32, weight := 0#32, check := 0#32, payload := [], poison := false }

def packetWith (p : Packet) (payload : List W8) : Packet := { p with payload := payload, len := BitVec.ofNat 16 payload.length }

/-- The packets of a row or message join the queue of packets to send, with their CHECK. -/
def State.emit (s : State) (ps : List Packet) : State :=
  { s with xch := { s.xch with
      txQueue := s.xch.txQueue ++ ps.map fun (p : Packet) => { row := s.xch.nextRow, port := none, pkt := { p with check := packetCrc p } },
      nextRow := s.xch.nextRow + 1 } }

/-- A control message to every other member. -/
def State.toMembers (s : State) (f : Nat → Packet) : State :=
  (s.chips.filter fun m => m != s.xch.self.toNat).foldl (fun s m => s.emit [f m]) s

/-! ### Failure (R235) -/

/-- XCH_LAST_ERR (Table 11-14). -/
def Transom.lastErr (x : Transom) : Nat :=
  x.lastXid.toNat + place 2 0 x.lastCause.toNat + place 3 0 x.lastStatus.toNat + place 4 0 x.lastPeer.toNat

/-- XCH_LAST_ERR, and the record of the failure. -/
def State.noteFailure (s : State) (n : Nat) (pos : W32) (x : Exchange) (status cause peer : Nat) : State :=
  let t := { s.xch with
    lastXid := x.xid, lastCause := BitVec.ofNat 8 cause, lastStatus := BitVec.ofNat 8 status, lastPeer := BitVec.ofNat 16 peer }
  { s with xch := t }.logError
    ((ErrorEvent.plain 3 0x0F 6 0 (BitVec.ofNat 64 t.lastErr)).of n pos (if x.combine then 0x22 else 0x21) status)

/-- The descriptor fails, and the exchange goes on: poison and memory errors, which send no ABORT. -/
def State.softFail (s : State) (n : Nat) (pos : W32) (status detail cause peer : Nat) : State :=
  match s.exchange n pos, s.entry n pos with
  | some x, some e =>
    if e.status = 0#8 then (s.fail n pos status detail).noteFailure n pos x status cause peer else s
  | _, _ => s

/-- LAST_CAUSE of marked data that a read meets: 7 at data stored uncorrectable, else 6 (Table 11-14). -/
def State.markCause (s : State) (r : Range) : Nat := if s.markStatus r = stMem then 7 else 6

/-- The exchange reads ranges: errors are detected (R289), and marked data fails the descriptor, which goes on with poison (R235). -/
def State.readRows (s : State) (n : Nat) (pos : W32) (rs : List Range) : State :=
  let s := s.detect n pos rs
  match rs.find? fun r => s.tainted r with
  | some r => (s.logPoison n pos r).softFail n pos (s.markStatus r) (s.markDetail r) (s.markCause r) s.xch.self.toNat
  | none => s

/-- Packets of an exchange that have not been sent leave the queue, and those that wait to be taken are discarded. -/
def State.dropPackets (s : State) (x : Exchange) : State :=
  { s with xch := { s.xch with
      txQueue := s.xch.txQueue.filter fun i => !x.owns i.pkt,
      pendingArea := s.xch.pendingArea.filter fun q => !x.owns q.2.1,
      received := s.xch.received.filter fun q => !x.owns q.2.1 } }

/-- Requests for buffers that have not reached the pool manager. -/
def State.dropRequests (s : State) (id : Nat) : State :=
  { s with xch := { s.xch with unsent := s.xch.unsent.filter fun r => r.id != id } }

/-- ABORT to every member, carrying a status. -/
def State.sendAborts (s : State) (x : Exchange) (status : Nat) : State :=
  s.toMembers fun m => { s.packet x pkAbort 0 m with offset := BitVec.ofNat 32 status }

/-- The exchange ends here: the descriptor fails, its unsent packets go, and later packets of the exchange are discarded. With `abort`
every other member is told. -/
def State.hardFail (s : State) (n : Nat) (pos : W32) (status detail cause peer : Nat) (abort : Bool) : State :=
  match s.exchange n pos with
  | none => s
  | some x =>
    let s := ((s.fail n pos status detail).noteFailure n pos x status cause peer).dropPackets x
    let s := s.dropRequests x.order
    let s := if abort then s.sendAborts x status else s
    (s.modExchange n pos fun x => { x with closed := true }).finish n pos

/-! ### Pools and buffers (R225, R226) -/

/-- Bytes of a pool's buffers. -/
def poolBytes (p : Nat) : Nat := nth (2 ^ 28) [2 ^ 16, 2 ^ 20, 2 ^ 24, 2 ^ 28] p

/-- The smallest pool whose buffers hold a segment. -/
def poolFor (bytes : Nat) : Nat := ((List.range 4).find? fun p => decide (bytes ≤ poolBytes p)).getD 3

def Transom.spaceOfPool (x : Transom) (p : Nat) : Nat := (x.poolSpace.toNat >>> (2 * p)) % 4

/-- The level in force: the highest of any pool (Table 11-11). -/
def Transom.warnLevel (x : Transom) : Nat :=
  (List.range 4).foldl (fun a p => max a ((x.warn.toNat >>> (2 * p)) % 4)) 0

/-- A release of one buffer, owner 0. -/
def State.releaseBuffer (s : State) (pool : BitVec 2) (index : BitVec 24) : State :=
  { s with xch := { s.xch with releases := s.xch.releases ++ [(pool, index)] } }

/-- The release of a set: every buffer that it holds (R226). A number that names no live set counts as a bad release. -/
def State.releaseSet (s : State) (k : Nat) : State :=
  match s.bufferSet k with
  | none => { s with xch := { s.xch with badRelease := satInc s.xch.badRelease } }
  | some v =>
    let s := { s with xch := { s.xch with sets := Tab.put none s.xch.sets k none } }.dropRequests v.id
    v.segments.foldl (fun s g =>
      let s := if g.granted then s.releaseBuffer g.pool g.index else s
      if g.twinGranted then s.releaseBuffer g.pool g.twinIndex else s) s

/-- Whether an issued, uncompleted descriptor reads a set. -/
def State.setRead (s : State) (k : Nat) : Bool :=
  s.rings.any fun p => p.2.entries.any fun e =>
    let b := xchOf e.desc
    (descOpcode e.desc == 0x21 || descOpcode e.desc == 0x22) && decide (e.stage = .running) && b.reads && b.lbset == k

/-- A write of XCH_BSET_RELEASE. -/
def State.bsetRelease (s : State) (k : Nat) : State :=
  match s.bufferSet k with
  | some v =>
    if s.setRead k then { s with xch := { s.xch with sets := Tab.put none s.xch.sets k (some { v with releasePending := true }) } }
    else s.releaseSet k
  | none => s.releaseSet k

/-- Releases that a completion record brings: RELEASE of a descriptor that worked, and a deferred release (R226). -/
def State.releaseAtRecord (s : State) (e : Entry) : State :=
  let b := xchOf e.desc
  if descOpcode e.desc = 0x21 ∨ descOpcode e.desc = 0x22 then
    if b.reads = false then s
    else if b.release ∧ e.started ∧ ¬(e.status = stAborted ∧ e.detail = 2#16) then s.releaseSet b.lbset
    else match s.bufferSet b.lbset with
      | some v => if v.releasePending && !s.setRead b.lbset then s.releaseSet b.lbset else s
      | none => s
  else s

/-- A tag that no request awaiting a grant holds. -/
def Transom.freeTag (x : Transom) : W8 :=
  match (List.range 256).find? fun k => !(x.requests.map PoolRequest.tag).contains (x.nextTag + BitVec.ofNat 8 k) with
  | some k => x.nextTag + BitVec.ofNat 8 k
  | none => x.nextTag

/-- Whether requests reach the pool manager: the core is clocked and powered, no fatal halt and no alarm stand, and the port's outputs are
released in IVR-16 and IVR-32 (R316, R350, R376). -/
def State.poolAwake (s : State) : Bool :=
  s.clocked && !s.err.fatalHalted && !s.vault.halted && s.pwr.pswAck.getLsbD 0 && (decide (48 ≤ s.cfg.hearths) || s.pwr.isoPool)

/-- Requests go to the pool manager while at most 256 await grants there (R373). -/
def State.sendRequests : Nat → State → State
  | 0, s => s
  | k + 1, s =>
    match s.xch.unsent with
    | [] => s
    | r :: rest =>
      if s.poolAwake && decide (s.xch.requests.length < 256) then
        let t := s.xch.freeTag
        State.sendRequests k { s with xch := { s.xch with
          unsent := rest, requests := s.xch.requests ++ [{ r with tag := t }], nextTag := t + 1#8 } }
      else s

def State.pumpRequests (s : State) : State := s.sendRequests 256

/-! ### Where rows land (R223) -/

/-- Rows of one segment of an expert's part. -/
def ExpertPart.rseg (p : ExpertPart) (rb : Nat) : Nat := if p.rows * rb ≤ 2 ^ 28 then p.rows else 2 ^ 28 / rb

/-- The parts of a set, from the counts of every member for every local expert. -/
def layoutOf (chips experts : List Nat) (rb : Nat) (count : Nat → Nat → Nat) : List ExpertPart :=
  (experts.zipIdx.foldl (fun (acc : List ExpertPart × Nat × Nat) q =>
    let t := (chips.map fun m => count m q.2).foldl (fun a b => a + b) 0
    let nseg := if t = 0 then 0 else if t * rb ≤ 2 ^ 28 then 1 else ceilDiv t (2 ^ 28 / rb)
    let bases := (chips.foldl (fun (a : List (Nat × Nat) × Nat) m => (a.1 ++ [(m, a.2)], a.2 + count m q.2)) ([], 0)).1
    let p : ExpertPart := { expert := q.1, rows := t, nseg := nseg, firstSeg := acc.2.1, firstRow := acc.2.2, bases := bases }
    (acc.1 ++ [p], acc.2.1 + nseg, acc.2.2 + t)) ([], 0, 0)).1

/-- The rows of each segment of a layout, in order. -/
def segmentRows (parts : List ExpertPart) (rb : Nat) : List Nat :=
  parts.flatMap fun p => (List.range p.nseg).map fun i => min (p.rseg rb) (p.rows - i * p.rseg rb)

def layoutRows (parts : List ExpertPart) : Nat := (parts.map ExpertPart.rows).foldl (fun a b => a + b) 0

/-- Bytes of the buffer table (R224). -/
def tableBytesOf (parts : List ExpertPart) (rb : Nat) : Nat :=
  64 + 16 * parts.length + 32 * (segmentRows parts rb).length + 8 * layoutRows parts

/-- The arrival index of a row, by its source, expert and OFFSET. -/
def BufferSet.arrivalOf (v : BufferSet) (src expert offset : Nat) : Option Nat :=
  match v.experts.find? fun p => p.expert == expert with
  | none => none
  | some p =>
    match p.bases.find? fun q => q.1 == src with
    | none => none
    | some q => if q.2 + offset < p.rows then some (p.firstRow + q.2 + offset) else none

/-- The place of the row at an arrival index: space and address. -/
def BufferSet.place (v : BufferSet) (twin : Bool) (a : Nat) : Option (Nat × Nat) :=
  match v.experts.find? fun p => decide (p.firstRow ≤ a) && decide (a < p.firstRow + p.rows) with
  | none => none
  | some p =>
    let i := (a - p.firstRow) / p.rseg v.rowBytes
    match v.segments[p.firstSeg + i]? with
    | none => none
    | some g =>
      if (if twin then g.twinGranted else g.granted) then
        some (g.space, (if twin then g.twinBase else g.base).toNat + (a - p.firstRow - i * p.rseg v.rowBytes) * v.rowBytes)
      else none

/-- The expert of an arrival index. -/
def BufferSet.expertOf (v : BufferSet) (a : Nat) : Nat :=
  match v.experts.find? fun p => decide (p.firstRow ≤ a) && decide (a < p.firstRow + p.rows) with
  | some p => p.expert
  | none => 0

/-- The buffer table (Table 11-7). -/
def BufferSet.table (v : BufferSet) (k : Nat) : List W8 :=
  leBytes 2 0x4254 ++ leBytes 1 k ++ leBytes 1 (bitNat v.twin) ++ leBytes 2 v.xid.toNat ++ leBytes 2 v.epoch.toNat ++
    leBytes 4 v.experts.length ++ leBytes 4 v.segments.length ++ leBytes 4 (layoutRows v.experts) ++ leBytes 4 v.rowBytes ++
    leBytes 40 0 ++
    (v.experts.flatMap fun p =>
      leBytes 2 p.expert ++ leBytes 2 p.nseg ++ leBytes 4 p.rows ++ leBytes 4 p.firstSeg ++ leBytes 4 p.firstRow) ++
    (v.segments.flatMap fun g =>
      leBytes 8 g.base.toNat ++ leBytes 8 (if v.twin then g.twinBase.toNat else 0) ++ leBytes 4 g.index.toNat ++
        leBytes 4 (if v.twin then g.twinIndex.toNat else 0) ++ leBytes 4 g.rows ++ leBytes 1 g.pool.toNat ++ leBytes 1 g.space ++
        leBytes 2 0) ++
    (List.range (layoutRows v.experts)).flatMap fun a =>
      match Tab.at none v.arrivals a with
      | some r => leBytes 4 r.token.toNat ++ leBytes 2 r.src.toNat ++ leBytes 2 0
      | none => leBytes 8 0

/-! ### Allocation -/

/-- A set is made and its buffers requested: experts, then segments, each with its twin (R225). -/
def State.beginAlloc (s : State) (x : Exchange) (e : Entry) (parts : List ExpertPart) : State :=
  let b := xchOf e.desc
  let rows := segmentRows parts b.rowBytes
  let segs : List Segment := rows.map fun r =>
    let p := poolFor (r * b.rowBytes)
    { base := 0#64, twinBase := 0#64, index := 0#24, twinIndex := 0#24, rows := r, pool := BitVec.ofNat 2 p,
      space := s.xch.spaceOfPool p, granted := false, twinGranted := false }
  let arrivals := if b.reads then match s.bufferSet b.lbset with
      | some v => v.arrivals
      | none => []
    else []
  let v : BufferSet :=
    { id := x.order, xid := b.xid, epoch := s.xch.epoch, rowBytes := b.rowBytes, tokens := b.tokens, k := b.k, twin := b.twin,
      experts := parts, segments := segs, arrivals := arrivals, releasePending := false }
  let request (q : Segment × Nat) (twin : Bool) : PoolRequest :=
    { tag := 0#8, pool := q.1.pool, size := q.1.rows * b.rowBytes, owners := BitVec.ofNat 3 b.owners, set := b.bset, id := x.order,
      segment := q.2, twin := twin }
  let reqs := segs.zipIdx.flatMap fun q => if b.twin then [request q false, request q true] else [request q false]
  ({ s with xch := { s.xch with sets := Tab.put none s.xch.sets b.bset (some v), unsent := s.xch.unsent ++ reqs } }.modExchange
    x.ring x.pos fun y => { y with allocated := true }).pumpRequests

/-- Whether every buffer of a set has been granted. -/
def BufferSet.complete (v : BufferSet) : Bool := v.segments.all fun g => g.granted && (!v.twin || g.twinGranted)

/-- READY to every other member once every buffer of this chip's part is granted (R232). -/
def State.sendReady (s : State) (x : Exchange) (k : Nat) : State :=
  match s.bufferSet k with
  | some v =>
    if v.id = x.order ∧ v.complete ∧ x.allocated ∧ x.readySent = false then
      (s.toMembers fun m => s.packet x pkReady 0 m).modExchange x.ring x.pos fun y => { y with readySent := true }
    else s
  | none => s

/-- Whether a running exchange descriptor that allocates, issued before a place in issue order, has not begun its work. -/
def State.allocBefore (s : State) (order : Nat) : Bool :=
  s.issuedAll.any fun p =>
    let op := descOpcode p.2.desc
    (op == 0x21 || op == 0x22) && decide (p.2.stage = .running) && !p.2.started && decide (p.2.order < order) && (xchOf p.2.desc).allocates

/-- The first allocating exchange, in issue order, that has not begun its allocation; none while an earlier one has not started. -/
def State.nextAlloc (s : State) : Option Exchange :=
  match (s.xch.exchanges.filter fun x => !x.closed && !x.allocated && x.combine == x.reverse).foldl
    (fun (acc : Option Exchange) x => match acc with
      | some y => if x.order < y.order then some x else some y
      | none => some x) none with
  | some x => if s.allocBefore x.order then none else some x
  | none => none

/-- Allocations begin, one after another in issue order; none begins at WARN2 (R225, R232). -/
def State.serveAllocs : Nat → State → State
  | 0, s => s
  | k + 1, s =>
    match s.nextAlloc with
    | none => s
    | some x =>
      match x.layout, s.entry x.ring x.pos with
      | some parts, some e =>
        if s.xch.warnLevel = 2 then s
        else
          let s := s.beginAlloc x e parts
          State.serveAllocs k (s.sendReady { x with allocated := true } (xchOf e.desc).bset)
      | _, _ => s

def State.allocate (s : State) : State := s.serveAllocs (s.xch.exchanges.length + 1)

/-- The layout of an allocating exchange is known: E_POOL when its table does not fit, else it waits its turn (R224, R225). -/
def State.setLayout (s : State) (n : Nat) (pos : W32) (b : XchDesc) (parts : List ExpertPart) : State :=
  if b.btBytes < tableBytesOf parts b.rowBytes then s.hardFail n pos stPool 0 4 s.xch.self.toNat true
  else (s.modExchange n pos fun x => { x with layout := some parts }).allocate

/-! ### Counts (R223) -/

/-- Packets of a COUNT message for `l` experts. -/
def countPackets (l : Nat) : Nat := max 1 (ceilDiv l 64)

/-- The counts of a member for this chip's local experts, once its message is whole. -/
def Exchange.countsOf (x : Exchange) (l src : Nat) : Option (List Nat) :=
  let parts := (List.range (countPackets l)).map fun p => x.counts.find? fun c => c.1 == src && c.2.1 == p
  if parts.all Option.isSome then some (parts.flatMap fun c => match c with
    | some v => v.2.2
    | none => [])
  else none

/-- The layout, once every member's counts are here. -/
def State.tryLayout (s : State) (n : Nat) (pos : W32) (b : XchDesc) : State :=
  match s.exchange n pos with
  | none => s
  | some x =>
    let chips := s.chips
    let experts := expertsOf (s.expertMap s.installed) s.xch.self.toNat
    if x.layout.isSome || chips.any (fun m => (x.countsOf experts.length m).isNone) then s
    else
      let count (m l : Nat) : Nat := nth 0 ((x.countsOf experts.length m).getD []) l
      s.setLayout n pos b (layoutOf chips experts b.rowBytes count)

/-- The COUNT message of this chip to a member: ROW_BYTES and MAP_TAG stand in its first packet. -/
def State.countMessage (s : State) (x : Exchange) (b : XchDesc) (m : Nat) (counts : List Nat) : List Packet :=
  let np := countPackets counts.length
  (List.range np).map fun p =>
    { packetWith (s.packet x pkCount 0 m) (((counts.drop (64 * p)).take 64).flatMap fun c => leBytes 4 c) with
      last := decide (p + 1 = np), pktIndex := BitVec.ofNat 16 p,
      offset := if p = 0 then BitVec.ofNat 32 b.rowBytes else 0#32,
      weight := if p = 0 then BitVec.ofNat 32 s.installed.mapTag else 0#32 }

/-- Every member's counts of this chip's route leave; this chip's own are taken (R223, R234). -/
def State.sendCounts (s : State) (n : Nat) (pos : W32) (x : Exchange) (b : XchDesc) : State :=
  let map := s.expertMap s.installed
  let table := numbersOf 4 s.installed.nexp (s.mantel.read (b.ctAddr + 64) (4 * s.installed.nexp))
  let countsFor (m : Nat) : List Nat := (expertsOf map m).map fun e => nth 0 table e
  let self := s.xch.self.toNat
  let s := (s.chips.filter fun m => m != self).foldl (fun s m => s.emit (s.countMessage x b m (countsFor m))) s
  let own := countsFor self
  (s.modExchange n pos fun x => { x with
    counts := (List.range (countPackets own.length)).map fun p => (self, p, (own.drop (64 * p)).take 64) }).tryLayout n pos b

/-- A COUNT message from a member. -/
def State.takeCount (s : State) (n : Nat) (pos : W32) (b : XchDesc) (p : Packet) : State :=
  let first := decide (p.pktIndex = 0#16)
  if first && p.offset != BitVec.ofNat 32 b.rowBytes then s.hardFail n pos stDesc 28 1 p.srcChip.toNat true
  else if first && p.weight != BitVec.ofNat 32 s.installed.mapTag then
    s.hardFail n pos stDesc (4096 * plConfig + 12) 1 p.srcChip.toNat true
  else
    (s.modExchange n pos fun x => { x with
      counts := x.counts ++ [(p.srcChip.toNat, p.pktIndex.toNat, numbersOf 4 (p.payload.length / 4) p.payload)] }).tryLayout n pos b

/-! ### Rows that arrive (R222, R227, R228) -/

/-- A packet of a row has been taken; the last one completes the row. -/
def State.tookPiece (s : State) (n : Nat) (pos : W32) (b : XchDesc) (row pkt src : Nat) : State :=
  s.modExchange n pos fun x =>
    let pieces := if x.pieces.contains (row, pkt) then x.pieces else x.pieces ++ [(row, pkt)]
    let whole := !x.pieces.contains (row, pkt) && (List.range b.packets).all fun q => pieces.contains (row, q)
    { x with pieces := pieces, rowsFrom := if whole then Tab.put 0 x.rowsFrom src (Tab.at 0 x.rowsFrom src + 1) else x.rowsFrom }

/-- Bytes that the Transom writes for a position. -/
def State.xchPut (s : State) (n : Nat) (pos : W32) (space a : Nat) (bytes : List W8) (bad : Bool) : State :=
  s.put n pos space transomUnit a bytes bad

/-- Lines that the Transom writes for a position, of which `bad` tells by first byte and length which ones depend on marked data (R347). -/
def State.xchLines (s : State) (n : Nat) (pos : W32) (space a : Nat) (bytes : List W8) (bad : Nat → Nat → Bool) : State :=
  s.putLines n pos space transomUnit [(a, bytes)] bad

/-- The arrival-map entry of a packet. -/
def packetArrival (p : Packet) : Arrival := { token := p.tokenSlot &&& 0x0FFFFFFF#32, src := p.srcChip, weight := p.weight }

/-- DISPATCH: a packet of a row goes to its place in BSET. -/
def State.placeRow (s : State) (n : Nat) (pos : W32) (b : XchDesc) (p : Packet) (bad write : Bool) : State :=
  match s.bufferSet b.bset with
  | none => s
  | some v =>
    match v.arrivalOf p.srcChip.toNat p.expert.toNat p.offset.toNat with
    | none => s
    | some a =>
      let v' := { v with arrivals := Tab.put none v.arrivals a (some (packetArrival p)) }
      let s := { s with xch := { s.xch with sets := Tab.put none s.xch.sets b.bset (some v') } }
      let s := match v.place false a with
        | some q => if write then s.xchPut n pos q.1 (q.2 + 256 * p.pktIndex.toNat) p.payload bad else s
        | none => s
      s.tookPiece n pos b a p.pktIndex.toNat p.srcChip.toNat

/-- The exact elements that bytes spell, in a row format. -/
def elementsOf (fmt : Nat) (bytes : List W8) : List FVal :=
  let w := if fmt = 0 then 4 else 2
  (numbersOf w (bytes.length / w) bytes).map fun c => decodeBare fmt c

/-- One step of a sum of R227: FMA(WEIGHT, row, acc), or RN(acc + row). -/
def addStep (weighted : Bool) (weight : W32) (row : FVal) (acc : W32) : W32 × Nat :=
  fMulAdd (if weighted then f32 weight else f32 0x3F800000#32) row (f32 acc)

/-- A contribution is added to FP32 words. -/
def addInto (weighted : Bool) (weight : W32) (rows : List FVal) (acc : List W32) : List W32 × Nat :=
  let parts := (rows.zip acc).map fun q => addStep weighted weight q.1 q.2
  (parts.map Prod.fst, orFlags (parts.map Prod.snd))

def wordBytes (ws : List W32) : List W8 := ws.flatMap fun w => leBytes 4 w.toNat

/-- The number of the route entry that a returning row belongs to. -/
def XchDesc.entryOf (b : XchDesc) (tokenSlot : Nat) : Nat := tokenSlot % 2 ^ 24 * b.k + tokenSlot / 2 ^ 24 % 16

/-- The place in the stage of a packet of a returning row (R227): at its slot on a Banked ring, in the token's FP32 row on a Draught ring. -/
def State.stagePlace (s : State) (n : Nat) (b : XchDesc) (p : Packet) : Range :=
  let i := b.entryOf p.tokenSlot.toNat
  let q := p.pktIndex.toNat
  if s.classOf n = 2#2 then
    { space := 1, hearth := 0, lo := b.stageAddr + i / b.k * 4 * b.elems + 4 * (q * 256 / b.elemBytes), len := 4 * (p.len.toNat / b.elemBytes) }
  else { space := 1, hearth := 0, lo := b.stageAddr + i * b.rowBytes + 256 * q, len := p.len.toNat }

/-- A packet of a returning row: held by slot on a Banked ring, added as it arrives on a Draught ring. -/
def State.stageRow (s : State) (n : Nat) (pos : W32) (x : Exchange) (b : XchDesc) (p : Packet) (bad write : Bool) : State :=
  let i := b.entryOf p.tokenSlot.toNat
  let t := i / b.k
  let q := p.pktIndex.toNat
  match x.route[i]? with
  | none => s
  | some r =>
    if r.valid = false ∨ x.pieces.contains (i, q) then s
    else
      let s :=
        if write = false then s
        else if s.classOf n = 2#2 then
          let first := !x.pieces.any fun y => y.1 / b.k == t && y.2 == q
          let rows := elementsOf b.elemFmt p.payload
          let place := s.stagePlace n b p
          let reads := if first then [] else [place]
          let acc := if first then List.replicate rows.length negZero32 else wordsOf (s.peek 1 0 place.lo (4 * rows.length))
          let (ws, fl) := addInto b.combine r.weight rows acc
          let marks := s.mantelPoison
          ((((s.sealReads n pos none reads).readRows n pos reads).xchLines n pos 1 place.lo (wordBytes ws) fun lo len =>
            bad || (!first && marked 64 marks lo len)).raise n pos fl)
        else s.xchPut n pos 1 (s.stagePlace n b p).lo p.payload bad
      s.tookPiece n pos b i q r.chip

/-- Whether every valid entry of a token has arrived. -/
def Exchange.tokenReady (x : Exchange) (b : XchDesc) (t : Nat) : Bool :=
  (List.range b.k).all fun j => match x.route[t * b.k + j]? with
    | some r => !r.valid || (List.range b.packets).all fun q => x.pieces.contains (t * b.k + j, q)
    | none => true

/-- The output row of a token (R227): the finished sum, converted by OUT_CVT. -/
def State.tokenOut (s : State) (n : Nat) (pos : W32) (x : Exchange) (b : XchDesc) (t : Nat) : State :=
  let js := (List.range b.k).filter fun j => match x.route[t * b.k + j]? with
    | some r => r.valid
    | none => false
  let zero := List.replicate b.elems 0#32
  let draught := decide (s.classOf n = 2#2)
  let ranges : List Range :=
    if js = [] then []
    else if draught then [{ space := 1, hearth := 0, lo := b.stageAddr + t * 4 * b.elems, len := 4 * b.elems }]
    else js.map fun j => { space := 1, hearth := 0, lo := b.stageAddr + (t * b.k + j) * b.rowBytes, len := b.rowBytes }
  let (words, fl) : List W32 × Nat :=
    if js = [] then (zero, 0)
    else if draught then (wordsOf (s.peek 1 0 (b.stageAddr + t * 4 * b.elems) (4 * b.elems)), 0)
    else js.foldl (fun acc j =>
      let w := match x.route[t * b.k + j]? with
        | some r => r.weight
        | none => 0#32
      let (ws, f) := addInto b.combine w (elementsOf b.elemFmt (s.peek 1 0 (b.stageAddr + (t * b.k + j) * b.rowBytes) b.rowBytes)) acc.1
      (ws, acc.2 ||| f)) (List.replicate b.elems negZero32, 0)
  let row : Row := { space := b.tokSpace, hearth := transomUnit, base := b.tokAddr + t * b.tokStride, scales := 0 }
  let (ws, cf) := s.encodeRow b.outCvt false row
    { col := 0, vals := words.map some, len := b.elems, mode := fun c => cvtMode b.outCvt b.seed t c }
  let size := if draught then 4 else b.elemBytes
  let marks := s.mantelPoison
  let bad (lo len : Nat) : Bool :=
    let c := row.columns b.outCvt false (ceilDiv (b.elems * cvtBits b.outCvt false) 8) lo len
    ranges.any fun r => marked 64 marks (r.lo + size * c.1) (size * c.2)
  let varied := draught && decide (2 ≤ js.length)
  if ranges.any (fun r => s.stalls r) || ws.any (fun w => s.stalls { space := b.tokSpace, hearth := 0, lo := w.1, len := w.2.length }) then s
  else
    ((((s.sealReads n pos none ranges).readRows n pos ranges).putLines n pos b.tokSpace transomUnit ws bad).raise n pos
      (fl ||| cf ||| flagIf (js = []) fRowEmpty ||| flagIf varied fVaried)).modExchange n pos fun x =>
        { x with tokensOut := x.tokensOut ++ [t] }

/-- Output rows of the tokens that are ready. -/
def State.tokensOut (s : State) (n : Nat) (pos : W32) (b : XchDesc) : State :=
  (List.range b.tokens).foldl (fun s t => match s.exchange n pos with
    | some x => if !x.tokensOut.contains t && x.tokenReady b t then s.tokenOut n pos x b t else s
    | none => s) s

/-! ### Router gradients (R228) -/

/-- dw = Σ g[n]·o[n] in chunks of the width of Table 03-1, from -0. -/
def dotRow (fmt : Nat) : Nat → List (FVal × FVal) → W32 × Nat → W32 × Nat
  | 0, _, acc => acc
  | k + 1, ps, acc =>
    if ps = [] then acc
    else
      let c := pairWidth fmt fmt
      let (w, fl) := chunkStep .rne acc.1 (ps.take c)
      dotRow fmt k (ps.drop c) (w, acc.2 ||| fl)

/-- RN(WEIGHT × g) in the row format. -/
def weightedElement (fmt : Nat) (w : W32) (g : FVal) : Nat × Nat :=
  let (c, fl) := convertBare fmt .rne false ((f32 w).mul g)
  (c, fl ||| flagIf (productInv (f32 w) g) fInv)

/-- The held packets of a row, in order, once all are here. -/
def Exchange.gradRow (x : Exchange) (v : BufferSet) (b : XchDesc) (a : Nat) : Option (List (Packet × Bool)) :=
  let mine := x.grads.filter fun q => v.arrivalOf q.1.srcChip.toNat q.1.expert.toNat q.1.offset.toNat == some a
  let parts := (List.range b.packets).map fun k => mine.find? fun q => q.1.pktIndex.toNat == k
  if parts.all Option.isSome then some (parts.filterMap id) else none

/-- A router gradient is written at its entry (token side). -/
def State.writeDw (s : State) (n : Nat) (pos : W32) (b : XchDesc) (tokenSlot : W32) (dw : W32) (bad : Bool) : State :=
  let i := b.entryOf tokenSlot.toNat
  (s.xchPut n pos b.tokSpace (b.rgAddr + 4 * i) (leBytes 4 dw.toNat) bad).modExchange n pos fun x =>
    { x with dwGot := if x.dwGot.contains i then x.dwGot else x.dwGot ++ [i] }

/-- Whether a read of these bytes was answered with an error. -/
def Exchange.badRead (x : Exchange) (r : Range) : Bool :=
  decide (r.space = 3) && x.badReads.any fun q => decide (q.1 < r.lo + r.len) && decide (r.lo < q.1 + q.2)

/-- A whole gradient row on the expert side: RN(WEIGHT × g) into BSET, and dw against LBSET's row. -/
def State.gradDone (s : State) (n : Nat) (pos : W32) (x : Exchange) (b : XchDesc) (lb : BufferSet) (a : Nat) (row : List (Packet × Bool)) : State :=
  match row with
  | [] => s
  | (p, _) :: _ =>
    let g := elementsOf b.elemFmt (row.flatMap fun q => q.1.payload)
    let o := match lb.place b.srcTwin a with
      | some q => elementsOf b.elemFmt (s.peek q.1 0 q.2 b.rowBytes)
      | none => []
    let (dw, fl) := dotRow b.elemFmt b.elems (g.zip o) (negZero32, 0)
    let out := g.map fun v => weightedElement b.elemFmt p.weight v
    let bytes := out.flatMap fun q => leBytes b.elemBytes q.1
    let reads : List Range := match lb.place b.srcTwin a with
      | some q => [{ space := q.1, hearth := transomUnit, lo := q.2, len := b.rowBytes }]
      | none => []
    let bad := (row.any fun q => q.2) || reads.any fun r => s.tainted r || x.badRead r
    let s := s.sealReads n pos none reads
    let s := match s.bufferSet b.bset with
      | some v =>
        let v' := { v with arrivals := Tab.put none v.arrivals a (some (packetArrival p)) }
        let s := { s with xch := { s.xch with sets := Tab.put none s.xch.sets b.bset (some v') } }
        match v.place false a with
        | some q => s.xchLines n pos q.1 q.2 bytes fun lo len =>
            (List.range ((lo + len - 1 - q.2) / 256 + 1 - (lo - q.2) / 256)).any fun i =>
              (row[(lo - q.2) / 256 + i]?.map Prod.snd).getD false
        | none => s
      | none => s
    let s := s.raise n pos (fl ||| orFlags (out.map Prod.snd))
    let s := (List.range b.packets).foldl (fun s k => s.tookPiece n pos b a k p.srcChip.toNat) s
    s.modExchange n pos fun x => { x with
      grads := x.grads.filter fun q => lb.arrivalOf q.1.srcChip.toNat q.1.expert.toNat q.1.offset.toNat != some a,
      dws := x.dws ++ [(p.srcChip.toNat, p.tokenSlot, dw, bad)] }

/-- The host pieces of a position that have been requested. -/
def State.readsDone (s : State) (n : Nat) (pos : W32) : List (Nat × Nat × Nat) := match s.entry n pos with
  | some e => e.reads
  | none => []

/-- The next whole gradient row is worked on, once LBSET's row can be read. -/
def State.gradStep (s : State) (n : Nat) (pos : W32) (b : XchDesc) : State :=
  match s.exchange n pos, s.bufferSet b.lbset with
  | some x, some lb =>
    match (List.range (layoutRows lb.experts)).findSome? fun a => (x.gradRow lb b a).map fun r => (a, r) with
    | none => s
    | some (a, row) =>
      let reads : List Range := match lb.place b.srcTwin a with
        | some q => [{ space := q.1, hearth := transomUnit, lo := q.2, len := b.rowBytes }]
        | none => []
      let out : Option (Nat × Nat) := match s.bufferSet b.bset with
        | some v => v.place false a
        | none => none
      if (match out with
          | some q => s.stalls { space := q.1, hearth := 0, lo := q.2, len := b.rowBytes }
          | none => false) then s
      else match s.readiness n pos (s.readsDone n pos) reads with
        | .fetch s' done => s'.modEntry n pos fun e => { e with reads := done }
        | .wait => s
        | .go _ => (s.readRows n pos reads).gradDone n pos x b lb a row
  | _, _ => s

/-- Every whole gradient row that can be worked on now. -/
def State.gradRows (n : Nat) (pos : W32) (b : XchDesc) : Nat → State → State
  | 0, s => s
  | k + 1, s => State.gradRows n pos b k (s.gradStep n pos b)

/-! ### Taking a packet of a row -/

/-- A packet of a row is placed, staged or held by its header alone. `write` is false where the packet itself was discarded (R371). -/
def State.takeRow (s : State) (n : Nat) (pos : W32) (b : XchDesc) (p : Packet) (bad write : Bool) : State :=
  match s.exchange n pos with
  | none => s
  | some x =>
    if b.returns then s.stageRow n pos x b p bad write
    else if b.combine then
      let payload := if write then p.payload else List.replicate p.len.toNat 0#8
      let s := s.modExchange n pos fun x => { x with grads := x.grads ++ [({ p with payload := payload }, bad || !write)] }
      State.gradRows n pos b 1 s
    else s.placeRow n pos b p bad write

/-! ### Rows that leave (R222, R230, R234) -/

/-- A row to send: where it stands, and its header fields. -/
structure OutRow where
  space : Nat
  addr : Nat
  expert : Nat
  token : Nat
  offset : Nat
  weight : W32
  deriving DecidableEq, Repr

/-- The rows of an operation for one member, in entry order or in arrival order. -/
def State.outRows (s : State) (x : Exchange) (b : XchDesc) (m : Nat) : List OutRow :=
  if b.allocates then
    (x.route.filter fun r => r.valid && r.chip == m).map fun r =>
      { space := b.tokSpace, addr := b.tokAddr + r.token * b.tokStride, expert := r.expert, token := tokenSlot r.token r.slot,
        offset := r.offset, weight := r.weight }
  else match s.bufferSet b.lbset with
    | none => []
    | some v =>
      v.arrivals.filterMap fun q => match q.2, v.place b.srcTwin q.1 with
        | some r, some at' =>
          if r.src.toNat = m then
            some { space := at'.1, addr := at'.2, expert := v.expertOf q.1, token := r.token.toNat, offset := q.1, weight := r.weight }
          else none
        | _, _ => none

def OutRow.range (r : OutRow) (b : XchDesc) : Range := { space := r.space, hearth := transomUnit, lo := r.addr, len := b.rowBytes }

/-- The packets of a row for a member; TOKEN and SLOT stand as in a route entry that moves a row, VALID = 1. A packet carries poison where its
own bytes do. -/
def State.rowPackets (s : State) (x : Exchange) (b : XchDesc) (m : Nat) (r : OutRow) : List Packet :=
  let data := s.peek r.space 0 r.addr b.rowBytes
  let bad (k : Nat) : Bool :=
    let q : Range := { r.range b with lo := r.addr + 256 * k, len := min 256 (b.rowBytes - 256 * k) }
    s.tainted q || x.badRead q
  (List.range b.packets).map fun k =>
    { packetWith (s.packet x (if b.allocates then pkOut else pkRet) (if b.allocates then 1 else 2) m) ((data.drop (256 * k)).take 256) with
      last := decide (k + 1 = b.packets), pktIndex := BitVec.ofNat 16 k, expert := BitVec.ofNat 16 r.expert,
      tokenSlot := BitVec.ofNat 32 r.token ||| 0x80000000#32, offset := BitVec.ofNat 32 r.offset, weight := r.weight, poison := bad k }

/-- One row leaves: to the queue, or by loopback to its place on this chip. -/
def State.sendRow (s : State) (n : Nat) (pos : W32) (x : Exchange) (b : XchDesc) (m : Nat) (r : OutRow) : State :=
  let ps := s.rowPackets x b m r
  if m = s.xch.self.toNat then ps.foldl (fun s p => s.takeRow n pos b p p.poison true) s
  else s.emit ps

/-- The member whose rows may leave next: an allocating operation waits for its READY. -/
def State.nextMember (s : State) (x : Exchange) (b : XchDesc) : Option Nat :=
  s.chips.find? fun m => !x.sentTo.contains m &&
    (b.returns || (if m = s.xch.self.toNat then x.readySent else x.readyFrom.contains m))

/-- Whether a packet of an exchange goes to a bank under wipe: it waits in the receive buffer (R354). -/
def State.packetStalls (s : State) (n : Nat) (b : XchDesc) (p : Packet) : Bool :=
  let t := p.type.toNat
  if t = pkRet ∧ b.returns then s.stalls (s.stagePlace n b p)
  else if t = pkOut ∧ b.allocates ∧ b.combine = false then
    match s.bufferSet b.bset with
    | some v => match v.arrivalOf p.srcChip.toNat p.expert.toNat p.offset.toNat with
      | some a => match v.place false a with
        | some q => s.stalls { space := q.1, hearth := 0, lo := q.2 + 256 * p.pktIndex.toNat, len := p.len.toNat }
        | none => false
      | none => false
    | none => false
  else if t = pkDw then s.stalls { space := b.tokSpace, hearth := 0, lo := b.rgAddr, len := 4 * b.tokens * b.k }
  else false

/-- The rows for the next member leave, once they can be read. -/
def State.sendRows (s : State) (n : Nat) (pos : W32) (b : XchDesc) : State :=
  match s.exchange n pos with
  | none => s
  | some x =>
    match s.nextMember x b with
    | none => s
    | some m =>
      let rows := s.outRows x b m
      let reads := rows.map fun r => r.range b
      match s.readiness n pos (s.readsDone n pos) reads with
      | .fetch s' done => s'.modEntry n pos fun e => { e with reads := done }
      | .wait => s
      | .go _ =>
        if decide (m = s.xch.self.toNat) && rows.any fun r => (s.rowPackets x b m r).any fun p => s.packetStalls n b p then s
        else
        let s := (s.sealReads n pos none reads).readRows n pos reads
        let s := s.modExchange n pos fun x => { x with
          sentTo := x.sentTo ++ [m],
          rowsTo := if m = s.xch.self.toNat then x.rowsTo else Tab.put 0 x.rowsTo m rows.length }
        rows.foldl (fun s r => s.sendRow n pos x b m r) s

/-! ### Completion (R236) -/

/-- The rows of a source among the receive rows of an expert: up to the next member's base, or to the last row (R223). -/
def countFrom (rows src : Nat) : List (Nat × Nat) → Nat
  | [] => 0
  | [q] => if q.1 = src then rows - q.2 else 0
  | q :: r :: rest => if q.1 = src then r.2 - q.2 else countFrom rows src (r :: rest)

/-- The rows that a member sends to this chip. -/
def State.expected (s : State) (x : Exchange) (b : XchDesc) (m : Nat) : Nat :=
  if b.returns then (x.route.filter fun r => r.valid && r.chip == m).length
  else if b.combine then match s.bufferSet b.lbset with
    | some v => (v.arrivals.filter fun q => match q.2 with
      | some r => r.src.toNat == m
      | none => false).length
    | none => 0
  else match x.layout with
    | some parts => (parts.map fun p => countFrom p.rows m p.bases).foldl (fun a c => a + c) 0
    | none => 0

/-- Whether every row of a member has been taken. -/
def State.allFrom (s : State) (x : Exchange) (b : XchDesc) (m : Nat) : Bool :=
  decide (Tab.at 0 x.rowsFrom m = s.expected x b m)

/-- Router gradients of a member leave in messages of up to 32, when 32 wait or its last row has been worked on (R230). -/
def State.sendDws (s : State) (n : Nat) (pos : W32) (b : XchDesc) (m : Nat) : State :=
  match s.exchange n pos with
  | none => s
  | some x =>
    let mine := x.dws.filter fun d => d.1 == m
    let rg : Range := { space := b.tokSpace, hearth := 0, lo := b.rgAddr, len := 4 * b.tokens * b.k }
    if mine = [] ∨ (mine.length < 32 ∧ s.allFrom x b m = false) ∨ (m = s.xch.self.toNat ∧ s.stalls rg) then s
    else
      let s := s.modExchange n pos fun x => { x with dws := x.dws.filter fun d => d.1 != m }
      if m = s.xch.self.toNat then mine.foldl (fun s d => s.writeDw n pos b d.2.1 d.2.2.1 d.2.2.2) s
      else (List.range (ceilDiv mine.length 32)).foldl (fun s k =>
        let part := (mine.drop (32 * k)).take 32
        s.emit [{ packetWith (s.packet x pkDw 2 m) (part.flatMap fun d => leBytes 4 d.2.1.toNat ++ leBytes 4 d.2.2.1.toNat) with
          poison := part.any fun d => d.2.2.2 }]) s

/-- DONE to every other member once its last row is committed; to one that sends no rows, once its part is known (R213, R236; log entry 100). -/
def State.sendDones (s : State) (n : Nat) (pos : W32) (b : XchDesc) : State :=
  match s.exchange n pos with
  | none => s
  | some x =>
    if s.outstanding n pos || !(b.returns || x.readySent) then s
    else
      (s.chips.filter fun m => m != s.xch.self.toNat && !x.doneTo.contains m && s.allFrom x b m).foldl
        (fun s m => (s.emit [s.packet x pkDone 0 m]).modExchange n pos fun x => { x with doneTo := x.doneTo ++ [m] }) s

/-- Whether an exchange has done everything that R236 asks. -/
def State.exchangeDone (s : State) (x : Exchange) (b : XchDesc) : Bool :=
  let chips := s.chips
  (b.returns || x.readySent) && (chips.all fun m => x.sentTo.contains m || (s.outRows x b m).isEmpty) &&
    (x.rowsTo.all fun q => x.doneFrom.contains q.1) && (chips.all fun m => s.allFrom x b m) &&
    (chips.all fun m => decide (m = s.xch.self.toNat) || x.doneTo.contains m) &&
    (!b.returns || (List.range b.tokens).all fun t => x.tokensOut.contains t) &&
    (!(b.combine && b.reverse) || (x.dws.isEmpty && x.route.zipIdx.all fun q => x.dwGot.contains q.2)) &&
    !(b.allocates && s.stalls { space := 1, hearth := 0, lo := b.btAddr, len := b.btBytes })

/-- The buffer table is written, the READYs and DONEs not yet received are remembered, and the descriptor ends. -/
def State.endExchange (s : State) (n : Nat) (pos : W32) (x : Exchange) (b : XchDesc) : State :=
  let s := if b.allocates then match s.bufferSet b.bset with
      | some v => if v.id = x.order then s.xchPut n pos 1 b.btAddr (v.table b.bset) false else s
      | none => s
    else s
  let others := s.chips.filter fun m => m != s.xch.self.toNat
  let missing (type : Nat) (got : List Nat) := (others.filter fun m => !got.contains m).map fun m => (type, x.xid, x.combine, x.reverse, m)
  { s with xch := { s.xch with
      exchanges := s.xch.exchanges.filter fun y => !y.isOf n pos, 
      owed := s.xch.owed ++ (if b.allocates then missing pkReady x.readyFrom else []) ++ missing pkDone x.doneFrom } }.finish n pos

/-- Null entries of a COMBINE with REVERSE get a router gradient of +0 (R228), once READY has left (R235). -/
def State.nullDws (s : State) (n : Nat) (pos : W32) (b : XchDesc) : State :=
  match s.exchange n pos with
  | none => s
  | some x =>
    let nulls := x.route.zipIdx.filter fun q => !q.1.valid && !x.dwGot.contains q.2
    if x.readySent = false ∨ s.stalls { space := b.tokSpace, hearth := 0, lo := b.rgAddr, len := 4 * b.tokens * b.k } = true then s
    else nulls.foldl (fun s q =>
      (s.xchPut n pos b.tokSpace (b.rgAddr + 4 * q.2) (leBytes 4 0) false).modExchange n pos fun x => { x with dwGot := x.dwGot ++ [q.2] }) s

/-- What an exchange can do without reading rows: gradients and DONEs leave, output rows are written, and it ends. -/
def State.settleExchange (s : State) (n : Nat) (pos : W32) : State :=
  match s.exchange n pos, s.entry n pos with
  | some _, some e =>
    let b := xchOf e.desc
    let s := if b.combine && b.reverse then s.chips.foldl (fun s m => s.sendDws n pos b m) (s.nullDws n pos b) else s
    let s := if b.returns then s.tokensOut n pos b else s
    let s := s.sendDones n pos b
    match s.exchange n pos with
    | some y => if s.exchangeDone y b then s.endExchange n pos y b else s
    | none => s
  | _, _ => s

/-! ### Packets that arrive -/

/-- DW: the router gradients of a member. -/
def State.takeDw (s : State) (n : Nat) (pos : W32) (b : XchDesc) (p : Packet) (bad : Bool) : State :=
  (List.range (p.payload.length / 8)).foldl (fun s k =>
    let w := numbersOf 4 2 (p.payload.drop (8 * k))
    s.writeDw n pos b (BitVec.ofNat 32 (nth 0 w 0)) (BitVec.ofNat 32 (nth 0 w 1)) bad) s

/-- The status that an ABORT carries, with the DETAIL that this member reports. -/
def abortDetail (status peer : Nat) : Nat :=
  if status = stEpoch then peer else if status = stAborted then 3 else if status = stDesc then 4096 * plPeer else 0

/-- A packet of a live exchange. `ok` is false for a packet whose CHECK failed, and `sent` false for a packet of a row that was discarded. -/
def State.actOnPacket (s : State) (n : Nat) (pos : W32) (b : XchDesc) (p : Packet) (ok sent : Bool) : State :=
  let t := p.type.toNat
  let bad := !ok || p.poison || !sent
  let src := p.srcChip.toNat
  let s := s.modExchange n pos fun x => { x with heard := if x.heard.contains src then x.heard else x.heard ++ [src] }
  if (t = pkOut ∧ b.allocates) ∨ (t = pkRet ∧ b.returns) then s.takeRow n pos b p bad sent
  else if t = pkDw ∧ b.combine ∧ b.reverse then s.takeDw n pos b p bad
  else if t = pkCount ∧ b.combine = false ∧ b.reverse = false then s.takeCount n pos b p
  else if t = pkReady ∧ b.allocates then s.modExchange n pos fun x => { x with readyFrom := x.readyFrom ++ [src] }
  else if t = pkDone then s.modExchange n pos fun x => { x with doneFrom := x.doneFrom ++ [src] }
  else if t = pkStale then s.hardFail n pos stEpoch src 2 src true
  else if t = pkAbort then s.hardFail n pos p.offset.toNat (abortDetail p.offset.toNat src) 5 src false
  else s

/-- The record of a packet whose CHECK failed, or that was sent without units (Table 17-4, cause 0x0E): INFO is the source chip, SYNDROME the
CRC difference. -/
def State.logCrc (s : State) (n : Nat) (pos : W32) (port : Nat) (p : Packet) : State :=
  s.logError { (ErrorEvent.plain 3 0x0E 2 port (p.srcChip.setWidth 64)).of n pos (if p.combine then 0x22 else 0x21) stPoison with
    syndrome := packetCrc p ^^^ p.check }

/-- The exchange of a descriptor enters the list of those in progress. -/
def State.enroll (s : State) (n : Nat) (e : Entry) (route : List RouteEntry) : State :=
  let x := Exchange.start n e route
  let keep := s.xch.exchanges.filter fun y => !(y.closed && y.xid == x.xid && y.combine == x.combine && y.reverse == x.reverse)
  { s with xch := { s.xch with exchanges := keep ++ [x] } }.modEntry n e.pos fun e => { e with started := true }

/-- The issued descriptor of an exchange that has not started (R213). -/
def State.unstarted (s : State) (xid : W16) (combine reverse : Bool) : Option (Nat × Entry) :=
  s.issuedAll.find? fun q =>
    let b := xchOf q.2.desc
    decide (descOpcode q.2.desc = if combine then 0x22 else 0x21) && decide (q.2.stage = .running) && !q.2.started && b.xid == xid &&
      b.combine == combine && b.reverse == reverse

/-- The exchange of an issued descriptor fails before it has started. -/
def State.failUnstarted (s : State) (n : Nat) (e : Entry) (status detail cause peer : Nat) (abort : Bool) : State :=
  (s.enroll n e []).hardFail n e.pos status detail cause peer abort

/-- Whether a lost or damaged packet carries what its exchange cannot go on without: a packet of a row is placed by its header alone, and
router gradients that came with units are written with poison. -/
def vitalPacket (p : Packet) (sent : Bool) : Bool := !(p.type.toNat == pkOut || p.type.toNat == pkRet || (p.type.toNat == pkDw && sent))

/-- A packet of an exchange in progress. One whose CHECK fails, or that came without units of credit, fails the descriptor; the exchange goes
on with poison where the packet is one of a row, and ends where it is not (R235, R371; log entry 103). -/
def State.takeLive (s : State) (port : Nat) (p : Packet) (sent : Bool) (n : Nat) (e : Entry) : State :=
  let b := xchOf e.desc
  let ok := decide (packetCrc p = p.check)
  if s.packetStalls n b p then { s with xch := { s.xch with received := s.xch.received ++ [(port, p, sent)] } }
  else if (!ok || !sent) && vitalPacket p sent then
    (s.logCrc n e.pos port p).hardFail n e.pos stPoison (0x200 + port) 6 p.srcChip.toNat true
  else
    let s := if !ok || !sent then s.logCrc n e.pos port p else s
    let s := if !ok || !sent || p.poison then s.softFail n e.pos stPoison (0x200 + port) 6 p.srcChip.toNat else s
    (s.actOnPacket n e.pos b p ok sent).settleExchange n e.pos

/-- A packet of an exchange that is not in progress here (R233). A READY or a DONE that a completed exchange did not wait for is taken. An
ABORT or a STALE fails an issued descriptor whose exchange has not started; later packets of an exchange that failed are discarded, and
every other packet waits in the pending area for its descriptor. -/
def State.takeEarly (s : State) (port : Nat) (p : Packet) (sent : Bool) : State :=
  let t := p.type.toNat
  let src := p.srcChip.toNat
  let owed := (t, p.xid, p.combine, p.reverse, src)
  let whole := sent && decide (packetCrc p = p.check)
  match s.unstarted p.xid p.combine p.reverse with
  | some (n, e) =>
    if whole && t == pkAbort then s.failUnstarted n e p.offset.toNat (abortDetail p.offset.toNat src) 5 src false
    else if whole && t == pkStale then s.failUnstarted n e stEpoch src 2 src true
    else { s with xch := { s.xch with pendingArea := s.xch.pendingArea ++ [(port, p, sent)] } }
  | none =>
    if whole && s.xch.owed.contains owed then { s with xch := { s.xch with owed := s.xch.owed.erase owed } }
    else if s.xch.exchanges.any (fun x => x.closed && x.owns p) then s
    else { s with xch := { s.xch with pendingArea := s.xch.pendingArea ++ [(port, p, sent)] } }

/-- A packet of this epoch. -/
def State.takePacket (s : State) (port : Nat) (p : Packet) (sent : Bool) : State :=
  match s.xch.exchanges.find? fun x => !x.closed && x.owns p with
  | some x =>
    match s.entry x.ring x.pos with
    | some e => s.takeLive port p sent x.ring e
    | none => s
  | none => s.takeEarly port p sent

/-- A packet of another epoch is discarded, counted and answered with STALE, and fails the descriptor of its exchange (R235). A STALE is
not answered. -/
def State.stalePacket (s : State) (p : Packet) : State :=
  let s := { s with xch := { s.xch with stale := satInc s.xch.stale } }
  let answer : Packet :=
    { p with type := BitVec.ofNat 8 pkStale, last := true, vc := 0#2, len := 0#16, srcChip := s.xch.self, dstChip := p.srcChip,
             epoch := s.xch.epoch, expert := 0#16, pktIndex := 0#16, tokenSlot := 0#32, offset := 0#32, weight := 0#32,
             payload := [], poison := false }
  let s := if p.type.toNat = pkStale then s else s.emit [answer]
  let peer := p.srcChip.toNat
  match s.xch.exchanges.find? fun x => !x.closed && x.owns p with
  | some x => s.hardFail x.ring x.pos stEpoch peer 2 peer true
  | none => match s.unstarted p.xid p.combine p.reverse with
    | some (n, e) => s.failUnstarted n e stEpoch peer 2 peer true
    | none => s

/-- A packet from an exchange port; `sent` is false for one that came without units of credit. -/
def State.receivePacket (s : State) (port : Nat) (p : Packet) (sent : Bool) : State :=
  if p.epoch = s.xch.epoch then s.takePacket port p sent else s.stalePacket p

/-- Bytes that the pending area holds, and whether it is full (R233). -/
def Transom.pendingBytes (x : Transom) : Nat := (x.pendingArea.map fun q => 32 + q.2.1.len.toNat).foldl (fun a b => a + b) 0
def Transom.pendingFull (x : Transom) : Bool := decide (2 ^ 22 ≤ x.pendingBytes)

/-! ### The operations -/

/-- The Mantel ranges that a start reads: route, count table. -/
def State.startReads (s : State) (b : XchDesc) : List Range :=
  { space := 1, hearth := 0, lo := b.rrAddr, len := 16 * b.tokens * b.k } ::
    if b.reads then [] else [{ space := 1, hearth := 0, lo := b.ctAddr, len := 64 + 4 * s.installed.nexp }]

/-- The packets of an exchange that wait: those that arrived before its descriptor issued (R233), and those that a wipe held up (R354). -/
def State.takePending (s : State) (x : Exchange) : State :=
  let mine := (s.xch.pendingArea ++ s.xch.received).filter fun q => x.owns q.2.1
  mine.foldl (fun s q => s.receivePacket q.1 q.2.1 q.2.2)
    { s with xch := { s.xch with
        pendingArea := s.xch.pendingArea.filter fun q => !x.owns q.2.1, received := s.xch.received.filter fun q => !x.owns q.2.1 } }

/-- An exchange starts: its route is read, its first messages leave, and its layout is asked for. -/
def State.startExchange (s : State) (n : Nat) (e : Entry) : State :=
  let b := xchOf e.desc
  let reads := s.startReads b
  if reads.any fun r => s.stalls r then s
  else
    let route := s.routeAt b.rrAddr (b.tokens * b.k)
    let x := Exchange.start n e route
    let s := ((s.enroll n e route).sealReads n e.pos none reads).detect n e.pos reads
    match reads.find? fun r => s.tainted r with
    | some r => (s.logPoison n e.pos r).hardFail n e.pos (s.markStatus r) (s.markDetail r) (s.markCause r) s.xch.self.toNat true
    | none =>
      let s :=
        if b.returns then s
        else if b.combine then
          match s.bufferSet b.lbset with
          | some v => s.setLayout n e.pos b v.experts
          | none => s
        else s.sendCounts n e.pos x b
      s.takePending x

/-- One step of an exchange's work: it starts, or rows leave for one member and whole gradient rows are worked on; then it settles. -/
def State.exchangeWork (s : State) (n : Nat) (e : Entry) : State :=
  if !s.transomRuns then s
  else if !e.started then (s.startExchange n e).settleExchange n e.pos
  else
    let b := xchOf e.desc
    let s := match s.exchange n e.pos with
      | some x => s.takePending x
      | none => s
    let s := s.sendRows n e.pos b
    let s := if b.combine && b.reverse then State.gradRows n e.pos b (match s.exchange n e.pos with
      | some x => x.grads.length
      | none => 0) s else s
    s.settleExchange n e.pos

/-- The running exchange of a position, of one operation. -/
def State.runningExchange (s : State) (n : Nat) (pos : W32) (combine reverse : Bool) : Option Entry :=
  match s.running n pos (if combine then 0x22 else 0x21) with
  | some e => if (xchOf e.desc).reverse = reverse then some e else none
  | none => none

def State.exchangeCommand (s : State) (ring : BitVec 7) (pos : W32) (combine reverse : Bool) : State :=
  match s.runningExchange ring.toNat pos combine reverse with
  | some e => s.exchangeWork ring.toNat e
  | none => s

def execDispatch (ring : BitVec 7) (pos : W32) (s : State) : Result := .next (s.exchangeCommand ring pos false false)
def execCombine (ring : BitVec 7) (pos : W32) (s : State) : Result := .next (s.exchangeCommand ring pos true false)
def execDispatchReverse (ring : BitVec 7) (pos : W32) (s : State) : Result := .next (s.exchangeCommand ring pos false true)
def execCombineReverse (ring : BitVec 7) (pos : W32) (s : State) : Result := .next (s.exchangeCommand ring pos true true)

end Sys2Proof.Machine
end

