-- ==== Sys2Proof/Machine/Packets.lean ====
section
/-! DEFINITION. The exchange ports and the pool port (R230 to R235, R370 to R373): sending packets on credit, the packets that arrive, pool
grants and warnings, and the exchange timeout. -/

namespace Sys2Proof.Machine

/-! ### Sending (R230, R231) -/

/-- The credit of a channel. -/
def Credit.of (c : Credit) (vc : Nat) : Nat := if vc = 0 then c.ctrl else if vc = 1 then c.out else c.ret

def Credit.spend (c : Credit) (vc k : Nat) : Credit :=
  if vc = 0 then { c with ctrl := c.ctrl - k } else if vc = 1 then { c with out := c.out - k } else { c with ret := c.ret - k }

/-- Transmit credit of a port. -/
def State.credit (s : State) (port : Nat) : Credit := Tab.at Credit.none s.xch.txCredits port

/-- Whether an exchange port drives its signals: its stove's outputs are released (R316), and nothing has dropped AWAKE. -/
def State.xchAwake (s : State) (port : Nat) : Bool := s.cfg.hasTransom && !s.err.stopped && s.portAwake (3 * port)

def State.affords (s : State) (port : Nat) (p : Packet) : Bool := decide (packetUnits p ≤ (s.credit port).of p.vc.toNat)

/-- Whether a packet is one of a row, whose packets leave on one port. -/
def isRow (p : Packet) : Bool := p.type.toNat == pkOut || p.type.toNat == pkRet

/-- The port whose turn it is to take a row that starts with this packet: the first one from the turn on with credit. -/
def State.rowPort (s : State) (p : Packet) : Option Nat :=
  ((List.range s.cfg.stoves).map fun i => (s.xch.txTurn + i) % s.cfg.stoves).find? fun q => s.xchAwake q && s.affords q p

/-- Whether a queued packet may leave on a port now: it is the first of its row or message, and its row stands on this port or takes it. -/
def State.maySend (s : State) (port : Nat) (i : TxItem) : Bool :=
  s.affords port i.pkt && (s.xch.txQueue.find? fun j => j.row == i.row) == some i &&
    match i.port with
    | some q => q == port
    | none => !isRow i.pkt || s.rowPort i.pkt == some port

/-- The bytes of a packet. -/
def packetBytes (p : Packet) : List W8 := packetHeader p ++ leBytes 4 p.check.toNat ++ p.payload

/-- The lanes that a packet occupies from lane `first` on (R370): the header, then the payload with zeros up to a whole lane. The lanes of a
poisoned payload carry poison. -/
def packetLanes (first : Nat) (p : Packet) : List TxLane :=
  let n := ceilDiv (32 + p.len.toNat) 32
  let bytes := packetBytes p
  (List.range n).map fun i =>
    let part := (bytes.drop (32 * i)).take 32
    { lane := BitVec.ofNat 2 (first + i), data := part ++ List.replicate (32 - part.length) 0#8, sop := decide (i = 0), eop := decide (i + 1 = n),
      vc := p.vc, poison := p.poison && decide (i ≠ 0) }

/-- The lane in which the next packet of a port starts: the one after the last EOP (log entry 145). -/
def State.nextLane (s : State) (port : Nat) : Nat :=
  match (Tab.at [] s.xch.sentLanes port).getLast? with
  | some l => (l.lane.toNat + 1) % 4
  | none => 0

/-- The queue after a packet has left; the rest of its row stays on its port. -/
def State.sendItem (s : State) (port : Nat) (i : TxItem) : State :=
  let bound (j : TxItem) : TxItem := if j.row = i.row ∧ isRow i.pkt then { j with port := some port } else j
  { s with xch := { s.xch with
      txQueue := (s.xch.txQueue.erase i).map bound,
      txTurn := if isRow i.pkt ∧ i.port = none then (port + 1) % s.cfg.stoves else s.xch.txTurn,
      txCredits := Tab.put Credit.none s.xch.txCredits port ((s.credit port).spend i.pkt.vc.toNat (packetUnits i.pkt)),
      sent := Tab.put none s.xch.sent port (some i.pkt),
      sentLanes := Tab.put [] s.xch.sentLanes port (packetLanes (s.nextLane port) i.pkt) } }

/-- XCH_PACKET_SEND. -/
def execXchPacketSend (port : BitVec 3) (s : State) : Result :=
  if port.toNat < s.cfg.stoves then
    if s.xchAwake port.toNat then
      match s.xch.txQueue.find? fun i => s.maySend port.toNat i with
      | some i => .next (s.sendItem port.toNat i)
      | none => .next s
    else .next s
  else .fault .absentUnit

/-- XCH_CREDIT_RETURN. -/
def execXchCreditReturn (port : BitVec 3) (ctrl out ret : BitVec 4) (s : State) : Result :=
  if port.toNat < s.cfg.stoves then
    if s.xchAwake port.toNat then
      let c := s.credit port.toNat
      let c' : Credit := { ctrl := c.ctrl + ctrl.toNat, out := c.out + out.toNat, ret := c.ret + ret.toNat }
      .next { s with xch := { s.xch with txCredits := Tab.put Credit.none s.xch.txCredits port.toNat c' } }
    else .next s
  else .fault .absentUnit

/-! ### Receiving: recorded, replayed, acted on -/

/-- Whether replay holds an input of a kind (R278). -/
def Audit.holdsInput (a : Audit) (kind : Nat) : Bool := a.replaying && a.recKinds.getLsbD (kind - 1)

/-- An external input is held by a replay. -/
def State.holdInput (s : State) (c : Instr) : State :=
  { s with audit := { s.audit with replayWaiting := s.audit.replayWaiting ++ [c] } }

/-- DATA of a packet's record (Table 13-7). -/
def packetData (p : Packet) : W64 :=
  BitVec.ofNat 64 (p.xid.toNat + place 2 0 p.srcChip.toNat + place 4 0 p.type.toNat + place 6 0 p.epoch.toNat)

/-! ### Receive credit (R231, R371, Table 11-10; log entry 103) -/

/-- Units of the shared part that WARN1 leaves to OUT (Table 11-11). -/
def sharedHalf : Nat := 7040

/-- Credit after a packet has taken its units: CTRL and OUT from their own part, RET from its reserve and then from the shared part. No
channel 3 holds units. -/
def Credit.take (c : Credit) (vc k : Nat) : Option Credit :=
  if vc = 0 then (if k ≤ c.ctrl then some { c with ctrl := c.ctrl - k } else Option.none)
  else if vc = 1 then (if k ≤ c.out then some { c with out := c.out - k } else Option.none)
  else if vc = 2 then
    (if k ≤ c.ret + c.out then some { c with ret := c.ret - min k c.ret, out := c.out - (k - min k c.ret) } else Option.none)
  else Option.none

/-- The packets that stand in the receive buffer of a port: those that replay holds (R278), that the recorder withholds (R277), and that a
wipe holds up (R354). -/
def State.buffered (s : State) (port : Nat) : List Packet :=
  ((s.audit.replayWaiting ++ s.audit.withheldRows).filterMap fun c => match packetOf c with
    | some q => if q.1 = port then some q.2 else none
    | none => none) ++
    (s.xch.received.filter fun q => q.1 == port && q.2.2).map fun q => q.2.1

/-- The units of a receive buffer that no packet holds. -/
def State.freeUnits (s : State) (port : Nat) : Credit :=
  (s.buffered port).foldl (fun c p => (c.take p.vc.toNat (packetUnits p)).getD c) Credit.granted

/-- The block grants the units that are free: no more of CTRL while the pending area is full (R233), and OUT up to half of the shared part at
WARN1 (R232). Units that it has granted stay with the licensee's side. A port whose AWAKE is low grants none. -/
def State.grantPort (s : State) (port : Nat) : State :=
  let cur := Tab.at Credit.none s.xch.rxCredits port
  let free := s.freeUnits port
  let out := if s.xch.warnLevel = 1 then min free.out sharedHalf else free.out
  let c : Credit :=
    if s.xchAwake port then
      { ctrl := if s.xch.pendingFull then cur.ctrl else free.ctrl, out := max cur.out out, ret := free.ret }
    else Credit.none
  { s with xch := { s.xch with rxCredits := Tab.put Credit.none s.xch.rxCredits port c } }

/-- RX_CRED of every exchange port. -/
def State.regrant (s : State) : State := (List.range s.cfg.stoves).foldl (fun s p => s.grantPort p) s

/-- A packet arrives on a port and takes its units, where the licensee's side holds them. -/
def State.takeUnits (s : State) (port : Nat) (p : Packet) : Option State :=
  let s := s.grantPort port
  match (Tab.at Credit.none s.xch.rxCredits port).take p.vc.toNat (packetUnits p) with
  | some c => some { s with xch := { s.xch with rxCredits := Tab.put Credit.none s.xch.rxCredits port c } }
  | none => none

/-- A packet is recorded at its row's or message's LAST, and acted on. -/
def State.livePacket (s : State) (port : Nat) (p : Packet) : State :=
  let s := if p.last then s.recordInput 2 port (packetData p) (packetBytes p) else s
  s.receivePacket port p true

/-- A packet that the recorder cannot record waits, and every later one behind it (R277). -/
def State.arrivePacket (s : State) (port : Nat) (p : Packet) (c : Instr) : State :=
  if s.audit.holds 2 || !s.audit.withheldRows.isEmpty then
    { s with audit := { s.audit with withheldRows := s.audit.withheldRows ++ [c] } }
  else s.livePacket port p

/-- The packets that the recorder withheld are taken, oldest first, while it has room for them. -/
def State.takeRows : Nat → State → State
  | 0, s => s
  | k + 1, s =>
    match s.audit.withheldRows with
    | [] => s
    | c :: rest =>
      if s.audit.holds 2 then s
      else
        let s := { s with audit := { s.audit with withheldRows := rest } }
        State.takeRows k (match packetOf c with
          | some (port, p) => s.livePacket port p
          | none => s)

/-- A packet of one of the types that a command names. One that came without units is discarded (R371). -/
def State.packetIn (s : State) (port : Nat) (p : Packet) (types : List Nat) (c : Instr) : State :=
  if s.transomRuns && types.contains p.type.toNat then
    match s.takeUnits port p with
    | none => s.receivePacket port p false
    | some s => (if s.audit.holdsInput 2 then s.holdInput c else s.arrivePacket port p c).regrant
  else s

def execXchCountReceive (port : BitVec 3) (pkt : Packet) (s : State) : Result :=
  if port.toNat < s.cfg.stoves then .next (s.packetIn port.toNat pkt [pkCount] (.xchCountReceive port pkt)) else .fault .absentUnit

def execXchReadyReceive (port : BitVec 3) (pkt : Packet) (s : State) : Result :=
  if port.toNat < s.cfg.stoves then .next (s.packetIn port.toNat pkt [pkReady] (.xchReadyReceive port pkt)) else .fault .absentUnit

def execXchRowReceive (port : BitVec 3) (pkt : Packet) (s : State) : Result :=
  if port.toNat < s.cfg.stoves then .next (s.packetIn port.toNat pkt [pkOut, pkRet] (.xchRowReceive port pkt)) else .fault .absentUnit

def execXchDoneReceive (port : BitVec 3) (pkt : Packet) (s : State) : Result :=
  if port.toNat < s.cfg.stoves then .next (s.packetIn port.toNat pkt [pkDone] (.xchDoneReceive port pkt)) else .fault .absentUnit

def execXchDwReceive (port : BitVec 3) (pkt : Packet) (s : State) : Result :=
  if port.toNat < s.cfg.stoves then .next (s.packetIn port.toNat pkt [pkDw] (.xchDwReceive port pkt)) else .fault .absentUnit

def execXchStaleReceive (port : BitVec 3) (pkt : Packet) (s : State) : Result :=
  if port.toNat < s.cfg.stoves then .next (s.packetIn port.toNat pkt [pkStale] (.xchStaleReceive port pkt)) else .fault .absentUnit

def execXchAbortReceive (port : BitVec 3) (pkt : Packet) (s : State) : Result :=
  if port.toNat < s.cfg.stoves then .next (s.packetIn port.toNat pkt [pkAbort] (.xchAbortReceive port pkt)) else .fault .absentUnit

/-! ### The pool port (R225, R232, R373) -/

/-- Whether a grant lies as R373 asks: in the request's pool, aligned, and in the pool's space. -/
def State.grantFits (s : State) (r : PoolRequest) (space : Nat) (pool : BitVec 2) (base : Nat) : Bool :=
  let size := poolBytes pool.toNat
  pool == r.pool && decide (base % size = 0) && (decide (space = 1) || decide (space = 3)) && decide (base + size ≤ s.spaceSize space)

/-- A segment takes its buffer. -/
def Segment.take (g : Segment) (twin : Bool) (index : BitVec 24) (base : W64) : Segment :=
  if twin then { g with twinBase := base, twinIndex := index, twinGranted := true } else { g with base := base, index := index, granted := true }

/-- A grant is taken and checked; when all are here READY is sent. A grant for a set that is no longer live is released at once. -/
def State.grantBuffer (s : State) (tag : W8) (pool : BitVec 2) (index : BitVec 24) (base : BitVec 52) : State :=
  match s.xch.requests.find? fun r => r.tag == tag with
  | none => s
  | some r =>
    let s := { s with xch := { s.xch with requests := s.xch.requests.erase r } }.pumpRequests
    match s.bufferSet r.set with
    | none => s.releaseBuffer pool index
    | some v =>
      if v.id ≠ r.id then s.releaseBuffer pool index
      else
        let owner := s.xch.exchanges.find? fun x => !x.closed && x.order == r.id
        let seg := v.segments[r.segment]?
        let space := match seg with
          | some g => g.space
          | none => 0
        if s.grantFits r space pool base.toNat then
          let segs := match seg with
            | some g => setNth v.segments r.segment (g.take r.twin index (base.setWidth 64))
            | none => v.segments
          let s := { s with xch := { s.xch with sets := Tab.put none s.xch.sets r.set (some { v with segments := segs }) } }
          match owner with
          | some x => s.sendReady x r.set
          | none => s
        else
          let s := s.releaseBuffer pool index
          match owner with
          | some x => s.hardFail x.ring x.pos stMem 0x00FF 7 s.xch.self.toNat true
          | none => s

/-- A grant is recorded and acted on: DATA holds the pool, the index and base[31:0]. -/
def State.liveGrant (s : State) (tag : W8) (pool : BitVec 2) (index : BitVec 24) (base : BitVec 52) : State :=
  let data := pool.toNat + 256 * index.toNat + place 4 0 (base.toNat % 2 ^ 32)
  (s.recordInput 3 pool.toNat (BitVec.ofNat 64 data)
    (leBytes 1 tag.toNat ++ leBytes 1 pool.toNat ++ leBytes 3 index.toNat ++ leBytes 7 base.toNat)).grantBuffer tag pool index base

/-- POOL_GRANT. -/
def execPoolGrant (tag : W8) (pool : BitVec 2) (index : BitVec 24) (base : BitVec 52) (s : State) : Result :=
  if s.transomRuns && s.poolAwake then
    .next (if s.audit.holdsInput 3 then s.holdInput (.poolGrant tag pool index base) else s.liveGrant tag pool index base)
  else .next s

/-- POOL_WARN takes a value: entries into WARN1 and WARN2 are counted, and allocations that waited may begin. -/
def State.setWarn (s : State) (warn : W8) : State :=
  let old := s.xch.warnLevel
  let s := { s with xch := { s.xch with warn := warn } }
  let now := s.xch.warnLevel
  { s with xch := { s.xch with
      warn1Count := if now = 1 ∧ old ≠ 1 then satInc s.xch.warn1Count else s.xch.warn1Count,
      warn2Count := if now = 2 ∧ old ≠ 2 then satInc s.xch.warn2Count else s.xch.warn2Count } }.allocate.regrant

/-- A change of level is recorded for each pool that changed: DATA holds the pool and the level. -/
def State.liveWarn (s : State) (warn : W8) : State :=
  let level (w : W8) (p : Nat) : Nat := (w.toNat >>> (2 * p)) % 4
  let old := s.xch.warn
  ((List.range 4).foldl (fun (s : State) p =>
    if level warn p = level old p then s
    else s.recordInput 4 p (BitVec.ofNat 64 (p + 256 * level warn p)) (leBytes 1 p ++ leBytes 1 (level warn p))) s).setWarn warn

/-- A change of POOL_WARN reaches the Transom. -/
def State.warnIn (s : State) (warn : W8) : State :=
  if s.transomRuns then if s.audit.holdsInput 4 then s.holdInput (.poolWarnChange warn) else s.liveWarn warn else s

/-- POOL_WARN_CHANGE. -/
def execPoolWarnChange (warn : W8) (s : State) : Result := .next (s.warnIn warn)

/-! ### Timeout (R235) -/

/-- XCH_TIMEOUT: a member from which nothing has come within XCH_TIMEOUT of this chip's own issue. -/
def execXchTimeout (combine reverse : Bool) (xid peer : W16) (s : State) : Result :=
  let due (start : W64) : Bool := decide (1000 * s.xch.timeout.toNat ≤ (s.audit.count - start).toNat)
  if s.transomRuns ∧ s.xch.timeout ≠ 0#32 ∧ peer ≠ s.xch.self ∧ (s.chips.contains peer.toNat) = true then
    match s.xch.exchanges.find? fun x => !x.closed && x.xid == xid && x.combine == combine && x.reverse == reverse with
    | some x =>
      if x.heard.contains peer.toNat = false ∧ due x.started then .next (s.hardFail x.ring x.pos stAborted 3 3 peer.toNat true) else .next s
    | none => match s.unstarted xid combine reverse with
      | some (n, e) =>
        let early := s.xch.pendingArea.any fun q =>
          q.2.1.srcChip == peer && q.2.1.xid == xid && q.2.1.combine == combine && q.2.1.reverse == reverse
        if early = false ∧ due e.issued then .next (s.failUnstarted n e stAborted 3 3 peer.toNat true) else .next s
      | none => .next s
  else .next s

end Sys2Proof.Machine
end

