-- ==== Sys2Proof/Machine/Tables.lean ====
section
/-! DEFINITION. Shape tables (chapter 9): TABLE_LOAD and TABLE_SWAP (Tables 09-7 and 09-8), their checks (R184 to R186), the bank that a
descriptor reads (R183), and the reload of a line whose parity failed (R189). -/

namespace Sys2Proof.Machine

/-! ### Bodies -/

structure TableLoad where
  bank : Bool
  space : Nat
  slotMask : Nat
  first : Nat
  count : Nat
  srcAddr : Nat
  slotAddr : Nat
  deriving DecidableEq, Repr

def tableLoadOf (desc : DescBits) : TableLoad :=
  let d := desc.toNat
  { bank := flag d 16 0, space := fld d 17 0 2, slotMask := fld d 20 0 32, first := fld d 24 0 17, count := fld d 28 0 17,
    srcAddr := fld d 32 0 64, slotAddr := fld d 40 0 64 }

def tableLoadFields : List (Nat × Nat × Nat) :=
  [(16, 0, 1), (17, 0, 2), (20, 0, 32), (24, 0, 17), (28, 0, 17), (32, 0, 64), (40, 0, 64)]

def tableSwapTo (desc : DescBits) : Bool := flag desc.toNat 16 0

/-- The named slots, rising. -/
def TableLoad.slots (b : TableLoad) : List Nat := bitsBelow 32 b.slotMask

/-! ### The bank at a position of the issue order (R183, R185) -/

/-- Whether an entry is an issued TABLE_SWAP of a hearth that has not run. -/
def Entry.swaps (e : Entry) (h : Nat) : Bool :=
  decide (e.stage = .running) && descOpcode e.desc == 0x13 && e.mask.getLsbD h

/-- The bank that a descriptor issued now reads on a hearth: that of the latest issued TABLE_SWAP, or the active one. -/
def State.bankNow (s : State) (h : Nat) : Bool :=
  match (s.rings.foldl (fun (acc : Option Entry) p => p.2.entries.foldl (fun (acc : Option Entry) e =>
      if e.swaps h then match acc with
        | some a => if a.order < e.order then some e else some a
        | none => some e
      else acc) acc) none) with
  | some e => tableSwapTo e.desc
  | none => (s.hearth h).active

/-- Whether a descriptor runs on the lanes and reads a bank (R183): CHAIN and NORM. -/
def readsBank (op : Nat) : Bool := op == 0x10 || op == 0x11

/-- The banks that a descriptor issued now reads, as Entry.banks. -/
def State.banksNow (s : State) (hs : List Nat) : W64 := BitVec.ofNat 64 (maskOf (hs.filter fun h => s.bankNow h))

/-- Whether an entry reads a bank of a hearth and has not completed there (R185). -/
def Entry.readsTable (e : Entry) (h : Nat) (bank : Bool) : Bool := e.holds.tables.contains (h, bitNat bank)

/-- TBL_BANK.HOLD of a hearth (Table 09-10): an issued, uncompleted descriptor reads the bank there. -/
def State.tableHold (s : State) (h : Nat) (bank : Bool) : Bool :=
  s.rings.any fun p => p.2.entries.any fun e => decide (e.stage = .running) && e.uses.tables.contains (h, bitNat bank)

/-- Whether an issued TABLE_LOAD has not committed on a bank of a hearth: later readers of the bank wait (R185). -/
def State.tableLoading (s : State) (h : Nat) (bank : Bool) : Bool :=
  s.rings.any fun p => p.2.entries.any fun e =>
    decide (e.stage = .running) && descOpcode e.desc == 0x12 && e.work.contains h && (tableLoadOf e.desc).bank == bank

/-! ### Checks -/

/-- The breaches of a slot record under R179, as offsets within it. -/
def slotBreaches (r size : Nat) : List Nat :=
  let infinite (off : Nat) : Bool := (slotF32 r off).isNan || (slotF32 r off).isInf
  let pick (bad : Bool) (offs : List Nat) : List Nat := if bad then offs else []
  let slope (linear : Bool) (off : Nat) : List Nat :=
    pick (infinite off) [off] ++ pick (!infinite off && (linear == (slotF32 r off).isZero)) [11, off]
  if !slotValid r then
    match (List.range 32).find? fun i => decide (fld r i 0 8 ≠ 0) with
    | some i => [11, i]
    | none => []
  else
    let scale := fld r 0 0 32
    (match reservedByte r 32 [(0, 0, 80), (10, 0, 5), (11, 0, 2), (11, 7, 1), (12, 0, 128)] with
      | some o => [o]
      | none => []) ++
      pick (scale.testBit 31 || decide ((scale / 2 ^ 23) % 256 = 0) || decide ((scale / 2 ^ 23) % 256 = 255)) [0] ++
      pick (infinite 4) [4] ++ pick (infinite 12) [12] ++ pick (infinite 20) [20] ++ slope (flag r 11 0) 16 ++
      slope (flag r 11 1) 24 ++ pick (decide (16 < fld r 10 0 5)) [10] ++
      pick (decide (size < fld r 8 0 16 + slotN r)) [8, 10]

/-- Field rules of R184. SRC_ADDR with COUNT = 0 and SLOT_ADDR with SLOT_MASK = 0 must be zero, which Table 09-7 states and the list of R184
leaves out: DESIGN CHOICE, log entry 138. -/
def State.tableLoadFieldBreaches (s : State) (desc : DescBits) : List Breach :=
  let b := tableLoadOf desc
  let absent := decide (b.space = 2) || (decide (b.space = 1) && !s.cfg.hasMantel)
  let last := match b.slots.getLast? with
    | some k => k + 1
    | none => 0
  bodyReserved desc.toNat tableLoadFields ++ breach (decide (descSplit desc ≠ 0)) 0 [9] ++
    breach (decide (b.count = 0) && decide (b.slotMask = 0)) 0 [20, 28] ++ breach (decide (b.first % 64 ≠ 0)) 0 [24] ++
    breach (decide (b.count % 64 ≠ 0)) 0 [28] ++ breach (decide (bankSize s.cfg.shapeEntries < b.first + b.count)) 0 [24, 28] ++
    breach (decide (b.srcAddr % 64 ≠ 0)) 0 [32] ++
    breach (decide (b.slotAddr % 64 ≠ 0)) 0 [40] ++
    breach (decide (b.count = 0) && decide (b.srcAddr ≠ 0)) 0 [28, 32] ++
    breach (decide (b.slotMask = 0) && decide (b.slotAddr ≠ 0)) 0 [20, 40] ++ breach absent 0 [17] ++
    breach (!absent && decide (b.count ≠ 0) && decide (s.spaceSize b.space < b.srcAddr + 8 * b.count)) 0 [32] ++
    breach (!absent && decide (b.slotMask ≠ 0) && decide (s.spaceSize b.space < b.slotAddr + 32 * last)) 0 [40]

/-- The named slot record s that a hearth reads. -/
def State.slotRecord (s : State) (b : TableLoad) (h k : Nat) : Nat := leNat (s.peek b.space h (b.slotAddr + 32 * k) 32)

/-- Breaches of the named slot records of every hearth (R184), at their offset in the array of records that SLOT_ADDR names: DESIGN CHOICE, log
entry 88. -/
def State.slotRecordBreaches (s : State) (b : TableLoad) (hs : List Nat) : List Breach :=
  hs.flatMap fun h => b.slots.flatMap fun k =>
    (slotBreaches (s.slotRecord b h k) (bankSize s.cfg.shapeEntries)).map fun o => (plImage, 32 * k + o)

/-- The checks of a TABLE_LOAD: those of R184, then E_TABLE_ACTIVE with the first hearth refusing (R185). -/
def State.tableLoadVerdict (s : State) (desc : DescBits) (hs : List Nat) : Verdict :=
  let b := tableLoadOf desc
  match descVerdict (s.tableLoadFieldBreaches desc) with
  | some v => some v
  | none => match descVerdict (s.slotRecordBreaches b hs) with
    | some v => some v
    | none => (hs.find? fun h => s.bankNow h == b.bank).map fun h => (stTableActive, h)

/-- The checks of a TABLE_SWAP (R186). -/
def tableSwapBreaches (desc : DescBits) : List Breach :=
  bodyReserved desc.toNat [(16, 0, 1)] ++ breach (decide (descSplit desc ≠ 0)) 0 [9]

/-! ### TABLE_LOAD -/

/-- The first hearth of the mask in each stove, which stands for the stove's one reading of the image (R190). -/
def stoveReaders (hs : List Nat) : List Nat := hs.filter fun h => (hs.find? fun k => k / 8 == h / 8) == some h

/-- The image and slot records that the hearths read. -/
def TableLoad.reads (b : TableLoad) (hs : List Nat) : List Range :=
  (if b.space = 0 then hs else stoveReaders hs).flatMap fun h =>
    let place (lo len : Nat) : Range := { space := b.space, hearth := h, lo := lo, len := len }
    (b.slots.map fun k => place (b.slotAddr + 32 * k) 32) ++ if b.count = 0 then [] else [place b.srcAddr (8 * b.count)]

/-- No source: the line has not been loaded since the tables were cleared. -/
def noSource : Nat × W64 := (0xFF, 0#64)

/-- Entries that an image spells (R178). -/
def entriesOf (bs : List W8) (n : Nat) : List W64 := (List.range n).map fun i => BitVec.ofNat 64 (leNat ((bs.drop (8 * i)).take 8))

/-- A hearth's bank takes the image and the records. -/
def State.loadTable (s : State) (b : TableLoad) (h : Nat) : State :=
  let vals := entriesOf (s.peek b.space h b.srcAddr (8 * b.count)) b.count
  let recs := b.slots.map fun k => (k, BitVec.ofNat 256 (s.slotRecord b h k))
  let lines := (List.range (b.count / 64)).map fun i => (b.first / 64 + i, b.srcAddr + 512 * i)
  s.modHearth h fun x =>
    { x with
      shapes := Tab.splice 0#64 x.shapes (65536 * bitNat b.bank + b.first) vals,
      slots := recs.foldl (fun t q => Tab.put 0#256 t (32 * bitNat b.bank + q.1) q.2) x.slots,
      sources := lines.foldl (fun t q => Tab.put noSource t (1024 * bitNat b.bank + q.1) (b.space, BitVec.ofNat 64 q.2)) x.sources,
      loading := false, loadBank := false }

/-- LOADING of a load that has begun (Table 09-10). -/
def State.markLoading (s : State) (hs : List Nat) (on bank : Bool) : State :=
  hs.foldl (fun s h => s.modHearth h fun x => { x with loading := on, loadBank := on && bank }) s

/-- Whether the bank of a TABLE_LOAD is not free on a hearth (R185): an earlier-issued reader has not completed there, or an earlier-issued
load has not committed there. -/
def State.tableHeld (s : State) (e : Entry) (bank : Bool) (h : Nat) : Bool :=
  s.rings.any fun p => p.2.entries.any fun f => decide (f.order < e.order) &&
    (f.readsTable h bank ||
      (decide (f.stage = .running) && descOpcode f.desc == 0x12 && f.work.contains h && (tableLoadOf f.desc).bank == bank))

/-- TABLE_LOAD writes the bank of the first hearth of its mask whose bank is free; the position ends with the last. Its image and records are
read, and the records judged, before the first hearth is written; marked data ends it with nothing more written. -/
def State.tableLoad (s : State) (n : Nat) (e : Entry) : State :=
  let b := tableLoadOf e.desc
  let hs := s.hearthsOf e.mask
  match e.nextPiece (hs.map fun h => (h, 1)) fun h => s.hearthRuns h && !s.tableHeld e b.bank h with
  | none => s
  | some q =>
    let s' := s.whole n e.pos (some 0) (b.reads hs) [] fun s bad =>
      if bad then s.finish n e.pos
      else match if e.prog = [] then descVerdict (s.slotRecordBreaches b hs) else none with
        | some v => s.finishWith n e.pos v.1 v.2
        | none => (s.loadTable b q.1).advance n e.pos (hs.map fun h => (h, 1)) q.1 1 1
    match s'.entry n e.pos with
    | some f => if f.stage = .running then s'.markLoading f.work true b.bank else s'.markLoading hs false b.bank
    | none => s'

def execTableLoad (ring : BitVec 7) (pos : W32) (s : State) : Result :=
  match s.running ring.toNat pos 0x12 with
  | some e => .next (s.tableLoad ring.toNat e)
  | none => .next s

/-! ### TABLE_SWAP (R186) -/

/-- A hearth's active bank; SWAP_COUNT counts changes. -/
def Hearth.swapTo (x : Hearth) (to' : Bool) : Hearth :=
  if x.active = to' then x else { x with active := to', swapCount := satInc x.swapCount }

/-- Swaps take effect in issue order, on a hearth that wakes or is wiped too: a wipe that ends later makes bank 0 active again (R188): DESIGN
CHOICE, log entry 137. -/
def State.tableSwap (s : State) (n : Nat) (e : Entry) : State :=
  let hs := s.hearthsOf e.mask
  if (s.rings.any fun p => p.2.entries.any fun f => decide (f.order < e.order) && hs.any fun h => f.swaps h) = true then s
  else (hs.foldl (fun s h => s.modHearth h fun x => x.swapTo (tableSwapTo e.desc)) s).finish n e.pos

def execTableSwap (ring : BitVec 7) (pos : W32) (s : State) : Result :=
  match s.running ring.toNat pos 0x13 with
  | some e => .next (s.tableSwap ring.toNat e)
  | none => .next s

/-! ### Reload of a line (R189) -/

/-- The run that the lanes of a hearth serve, when its lookups read a bank. -/
def State.lookupRun (s : State) (h : Nat) (bank : Bool) : Option ChainRun :=
  (s.nextRun (s.hearth h).chains).filter fun r => match s.entry r.ring r.pos with
    | some e => e.banks.getLsbD h == bank && (chainOf e.desc).stages.any fun g => isShape g.op
    | none => false

/-- `n` fresh undefined entries. -/
def State.drawEntries (s : State) (n : Nat) : List W64 × State :=
  ((List.range n).map fun i => Config.freeWord64 (s.draws + i), { s with draws := s.draws + n })

/-- A line is read again. Lookups of a line whose image software has changed, or that has no recorded source, are undefined. -/
def State.reloadLine (s : State) (h : Nat) (bank : Bool) (line : Nat) : State :=
  let x := s.hearth h
  let key := 65536 * bitNat bank + 64 * line
  let old := Tab.list 0#64 x.shapes key 64
  let src := Tab.at noSource x.sources (1024 * bitNat bank + line)
  let same := decide (src ≠ noSource) && decide (entriesOf (s.peek src.1 h src.2.toNat 512) 64 = old)
  let s := s.modHearth h fun x => { x with reloadCount := satInc x.reloadCount }
  if same then s
  else
    let (vs, s) := s.drawEntries 64
    s.modHearth h fun x => { x with shapes := Tab.splice 0#64 x.shapes key vs }

/-- SHAPE_RELOAD: a lookup of a running CHAIN meets a parity error. The line is read again (outcome 0), or the read fails: with an error (1),
or with marked data (2 and 3, or a mark at the source). -/
def State.shapeReload (s : State) (h : Nat) (bank : Bool) (line outcome : Nat) : State :=
  match s.lookupRun h bank with
  | none => s
  | some r =>
    let src := Tab.at noSource (s.hearth h).sources (1024 * bitNat bank + line)
    let src' : Range := { space := src.1, hearth := h, lo := src.2.toNat, len := 512 }
    let tainted := decide (src ≠ noSource) && s.tainted src'
    let s := if src = noSource ∨ outcome = 1 then s else s.detect r.ring r.pos [src']
    let log (sev cause st : Nat) (s : State) : State :=
      s.logError (((ErrorEvent.plain sev cause 4 h (BitVec.ofNat 64 line)).of r.ring r.pos 0x10 st).atAddr src.1 src.2.toNat)
    if outcome = 0 ∧ tainted = false then log 1 0x0A 0 (s.reloadLine h bank line)
    else
      let st := if outcome = 1 then stMem else if tainted then s.markStatus src' else stPoison
      ((log 3 0x0B st s).fail r.ring r.pos st (0x400 + h)).stopWork r.ring r.pos

def execShapeReload (hearth : BitVec 6) (bank : Bool) (line : BitVec 10) (outcome : BitVec 2) (s : State) : Result :=
  if hearth.toNat < s.cfg.hearths then
    .next (if s.hearthRuns hearth.toNat && decide (64 * line.toNat < bankSize s.cfg.shapeEntries) then
      s.shapeReload hearth.toNat bank line.toNat outcome.toNat else s)
  else .fault .absentUnit

end Sys2Proof.Machine
end

