-- ==== Sys2Proof/Machine/Issue.lean ====
section
/-! DEFINITION. DESCRIPTOR_ISSUE (R248 to R252): the checks of R259 in their order, the waits of R77, R118, R128, R185, R249 and R250, the
opening of a seal session (R279), and what a descriptor takes with it when it issues (R114, R244, R320). -/

namespace Sys2Proof.Machine

/-! ### The header (R246, R247) -/

/-- The classes that Table 12-6 marks, and whether the opcode acts on hearths. -/
def opcodeInfo (op : Nat) : Option (List Nat × Bool) :=
  if op = 0x01 ∨ op = 0x02 ∨ op = 0x10 ∨ op = 0x11 then some ([0, 1, 2], true)
  else if op = 0x03 then some ([1, 2], true)
  else if op = 0x12 ∨ op = 0x13 then some ([1, 2, 3], true)
  else if op = 0x20 ∨ op = 0x21 ∨ op = 0x22 ∨ op = 0x42 then some ([1, 2], false)
  else if op = 0x30 ∨ op = 0x31 then some ([0, 1, 2, 3], true)
  else if op = 0x40 ∨ op = 0x60 then some ([0, 1, 2, 3], false)
  else if op = 0x41 then some ([1, 2, 3], false)
  else if op = 0x50 ∨ op = 0x51 ∨ op = 0x52 then some ([3], false)
  else none

/-- ROUTE_BUILD, DISPATCH and COMBINE. -/
def isExchangeOp (op : Nat) : Bool := op == 0x20 || op == 0x21 || op == 0x22

/-- Opcodes whose chapter gives SPLIT a use (R103, R144, R196, R300). -/
def usesSplit (op : Nat) : Bool := op == 0x01 || op == 0x10 || op == 0x11 || op == 0x30 || op == 0x31

/-- E_OPCODE, then E_DESC of the header and of the ring's class (R259 steps 1 and 2). -/
def State.headerVerdict (s : State) (n : Nat) (desc : DescBits) : Verdict :=
  let op := descOpcode desc
  match opcodeInfo op with
  | none => some (stOpcode, 0)
  | some info =>
    if isExchangeOp op && !s.cfg.hasTransom then some (stOpcode, 0)
    else
      let cls := (s.classOf n).toNat
      let split := descSplit desc
      descVerdict (reservedBreach plDescriptor (desc.toNat % 2 ^ 128) 16 headerFields ++
        breach (decide (descClass desc ≠ cls)) 0 [1] ++ breach (!info.1.contains cls) 0 [0] ++
        breach (descSeal desc && decide (cls = 0)) 0 [2] ++
        breach ((decide (5 ≤ split) && decide (split ≤ 14)) || (decide (split ≠ 0) && !usesSplit op)) 0 [9])

/-- The effective mask (R244). -/
def State.effectiveMask (s : State) (n : Nat) (desc : DescBits) : W64 :=
  let on := maskOf (s.allHearths.filter fun h => !(s.hearth h).offline)
  Tab.at 0#64 s.blk.hmask (descMask desc) &&& (s.ring n).hmask &&& BitVec.ofNat 64 on

/-! ### Plans -/

/-- What a descriptor would take with it: the hearths that get work, what it names, and the epilogue records that its hearths read. -/
structure Plan where
  hs : List Nat
  uses : Uses
  records : List (Nat × Nat)
  recordAt : List Range
  bank : Bool
  deriving DecidableEq, Repr

def Plan.none : Plan := { hs := [], uses := Uses.none, records := [], recordAt := [], bank := false }

def dedup (xs : List Nat) : List Nat := xs.foldl (fun acc x => if acc.contains x then acc else acc ++ [x]) []

/-- Pairs of a hearth with each of a list of numbers. -/
def onHearth (h : Nat) (xs : List Nat) : List (Nat × Nat) := xs.map fun a => (h, a)

/-- The slots that the hearths name through their epilogue records (R118, R128). -/
def slotUses (recs : List (Nat × Nat)) (order : Bool) (tm tn : Nat) (homes : List (Nat × List Nat)) (u : Uses) : Uses :=
  homes.foldl (fun u q =>
    let r := Tab.at 0 recs q.1
    let k := (tileRows order tm tn q.2).length
    { u with
      stats := u.stats ++ (if epiStats r then onHearth q.1 ((List.range k).map fun i => epiRsSlot r + i) else [])
      topk := u.topk ++ (if epiTopk r then onHearth q.1 ((List.range k).map fun i => epiTkSlot r + i) else []) }) u

def epiRanges (epi : Bool) (off : Nat) (items : List Item) : List Range :=
  if epi then (dedup (items.map Item.hearth)).map fun h => { space := 0, hearth := h, lo := off, len := 256 } else []

def State.planMatmul (s : State) (desc : DescBits) (hs : List Nat) : Plan :=
  let b := matmulOf desc
  let all := s.matmulItems b hs
  let items := b.working (b.parts hs.length) all
  let own := dedup (items.map Item.hearth)
  let operand (o : Operand) : List (Nat × Nat) := if o.space = 2 then own.map fun h => (h, o.addr % 64) else []
  let recs := s.readRecords b.epi b.epiOff items
  let u : Uses := { Uses.none with
    reads := operand b.a ++ operand b.b, writes := items.map fun i => (i.hearth, i.atile)
    groups := if b.group then hs.map fun h => (h, b.gid) else [] }
  { hs := own, uses := slotUses recs b.order b.tm b.tn (drainHomes items) u, records := recs,
    recordAt := epiRanges b.epi b.epiOff items, bank := false }

def State.planDrain (s : State) (desc : DescBits) (hs : List Nat) : Plan :=
  let b := drainOf desc
  let items := b.items hs
  let recs := s.readRecords b.epi b.epiOff items
  let u : Uses := { Uses.none with reads := items.map fun i => (i.hearth, i.atile) }
  { hs := dedup (items.map Item.hearth),
    uses := slotUses recs b.order (tilesAcross b.m) (tilesAcross b.n) (drainHomes items) u, records := recs,
    recordAt := epiRanges b.epi b.epiOff items, bank := false }

def State.planGroup (s : State) (desc : DescBits) (hs : List Nat) : Plan :=
  let b := groupOf desc
  let tiles (h : Nat) : W64 := if b.op = 0 ∨ b.op = 2 then b.tiles else ((s.hearth h).group b.gid).tiles
  { Plan.none with
    hs := hs, uses := { Uses.none with
      writes := hs.flatMap fun h => onHearth h (groupTiles (tiles h)), groups := hs.map fun h => (h, b.gid) } }

/-- The banks that a descriptor issued now reads on its hearths (R183). -/
def State.tablesNow (s : State) (hs : List Nat) : List (Nat × Nat) := hs.map fun h => (h, bitNat (s.bankNow h))

def State.planChain (s : State) (desc : DescBits) (hs : List Nat) : Plan :=
  let c := chainOf desc
  let runs := c.deal s.cfg.lanes hs
  let tiles (out : Bool) : List (Nat × Nat) := runs.flatMap fun q => (List.range c.nstream).flatMap fun j =>
    let st := streamAt (s.streamRecord c q.1) j
    if st.output = out then onHearth q.1 (c.streamTiles j st q.2.1 q.2.2) else []
  { Plan.none with
    hs := runs.map fun q => q.1
    uses := { Uses.none with reads := tiles false, writes := tiles true, tables := s.tablesNow (runs.map fun q => q.1) }, bank := true }

def planRows (hs : List Nat) (runs : List (Nat × Nat × Nat)) (src : Option Plane) (dst : Option Plane) (n : Nat) : Plan :=
  let tiles (p : Option Plane) : List (Nat × Nat) := match p with
    | some p => runs.flatMap fun q => onHearth q.1 (p.tiles q.2.2 n)
    | none => []
  { Plan.none with hs := hs, uses := { Uses.none with reads := tiles src, writes := tiles dst } }

def State.planNorm (s : State) (desc : DescBits) (hs : List Nat) : Plan :=
  let b := normOf desc
  let runs := deal hs b.rows
  let p := planRows (runs.map fun q => q.1) runs (if b.elementwise then some b.src else none)
    (if b.writesRows then some b.dst else none) b.cols
  { p with uses := { p.uses with tables := s.tablesNow p.hs }, bank := true }

def planMover (b : Mover) (all hs : List Nat) : Plan :=
  let runs := b.deal all hs
  planRows (runs.map fun q => q.1) runs b.src (some b.dst) b.elems

/-- The plan of a descriptor: `all` are the hearths of its mask, `hs` those that share its work. -/
def State.plan (s : State) (desc : DescBits) (all hs : List Nat) : Plan :=
  match descOpcode desc with
  | 0x01 => s.planMatmul desc hs
  | 0x02 => s.planDrain desc hs
  | 0x03 => s.planGroup desc all
  | 0x10 => s.planChain desc hs
  | 0x11 => s.planNorm desc hs
  | 0x12 => { Plan.none with hs := all }
  | 0x13 => { Plan.none with hs := all }
  | 0x30 => planMover (copyOf desc) all hs
  | 0x31 => planMover (fillOf desc) all hs
  | _ => Plan.none

/-! ### Waits -/

/-- Two lists of (hearth, number) share a pair. -/
def shares (xs ys : List (Nat × Nat)) : Bool := xs.any fun x => ys.contains x

/-- Issued positions whose work has not ended. -/
def State.runningAll (s : State) : List (Nat × Entry) := s.issuedAll.filter fun p => decide (p.2.stage = .running)

/-- A wait that precedes the checks that read tiles, groups and slots: an earlier GROUP, an earlier MATMUL not yet dealt or one that failed has
still to change what they read, or an earlier descriptor that names a slot has not finished its epilogue (R76, R100, R118, R119, R128). -/
def State.checkWaits (s : State) (n : Nat) (desc : DescBits) (p : Plan) : Bool :=
  let group (d : DescBits) : Bool := descOpcode d == 0x03
  let settles (e : Entry) : Bool := group e.desc || (descOpcode e.desc == 0x01 && (!e.started || e.status != 0#8))
  (s.issuedAll.any fun q =>
    let e := q.2
    (settles e && shares (p.uses.reads ++ p.uses.writes) e.holds.writes) ||
      ((group e.desc || group desc) && shares p.uses.groups e.holds.groups) ||
      (!(s.flueRing n && !s.flueRing q.1) && (shares p.uses.stats e.holds.stats || shares p.uses.topk e.holds.topk))) ||
    (p.bank && p.hs.any fun h => s.tableLoading h (s.bankNow h))

/-- A MATMUL that continues an accumulation follows the earlier MATMUL of the tile in the Grate without a wait (R73): both Flue or neither,
the earlier dealt, running and not split over K. One with BEGIN waits until the earlier END has committed. -/
def State.grateOrders (s : State) (n : Nat) (desc : DescBits) (q : Nat × Entry) : Bool :=
  descOpcode desc == 0x01 && !(matmulOf desc).begins && descOpcode q.2.desc == 0x01 && q.2.started && decide (q.2.stage = .running) &&
    decide (q.2.status = 0#8) && s.flueRing n == s.flueRing q.1 &&
    decide ((matmulOf q.2.desc).parts (s.workHearths q.2).length = 1)

/-- R77: a tile that an earlier-issued descriptor is still to write or to read, tile by tile on each hearth (R78). -/
def State.tileWaits (s : State) (n : Nat) (desc : DescBits) (u : Uses) : Bool :=
  s.issuedAll.any fun q =>
    shares u.reads q.2.holds.writes || shares u.writes q.2.holds.reads ||
      (shares u.writes q.2.holds.writes && !s.grateOrders n desc q)

/-- An EPOCH fence of ring 0 is decoded, or was decoded and lacks its record: it holds every exchange descriptor (R250). -/
def State.epochHeld (s : State) : Bool :=
  (s.ring 0).entries.any (fun e => epochFenceDesc e.desc && decide (e.stage ≠ .recorded) && decide (e.status ≠ BitVec.ofNat 8 stAborted)) ||
    match (s.ring 0).fetched with
    | f :: _ => decide ((s.ring 0).state = .run) && epochFenceDesc f.desc
    | [] => false

/-- An earlier position of the ring that holds every later one: FENCE_AFTER, FENCE RING, LAUNCH_AT, a TABLE_LOAD that waits (R185, R249,
R250, R274). A descriptor that carries SEAL also waits for a SEAL_CLOSE to end its session (log entry 20). -/
def State.holdsLater (s : State) (desc : DescBits) (e : Entry) : Bool :=
  let op := descOpcode e.desc
  descFenceAfter e.desc || (op == 0x40 && decide (fld e.desc.toNat 16 0 2 = 0) && decide (e.status = 0#8)) ||
    (decide (e.stage = .running) && (op == 0x41 || (op == 0x42 && (descSeal desc || descOpcode desc == 0x42)) ||
      (op == 0x12 && e.work.any fun h => s.tableHeld e (tableLoadOf e.desc).bank h)))

/-- A wait that holds the ring at its next descriptor before any check. -/
def State.ringHeld (s : State) (n : Nat) (desc : DescBits) : Bool :=
  let r := s.ring n
  (descFenceBefore desc && !r.entries.isEmpty) || r.entries.any (fun e => s.holdsLater desc e) ||
    (isExchangeOp (descOpcode desc) && s.epochHeld)

/-! ### Checks of the bodies -/

/-- Whether an accumulation is open on a tile once every earlier-issued MATMUL has committed (R100). -/
def Hearth.willBeOpen (x : Hearth) (a : Nat) : Bool :=
  let shadow := match x.shadowUse with
    | .draining j => [j]
    | _ => []
  match ((shadow ++ x.grateJobs).filter fun j => j.atile == a).getLast? with
  | some j => !j.ends
  | none => (x.tile a).isOpen

/-- E_TILE_BUSY of R79: a tile that an open group holds is written by a non-member, or read by a Flue descriptor. -/
def State.heldVerdict (s : State) (n : Nat) (u : Uses) (writes : Bool) : Verdict :=
  let held (q : Nat × Nat) : Bool := (s.hearth q.1).held q.2
  (((if writes then u.writes else []) ++ if s.flueRing n then u.reads else []).find? held).map fun q => (stTileBusy, q.2)

/-- E_TILE_BUSY of a Flue descriptor whose slot an unfinished descriptor of another class names (R118, R128). -/
def State.slotVerdict (s : State) (n : Nat) (u : Uses) : Verdict :=
  if s.flueRing n then
    let others := s.issuedAll.filter fun q => !s.flueRing q.1
    match u.stats.find? fun x => others.any fun q => q.2.holds.stats.contains x with
    | some x => some (stTileBusy, 0x100 + x.2)
    | none => (u.topk.find? fun x => others.any fun q => q.2.holds.topk.contains x).map fun x => (stTileBusy, 0x200 + x.2)
  else none

/-- BEGIN, continuation and element counts of a MATMUL's tiles (R58, R79, R100). -/
def State.accumulationVerdict (s : State) (n : Nat) (b : Matmul) (u : Uses) : Verdict :=
  let opened (q : Nat × Nat) : Bool := (s.hearth q.1).willBeOpen q.2
  let closed := !b.begins && !b.group && u.writes.any fun q => !opened q && !(s.hearth q.1).held q.2
  let busy := if b.begins then (u.writes.find? opened).map fun q => (stTileBusy, q.2) else none
  let long := !b.begins && u.writes.any fun q => decide (2 ^ 32 ≤ ((s.hearth q.1).tile q.2).elements + b.k)
  firstVerdict [descVerdict (breach closed 0 [16, 18]), s.heldVerdict n u (!b.group), busy, if long then some (stKlen, 0) else none,
    s.slotVerdict n u]

def State.matmulVerdict (s : State) (n : Nat) (desc : DescBits) (hs : List Nat) (p : Plan) : Verdict :=
  let b := matmulOf desc
  match descVerdict (s.matmulFieldBreaches desc ++ s.matmulDealBreaches n b hs) with
  | some v => some v
  | none => match descVerdict (s.matmulRecordBreaches b hs p.records) with
    | some v => some v
    | none => s.accumulationVerdict n b p.uses

def State.drainVerdict (s : State) (n : Nat) (desc : DescBits) (hs : List Nat) (p : Plan) : Verdict :=
  match descVerdict (s.drainFieldBreaches desc hs) with
  | some v => some v
  | none => match descVerdict (s.drainRecordBreaches (drainOf desc) hs p.records) with
    | some v => some v
    | none => firstVerdict [s.heldVerdict n p.uses true, s.slotVerdict n p.uses]

/-- FENCE, LAUNCH_AT, WAIT and NOP (Tables 12-7 and 13-6, R251, R310). -/
def fenceBreaches (n : Nat) (desc : DescBits) : List Breach :=
  let kind := fld desc.toNat 16 0 2
  bodyReserved desc.toNat [(16, 0, 2)] ++ breach (decide (2 ≤ kind)) 0 [16] ++ breach (decide (kind = 1) && decide (n ≠ 0)) 0 [16]

def State.launchBreaches (s : State) (desc : DescBits) : List Breach :=
  bodyReserved desc.toNat [(16, 0, 1), (24, 0, 64)] ++ breach (flag desc.toNat 16 0 && !s.audit.locked) 0 [16]

/-- SEAL_CLOSE (Table 13-10). -/
def State.sealCloseBreaches (s : State) (desc : DescBits) : List Breach :=
  let sp := fld desc.toNat 16 0 2
  let a := fld desc.toNat 24 0 64
  let absent := decide (sp = 0) || decide (sp = 2) || (decide (sp = 1) && !s.cfg.hasMantel)
  bodyReserved desc.toNat [(16, 0, 2), (24, 0, 64)] ++ breach absent 0 [16] ++ breach (decide (a % 64 ≠ 0)) 0 [24] ++
    breach (!absent && decide (s.spaceSize sp < a + 128)) 0 [24]

/-- MAINT (Table 17-8, R355, R356). -/
def State.maintBreaches (s : State) (desc : DescBits) : List Breach :=
  let d := desc.toNat
  let op := fld d 16 0 3
  let act := fld d 17 0 3
  let t := fld d 18 0 6
  bodyReserved d [(16, 0, 3), (17, 0, 3), (18, 0, 6)] ++ breach (decide (4 ≤ op)) 0 [16] ++
    breach (decide (op = 2 ∨ op = 3) && decide (act ≠ 0)) 0 [16, 17] ++
    if op ≤ 1 then
      breach (decide (act = 0 ∨ act = 7)) 0 [17] ++ breach (decide (s.cfg.hearths ≤ t)) 0 [18] ++
        breach (decide (act = 2 ∨ act = 3 ∨ act = 6) && !s.cfg.hasMantel) 0 [17, 18] ++
        breach (decide (act = 4 ∨ act = 5) && !(s.hearth t).offline) 0 [17, 18]
    else []

/-- HEARTH_SET (Table 15-7, R322). -/
def State.hearthSetBreaches (s : State) (desc : DescBits) : List Breach :=
  let m := fld desc.toNat 24 0 64
  bodyReserved desc.toNat [(16, 0, 2), (24, 0, 64)] ++ breach (decide (2 ≤ fld desc.toNat 16 0 2)) 0 [16] ++
    breach (decide (m = 0) || decide (2 ^ s.cfg.hearths ≤ m)) 0 [24]

/-- The checks of the opcode's chapter (R259 step 4). -/
def State.bodyVerdict (s : State) (n : Nat) (desc : DescBits) (all hs : List Nat) (p : Plan) : Verdict :=
  let held (bs : List Breach) : Verdict := match descVerdict bs with
    | some v => some v
    | none => s.heldVerdict n p.uses true
  match descOpcode desc with
  | 0x01 => s.matmulVerdict n desc hs p
  | 0x02 => s.drainVerdict n desc hs p
  | 0x03 => s.groupVerdict n desc all
  | 0x10 => held (s.chainBreaches desc hs fun h => s.bankNow h)
  | 0x11 => held (s.normBreaches desc hs)
  | 0x12 => s.tableLoadVerdict desc all
  | 0x13 => descVerdict (tableSwapBreaches desc)
  | 0x20 => descVerdict (s.routeBreaches desc)
  | 0x21 => s.xchVerdict n desc
  | 0x22 => s.xchVerdict n desc
  | 0x30 => held (s.moverBreaches desc copyFields copyDstAt (copyOf desc) all hs)
  | 0x31 => held (s.moverBreaches desc fillFields fillDstAt (fillOf desc) all hs)
  | 0x40 => descVerdict (fenceBreaches n desc)
  | 0x41 => descVerdict (s.launchBreaches desc)
  | 0x42 => match descVerdict (s.sealCloseBreaches desc) with
    | some v => some v
    | none => if s.sealRefusal n = 0 then none else some (stSeal, s.sealRefusal n)
  | 0x51 => descVerdict (s.maintBreaches desc)
  | 0x52 => descVerdict (s.hearthSetBreaches desc)
  | _ => descVerdict (bodyReserved desc.toNat [])

/-! ### E_LIMIT and E_VARY (R171, R268) -/

/-- The first limit of Table 13-3 that a Flue descriptor exceeds; 0 for none. -/
def State.flueLimit (s : State) (desc : DescBits) (all hs : List Nat) (p : Plan) : Nat :=
  let epi (m n : Nat) : Nat := p.records.foldl (fun a q => a + epiFootprint true q.2 m n) 0
  let lanes (elements bytes : Nat) : Nat := if 2 ^ 24 < elements then 2 else if 2 ^ 24 < bytes then 3 else 0
  match descOpcode desc with
  | 0x01 => (matmulOf desc).limit p.hs.length (epi (matmulOf desc).m (matmulOf desc).n)
  | 0x02 => (drainOf desc).limit p.hs.length (epi (drainOf desc).m (drainOf desc).n)
  | 0x10 => lanes (chainOf desc).elements (s.chainFootprint (chainOf desc) hs)
  | 0x11 =>
    let b := normOf desc
    lanes (b.rows * b.cols) (b.footprint (deal hs b.rows))
  | 0x30 => lanes 0 ((copyOf desc).footprint ((copyOf desc).deal all hs))
  | 0x31 => lanes 0 ((fillOf desc).footprint ((fillOf desc).deal all hs))
  | _ => 0

def State.lateVerdict (s : State) (n : Nat) (desc : DescBits) (all hs : List Nat) (p : Plan) : Verdict :=
  if s.classOf n = 0#2 then
    let l := s.flueLimit desc all hs p
    if l = 0 then none else some (stLimit, l)
  else if s.classOf n = 1#2 ∧ descOpcode desc = 0x10 ∧ descVaryOk desc = false then
    (chainOf desc).varyStage.map fun k => (stVary, k)
  else none

/-! ### Seal sessions at issue (R279, R343) -/

/-- The descriptor enters its ring's session, which it opens where none is open. -/
def State.enterSession (s : State) (n : Nat) (desc : DescBits) (failed : Bool) : State :=
  let note := (if failed then 1#8 else 0#8) ||| (if descSplit desc = 15 then 8#8 else 0#8) |||
    (if s.audit.recEnable && s.audit.recMode then 16#8 else 0#8)
  s.modRing n fun r =>
    let v := match r.session with
      | some v => v
      | none => s.newSession n
    { r with session := some { v with program := v.program ++ leBytes 128 desc.toNat, sflags := v.sflags ||| note } }

/-- The keyed service of a descriptor carrying SEAL: the state, the refusal's DETAIL, and whether it is sealed. Ring 0 never opens a
session (R329), so a descriptor of it contributes to none. -/
def State.sealAtIssue (s : State) (n : Nat) (desc : DescBits) (failed : Bool) : State × Nat × Bool :=
  if descSeal desc && decide (s.classOf n ≠ 0#2) then
    let r := s.sealRefusal n
    if r = 0 then (if s.classOf n = 3#2 then s else s.enterSession n desc failed, 0, true)
    else (s.modRing n fun r => { r with sessionLost := false }, r, false)
  else (s, 0, false)

/-! ### Issue -/

/-- The position leaves the fetched descriptors and is issued. -/
def State.placeEntry (s : State) (n : Nat) (e : Entry) : State :=
  let s := s.modRing n fun r =>
    { r with fetched := r.fetched.drop 1, issuePos := r.issuePos + 1#32, entries := r.entries ++ [{ e with order := s.blk.issued, issued := s.audit.count }] }
  { s with blk := { s.blk with issued := s.blk.issued + 1 } }

/-- A refused descriptor performs no work. A refused SEAL_CLOSE consumes the loss of its session (R343). -/
def State.issueRefused (s : State) (n : Nat) (f : Fetched) (v : Nat × Nat) : State :=
  let (s, _, _) := s.sealAtIssue n f.desc true
  let s := if v.1 = stSeal then s.modRing n fun r => { r with sessionLost := false } else s
  s.placeEntry n (Entry.refused f.pos f.desc v.1 v.2)

/-- What the issue of a Flue descriptor to a hearth does to the work of other classes there (R267): a live accumulation stops at its next
yield point, and work that stands between two of its pieces or passes yields there. -/
def State.yieldTo (s : State) (h : Nat) : State :=
  let x := s.hearth h
  let live := match x.liveJob with
    | some j => !j.flue && decide (j.kNext ≠ j.kEnd)
    | none => false
  let s := if live then s.setHearth h { x with flueDue := true } else s
  let begun := (s.runningAll.filter fun q => !s.flueRing q.1 && q.2.work.contains h && decide (0 < q.2.pieces h)).map fun q => (q.1, q.2.pos)
  let runs := (x.chains.filter fun r => !s.flueRing r.ring && decide (0 < r.pass)).map fun r => (r.ring, r.pos)
  (begun ++ runs).foldl (fun s q => s.raise q.1 q.2 fPreempted) s

/-- An accepted descriptor: its hearths wake (R309), it keeps the mask, the admitted hearths, its records and the banks of this moment. -/
def State.issueAccepted (s : State) (n : Nat) (f : Fetched) (mask admitted : W64) (p : Plan) : State :=
  let banks := if p.bank then s.banksNow p.hs else 0#64
  let (s, refusal, sealed) := s.sealAtIssue n f.desc false
  let s := s.placeEntry n { Entry.start f.pos f.desc with
    mask := mask, admitted := admitted, records := p.records, uses := p.uses, holds := p.uses, work := p.hs, banks := banks,
    sealRefusal := BitVec.ofNat 16 refusal, sealed := sealed }
  let s := s.wakeMask (BitVec.ofNat 64 (maskOf p.hs))
  let s := if s.flueRing n then p.hs.foldl (fun s h => s.yieldTo h) s else s
  let (s, bad) := s.meet n f.pos p.recordAt
  if bad then s.finish n f.pos else s

/-- The issue of a ring's next descriptor; none while it waits. -/
def State.issueOf (s : State) (n : Nat) (f : Fetched) : Option State :=
  if s.ringHeld n f.desc then none
  else match s.headerVerdict n f.desc with
    | some v => some (s.issueRefused n f v)
    | none =>
      let acts : Bool := match opcodeInfo (descOpcode f.desc) with
        | some info => info.2
        | none => false
      let mask := if acts then s.effectiveMask n f.desc else 0#64
      if acts && decide (mask = 0#64) then some (s.issueRefused n f (stHearth, descMask f.desc))
      else
        let all := s.hearthsOf mask
        let admitted := s.admitted mask
        let hs := if descSplit f.desc = 15 then s.hearthsOf admitted else all
        let p := s.plan f.desc all hs
        if s.checkWaits n f.desc p then none
        else match firstVerdict [s.bodyVerdict n f.desc all hs p, s.lateVerdict n f.desc all hs p] with
          | some v => some (s.issueRefused n f v)
          | none => if s.tileWaits n f.desc p.uses then none else some (s.issueAccepted n f mask admitted p)

/-- The issue of a ring, when it runs and holds a fetched descriptor at its next position. -/
def State.issueRing (s : State) (n : Nat) : Option State :=
  let r := s.ring n
  match r.fetched with
  | [] => none
  | f :: _ => if r.state = .run ∧ f.pos = r.issuePos then s.issueOf n f else none

/-- DESCRIPTOR_ISSUE: one descriptor, of the ring that the priority of R252 serves. -/
def State.issue (s : State) : State :=
  if s.issuing then
    match s.serve s.blk.decodeNextFlue s.blk.decodeNext fun n => (s.issueRing n).isSome with
    | none => s
    | some n =>
      match s.issueRing n with
      | none => s
      | some s' =>
        if s.classOf n = 0#2 then { s' with blk := { s'.blk with decodeNextFlue := (n + 1) % 128 } }
        else if n = 0 then s'
        else { s' with blk := { s'.blk with decodeNext := (n + 1) % 128 } }
  else s

def execDescriptorIssue (s : State) : Result := .next s.issue

/-- DESCRIPTOR_FETCH. -/
def execDescriptorFetch (s : State) : Result := .next s.fetch

end Sys2Proof.Machine
end

