-- ==== Sys2Proof/Machine/Finish.lean ====
section
/-! DEFINITION. The opcodes of the fast path (FENCE, LAUNCH_AT, NOP), SEAL_CLOSE, and the end of every descriptor: what a failed one leaves
(R76, R119, R258) and its completion record (R255 to R257). -/

namespace Sys2Proof.Machine

/-! ### FENCE, LAUNCH_AT, NOP (R250, R251, R274) -/

/-- FENCE_RING completes once every earlier position of its ring has its record. -/
def execFenceRing (ring : BitVec 7) (pos : W32) (s : State) : Result :=
  let n := ring.toNat
  match s.running n pos 0x40 with
  | some e => .next (if fld e.desc.toNat 16 0 2 = 0 ∧ s.behind n e = false then s.finish n pos else s)
  | none => .next s

/-- FENCE_EPOCH: the hold of exchange descriptors, which began with the fence's issue, stands, and firmware takes up the installation
(EPOCH_INSTALL). -/
def execFenceEpoch (ring : BitVec 7) (pos : W32) (s : State) : Result :=
  let n := ring.toNat
  match s.running n pos 0x40 with
  | some e =>
    if n = 0 ∧ fld e.desc.toNat 16 0 2 = 1 then
      .next (s.modEntry n pos fun e => { e with started := true })
    else .next s
  | none => .next s

def launchValue (desc : DescBits) : W64 := BitVec.ofNat 64 (fld desc.toNat 24 0 64)

/-- The count that BASE chooses: the block's own, or the leader's. -/
def State.launchCount (s : State) (desc : DescBits) : W64 :=
  if flag desc.toNat 16 0 then s.audit.count + s.audit.skew else s.audit.count

/-- LAUNCH_AT completes at once when VALUE has passed; otherwise it holds its ring. -/
def execLaunchAt (ring : BitVec 7) (pos : W32) (s : State) : Result :=
  let n := ring.toNat
  match s.running n pos 0x41 with
  | some e =>
    if (launchValue e.desc).toNat ≤ (s.launchCount e.desc).toNat then .next (s.finish n pos)
    else .next (s.modEntry n pos fun e => { e with started := true })
  | none => .next s

/-- LAUNCH_AT_EXPIRE: the chosen count has reached VALUE. -/
def execLaunchAtExpire (ring : BitVec 7) (s : State) : Result :=
  let n := ring.toNat
  match (s.ring n).entries.find? fun e => descOpcode e.desc == 0x41 && decide (e.stage = .running) && e.started with
  | some e => .next (if (launchValue e.desc).toNat ≤ (s.launchCount e.desc).toNat ∧ s.err.stopped = false then s.finish n e.pos else s)
  | none => .next s

def execNop (ring : BitVec 7) (pos : W32) (s : State) : Result :=
  match s.running ring.toNat pos 0x60 with
  | some _ => .next (s.finish ring.toNat pos)
  | none => .next s

/-! ### SEAL_CLOSE (R281) -/

/-- The seal record is written, to the Mantel or through M2. -/
def State.writeSealRecord (s : State) (n : Nat) (pos : W32) (space a : Nat) (bytes : List W8) : State :=
  let s := s.noteOutput n pos { space := space, hearth := 0, lo := a, len := bytes.length }
  if space = 1 then s.poke 1 0 a bytes false
  else
    (granules a bytes.length).foldl (fun s g =>
      s.send 2 (Request.mk' true g.1 g.2 ((bytes.drop (g.1 - a)).take g.2) (s.classOf n) n pos .output)) s

/-- SEAL_CLOSE: after the earlier positions, the record of the session, or of an empty one, is written, and the session ends. Keys erased
in the meantime refuse it (R343). -/
def State.sealClose (s : State) (n : Nat) (e : Entry) : State :=
  let pos := e.pos
  if s.behind n e then s
  else if s.sealRefusal n ≠ 0 then
    (s.modRing n fun r => { r with sessionLost := false }).finishWith n pos stSeal (s.sealRefusal n)
  else
    let v := match (s.ring n).session with
      | some v => v
      | none => s.newSession n
    let space := fld e.desc.toNat 16 0 2
    let r : Range := { space := space, hearth := 0, lo := fld e.desc.toNat 24 0 64, len := 128 }
    if s.stalls r then s
    else
      let bytes := s.sealRecord n v
      let s := s.modRing n fun r => { r with session := none }
      let s := s.modEntry n pos fun e => { e with sealed := true }
      (s.writeSealRecord n pos space r.lo bytes).finish n pos

def execSealClose (ring : BitVec 7) (pos : W32) (s : State) : Result :=
  match s.running ring.toNat pos 0x42 with
  | some e => .next (s.sealClose ring.toNat e)
  | none => .next s

/-! ### What a failed descriptor leaves -/

/-- A status after which outputs are undefined (R258): neither OK nor E_SEAL (R343). -/
def Entry.failed (e : Entry) : Bool := e.status != 0#8 && e.status != BitVec.ofNat 8 stSeal

/-- A tile of a failed MATMUL on a hearth where it acted: undefined values, which a tile not yet live holds too; an accumulation outside a
group is ended, a group stays open and touched (R76). On a hearth where it did not act, the dealing is undone. -/
def State.leaveTile (s : State) (e : Entry) (h a : Nat) : State :=
  let b := matmulOf e.desc
  if e.acted.getLsbD h then
    let s := s.spoil (tileRange h a)
    if b.group then s.modHearth h fun x => (x.touch b).setTile a { x.tile a with state := .parked, fresh := false }
    else s.modTile h a TileInfo.closed
  else s.modTile h a fun t => if b.begins then t.closed else { t with elements := t.elements - b.k }

/-- The slots that a failed descriptor named return to their initial state on the hearths where it acted (R119), with nothing marked. -/
def State.leaveSlots (s : State) (e : Entry) : State :=
  let own (q : Nat × Nat) : Bool := e.acted.getLsbD q.1
  let keys (base : Nat) : List Nat := (List.range 128).map fun i => base + i
  let s := (e.uses.stats.filter own).foldl (fun s q =>
    s.modHearth q.1 fun x => { x.markSlots (keys (128 * q.2)) false with stats := Tab.keep x.stats fun i => i / 128 != q.2 }) s
  (e.uses.topk.filter own).foldl (fun s q =>
    s.modHearth q.1 fun x => { x.markSlots (keys (4096 + 128 * q.2)) false with
      topk := Tab.keep x.topk fun i => i / 128 != q.2, topkK := Tab.drop x.topkK q.2 }) s

/-- The bound records of the groups of a failed member hold undefined values (R76). -/
def State.leaveRecords (s : State) (e : Entry) : State :=
  let b := matmulOf e.desc
  (e.uses.groups.filter fun q => e.acted.getLsbD q.1).foldl (fun s q =>
    let g := (s.hearth q.1).group b.gid
    match g.bound with
    | some a => if g.isOpen then
        s.spoil { space := 1, hearth := 0, lo := a.toNat, len := spillBytes (groupTiles g.tiles).length } else s
    | none => s) s

/-- What a failed descriptor leaves when its record is written: undefined outputs, tiles and slots. -/
def State.abandon (s : State) (e : Entry) : State :=
  if e.failed then
    let s := e.outs.foldl (fun s r => s.spoil r) s
    let s := if descOpcode e.desc = 0x01 ∧ e.started then
        (e.uses.writes.foldl (fun s q => s.leaveTile e q.1 q.2) s).leaveRecords e else s
    s.leaveSlots e
  else s

/-- End marks of a completed position leave the ordering buffers (R299). -/
def State.dropMarks (s : State) (n : Nat) (pos : W32) : State :=
  { s with ports := Tab.remap Port.reset s.ports fun p =>
      { p with marks := p.marks.filter fun m => !(m.1 == n && m.2.1 == pos) } }

/-- COMPLETION_RECORD_WRITE: once every unit has stopped and every write is acknowledged. -/
def execCompletionRecordWrite (ring : BitVec 7) (pos : W32) (s : State) : Result :=
  let n := ring.toNat
  match s.entry n pos with
  | none => .next s
  | some e =>
    if e.stage = .finished ∧ s.outstanding n pos = false ∧ s.err.stopped = false then
      .next ((((s.abandon e).dropMarks n pos).releaseAtRecord e).completionRecord n pos)
    else .next s

end Sys2Proof.Machine
end

