-- ==== Sys2Proof/Machine/Audit.lean ====
section
/-! DEFINITION. The common count and its synchronisation (R272 to R275, R374), and the input recorder with its replay (R276 to R278, R283). -/

namespace Sys2Proof.Machine

/-! ### COUNT (R272) -/

/-- Whether a count that advances by `d` crosses a multiple of `m`. -/
def crosses (m x d : Nat) : Bool := decide (x / m ≠ (x + d) / m)

/-- COUNT and POWERED_TIME advance by `d`. COUNT takes 1 ns of the slew at most once in 2,048 ns of powered time (R272; log entry 21).
SYNC_OUT falls 64 ns after its edge (R374). -/
def Audit.tick (a : Audit) (d : Nat) : Audit :=
  let step : Int := if crosses 2048 a.powered.toNat d then (if 0 < a.slew then 1 else if a.slew < 0 then -1 else 0) else 0
  let c := a.count + BitVec.ofNat 64 d + BitVec.ofInt 64 step
  { a with
    count := c, powered := a.powered + BitVec.ofNat 64 d, slew := a.slew - step,
    syncOut := a.syncOut && decide (c.toNat % 2 ^ 20 < 64) }

/-- A soft error strikes (Table 17-1; log entry 146): an error that the code still corrects, or one that it detects and that marks its word,
line or entry. A place that the configuration lacks, or a hearth without power, holds nothing to strike. -/
def State.strike (s : State) (u : Upset) : State :=
  let h := u.hearth.toNat
  let k := u.unit
  let add (b : Bool) (m : List Nat) : List Nat := if b then Marks.insert k m else m
  let soft := !u.double
  let on (f : Hearth → Hearth) : State := if h < s.cfg.hearths ∧ (s.hearth h).power ≠ .shut then s.modHearth h f else s
  let slots (k : Nat) : State := on fun x => { x with
    slotPoison := if u.double then Marks.insert k x.slotPoison else x.slotPoison,
    slotBad := if u.double then Marks.insert k x.slotBad else x.slotBad,
    slotSoft := if u.double then x.slotSoft else Marks.insert k x.slotSoft }
  match u.place with
  | .store => if 8 * k < s.spaceSize 0 then on fun x => { x with
      storePoison := add u.double x.storePoison, storeBad := add u.double x.storeBad, storeSoft := add soft x.storeSoft } else s
  | .acc => if 8 * k < s.spaceSize 2 then on fun x => { x with
      accPoison := add u.double x.accPoison, accBad := add u.double x.accBad, accSoft := add soft x.accSoft } else s
  | .mantel => if 64 * k < s.spaceSize 1 then { s with
      mantelPoison := add u.double s.mantelPoison, mantelBad := add u.double s.mantelBad, mantelSoft := add soft s.mantelSoft } else s
  | .stats => if k < 2048 then slots k else s
  | .topk => if k < 2048 then slots (4096 + k) else s
  | .live => on fun x => { x with liveBad := x.liveBad || x.liveJob.isSome }
  | .shadow => on fun x => { x with shadowBad := x.shadowBad || decide (x.shadowUse ≠ .free) }

/-- COUNT_TICK: 10 at a period of REF_CLK, 40 at a period of EMBER_CLK in sleep; nothing counts in Off. The soft errors of that time, a free
value, strike (log entry 146). -/
def execCountTick (s : State) : Result :=
  let tick (d : Nat) : Result :=
    let t := (Config.softErrors s.draws).foldl (fun s u => s.strike u) s
    .next { t with audit := s.audit.tick d, draws := s.draws + 1 }
  match s.pwr.block with
  | .off => .next s
  | .doze => tick 40
  | .hibernate => tick 40
  | .run => tick 10
  | .entering => tick 10
  | .waking => tick 10

/-! ### SYNC (R273, R374) -/

/-- The nearest multiple of 64; a tie goes up (log entry 22). -/
def roundTo64 (x : Int) : Int := (x + 32) / 64 * 64

/-- A follower's measurement at a pulse whose boundary is the leader's count `leader`, `ns` after the last step of COUNT (R374). The first
pulse only sets SYNC_SKEW; a later one slews COUNT and counts toward LOCKED. -/
def State.measure (s : State) (leader : W64) (ns : Nat) : State :=
  let a := s.audit
  let diff := (leader - (a.count + BitVec.ofNat 64 ns - a.delay.setWidth 64)).toInt
  let skew := if a.skewUnset then roundTo64 diff else a.skew.toInt
  let res := diff - skew
  let good := if a.skewUnset then 0 else if -16 ≤ res ∧ res ≤ 16 then a.goodPulses + 1 else 0
  let s := { s with audit := { a with
    skew := BitVec.ofInt 64 skew, skewUnset := false, residual := BitVec.ofInt 32 res, slew := if a.skewUnset then 0 else res,
    goodPulses := good, locked := a.locked || decide (4 ≤ good) } }
  if res < -256 ∨ 256 < res then s.loseLock else s

/-- A pulse of SYNC_IN is counted, recorded, and measured by a follower. -/
def State.livePulse (s : State) (leader : W64) (ns : Nat) : State :=
  let s := { s with audit := { s.audit with pulses := s.audit.pulses + 1#64 } }
  let s := s.recordInput 5 0 s.audit.pulses (leBytes 8 s.audit.pulses.toNat)
  if s.audit.role = 2#2 then s.measure leader ns else s

/-- SYNC_PULSE. -/
def execSyncPulse (pulse : SyncPulse) (s : State) : Result :=
  if s.pwr.block = .off then .next s
  else .next (if s.audit.holdsInput 5 then s.holdInput (.syncPulse pulse) else s.livePulse pulse.leader pulse.ns.toNat)

/-- SYNC_PULSE_MISSED. -/
def execSyncPulseMissed (s : State) : Result := .next (if s.pwr.block = .off then s else s.loseLock)

/-- SYNC_OUT_PULSE: a leader whose COUNT has just crossed a multiple of 2^20 drives SYNC_OUT high. -/
def execSyncOutPulse (s : State) : Result :=
  .next (if s.audit.role = 1#2 ∧ s.audit.count.toNat % 2 ^ 20 < 64 ∧ s.pwr.block ≠ .off then
    { s with audit := { s.audit with syncOut := true } } else s)

/-! ### Recorder (R277, R283) -/

/-- Doorbells, rows and messages that were withheld are taken. -/
def State.takeWaiting (s : State) : State := (State.takeRows s.audit.withheldRows.length s.takeHeld).regrant

/-- RECORDER_GAP: space has returned; the gap record goes first, and then what was withheld. -/
def execRecorderGap (s : State) : Result :=
  .next (if s.issuing && s.audit.recEnable && !s.audit.recMode && !s.audit.recFull then s.putGap.takeWaiting else s)

/-- ENABLE of REC_CTL: refused, or recording or replay starts; REC_TAIL takes REC_HEAD (R278, R283; log entry 23). The recorder's key is
that of entry 0 of the session table (R329). -/
def State.enableRecorder (s : State) : State :=
  let a := s.audit
  let l := a.recLog2.toNat
  let base := a.recBase.toNat
  if l < 10 ∨ 24 < l ∨ base % 4096 ≠ 0 ∨ 2 ^ 52 < base + 32 * 2 ^ l then
    { s with audit := { a with recEnable := false, recRefused := true } }
  else
    let k := s.vault.keyRef
    let key := if s.keyRefusal k = 0 then some (s.vault.polyKey k 0 (Tab.at 0#64 a.nonces 0)) else none
    { s with audit := { a with
      recEnable := true, recRefused := false, recTail := a.recHead, recIndex := 0#32, recGap := 0#64, recKey := key,
      replayWaiting := [], replayLive := false } }

/-! ### Replay (R278) -/

/-- The record at REC_TAIL (Table 13-7). -/
def State.replayRecord (s : State) : Nat :=
  let a := s.audit
  leNat (s.host.read (a.recBase.toNat + 32 * (a.recTail.toNat % 2 ^ a.recLog2.toNat)) 32)

/-- What tells the packets of one row or message from those of another. -/
def packetKey (p : Packet) : List Nat :=
  [p.type.toNat, bitNat p.combine, bitNat p.reverse, p.srcChip.toNat, p.xid.toNat, p.epoch.toNat, p.expert.toNat, p.tokenSlot.toNat,
    p.offset.toNat]

/-- Whether the inputs that replay holds end with DATA and DIGEST of a record. -/
def State.matchesRecord (s : State) (r : Nat) (data : W64) (bytes : List W8) : Bool :=
  decide (fld r 16 0 64 = data.toNat) && decide (fld r 24 0 64 = (s.audit.digest bytes).toNat)

/-- A held packet that a row record names: the LAST packet of the row or message. -/
def State.packetMatches (s : State) (r : Nat) (c : Instr) : Bool :=
  match packetOf c with
  | some (port, p) => p.last && decide (fld r 1 0 8 = port) && s.matchesRecord r (packetData p) (packetBytes p)
  | none => false

/-- REC_TAIL passes a record, and inputs leave the hold. -/
def State.replayed (s : State) (waiting : List Instr) : State :=
  { s with audit := { s.audit with recTail := s.audit.recTail + 1#32, replayWaiting := waiting } }

/-- The packets of a row are acted on: those of the same row that arrived before its LAST one, and then it. -/
def State.replayPacket (s : State) (c : Instr) : State :=
  match packetOf c with
  | none => s
  | some (port, p) =>
    let same (d : Instr) : Bool := match packetOf d with
      | some (q, v) => q == port && packetKey v == packetKey p
      | none => false
    let w := s.audit.replayWaiting
    let mine := (w.takeWhile (· != c)).filter same ++ [c]
    mine.foldl (fun s d => match packetOf d with
      | some (q, v) => s.livePacket q v
      | none => s) (s.replayed (w.filter fun d => !mine.contains d))

/-- A held grant that a record names is acted on. -/
def State.replayGrant (s : State) (r : Nat) : State :=
  let hit (c : Instr) : Bool := match c with
    | .poolGrant tag pool index base =>
      decide (fld r 1 0 8 = pool.toNat) &&
        s.matchesRecord r (BitVec.ofNat 64 (pool.toNat + 256 * index.toNat + place 4 0 (base.toNat % 2 ^ 32)))
          (leBytes 1 tag.toNat ++ leBytes 1 pool.toNat ++ leBytes 3 index.toNat ++ leBytes 7 base.toNat)
    | _ => false
  match s.audit.replayWaiting.find? hit with
  | some c =>
    let s := s.replayed (s.audit.replayWaiting.erase c)
    (match c with
      | .poolGrant tag pool index base => s.grantBuffer tag pool index base
      | _ => s)
  | none => s

/-- The warnings with one pool's level replaced. -/
def warnWith (w : W8) (p level : Nat) : W8 :=
  BitVec.ofNat 8 (w.toNat - ((w.toNat >>> (2 * p)) % 4) * 4 ^ p + level * 4 ^ p)

/-- The part of a held warning change that a record names is acted on; the change leaves the hold with its last part. -/
def State.replayWarn (s : State) (r : Nat) : State :=
  let p := fld r 1 0 8
  let hit (c : Instr) : Bool := match c with
    | .poolWarnChange warn =>
      let level := (warn.toNat >>> (2 * p)) % 4
      decide (p < 4) && s.matchesRecord r (BitVec.ofNat 64 (p + 256 * level)) (leBytes 1 p ++ leBytes 1 level)
    | _ => false
  match s.audit.replayWaiting.find? hit with
  | some c =>
    match c with
    | .poolWarnChange warn =>
      let now := warnWith s.xch.warn p ((warn.toNat >>> (2 * p)) % 4)
      (s.replayed (if now = warn then s.audit.replayWaiting.erase c else s.audit.replayWaiting)).setWarn now
    | _ => s
  | none => s

/-- A held pulse that a record names is acted on. -/
def State.replayPulse (s : State) (r : Nat) : State :=
  let n := s.audit.pulses + 1#64
  let hit (c : Instr) : Bool := match c with
    | .syncPulse _ => s.matchesRecord r n (leBytes 8 n.toNat)
    | _ => false
  match s.audit.replayWaiting.find? hit with
  | some c =>
    let s := s.replayed (s.audit.replayWaiting.erase c)
    (match c with
      | .syncPulse pulse => s.livePulse pulse.leader pulse.ns.toNat
      | _ => s)
  | none => s

/-- REPLAY_STEP: the record at REC_TAIL is replayed, when its input stands ready. -/
def State.replayStep (s : State) : State :=
  if s.issuing && s.audit.replaying && decide (s.audit.recTail ≠ s.audit.recLimit) then
    let r := s.replayRecord
    match fld r 0 0 8 with
    | 1 => (s.replayed s.audit.replayWaiting).takeDoorbell (fld r 1 0 8 % 128) (BitVec.ofNat 32 (fld r 16 0 32))
    | 2 => match s.audit.replayWaiting.find? fun c => s.packetMatches r c with
      | some c => (s.replayPacket c).regrant
      | none => s
    | 3 => s.replayGrant r
    | 4 => s.replayWarn r
    | 5 => s.replayPulse r
    | 6 => s.replayed s.audit.replayWaiting
    | _ => s
  else s

def execReplayStep (s : State) : Result := .next s.replayStep

/-- A held input is taken live. -/
def State.takeInput (s : State) (c : Instr) : State :=
  match c with
  | .poolGrant tag pool index base => s.liveGrant tag pool index base
  | .poolWarnChange warn => s.liveWarn warn
  | .syncPulse pulse => s.livePulse pulse.leader pulse.ns.toNat
  | _ => match packetOf c with
    | some (port, p) => s.livePacket port p
    | none => s

/-- REPLAY_DIVERGE: an input is missing for XCH_TIMEOUT, or one arrived that no record names; the block goes on live. -/
def State.diverge (s : State) : State :=
  let a := s.audit
  let missing := decide (a.recTail ≠ a.recLimit) && decide (s.xch.timeout ≠ 0#32)
  if s.issuing && a.replaying && (missing || !a.replayWaiting.isEmpty) then
    let s' := { s with audit := { a with
      diverged := true, divergeCount := satInc a.divergeCount, divergeAt := BitVec.ofNat 32 (fld s.replayRecord 4 0 32),
      replayLive := true, replayWaiting := [] } }
    (a.replayWaiting.foldl (fun s c => s.takeInput c) s').regrant
  else s

def execReplayDiverge (s : State) : Result := .next s.diverge

end Sys2Proof.Machine
end

