-- ==== Sys2Proof/Machine/Sash.lean ====
section
/-! DEFINITION. The Sash port and the register map (R15 to R18, chapter 19): every register's read and write, which accesses Ember answers
in sleep (R307) and in a reset (R334), and the commands that are writes of one register. -/

namespace Sys2Proof.Machine

/-! ### Arrays of registers -/

/-- The number of the register at offset `o` in an array of `n` registers, `step` bytes apart from `base`. -/
def slotOf (o base step n : Nat) : Option Nat :=
  if base ≤ o ∧ (o - base) % step = 0 ∧ (o - base) / step < n then some ((o - base) / step) else none

/-- The register of an array at an offset, or another value. -/
def arrayReg (o base step n : Nat) (f : Nat → Nat) (other : Nat) : Nat := match slotOf o base step n with
  | some i => f i
  | none => other

/-- A write to a register of an array, or another effect. -/
def arrayWrite (o base step n : Nat) (f : Nat → State) (other : State) : State := match slotOf o base step n with
  | some i => f i
  | none => other

/-- The hearth bits of a mask register: bits of hearths that the configuration lacks read zero (R244). -/
def State.hearthBits (s : State) (m : Nat) : Nat := m % 2 ^ s.cfg.hearths

/-! ### Block control (Table 19-7) -/

def State.readBlock (s : State) (o : Nat) : Nat :=
  let b := s.blk
  if o = 0x1000 then b.blkEvent.toNat
  else if o = 0x1010 then b.irqEn.toNat + place 0 32 b.evtVec.toNat + place 0 48 b.dropped.toNat
  else if o = 0x1018 then b.dbStray.toNat + place 0 32 b.dbBack.toNat
  else if o = 0x1020 then b.patchAddr.toNat
  else if o = 0x1028 then b.patchLen.toNat
  else if o = 0x1030 then (regPatchState b).toNat
  else if o = 0x1400 then b.irqMask.toNat + place 0 16 b.irqPend.toNat
  else arrayReg o 0x1100 8 9 (fun i => (Tab.at 0#32 b.eventCount i).toNat) <|
    arrayReg o 0x1200 8 16 (fun m => s.hearthBits (Tab.at 0#64 b.hmask m).toNat) <|
    arrayReg o 0x1300 16 16 (fun v => (Tab.at 0#64 b.irqAddr v).toNat) <|
    arrayReg o 0x1308 16 16 (fun v => (Tab.at 0#64 b.irqData v).toNat) <|
    arrayReg o 0x1800 8 s.portCount (fun p =>
      let x := s.port p
      x.rdCredits.toNat + place 0 16 x.wrCredits.toNat + place 0 32 (flueReserve x.rdCredits.toNat) +
        place 0 48 (flueReserve x.wrCredits.toNat)) 0

/-- GO of PATCH_CTL (R254): the image is read, or the write is ignored with REASON 5. -/
def State.patchGo (s : State) : State :=
  let b := s.blk
  if b.patchState = 0#3 ∨ b.patchState = 3#3 then
    { s with blk := { b with
      patchState := 1#3, patchReason := 0#4, patchImage := s.host.read b.patchAddr.toNat (64 * min 4096 b.patchLen.toNat) } }
  else { s with blk := { b with patchReason := 5#4 } }

/-- A write of IRQ_CTL.MASK: a vector that it unmasks with PEND set sends one message (R261). -/
def State.writeIrqMask (s : State) (mask : W16) : State :=
  let due := s.blk.irqPend &&& ~~~mask
  let s := { s with blk := { s.blk with irqMask := mask, irqPend := s.blk.irqPend &&& mask } }
  (bitsBelow 16 due.toNat).foldl (fun s v => s.message v 3#2) s

def State.writeBlock (s : State) (o d : Nat) : State :=
  let b := s.blk
  if o = 0x1000 then { s with blk := { b with blkEvent := b.blkEvent &&& ~~~(BitVec.ofNat 9 d) } }
  else if o = 0x1010 then
    { s with blk := { b with irqEn := BitVec.ofNat 32 d, evtVec := BitVec.ofNat 4 (fld d 0 32 4) } }
  else if o = 0x1020 then { s with blk := { b with patchAddr := BitVec.ofNat 64 (d / 4096 * 4096) } }
  else if o = 0x1028 then
    let s := { s with blk := { b with patchLen := BitVec.ofNat 13 d } }
    if flag d 0 63 then s.patchGo else s
  else if o = 0x1400 then s.writeIrqMask (BitVec.ofNat 16 d)
  else arrayWrite o 0x1200 8 16 (fun m =>
      { s with blk := { b with hmask := Tab.put 0#64 b.hmask m (BitVec.ofNat 64 (s.hearthBits d)) } }) <|
    arrayWrite o 0x1300 16 16 (fun v =>
      { s with blk := { b with irqAddr := Tab.put 0#64 b.irqAddr v (BitVec.ofNat 64 (d / 8 * 8)) } }) <|
    arrayWrite o 0x1308 16 16 (fun v => { s with blk := { b with irqData := Tab.put 0#64 b.irqData v (BitVec.ofNat 64 d) } }) s

/-! ### Power and Damper (Table 19-8) -/

/-- PWR_STATE.BLOCK; nothing reads it in Off. -/
def BlockState.code : BlockState → Nat
  | .run => 0
  | .entering => 1
  | .doze => 2
  | .hibernate => 3
  | .waking => 4
  | .off => 0

def regPwrState (p : Power) : Nat := p.block.code + place 0 8 p.lastWake.toNat + place 0 16 p.wakeCount.toNat
def regLastRefuser (p : Power) : Nat := p.refuserCode.toNat + place 0 8 p.refuserDetail.toNat + place 0 24 p.refuserOpcode.toNat

def State.readPower (s : State) (o : Nat) : Nat :=
  let p := s.pwr
  if o = 0x2000 then p.mode.toNat + place 0 2 (bitNat p.dozeHearth)
  else if o = 0x2008 then regPwrState p
  else if o = 0x2010 then bitNat p.dbWake + place 0 1 (bitNat p.wakeHearths)
  else if o = 0x2018 then regLastRefuser p
  else if o = 0x2020 then
    if s.cfg.hearths < 48 then p.isoStoves.toNat + place 0 8 (bitNat p.isoPool) else 0
  else arrayReg o 0x2108 8 8 (fun a => (Tab.at 0#32 p.refuseCount (a + 1)).toNat) <|
    arrayReg o 0x2200 8 s.cfg.stoves (fun v =>
      let x := s.stove v
      x.target.toNat + place 0 4 x.current.toNat + place 0 7 (bitNat (decide (x.sequence ≠ .idle))) +
        place 0 8 (bitNat x.fail) + place 0 16 x.failCount.toNat) <|
    arrayReg o 0x2240 8 s.cfg.stoves (fun v =>
      let x := s.stove v
      x.code.toNat + place 0 8 (bitNat x.vok) + place 0 16 x.refused.toNat) <|
    arrayReg o 0x2280 8 s.cfg.stoves (fun v =>
      let x := s.stove v
      x.cap.toNat + place 0 16 x.admits + place 0 32 x.throttleCount.toNat) 0

/-- ISO_RELEASE (R316): in IVR-16 and IVR-32, the outputs of a port are released while its domain is up, whatever state of Ember's the block is
in; AWAKE rises as soon as the block takes traffic, and waiting requests leave. The pool port is the core's (Table 18-13). -/
def State.isoRelease (s : State) (d : Nat) : State :=
  if s.cfg.hearths < 48 ∧ s.pwr.block ≠ .off ∧ s.pwr.block ≠ .hibernate then
    let stoves := (bitsBelow 8 d).filter fun v => decide (v < s.cfg.stoves) && s.domainUp (stoveDomain v)
    let s := { s with pwr := { s.pwr with
      isoStoves := s.pwr.isoStoves ||| BitVec.ofNat 8 (maskOf stoves),
      isoPool := s.pwr.isoPool || (flag d 0 8 && s.domainUp 0) } }
    ((stoves.flatMap fun v => [3 * v, 3 * v + 1, 3 * v + 2]).foldl (fun s p => s.pump p) s).pumpRequests.regrant
  else s

/-- A write of PSTATE_s: FAIL clears on a 1; TARGET as R317. -/
def State.writePstate (s : State) (v d : Nat) : State :=
  let s := if flag d 0 8 then s.setStove v { s.stove v with fail := false } else s
  s.writeTarget v (BitVec.ofNat 3 d)

def State.writePower (s : State) (o d : Nat) : State :=
  let p := s.pwr
  if o = 0x2000 then
    { s with pwr := { p with mode := if d % 4 = 3 then p.mode else BitVec.ofNat 2 d, dozeHearth := flag d 0 2 } }
  else if o = 0x2010 then { s with pwr := { p with dbWake := flag d 0 0, wakeHearths := flag d 0 1 } }
  else if o = 0x2020 then s.isoRelease d
  else arrayWrite o 0x2200 8 s.cfg.stoves (fun v => s.writePstate v d) <|
    arrayWrite o 0x2240 8 s.cfg.stoves (fun v => s.writeCode v (BitVec.ofNat 8 d)) <|
    arrayWrite o 0x2280 8 s.cfg.stoves (fun v => s.setStove v { s.stove v with cap := BitVec.ofNat 10 d }) s

/-! ### Determinism and audit (Table 19-9) -/

def regSyncStatus (a : Audit) : Nat :=
  bitNat a.locked + place 0 1 (bitNat a.lockLost) + place 0 16 a.lostCount.toNat + place 0 32 a.residual.toNat

def State.readAudit (s : State) (o : Nat) : Nat :=
  let a := s.audit
  if o = 0x4000 then a.count.toNat
  else if o = 0x4008 then a.powered.toNat
  else if o = 0x4010 then a.role.toNat + place 0 8 a.delay.toNat
  else if o = 0x4018 then regSyncStatus a
  else if o = 0x4020 then a.skew.toNat
  else if o = 0x4040 then a.recBase.toNat
  else if o = 0x4048 then
    bitNat a.recEnable + place 0 1 (bitNat a.recMode) + place 0 2 (bitNat a.recHold) + place 0 3 a.recLog2.toNat +
      place 0 8 a.recKinds.toNat + place 0 13 (bitNat a.recRefused)
  else if o = 0x4050 then a.recHead.toNat
  else if o = 0x4058 then a.recTail.toNat
  else if o = 0x4060 then bitNat a.diverged + place 0 16 a.divergeCount.toNat + place 0 32 a.recLost.toNat
  else if o = 0x4068 then a.divergeAt.toNat
  else if o = 0x4070 then a.recLimit.toNat
  else arrayReg o 0x4200 16 8 (fun w => (Tab.at (0#64, 0#64) a.windows w).1.toNat) <|
    arrayReg o 0x4208 16 8 (fun w => (Tab.at (0#64, 0#64) a.windows w).2.toNat) <|
    arrayReg o 0x4400 8 128 (fun n => (Tab.at 0#64 a.nonces n).toNat) 0

/-- A write of SYNC_CTL: a change of ROLE starts the measurement anew, a leader keeps SKEW at zero (R273; log entry 24), and any other role holds
SYNC_OUT low (R374). -/
def Audit.writeSync (a : Audit) (d : Nat) : Audit :=
  let role := BitVec.ofNat 2 d
  let a := { a with delay := BitVec.ofNat 16 (fld d 1 0 16) }
  if role = a.role then a
  else
    { a with
      role := role, locked := false, goodPulses := 0, skewUnset := true, slew := 0, syncOut := a.syncOut && decide (role = 1#2),
      skew := if role = 1#2 then 0#64 else a.skew }

/-- ENABLE = 0 of REC_CTL: what replay holds is taken live, and so is what the recorder withheld. -/
def State.disableRecorder (s : State) : State :=
  let held := s.audit.replayWaiting
  (held.foldl (fun (s : State) c => s.takeInput c) { s with audit := { s.audit with recEnable := false, replayWaiting := [] } }).takeWaiting

/-- A write of REC_CTL: while ENABLE = 1 only ENABLE acts (Table 13-9). -/
def State.writeRecCtl (s : State) (d : Nat) : State :=
  if s.audit.recEnable then if flag d 0 0 then s else s.disableRecorder
  else
    let s := { s with audit := { s.audit with
      recMode := flag d 0 1, recHold := flag d 0 2, recLog2 := BitVec.ofNat 5 (fld d 0 3 5),
      recKinds := BitVec.ofNat 5 (fld d 0 8 5) } }
    if flag d 0 0 then s.enableRecorder else s

def State.writeAudit (s : State) (o d : Nat) : State :=
  let a := s.audit
  if o = 0x4010 then { s with audit := a.writeSync d }
  else if o = 0x4018 then { s with audit := { a with lockLost := a.lockLost && !flag d 0 1 } }
  else if o = 0x4040 then if a.recEnable then s else { s with audit := { a with recBase := BitVec.ofNat 64 d } }
  else if o = 0x4048 then s.writeRecCtl d
  else if o = 0x4050 then { s with audit := { a with recHead := BitVec.ofNat 32 d } }
  else if o = 0x4060 then { s with audit := { a with diverged := a.diverged && !flag d 0 0 } }
  else if o = 0x4070 then { s with audit := { a with recLimit := BitVec.ofNat 32 d } }
  else arrayWrite o 0x4200 16 8 (fun w =>
      { s with audit := { a with
        windows := Tab.put (0#64, 0#64) a.windows w (BitVec.ofNat 64 d, (Tab.at (0#64, 0#64) a.windows w).2) } }) <|
    arrayWrite o 0x4208 16 8 (fun w =>
      { s with audit := { a with
        windows := Tab.put (0#64, 0#64) a.windows w ((Tab.at (0#64, 0#64) a.windows w).1, BitVec.ofNat 64 (d % 2 ^ 54)) } }) <|
    arrayWrite o 0x4400 8 128 (fun n => { s with audit := { a with nonces := Tab.put 0#64 a.nonces n (BitVec.ofNat 64 d) } }) s

/-! ### Rings and doorbells (Table 19-10) -/

/-- RING_STATUS.STATE (Table 12-2). -/
def RingState.code : RingState → Nat
  | .off => 0
  | .run => 1
  | .draining => 2
  | .stopped => 3
  | .fault => 4

/-- A register of ring `n`, by its offset in the ring's block. -/
def State.readRing (s : State) (n o : Nat) : Nat :=
  let r := s.ring n
  if o = 0x00 then r.sqBase.toNat
  else if o = 0x08 then r.cqBase.toNat
  else if o = 0x10 then
    bitNat r.enable + place 0 1 (s.classOf n).toNat + place 0 3 r.log2Size.toNat + place 0 8 (bitNat r.errStop) +
      place 0 9 r.vec.toNat + place 0 13 (bitNat r.irqErr)
  else if o = 0x18 then s.hearthBits r.hmask.toNat
  else if o = 0x20 then r.head.toNat + place 0 32 r.tail.toNat
  else if o = 0x28 then r.state.code + place 0 3 (bitNat r.fault) + place 0 4 r.cause.toNat + place 0 16 r.faultCount.toNat
  else if o = 0x30 then r.lastPos.toNat + place 0 32 r.lastStatus.toNat + place 0 40 r.lastDetail.toNat
  else 0

/-- SQ_BASE, CQ_BASE and RING_HMASK take a write only in STATE OFF (R242). -/
def State.writeRing (s : State) (n o d : Nat) : State :=
  let r := s.ring n
  if o = 0x00 then if r.state = .off then s.setRing n { r with sqBase := BitVec.ofNat 64 d } else s
  else if o = 0x08 then if r.state = .off then s.setRing n { r with cqBase := BitVec.ofNat 64 d } else s
  else if o = 0x10 then s.writeRingCfg n d
  else if o = 0x18 then
    if r.state = .off then s.setRing n { r with hmask := BitVec.ofNat 64 (s.hearthBits d) } else s
  else if o = 0x28 then
    let s := s.setRing n { r with fault := r.fault && !flag d 0 3 }
    if flag d 0 8 then s.ringResume n else s
  else s

/-- A write of a doorbell: in Run the fast path takes it; from the commit to Run, Ember holds it, and it wakes the block (R313, R314). -/
def State.writeDoorbell (s : State) (n d : Nat) : State :=
  let t := BitVec.ofNat 32 d
  if s.pwr.block = .run then s.doorbell n t
  else
    let s := s.modRing n fun r => { r with held := some t }
    if s.pwr.dbWake then s.startWake 1#3 else s

/-! ### Per-hearth pages (Table 19-11) -/

/-- HEARTH_STATE.STATE (Table 15-13). -/
def HearthPower.code : HearthPower → Nat
  | .active => 0
  | .gated => 1
  | .retain => 2
  | .shut => 3
  | .waking => 4
  | .wiping => 5

/-- The GIDs of a hearth's open groups that pass a test, as bits. -/
def Hearth.groupBits (x : Hearth) (f : Group → Bool) : Nat :=
  maskOf ((x.groups.filter fun g => g.2.isOpen && f g.2).map fun g => g.1)

/-- TBL_SLOTS: the valid slots of a bank; the slot record of bank b and slot s has key 32 b + s. -/
def Hearth.validSlots (x : Hearth) (bank : Nat) : Nat :=
  maskOf ((List.range 32).filter fun i => slotValid (Tab.at 0#256 x.slots (32 * bank + i)).toNat)

/-- A register of hearth `h`, by its offset in the page. -/
def State.readHearth (s : State) (h o : Nat) : Nat :=
  let x := s.hearth h
  if o = 0x000 then x.idleState.toNat + place 0 16 x.idleDelay.toNat
  else if o = 0x008 then
    x.power.code + place 0 3 (bitNat x.offline) + place 0 16 x.wakeCount.toNat + place 0 32 x.wipeCount.toNat
  else if o = 0x100 then
    x.groupBits (fun _ => true) + place 0 16 (x.groupBits fun g => g.touched) + place 0 32 (x.groupBits fun g => g.bound.isSome)
  else if o = 0x108 then x.groups.foldl (fun m g => if g.2.isOpen then m ||| g.2.tiles.toNat else m) 0
  else if o = 0x120 then
    bitNat (s.bankNow h) + place 0 1 (bitNat (s.tableHold h false)) + place 0 2 (bitNat (s.tableHold h true)) +
      place 0 3 (bitNat x.loading) + place 0 4 (bitNat (x.loading && x.loadBank)) + place 0 32 x.swapCount.toNat +
      place 0 48 x.reloadCount.toNat
  else if o = 0x128 then x.validSlots 0 + place 0 32 (x.validSlots 1)
  else if o = 0x140 then x.mantelCorrected.toNat + place 0 16 x.mantelUncorr.toNat + place 0 32 (bitNat x.tempHi)
  else if o = 0x160 then
    x.bistResult.toNat + place 0 8 x.bistUnit.toNat + place 0 16 x.bistRuns.toNat + place 0 32 x.bistFails.toNat
  else if o = 0x168 then x.sramCe.toNat + place 0 32 x.sramUe.toNat + place 0 48 x.scrubPasses.toNat
  else 0

/-- HEARTH_CTL: the reserved IDLE_STATE 3 and an IDLE_DELAY of 0 leave their fields unchanged (R308). -/
def State.writeHearth (s : State) (h o d : Nat) : State :=
  if o = 0 then
    let x := s.hearth h
    s.setHearth h { x with
      idleState := if d % 4 = 3 then x.idleState else BitVec.ofNat 2 d,
      idleDelay := if fld d 2 0 16 = 0 then x.idleDelay else BitVec.ofNat 16 (fld d 2 0 16) }
  else s

/-! ### Transom (Table 19-12) -/

/-- XCH_STATUS (Table 11-13). -/
def State.regXchStatus (s : State) : Nat :=
  let x := s.xch
  let inFlight := s.rings.foldl (fun n p => n + (p.2.entries.filter fun e =>
    descOpcode e.desc == 0x21 || descOpcode e.desc == 0x22).length) 0
  place 0 2 x.warnLevel + place 0 4 (bitNat (!x.requests.isEmpty || !x.unsent.isEmpty)) + place 0 5 (bitNat x.pendingFull) +
    place 0 8 (min 255 inFlight) + place 0 16 (x.sets.length % 256)

def State.readTransom (s : State) (o : Nat) : Nat :=
  let x := s.xch
  if s.cfg.hasTransom then
    if o = 0x30000 then x.self.toNat + place 0 16 x.epoch.toNat + place 0 32 x.members
    else if o = 0x30008 then x.nextCfg.toNat
    else if o = 0x30010 then x.poolSpace.toNat
    else if o = 0x30018 then x.timeout.toNat
    else if o = 0x30038 then s.regXchStatus
    else if o = 0x30040 then x.lastErr
    else if o = 0x30048 then
      x.stale.toNat + place 0 16 x.warn1Count.toNat + place 0 32 x.warn2Count.toNat + place 0 48 x.badRelease.toNat
    else arrayReg o 0x30060 8 4 (fun w =>
      maskOf ((List.range 64).filter fun b => (s.bufferSet (64 * w + b)).isSome)) 0
  else 0

def State.writeTransom (s : State) (o d : Nat) : State :=
  let x := s.xch
  if s.cfg.hasTransom then
    if o = 0x30008 then { s with xch := { x with nextCfg := BitVec.ofNat 64 d } }
    else if o = 0x30010 then { s with xch := { x with poolSpace := BitVec.ofNat 8 d } }
    else if o = 0x30018 then { s with xch := { x with timeout := BitVec.ofNat 32 d } }
    else if o = 0x30050 then s.bsetRelease (d % 256)
    else s
  else s

/-! ### Errors and maintenance (Table 19-13) -/

def regErrFatal (e : Errors) : Nat :=
  bitNat e.fatalValid + place 0 8 e.fatalCause.toNat + place 0 16 e.fatalType.toNat + place 0 24 e.fatalUnit.toNat +
    place 0 32 e.fatalStamp.toNat

/-- Bit a - 1 for every activity code in a list. -/
def activityBits (xs : List (Nat × Nat)) : Nat := maskOf (xs.map fun x => x.1 - 1)

def State.readErrors (s : State) (o : Nat) : Nat :=
  let e := s.err
  let m := s.maint
  if o = 0x38000 then e.base.toNat
  else if o = 0x38008 then
    bitNat e.enable + place 0 1 (bitNat e.logCorrected) + place 0 2 (bitNat e.refused) + place 0 3 e.log2.toNat
  else if o = 0x38010 then e.head.toNat
  else if o = 0x38018 then e.tail.toNat
  else if o = 0x38020 then e.corrected.toNat + place 0 32 e.lost.toNat
  else if o = 0x38028 then regErrFatal e
  else if o = 0x38100 then
    m.sramPeriod.toNat + place 0 16 m.mantelPeriod.toNat + place 0 32 m.recalPeriod.toNat + place 0 48 (bitNat m.paused)
  else if o = 0x38108 then
    activityBits m.running + place 0 8 (activityBits m.queued) + place 0 16 (bitNat m.aborted) + place 0 32 m.abortCount.toNat
  else 0

/-- Error records of an earlier enable that are not yet acknowledged belong to no record of the new one. -/
def State.forgetErrors (s : State) : State :=
  let forget (q : Request) : Request := if q.purpose = .errorRecord then { q with purpose := .descriptors 0 0#32 } else q
  let x := s.port 2
  { s with err := { s.err with writing := [], written := [] } }.setPort 2
    { x with inflight := x.inflight.map forget, waiting := x.waiting.map forget }

/-- ENABLE = 1 of ERR_CTL (R358). -/
def State.enableErrors (s : State) : State :=
  let e := s.err
  let l := e.log2.toNat
  let base := e.base.toNat
  if l < 6 ∨ 16 < l ∨ base % 4096 ≠ 0 ∨ 2 ^ 52 < base + 64 * 2 ^ l then
    { s with err := { e with enable := false, refused := true } }
  else
    let s := s.forgetErrors
    { s with err := { s.err with enable := true, refused := false, head := 0#32, tail := 0#32, index := 0#32 } }

/-- A write of ERR_CTL: while ENABLE = 1 only ENABLE acts (R357). -/
def State.writeErrCtl (s : State) (d : Nat) : State :=
  let e := s.err
  if e.enable then { s with err := { e with enable := flag d 0 0 } }
  else
    let s := { s with err := { e with logCorrected := flag d 0 1, log2 := BitVec.ofNat 5 (fld d 0 3 5) } }
    if flag d 0 0 then s.enableErrors else s

def State.writeErrors (s : State) (o d : Nat) : State :=
  let e := s.err
  let m := s.maint
  if o = 0x38000 then if e.enable then s else { s with err := { e with base := BitVec.ofNat 64 d } }
  else if o = 0x38008 then s.writeErrCtl d
  else if o = 0x38010 then { s with err := { e with head := BitVec.ofNat 32 d } }
  else if o = 0x38100 then
    { s with maint := { m with
      sramPeriod := BitVec.ofNat 16 d, mantelPeriod := BitVec.ofNat 16 (fld d 2 0 16),
      recalPeriod := BitVec.ofNat 16 (fld d 4 0 16) } }
  else if o = 0x38108 then { s with maint := { m with aborted := m.aborted && !flag d 0 16 } }
  else s

/-! ### Seal (Table 19-14, Table 16-6) -/

/-- SEAL_ALARM (Table 16-14). -/
def regSealAlarm (v : Seal) : Nat := v.pend.toNat + place 0 16 v.sense.toNat + place 0 32 (bitNat v.halted)

/-- A read of the Seal: what Table 16-6 does not allow returns zero (log entry 25). -/
def State.readSeal (s : State) (o : Nat) : Nat :=
  let v := s.vault
  if s.cfg.hasSeal then
    if o = 0x40000 then regSealLc v
    else if o = 0x40008 then v.nonce.toNat
    else if o = 0x40010 then if v.lc = 4 then 0 else v.authAddr.toNat
    else if o = 0x40018 then
      (if v.keyed then v.keyRef.toNat else 0) + place 0 8 (bitNat v.keysErased) + place 0 16 v.slotMask.toNat
    else if o = 0x40020 then regSealAlarm v
    else if o = 0x40028 then v.policy.toNat + place 0 32 (bitNat v.lockFuse)
    else if o = 0x40030 then v.wipeCause.toNat + place 0 16 v.wipeCount.toNat + place 0 32 v.wipeUs.toNat
    else if o = 0x40070 then if v.lc = 1 then v.keyIndex.toNat + place 0 8 v.keyResult.toNat else 0
    else if o = 0x40080 then if v.keyed then v.attAddr.toNat else 0
    else if o = 0x40088 then
      if v.keyed then place 0 1 (bitNat v.attPub) + place 0 4 (bitNat v.attBusy) + place 0 8 v.attResult.toNat else 0
    else arrayReg o 0x40100 8 16 (fun i => (Tab.at 0#32 v.alarmCount i).toNat) 0
  else 0

/-- A write that Table 16-6 allows in some states only. -/
def State.allow (s : State) (ok : Bool) (f : Seal → Seal) : State := if ok then { s with vault := f s.vault } else s.deny

/-- A write of SEAL_CTL: KEY_REF where the table allows it, and ERASE_KEYS in every state (log entry 25). -/
def State.writeSealCtl (s : State) (d : Nat) : State :=
  let s := if s.vault.keyed then { s with vault := { s.vault with keyRef := BitVec.ofNat 2 d } }
    else if flag d 0 8 then s else s.deny
  if flag d 0 8 then s.eraseKeys else s

def State.writeSeal (s : State) (o d : Nat) : State :=
  let v := s.vault
  if s.cfg.hasSeal then
    if o = 0x40000 then
      if flag d 0 11 then s.lcGo (BitVec.ofNat 3 (fld d 0 8 3))
      else s.allow (v.lc ≠ 4) fun v => { v with target := BitVec.ofNat 3 (fld d 0 8 3) }
    else if o = 0x40010 then s.allow (v.lc ≠ 4) fun v => { v with authAddr := BitVec.ofNat 64 d }
    else if o = 0x40018 then s.writeSealCtl d
    else if o = 0x40020 then { s with vault := { v with pend := v.pend &&& ~~~(BitVec.ofNat 16 d) } }
    else if o = 0x40028 then s.writePolicy (BitVec.ofNat 64 d)
    else if o = 0x40070 then
      if flag d 0 63 then s.keyGo (BitVec.ofNat 3 d) else s.allow (v.lc = 1) fun v => { v with keyIndex := BitVec.ofNat 3 d }
    else if o = 0x40080 then s.allow v.keyed fun v => { v with attAddr := BitVec.ofNat 64 d }
    else if o = 0x40088 then
      if flag d 0 0 then s.attGo (flag d 0 1) else s.allow v.keyed fun v => { v with attPub := flag d 0 1 }
    else arrayWrite o 0x40040 8 6 (fun w =>
      s.allow (v.lc = 1) fun v => { v with keyData := Tab.put 0#64 v.keyData w (BitVec.ofNat 64 d) }) s
  else s

/-! ### Management mirror (R385, Table 19-15) -/

/-- Whether the mirror shows the last column of Table 19-15: in Hibernate and on the way out of it, and during a wipe. -/
def State.mirrorDark (s : State) : Bool :=
  decide (s.pwr.block = .hibernate) || (decide (s.pwr.block = .waking) && decide (s.pwr.sleeping = .hibernate)) || s.vault.wiping

/-- Whether the mirror shows the values at the commit: in Doze, and on the way out of it. -/
def State.mirrorHeld (s : State) : Bool :=
  decide (s.pwr.block = .doze) || (decide (s.pwr.block = .waking) && decide (s.pwr.sleeping = .doze))

/-- The entry at an offset of the mirror's page. A fatal event stops the domain of the entries that read zero (log entry 26). -/
def State.readMirror (s : State) (o : Nat) : Nat :=
  let v := s.vault
  let copy (held now : Nat) : Nat := if s.mirrorDark || s.err.stopped then 0 else if s.mirrorHeld then held else now
  if o = 0x000 then (regIdent s.cfg).toNat
  else if o = 0x008 then regRelease.toNat
  else if o = 0x010 then (regCfg0 s.cfg).toNat
  else if o = 0x018 then (regCfg1 s.cfg).toNat
  else if o = 0x020 then (regCfg2 s.cfg).toNat
  else if o = 0x028 then (regCfg3 s.cfg).toNat
  else if o = 0x030 then regPwrState s.pwr
  else if o = 0x038 then regLastRefuser s.pwr
  else if o = 0x040 then s.audit.count.toNat
  else if o = 0x048 then s.audit.powered.toNat
  else if o = 0x050 then regSyncStatus s.audit
  else if o = 0x058 then regErrFatal s.err
  else if o = 0x060 then
    if !s.cfg.hasSeal then 0 else if s.mirrorDark then v.lc + place 0 4 (bitNat v.lockFuse) else if s.mirrorHeld then s.pwr.heldLc.toNat else regSealLc v
  else if o = 0x068 then if s.cfg.hasSeal then regSealAlarm v else 0
  else if o = 0x070 then copy s.pwr.heldEvent.toNat s.blk.blkEvent.toNat
  else if o = 0x078 then copy s.pwr.heldPatch.toNat (regPatchState s.blk).toNat
  else if o = 0x080 then copy s.pwr.heldOffline.toNat (maskOf (s.allHearths.filter fun h => (s.hearth h).offline))
  else arrayReg o 0x100 8 4 (fun i => (Tab.at 0#64 s.mgmt.scratch i).toNat) 0

/-- A write through either port: only the scratch registers take it. -/
def State.writeMirror (s : State) (o : Nat) (w : W64) : State :=
  arrayWrite o 0x100 8 4 (fun i => { s with mgmt := { s.mgmt with scratch := Tab.put 0#64 s.mgmt.scratch i w } }) s

/-! ### The whole setup space (Table 19-1) -/

/-- The value at an offset; an offset that no table lists reads zero (R15, R381). -/
def State.readReg (s : State) (o : Nat) : W64 :=
  BitVec.ofNat 64 <|
    if o < 0x1000 then if o < 0x30 then s.readMirror o else 0
    else if o < 0x2000 then s.readBlock o
    else if o < 0x4000 then s.readPower o
    else if o < 0x5000 then s.readAudit o
    else if 0x8000 ≤ o ∧ o < 0xA000 then s.readRing ((o - 0x8000) / 0x40) (o % 0x40)
    else if 0x20000 ≤ o ∧ o < 0x30000 then
      if (o - 0x20000) / 0x400 < s.cfg.hearths then s.readHearth ((o - 0x20000) / 0x400) (o % 0x400) else 0
    else if 0x30000 ≤ o ∧ o < 0x31000 then s.readTransom o
    else if 0x38000 ≤ o ∧ o < 0x39000 then s.readErrors o
    else if 0x40000 ≤ o ∧ o < 0x41000 then s.readSeal o
    else if 0x7F000 ≤ o ∧ o < 0x80000 then s.readMirror (o - 0x7F000)
    else 0

/-- A write at an offset; an offset that no table lists ignores it. -/
def State.writeReg (s : State) (o d : Nat) : State :=
  if o < 0x1000 then s
  else if o < 0x2000 then s.writeBlock o d
  else if o < 0x4000 then s.writePower o d
  else if o < 0x5000 then s.writeAudit o d
  else if 0x8000 ≤ o ∧ o < 0xA000 then s.writeRing ((o - 0x8000) / 0x40) (o % 0x40) d
  else if 0x10000 ≤ o ∧ o < 0x10400 then s.writeDoorbell ((o - 0x10000) / 8) d
  else if 0x20000 ≤ o ∧ o < 0x30000 then
    if (o - 0x20000) / 0x400 < s.cfg.hearths then s.writeHearth ((o - 0x20000) / 0x400) (o % 0x400) d else s
  else if 0x30000 ≤ o ∧ o < 0x31000 then s.writeTransom o d
  else if 0x38000 ≤ o ∧ o < 0x39000 then s.writeErrors o d
  else if 0x40000 ≤ o ∧ o < 0x41000 then s.writeSeal o d
  else if 0x7F000 ≤ o ∧ o < 0x80000 then s.writeMirror (o - 0x7F000) (BitVec.ofNat 64 d)
  else s

/-- A read of EVT_POP: the oldest entry leaves; an empty queue answers VALID = 0 (R17, R263). -/
def State.popEvent (s : State) : W64 × State :=
  match s.blk.events with
  | [] => (0#64, s)
  | e :: rest => (e, { s with blk := { s.blk with events := rest } })

/-- What a read returns, and the state after it: only EVT_POP changes (R17). -/
def State.sashRead (s : State) (o : Nat) : W64 × State := if o = 0x1008 then s.popEvent else (s.readReg o, s)

/-! ### Accesses (R15, R307, R334, R367) -/

/-- What Ember answers in sleep (R307): the power region, COUNT and POWERED_TIME, and the mirror's page. -/
def emberAnswers (o : Nat) : Bool :=
  (decide (0x2000 ≤ o) && decide (o < 0x4000)) || o == 0x4000 || o == 0x4008 || (decide (0x7F000 ≤ o) && decide (o < 0x80000))

/-- What is answered until WIPE_DONE of a reset or a transition: Ember's registers and SEAL_LC (R334; log entry 27). -/
def resetAnswers (o : Nat) : Bool :=
  emberAnswers o || o == 0x4010 || o == 0x4018 || o == 0x4020 || o == 0x38028 || o == 0x40000

/-- How the port treats an access: answered; answered with zero and no effect; stalled until Run; or not at all. -/
inductive Gate where
  | answer
  | zero
  | stall
  | dead
  deriving DecidableEq, Repr

def State.gate (s : State) (write : Bool) (o : Nat) : Gate :=
  if s.pwr.block = .off then .dead
  else if (s.vault.resetting || s.vault.busy) && !resetAnswers o then .zero
  else if s.pwr.block = .run then .answer
  else if !s.sash.stalled.isEmpty then .stall
  else if emberAnswers o then .answer
  else if write && decide (0x10000 ≤ o) && decide (o < 0x10400) then .answer
  else .stall

/-- The response of the port. -/
def State.respond (s : State) (error : Bool) (data : W64) : State := { s with sash := { s.sash with error := error, rdata := data } }

/-- An access takes effect and receives its response. -/
def State.access (s : State) (write : Bool) (o d : Nat) : State :=
  if write then (s.writeReg o d).respond false 0#64
  else
    let (v, s) := s.sashRead o
    s.respond false v

/-- An access waits behind those that stall; at most 8 are outstanding, and a ninth is not taken (R367). -/
def State.stallAccess (s : State) (a : StalledAccess) : State :=
  if s.sash.stalled.length < 8 then { s with sash := { s.sash with stalled := s.sash.stalled ++ [a] } } else s

/-- A misaligned or partial access has no effect and receives an error response, in the order of the accesses (R15, R367). -/
def State.badAccess (s : State) (write : Bool) (off : BitVec 20) (d : W64) : State :=
  if s.pwr.block = .off then s
  else if s.sash.stalled.isEmpty then s.respond true 0#64
  else s.stallAccess { write := write, off := off, data := d, bad := true }

/-- An access at the port. A stalled one starts a wake and completes at Run. -/
def State.sashAccess (s : State) (write : Bool) (off : BitVec 20) (d : W64) : State :=
  if off.toNat % 8 ≠ 0 then s.badAccess write off d
  else match s.gate write off.toNat with
    | .dead => s
    | .zero => s.respond false 0#64
    | .answer => s.access write off.toNat d.toNat
    | .stall =>
      if s.sash.stalled.length < 8 then (s.stallAccess { write := write, off := off, data := d, bad := false }).startWake 3#3 else s

/-- A full, aligned write of a register. -/
def State.sashWrite (s : State) (off : Nat) (d : Nat) : State := s.sashAccess true (BitVec.ofNat 20 off) (BitVec.ofNat 64 d)

/-- The accesses that stalled complete, in order; one that meets a reset reads zero and has no effect (R334). -/
def State.completeStalled (s : State) : State :=
  s.sash.stalled.foldl (fun s a => if a.bad then s.respond true 0#64 else s.sashAccess a.write a.off a.data)
    { s with sash := { s.sash with stalled := [] } }

/-! ### Commands -/

/-- REGISTER_WRITE. -/
def execRegisterWrite (off : BitVec 20) (data : W64) (s : State) : Result := .next (s.sashAccess true off data)

/-- SASH_ACCESS_ERROR: byte enables other than 0xFF, or an offset that is no multiple of 8, has no effect (R15, R367). -/
def execSashAccessError (write : Bool) (off : BitVec 20) (be : W8) (s : State) : Result :=
  .next (if be ≠ 0xFF#8 ∨ off.toNat % 8 ≠ 0 then s.badAccess write off 0#64 else s)

/-- SASH_WAKE_ACCESS: any full access; one that Ember does not answer in sleep stalls until Run. -/
def execSashWakeAccess (write : Bool) (off : BitVec 20) (data : W64) (s : State) : Result := .next (s.sashAccess write off data)

def doorbellOffset (n : Nat) : Nat := 0x10000 + 8 * n
def ringOffset (n o : Nat) : Nat := 0x8000 + 0x40 * n + o

/-- DOORBELL_WRITE. -/
def execDoorbellWrite (ring : BitVec 7) (data : W64) (s : State) : Result := .next (s.sashWrite (doorbellOffset ring.toNat) data.toNat)

/-- RING_ENABLE: a write of RING_CFG with ENABLE = 1. -/
def execRingEnable (ring : BitVec 7) (cfg : W64) (s : State) : Result :=
  .next (s.sashWrite (ringOffset ring.toNat 0x10) (cfg ||| 1#64).toNat)

/-- RING_DISABLE: a write of RING_CFG with ENABLE = 0. -/
def execRingDisable (ring : BitVec 7) (cfg : W64) (s : State) : Result :=
  .next (s.sashWrite (ringOffset ring.toNat 0x10) (cfg &&& ~~~1#64).toNat)

/-- RING_RESUME: a write of RING_STATUS with RESUME. -/
def execRingResume (ring : BitVec 7) (s : State) : Result := .next (s.sashWrite (ringOffset ring.toNat 0x28) 0x100)

/-- EVT_POP: a read of the register. -/
def execEvtPop (s : State) : Result := .next (s.sashAccess false 0x1008#20 0#64)

/-- IRQ_UNMASK: a write of IRQ_CTL.MASK. -/
def execIrqUnmask (mask : W16) (s : State) : Result := .next (s.sashWrite 0x1400 mask.toNat)

/-- PATCH_GO: a write of PATCH_CTL with GO. -/
def execPatchGo (ctl : W64) (s : State) : Result := .next (s.sashWrite 0x1028 (ctl ||| (1#64 <<< 63)).toNat)

/-- The REASON of a verification (Table 12-8), from what the ROM found; none when the finding contradicts the image's length or the release
that it names. -/
def Block.verdict (b : Block) (reason : BitVec 4) (minor major : W8) : Option (BitVec 4) :=
  if b.patchLen = 0#13 ∨ 4096 < b.patchLen.toNat then some 3#4
  else if reason = 1#4 ∨ reason = 4#4 then some reason
  else if minor ≠ 3#8 ∨ major ≠ 1#8 then some 2#4
  else if reason = 0#4 then some 0#4
  else none

/-- REASON 4 leaves an error record of PATCH_READ; which line of the image failed is free (Table 17-4). -/
def State.patchRead (s : State) (reason : BitVec 4) : State :=
  if reason = 4#4 then
    let (w, s) := s.draw64
    s.logError ((ErrorEvent.plain 2 0x11 0 (stokerReadPort w.toNat) 0#64).atAddr 3 (w.toNat % 2 ^ 52))
  else s

/-- PATCH_VERIFY_DONE (R254). -/
def execPatchVerifyDone (reason : BitVec 4) (version : W16) (minor major : W8) (s : State) : Result :=
  let b := s.blk
  if b.patchState = 1#3 ∧ s.pwr.block = .run ∧ s.portAwake 0 ∧ s.portAwake 2 then
    match b.verdict reason minor major with
    | none => .next s
    | some r =>
      let named := decide (r = 0#4 ∨ r = 2#4)
      .next (({ s with blk := { b with
        patchState := if r = 0#4 then 2#3 else 3#3, patchReason := r, patchVersion := if r = 0#4 then version else 0#16,
        patchMinor := if named then minor else 0#8, patchMajor := if named then major else 0#8,
        patchImage := if r = 0#4 then b.patchImage else [] } }.patchRead r).event .patch 0 0)
  else .next s

/-- XCH_BSET_RELEASE. -/
def execXchBsetRelease (set : W8) (s : State) : Result := .next (s.sashWrite 0x30050 set.toNat)

/-- ISO_RELEASE. -/
def execIsoRelease (bits : BitVec 9) (s : State) : Result := .next (s.sashWrite 0x2020 bits.toNat)

/-- PSTATE_TARGET_WRITE. -/
def execPstateTargetWrite (stove target : BitVec 3) (s : State) : Result :=
  .next (s.sashWrite (0x2200 + 8 * stove.toNat) target.toNat)

/-- VREQ_CODE_WRITE. -/
def execVreqCodeWrite (stove : BitVec 3) (code : W8) (s : State) : Result :=
  .next (s.sashWrite (0x2240 + 8 * stove.toNat) code.toNat)

/-- SEAL_LC_GO. -/
def execSealLcGo (target : BitVec 3) (s : State) : Result := .next (s.sashWrite 0x40000 (place 0 8 target.toNat + place 0 11 1))

/-- KEY_CTL_GO. -/
def execKeyCtlGo (index : BitVec 3) (s : State) : Result := .next (s.sashWrite 0x40070 (index.toNat + place 0 63 1))

/-- ERASE_KEYS: a write of SEAL_CTL that keeps KEY_REF. -/
def execEraseKeys (s : State) : Result := .next (s.sashWrite 0x40018 (s.vault.keyRef.toNat + place 0 8 1))

/-- POLICY_LOCK: a write of SEAL_POLICY with LOCK. -/
def execPolicyLock (data : W64) (s : State) : Result := .next (s.sashWrite 0x40028 (data ||| (1#64 <<< 32)).toNat)

/-- ATT_CTL_GO. -/
def execAttCtlGo (pub : Bool) (s : State) : Result := .next (s.sashWrite 0x40088 (1 + place 0 1 (bitNat pub)))

/-- RECORDER_ENABLE. -/
def execRecorderEnable (ctl : W64) (s : State) : Result := .next (s.sashWrite 0x4048 (ctl ||| 1#64).toNat)

/-- ERR_CTL_ENABLE. -/
def execErrCtlEnable (ctl : W64) (s : State) : Result := .next (s.sashWrite 0x38008 (ctl ||| 1#64).toNat)

end Sys2Proof.Machine
end

