-- ==== Sys2Proof/Machine/Alarm.lean ====
section
/-! DEFINITION. Alarms (R339 to R342, Tables 16-8 and 16-9): their policies, the abort of work, the wipe, and the end of the handling. -/

namespace Sys2Proof.Machine

/-! ### Policies -/

/-- Policies of Table 16-9. -/
def polLog : Policy := 0#2
def polHalt : Policy := 1#2
def polErase : Policy := 2#2
def polScrap : Policy := 3#2

/-- The policy that applies to a source now: in DIAGNOSE, ERASE acts as HALT; in SCRAPPED every source acts as LOG (R340). -/
def Seal.applied (v : Seal) (source : Nat) : Policy :=
  let p : Policy := BitVec.ofNat 2 (v.policy.toNat >>> (2 * source))
  if v.lc = 4 then polLog
  else if v.lc = 3 ∧ p = polErase then polHalt
  else p

/-- The stronger of the policy met so far and a new one (R342). -/
def stronger (old : Option Policy) (p : Policy) : Policy := match old with
  | some q => if q.toNat ≤ p.toNat then p else q
  | none => p

/-! ### Keys and fuses -/

/-- Fuse programming of a transition is cut off: the number of its fields that were blown is a free value, and their order decides the state
(R333, R342; log entry 30). -/
def State.cutFuses (s : State) : State :=
  if s.vault.blowing then
    let (w, s) := s.draw64
    { s with vault := { s.vault.blowFirst (w.toNat % (s.vault.fuseSteps + 1)) with busy := false, blowing := false, goal := 0#3 } }
  else s

/-- What a policy does at once: ERASE and ERASE_SCRAP erase the keys, ERASE_SCRAP blows every life-cycle fuse (Table 16-9). -/
def State.punish (s : State) (p : Policy) : State :=
  let s := if 2 ≤ p.toNat then s.eraseKeys else s
  if p = polScrap then { s with vault := { s.vault with lcFuse := 0xF#4 } } else s

/-! ### The wipe (R337, Table 16-7) -/

/-- Every hearth, the Transom's memory with the packets in its receive buffers, the Mantel and its XAB areas at what a wipe leaves; every
maintenance activity ends with the contents that it worked on. -/
def State.wipeMemories (s : State) : State :=
  { s with
    hearths := Tab.remap Hearth.reset s.hearths fun x => { x.wiped with xab := [] },
    mantel := [], mantelPoison := [], mantelBad := [], mantelSoft := [],
    xch := { s.xch with
      sets := [], exchanges := [], pendingArea := [], received := [], owed := [], requests := [], unsent := [] },
    audit := { s.audit with withheldRows := [], replayWaiting := s.audit.replayWaiting.filter fun c => decide (packetOf c = none) },
    maint := { s.maint with running := [], queued := [], waiting := [], scheduled := [] } }

/-- WIPE_DONE falls: a wipe of a cause of SEAL_WIPE starts. -/
def State.startWipe (s : State) (kind : BitVec 3) : State :=
  { s with vault := { s.vault with wiping := true, wipeStart := s.audit.count, wipeKind := kind } }

/-- WIPE_DONE rises: SEAL_WIPE counts the wipe and reports its cause and its duration in whole microseconds. -/
def State.endWipe (s : State) : State :=
  let v := s.vault
  { s with vault := { v with
    wiping := false, wipeCause := v.wipeKind, wipeCount := satInc v.wipeCount,
    wipeUs := BitVec.ofNat 32 ((s.audit.count - v.wipeStart).toNat / 1000) } }

/-! ### Work that is aborted (R341) -/

/-- The Transom stops: what it has not sent goes, and ABORT carrying E_ABORTED goes to the members of each exchange in flight. -/
def State.abortExchanges (s : State) : State :=
  let open' := s.xch.exchanges.filter fun x => !x.closed
  open'.foldl (fun s x => s.sendAborts x stAborted) { s with xch := { s.xch with txQueue := [] } }

/-- Requests that wait for a credit and belong to work that has stopped are not sent. -/
def State.dropWork (s : State) : State :=
  let keeps (q : Request) : Bool := match q.purpose with
    | .descriptors _ _ => false
    | .operand => false
    | .output => false
    | .atomic _ _ _ => false
    | _ => true
  { s with ports := Tab.remap Port.reset s.ports fun p => { p with waiting := p.waiting.filter keeps, adds := [], marks := [] } }

/-- An issued position without a record, as an alarm ends it. -/
def Entry.aborted (e : Entry) : Entry :=
  match e.stage with
  | .recorded => e
  | _ => { e with stage := .finished, status := BitVec.ofNat 8 stAborted, detail := 2#16 }

/-- The positions of a ring that an alarm aborts, in position order: issued ones, then fetched ones. -/
def Ring.abortAll (r : Ring) : Ring :=
  { r with
    entries := (r.entries ++ r.fetched.map fun f => Entry.refused f.pos f.desc stAborted 2).map Entry.aborted,
    issuePos := r.issuePos + BitVec.ofNat 32 r.fetched.length, fetched := [] }

/-- A ring that is not OFF writes a record with E_ABORTED, DETAIL 2, for every issued and every fetched position; it waits for no output. -/
def State.abortRing (s : State) (n : Nat) : State :=
  if (s.ring n).state = .off then s
  else
    let s := s.modRing n Ring.abortAll
    ((s.ring n).entries.filter fun e => decide (e.stage = .finished)).foldl (fun s e => s.writeRecord n e) s

/-- Outputs in host memory of what is aborted are undefined (R258). -/
def State.spoilOutputs (s : State) : State :=
  let outs := s.rings.flatMap fun p => p.2.entries.flatMap fun e => match e.stage with
    | .recorded => []
    | _ => e.outs.filter fun o => o.space == 3
  outs.foldl (fun s o => s.spoilHost o.lo o.len) s

/-- A ring in OFF, with the Stoker's memory of it wiped. -/
def Ring.toOff (r : Ring) : Ring :=
  { r with
    state := .off, enable := false, fetched := [], entries := [], done := [], lostRecords := [], accepts := [], held := none,
    withheld := [], session := none }

def State.ringsOff (s : State) : State := { s with rings := Tab.remap Ring.reset s.rings Ring.toOff }

/-- The handling of an alarm under HALT, ERASE or ERASE_SCRAP, steps 1 to 3 of R341. -/
def State.haltWork (s : State) : State :=
  let s := s.abortExchanges.spoilOutputs.dropWork
  let s := (s.startWipe 3#3).wipeMemories
  (List.range 128).foldl (fun s n => s.abortRing n) s

/-! ### An alarm (R341, R342) -/

/-- PEND, SENSE and ALARM_COUNT of a source. -/
def State.noteAlarm (s : State) (i : Nat) : State :=
  let v := s.vault
  { s with vault := { v with
    pend := setBit v.pend i true, sense := setBit v.sense i true,
    alarmCount := Tab.put 0#32 v.alarmCount i (satInc (Tab.at 0#32 v.alarmCount i)) } }

/-- The event of an alarm: at once while the core is up, otherwise at the next wake (R342). -/
def State.alarmEvent (s : State) (i : Nat) (p : Policy) : State :=
  if s.pwr.block = .run ∨ s.pwr.block = .entering then s.event .sealAlarm 0 (i + 16 * p.toNat)
  else { s with pwr := { s.pwr with queuedAlarms := s.pwr.queuedAlarms ++ [(i, p)] } }

/-- An alarm whose policy is HALT or stronger: keys and fuses at once; the work ends now in Run, and once the block has the power that it takes
otherwise; a reset ends HALTED, and a block that is HALTED stays so. -/
def State.enforce (s : State) (p : Policy) : State :=
  let first := decide (s.vault.handling = none)
  let s := s.punish p
  if s.vault.halted then s
  else
    let s := { s with vault := { s.vault with handling := some (stronger s.vault.handling p) } }
    if !first || s.vault.resetting then s
    else if s.pwr.block = .run then s.haltWork
    else s.startWake 4#3

/-- ALARM_TRIP: reserved sources never trip (Table 16-8); an alarm of any policy stops the programming of fuses (R342). -/
def execAlarmTrip (source : BitVec 4) (s : State) : Result :=
  let i := source.toNat
  if s.cfg.hasSeal = false ∨ s.pwr.block = .off ∨ (5 ≤ i ∧ i ≤ 7) then .next s
  else
    let p := s.vault.applied i
    let s := ((s.noteAlarm i).alarmEvent i p).cutFuses
    if p = polLog then .next s else .next (s.enforce p)

/-- ALARM_RECORD_ABANDON: the records that are not acknowledged are abandoned, and every ring goes OFF. -/
def execAlarmRecordAbandon (s : State) : Result :=
  if s.vault.handling.isSome ∧ s.vault.wiping ∧ s.vault.resetting = false then
    let keeps (q : Request) : Bool := match q.purpose with
      | .recordBody => false
      | .phase => false
      | .interrupt _ => false
      | _ => true
    .next ({ s with ports := Tab.remap Port.reset s.ports fun p => { p with waiting := p.waiting.filter keeps } }.ringsOff)
  else .next s

/-- ALARM_CONDITION_END: SENSE clears, PEND stays. -/
def execAlarmConditionEnd (source : BitVec 4) (s : State) : Result :=
  .next { s with vault := { s.vault with sense := setBit s.vault.sense source.toNat false } }

end Sys2Proof.Machine
end

