-- ==== Sys2Proof/Machine/Jtag.lean ====
section
/-! DEFINITION. The test access port (R378, R379, Table 18-15), with the access of Table 16-6 by life-cycle state. -/

namespace Sys2Proof.Machine

/-- IDCODE: MINOR, part, JTAG_MFR and a 1 (Table 18-15). -/
def regIdcode (c : BlockConfig) : W32 := BitVec.ofNat 32 (2 ^ 28 * 3 + 2 ^ 12 * c.part + 2 * c.jtagMfr.toNat + 1)

/-- The instruction that a code acts as: in PROVISIONED and MISSION, EXTEST, CLAMP and both access instructions act as BYPASS, and so
does every code that the table does not list. -/
def Seal.testCode (v : Seal) (code : W8) : W8 :=
  if code = 0x01#8 ∨ code = 0x02#8 then code
  else if (code = 0x00#8 ∨ code = 0x03#8 ∨ code = 0x10#8 ∨ code = 0x11#8) ∧ v.keyed = false then code
  else 0xFF#8

def testRegister (code : W8) : DataRegister :=
  if code = 0x00#8 ∨ code = 0x02#8 then .boundary
  else if code = 0x01#8 then .idcode
  else if code = 0x10#8 then .network
  else if code = 0x11#8 then .wrapper
  else .bypass

/-- What the selected data register captures, its first 32 bits: IDCODE's value, or the zero of BYPASS; the pins and instruments of the others
are not the model's, and their capture is a free value (log entry 29). -/
def State.capture (s : State) (d : DataRegister) : W32 × State :=
  match d with
  | .idcode => (regIdcode s.cfg, s)
  | .bypass => (0#32, s)
  | .boundary => let (w, s) := s.draw64; (w.setWidth 32, s)
  | .network => let (w, s) := s.draw64; (w.setWidth 32, s)
  | .wrapper => let (w, s) := s.draw64; (w.setWidth 32, s)

/-- Whether the test access port takes an instruction: powered, and TRST low (R378). -/
def State.testable (s : State) : Bool := decide (s.pwr.block ≠ .off) && !s.jtag.trst

/-- A code enters the instruction register. A session of an access instruction counts as an attached debugger while it is open (R379). -/
def State.loadTest (s : State) (code : W8) : State :=
  if s.testable then
    let c := s.vault.testCode code
    let d := testRegister c
    let (w, s) := s.capture d
    { s with jtag := { s.jtag with
      ir := code, dr := d, driving := decide (c = 0x00#8 ∨ c = 0x03#8), capture := w,
      attached := decide (d = .network ∨ d = .wrapper) } }
  else s

/-- The boundary register's cells take what a scan leaves in them, where the register is selected: a free value (log entry 29). -/
def State.loadCells (s : State) : State :=
  if s.testable && decide (s.jtag.dr = .boundary) then
    { s with jtag := { s.jtag with boundary := Config.scannedCells s.draws }, draws := s.draws + 1 }
  else s

/-- A hearth's wrapper. -/
def State.wrapper (s : State) (h : Nat) : Wrapper := Tab.at Wrapper.reset s.jtag.wrappers h

/-- A hearth's wrapper takes a value; a hearth that the configuration lacks, or that has no power, has none. -/
def State.setWrapper (s : State) (h : Nat) (w : Wrapper) : State :=
  if h < s.cfg.hearths ∧ (s.hearth h).power ≠ .shut then
    { s with jtag := { s.jtag with wrappers := Tab.put Wrapper.reset s.jtag.wrappers h w } }
  else s

/-- Every hearth's wrapper takes what a scan leaves in it, where the data register is selected. -/
def State.loadWrappers (s : State) (d : DataRegister) (f : Nat → Wrapper → Wrapper) : State :=
  if s.testable && decide (s.jtag.dr = d) then
    let t := s.allHearths.foldl (fun s h => s.setWrapper h (f h (s.wrapper h))) s
    { t with draws := s.draws + 1 }
  else s

/-- TRST rises or falls: while it is high the port is in its reset state, with IDCODE selected (log entry 29). -/
def State.driveTrst (s : State) (high : Bool) : State :=
  if s.pwr.block = .off then s
  else if high then
    { s with jtag := { s.jtag with
      ir := Jtag.reset.ir, dr := Jtag.reset.dr, driving := false, trst := true, capture := Jtag.reset.capture, attached := false } }
  else { s with jtag := { s.jtag with trst := false } }

/-- EXTEST: the boundary register drives what the scan leaves in it. -/
def execExtest (s : State) : Result := .next (s.loadTest 0x00#8).loadCells

/-- IDCODE. -/
def execIdcode (s : State) : Result := .next (s.loadTest 0x01#8)

/-- SAMPLE/PRELOAD: the boundary register is loaded and drives nothing. -/
def execSamplePreload (s : State) : Result := .next (s.loadTest 0x02#8).loadCells

/-- CLAMP. -/
def execClamp (s : State) : Result := .next (s.loadTest 0x03#8)

/-- IJTAG_ACCESS: the network reaches the 64-bit parallel ports of the hearths' wrappers (R379). -/
def execIjtagAccess (s : State) : Result :=
  let s := s.loadTest 0x10#8
  .next (s.loadWrappers .network fun h w => { w with parallel := (Config.scannedPort s.draws h).getD w.parallel })

/-- WRAPPER_ACCESS: the chain holds WIR, WBY and WBR of every hearth's wrapper (R379). -/
def execWrapperAccess (s : State) : Result :=
  let s := s.loadTest 0x11#8
  .next (s.loadWrappers .wrapper fun h w =>
    let q := Config.scannedWrapper s.draws h
    { w with wir := q.1, wby := q.2.1, wbr := q.2.2 })

/-- BYPASS, and every other code, with the level of TRST. -/
def execBypass (test : TestCode) (s : State) : Result := .next ((s.driveTrst test.trst).loadTest test.code)

end Sys2Proof.Machine
end

