-- ==== Sys2Proof/Machine/Mgmt.lean ====
section
/-! DEFINITION. The management port (R315, R375, R386): write and read transactions on the mirror, and the common command codes of I3C. -/

namespace Sys2Proof.Machine

/-- Whether the port answers an address: MADDR, in I2C, and the dynamic address once one is assigned, in I3C (R375). -/
def Mgmt.answers (m : Mgmt) (addr : BitVec 7) : Bool := addr == m.staticAddr || m.dynamic == some addr

/-- Whether the block sleeps, so that a match only starts a wake (R315). -/
def State.asleep (s : State) : Bool := decide (s.pwr.block = .doze) || decide (s.pwr.block = .hibernate)

/-- What the port drove: whether it acknowledged its address, and the bytes that it returned. -/
def State.mgmtAnswer (s : State) (acked : Bool) (data : List W8) : State :=
  { s with mgmt := { s.mgmt with acked := acked, data := data } }

/-- A transaction whose address matches in sleep: acknowledged, its data discarded, every byte read 0xFF, and a wake. -/
def State.mgmtWake (s : State) (bytes : Nat) : State := (s.mgmtAnswer true (List.replicate bytes 0xFF#8)).startWake 2#3

/-- A write transaction in a state in which the port acts on it: two bytes of offset, high byte first, and no data or 8 bytes of it. -/
def State.mgmtPut (s : State) (bytes : List W8) : State :=
  let o := 256 * (nth 0#8 bytes 0).toNat + (nth 0#8 bytes 1).toNat
  if o % 8 ≠ 0 then s
  else if bytes.length = 2 then { s with mgmt := { s.mgmt with offset := BitVec.ofNat 16 o } }
  else if bytes.length = 10 then
    let s := { s with mgmt := { s.mgmt with offset := BitVec.ofNat 16 o } }
    if o < 0x1000 then s.writeMirror o (BitVec.ofNat 64 (leNat (bytes.drop 2))) else s
  else s

/-- MGMT_WRITE. -/
def execMgmtWrite (addr : BitVec 7) (bytes : List W8) (s : State) : Result :=
  .next (if s.pwr.block = .off then s
    else if s.mgmt.answers addr = false then s.mgmtAnswer false []
    else if s.asleep then s.mgmtWake 0
    else (s.mgmtAnswer true []).mgmtPut bytes)

/-- MGMT_READ: the 8 bytes of the entry at the offset, least significant first; beyond the page they are zero (R385, R386). -/
def execMgmtRead (addr : BitVec 7) (s : State) : Result :=
  .next (if s.pwr.block = .off then s
    else if s.mgmt.answers addr = false then s.mgmtAnswer false []
    else if s.asleep then s.mgmtWake 8
    else
      let o := s.mgmt.offset.toNat
      s.mgmtAnswer true (leBytes 8 (if o < 0x1000 then (s.readReg (0x7F000 + o)).toNat else 0)))

/-- ENTDAA: a target without a dynamic address takes one. The broadcast that starts it does nothing in sleep (R315). -/
def execEntdaa (addr : BitVec 7) (s : State) : Result :=
  .next (if s.pwr.block = .off ∨ s.asleep ∨ s.mgmt.dynamic.isSome then s
    else { s with mgmt := { s.mgmt with dynamic := some addr } }.mgmtAnswer true [])

/-- SETDASA: a target that answers its static address takes a dynamic one; in sleep the match only starts a wake. -/
def execSetdasa (addr : BitVec 7) (s : State) : Result :=
  .next (if s.pwr.block = .off ∨ s.mgmt.dynamic.isSome then s
    else if s.asleep then s.mgmtWake 0
    else { s with mgmt := { s.mgmt with dynamic := some addr } }.mgmtAnswer true [])

/-- RSTDAA, a broadcast: the dynamic address goes. -/
def execRstdaa (s : State) : Result :=
  .next (if s.pwr.block = .off ∨ s.asleep then s else { s with mgmt := { s.mgmt with dynamic := none } }.mgmtAnswer true [])

/-- A code that returns `n` bytes, whose values R375 does not give: free values (log entry 28). It is directed at the dynamic address; a block
that has none acknowledges nothing. -/
def State.mgmtGet (s : State) (ccc n : Nat) : State :=
  if s.pwr.block = .off then s
  else if s.mgmt.dynamic = none then s.mgmtAnswer false []
  else if s.asleep then s.mgmtWake n
  else s.mgmtAnswer true ((List.range n).map fun i => Config.mgmtIdentity ccc i)

/-- GETPID: 6 bytes. -/
def execGetpid (s : State) : Result := .next (s.mgmtGet 0x8D 6)

/-- GETBCR: 1 byte. -/
def execGetbcr (s : State) : Result := .next (s.mgmtGet 0x8E 1)

/-- GETDCR: 1 byte. -/
def execGetdcr (s : State) : Result := .next (s.mgmtGet 0x8F 1)

/-- GETSTATUS: 2 bytes. -/
def execGetstatus (s : State) : Result := .next (s.mgmtGet 0x90 2)

end Sys2Proof.Machine
end

