-- ==== Sys2Proof/Machine/Ports.lean ====
section
/-! DEFINITION. Responses at the memory ports (R294 to R298, R368, R369): read data with parity and poison, acknowledgements of writes and
atomic adds, and what each request was for; and the signals that a request drives (Table 18-7). -/

namespace Sys2Proof.Machine

/-! ### The signals of a request (Tables 14-3 and 18-7, R368) -/

/-- The parity bit of 8 byte lanes: the exclusive OR of their bits (R368). -/
def laneParity (bs : List W8) : Bool := (List.range 8).foldl (fun p b => bs.foldl (fun p x => p != x.getLsbD b) p) false

/-- The bytes of a write-credit request in the 256 lanes of its granule; a lane that it does not enable carries zero (log entry 143). -/
def Request.lanes (r : Request) : List W8 :=
  let k := r.addr % 256
  (List.replicate k 0#8 ++ r.bytes ++ List.replicate (256 - k - r.bytes.length) 0#8).take 256

/-- WBE: the lanes that the request writes, as bits. -/
def Request.byteEnables (r : Request) : BitVec 256 := BitVec.ofNat 256 (2 ^ (r.addr % 256) * (2 ^ r.bytes.length - 1))

/-- Parity of 8-lane groups, bit i for lanes 8i to 8i + 7. -/
def parityBits (bs : List W8) : BitVec 32 :=
  BitVec.ofNat 32 (maskOf ((List.range (ceilDiv bs.length 8)).filter fun i => laneParity ((bs.drop (8 * i)).take 8)))

/-- WPAR: driven on every lane, enabled or not. -/
def Request.parity (r : Request) : BitVec 32 := parityBits r.lanes

/-- WR_TYPE (Table 14-3), READ included. -/
def Request.typeCode (r : Request) : Nat := match r.purpose with
  | .atomic ordered _ _ => if ordered then 5 else 4
  | _ => if r.write then 1 else 0

/-- WR_ADDR and RD_ADDR: a multiple of 64, or of 4 for atomics. -/
def Request.wireAddr (r : Request) : Nat := match r.purpose with
  | .atomic _ _ _ => r.addr
  | _ => r.addr / 64 * 64

/-- WR_SIZE and RD_SIZE: 64-byte lines less one; 0 for atomics. -/
def Request.wireSize (r : Request) : Nat := match r.purpose with
  | .atomic _ _ _ => 0
  | _ => (r.addr + r.size - 1) / 64 - r.addr / 64

/-! ### What a response finds -/

/-- A request of a kind in flight, by its tag. -/
def Port.answered (x : Port) (write : Bool) (tag : BitVec 12) : Option Request :=
  x.inflight.find? fun r => r.write == write && r.tag == tag

/-- The request leaves flight: its credit is free. -/
def State.freeCredit (s : State) (p : Nat) (r : Request) : State :=
  let x := s.port p
  s.setPort p { x with inflight := x.inflight.erase r }

/-- The opcode of a position, 0 when none. -/
def State.opcodeOf (s : State) (n : Nat) (pos : W32) : Nat := match s.entry n pos with
  | some e => descOpcode e.desc
  | none => 0

/-- The error record of a request whose answer is an error. -/
def State.portError (s : State) (p : Nat) (r : Request) (severity cause status : Nat) (info : W64) : State :=
  let e := (ErrorEvent.plain severity cause 0 p info).atAddr 3 r.addr
  s.logError (match s.entry r.ring r.pos with
    | some f => e.of r.ring r.pos (descOpcode f.desc) status
    | none => e)

/-- A request's data is lost: the descriptor ends with E_MEM, with an error record of a cause and INFO (R294, R297). An exchange goes on
(R235). -/
def State.requestLost (s : State) (p : Nat) (r : Request) (cause : Nat) (info : W64) : State :=
  let s := s.portError p r 3 cause stMem info
  match s.exchange r.ring r.pos with
  | some _ =>
    let s := s.modExchange r.ring r.pos fun x => { x with
      badReads := if r.write then x.badReads else x.badReads ++ [(r.addr, r.size)] }
    s.softFail r.ring r.pos stMem p 7 s.xch.self.toNat
  | none => s.fail r.ring r.pos stMem p

/-! ### Reads (R297) -/

/-- The role in which a contributor's host lines enter its session (R279): a TABLE_LOAD reads program lines. -/
def readRole (opcode : Nat) : Option Nat := if opcode = 0x12 then some 0 else none

/-- Data of a read reaches the block's view of host memory, line by line with its poison bits. -/
def State.readArrives (s : State) (r : Request) (data : List W8) (poison : BitVec 4) : State :=
  (List.range (ceilDiv r.size 64)).foldl (fun s k =>
    s.storeHost (r.addr + 64 * k) ((data.drop (64 * k)).take 64) (poison.getLsbD k)) s

/-- What a read without an error was for. -/
def State.useRead (s : State) (p : Nat) (r : Request) (data : List W8) (poison : BitVec 4) : State :=
  match r.purpose with
  | .descriptors count burstEnd =>
    if poison = 0#4 then s.arriveDescriptors r.ring r.pos burstEnd count data
    else if count = 0 then s
    else s.readFailed r.ring r.pos burstEnd p
  | .operand =>
    let s := s.readArrives r data poison
    if s.sealing r.ring r.pos then s.sealRange r.ring (readRole (s.opcodeOf r.ring r.pos)) 3 r.addr r.size else s
  | .reportData => (s.readArrives r data poison).reportRead (poison ≠ 0#4)
  | .authorisation => (s.readArrives r data poison).lcRead (decide (poison = 0#4))
  | _ => s

/-- What a read that failed was for. -/
def State.loseRead (s : State) (p : Nat) (r : Request) (cause : Nat) (info : W64) : State :=
  match r.purpose with
  | .descriptors count burstEnd => if count = 0 then s else s.readFailed r.ring r.pos burstEnd p
  | .reportData => (s.portError p r 3 cause 0 info).reportRead true
  | .authorisation => (s.portError p r 3 cause 0 info).lcRead false
  | _ => s.requestLost p r cause info

/-- A read with a parity error is repeated once, with a corrected event. -/
def State.repeatRead (s : State) (p : Nat) (r : Request) : State :=
  (s.portError p r 1 0x06 0 0#64).request p { r with repeated := true }

/-- Whether the parity that came with read data fails: bit i covers the data's bytes 8i to 8i + 7 (R297, R368). -/
def parityFails (data : List W8) (parity : BitVec 32) : Bool :=
  decide ((parity ^^^ parityBits data) &&& BitVec.ofNat 32 (2 ^ ceilDiv data.length 8 - 1) ≠ 0#32)

/-- MEMORY_READ_RESPONSE. Nothing is sampled on a stopped clock (R360). -/
def execMemoryReadResponse (port : BitVec 5) (tag : BitVec 12) (data : List W8) (parity : BitVec 32) (poison : BitVec 4) (err : W8)
    (s : State) : Result :=
  let p := port.toNat
  if p < s.portCount then
    match (s.port p).answered false tag with
    | none => .next s
    | some r =>
      if s.clocked = false then .next s
      else if err ≠ 0#8 then .next (((s.freeCredit p r).loseRead p r 0x08 (err.setWidth 64)).pump p)
      else if data.length ≠ r.size then .next s
      else if parityFails data parity then
        if r.repeated then .next (((s.freeCredit p r).loseRead p r 0x07 0#64).pump p)
        else .next ((s.freeCredit p r).repeatRead p r)
      else .next (((s.freeCredit p r).useRead p r data poison).pump p)
  else .fault .absentUnit

/-! ### Writes and atomic adds (R296, R298) -/

/-- ERR_TAIL passes the records at its front whose writes are acknowledged, and BLK_EVENT.ERR_RECORD is set for each (R349). -/
def State.errorsOut : Nat → State → State
  | 0, s => s
  | k + 1, s =>
    match s.err.writing with
    | [] => s
    | w :: rest =>
      if s.err.written.contains w.index then
        State.errorsOut k ({ s with err := { s.err with
          tail := s.err.tail + 1#32, writing := rest, written := s.err.written.filter (· != w.index) } }.event .errRecord w.unit.toNat
            (256 * w.severity.toNat + w.cause.toNat))
      else s

/-- The write of an error record is acknowledged. -/
def State.errorWritten (s : State) (index : W32) : State :=
  if s.err.writing.any fun w => w.index == index then
    State.errorsOut s.err.writing.length { s with err := { s.err with written := s.err.written ++ [index] } }
  else s

/-- What an acknowledged write was for. What it does to memory was done when it left (log entry 44). -/
def State.useAck (s : State) (r : Request) : State :=
  match r.purpose with
  | .phase =>
    match s.entry r.ring r.pos with
    | some _ => s.modRing r.ring fun x => x.complete r.pos
    | none => s
  | .errorRecord => s.errorWritten r.pos
  | _ => s

/-- What a write that an error answered was for: the bytes that it addressed are undefined (R294). -/
def State.loseWrite (s : State) (p : Nat) (r : Request) (err : W8) : State :=
  let info : W64 := err.setWidth 64
  let s := s.spoilHost r.addr r.bytes.length
  match r.purpose with
  | .output => s.requestLost p r 0x08 info
  | .atomic _ _ _ => s.requestLost p r 0x08 info
  | .recordBody => s.recordFailed r.ring r.pos p
  | .phase =>
    match s.entry r.ring r.pos with
    | some _ => s.recordFailed r.ring r.pos p
    | none => s
  | .interrupt v => s.irqLost p v err.toNat r.addr
  | .errorRecord => s.errorWritten r.pos
  | .recorder => s.portError p r 3 0x08 0 info
  | .report => (s.portError p r 3 0x08 0 info).reportFault
  | _ => s

/-- MEMORY_WRITE_ACK. Nothing is sampled on a stopped clock (R360). After a fatal event no engine goes on (R350). -/
def execMemoryWriteAck (port : BitVec 5) (tag : BitVec 12) (err : W8) (s : State) : Result :=
  let p := port.toNat
  if p < s.portCount then
    match (s.port p).answered true tag with
    | none => .next s
    | some r =>
      if s.clocked = false then .next s
      else
        let s := s.freeCredit p r
        let s := if err = 0#8 then s.useAck r else s.loseWrite p r err
        let s := s.pump p
        .next (if s.err.stopped then s else s.settleExchange r.ring r.pos)
  else .fault .absentUnit

end Sys2Proof.Machine
end

