-- ==== Sys2Proof/Machine/Reset.lean ====
section
/-! DEFINITION. Power-on, power-off, the resets (R361, R362, Tables 18-2, 18-3 and 19-6), the end of every wipe (R338), the end of a
life-cycle transition (R334), and the end of a wake (R314). -/

namespace Sys2Proof.Machine

/-! ### What each event resets (R383) -/

/-- The kinds of Table 18-2, with the two causes of a cold reset apart: a transition's does not remove power (R334). -/
inductive ResetKind where
  | powerOn
  | cold
  | transition
  | block
  deriving DecidableEq, Repr

/-- Every kind but the block reset resets Ember (Table 18-2). -/
def ResetKind.all (k : ResetKind) : Bool := decide (k ≠ .block)

/-- A hearth after a reset; a block reset keeps the counts of class C that Ember holds (Table 17-11). -/
def Hearth.afterReset (cold : Bool) (x : Hearth) : Hearth :=
  if cold then Hearth.reset
  else
    { Hearth.reset with
      bistResult := x.bistResult, bistUnit := x.bistUnit, bistRuns := x.bistRuns, bistFails := x.bistFails,
      sramCe := x.sramCe, sramUe := x.sramUe, scrubPasses := x.scrubPasses }

/-- The audit registers: COUNT and POWERED_TIME are of class P, the SYNC registers of class C, the rest of class B. -/
def Audit.afterReset (cold : Bool) (a : Audit) : Audit :=
  if cold then { Audit.reset with count := a.count, powered := a.powered }
  else
    { Audit.reset with
      count := a.count, powered := a.powered, role := a.role, delay := a.delay, locked := a.locked, lockLost := a.lockLost,
      lostCount := a.lostCount, residual := a.residual, skew := a.skew, goodPulses := a.goodPulses, skewUnset := a.skewUnset,
      slew := a.slew, pulses := a.pulses, syncOut := a.syncOut }

/-- The error registers: ERR_FATAL is of class C. -/
def Errors.afterReset (cold : Bool) (e : Errors) : Errors :=
  if cold then Errors.reset
  else
    { Errors.reset with
      fatalValid := e.fatalValid, fatalCause := e.fatalCause, fatalType := e.fatalType, fatalUnit := e.fatalUnit,
      fatalStamp := e.fatalStamp }

/-- The Seal: the fuses, PEND, ALARM_COUNT and SEAL_WIPE stay, and so do the conditions that SENSE shows; the fuses are read again (R383;
log entry 31). BUSY stays until the reset completes. -/
def Seal.afterReset (v : Seal) : Seal :=
  { Seal.reset with
    lcFuse := v.lcFuse, rootBlank := v.rootBlank, keySlots := v.keySlots, slotMask := v.slotMask, lockFuse := v.lockFuse,
    policyFuse := v.policyFuse, policy := if v.lockFuse then v.policyFuse else 0x55555555#32, lcShown := v.lcFuse, busy := v.busy,
    nonce := v.nonce, pend := v.pend, sense := v.sense, alarmCount := v.alarmCount, wipeCause := v.wipeCause,
    wipeCount := v.wipeCount, wipeUs := v.wipeUs, drbg := v.drbg }

/-- The power region is Ember's: only a cold reset resets it; the switches' acknowledgements are inputs (Table 19-8, R376). A cold reset asks
for the power of every domain anew (Table 18-3), and one of a transition leaves the domains as they are. A block that slept is on its way to
Run. -/
def Power.afterReset (k : ResetKind) (p : Power) : Power :=
  match k with
  | .powerOn => { Power.reset with pswReq := 0#73, pswAck := 0#73 }
  | .cold => { Power.reset with pswReq := 0#73, pswAck := p.pswAck }
  | .transition => { Power.reset with pswReq := p.pswReq, pswAck := p.pswAck }
  | .block => { p with block := .run, sleeping := .run, committed := false, dueWake := none }

/-- The rails are asked for again where the reset, or the Hibernate that it ends, took them away (Table 18-3). -/
def State.resetRails (s : State) (k : ResetKind) (before : BlockState) : State :=
  match k with
  | .powerOn => s.railsOn
  | .cold => s.railsOn
  | .transition => s
  | .block => if before = .hibernate then s.railsOn else s

/-- The Sash, and the rings with what Ember holds of them: a block reset keeps the doorbells and the accesses that wait (Table 18-2). -/
def State.resetEmber (s : State) (k : ResetKind) : State :=
  if k.all then
    { s with
      rings := [], sash := Sash.reset, jtag := Jtag.reset, mgmt := { Mgmt.reset with staticAddr := s.mgmt.staticAddr } }
  else
    { s with
      rings := Tab.remap Ring.reset s.rings fun r => { Ring.reset with held := r.held },
      jtag := { s.jtag with wrappers := [] } }

/-- A reset starts: every register and memory takes its value, and the wipe of a cause runs until WIPE_DONE (R361). The hearths that may have
power are asked for it, and accesses that stalled meet the reset. -/
def State.startReset (s : State) (k : ResetKind) (cause : BitVec 3) : State :=
  let before := s.pwr.block
  let s := { s.resetEmber k with
    mantel := [], mantelPoison := [], mantelBad := [], mantelSoft := [],
    hearths := if k.all then [] else Tab.remap Hearth.reset s.hearths (Hearth.afterReset false),
    ports := [], blk := Block.reset, pwr := s.pwr.afterReset k, audit := s.audit.afterReset k.all, xch := Transom.reset,
    vault := s.vault.afterReset, err := s.err.afterReset k.all, maint := Maint.reset }
  let s := (s.resetRails k before).startWipe cause
  let s := { s with vault := { s.vault with resetting := true, resetCold := k.all } }
  ((List.range s.cfg.stoves).foldl (fun s v => s.raiseHearths v) s).completeStalled

/-! ### Commands that start a reset -/

/-- LIFECYCLE_FUSES_DONE: the fuses of the accepted transition are blown, ROOT with that to PROVISIONED (R328), and the block performs a cold
reset (R334). -/
def execLifecycleFusesDone (s : State) : Result :=
  let v := s.vault
  if v.blowing then .next ({ s with vault := v.blowFirst v.fuseSteps }.startReset .transition 2#3)
  else .next s

/-- COLD_RESET: a level of at least 2 periods of EMBER_CLK; it restarts a reset in progress (R362). -/
def execColdReset (periods : W8) (s : State) : Result :=
  if periods.toNat < 2 ∨ s.pwr.block = .off then .next s else .next (s.cutFuses.startReset .cold 1#3)

/-- BLOCK_RESET: ignored during a cold reset. -/
def execBlockReset (periods : W8) (s : State) : Result :=
  if periods.toNat < 2 ∨ s.pwr.block = .off ∨ (s.vault.resetting ∧ s.vault.resetCold) then .next s
  else .next (s.cutFuses.startReset .block 1#3)

/-- What the removal of VDD_EMBER leaves: the configuration, the fuses, and what lies outside the block (Table 15-2). -/
def State.unpowered (s : State) : State :=
  let v := s.vault
  State.railsOff { State.reset with
    cfg := s.cfg, pending := s.pending, host := s.host, hostPoison := s.hostPoison, draws := s.draws,
    pwr := { Power.reset with block := .off, pswReq := 0#73, pswAck := 0#73 },
    vault := { Seal.reset with
      lcFuse := v.lcFuse, rootBlank := v.rootBlank, keySlots := v.keySlots, slotMask := v.slotMask, lockFuse := v.lockFuse,
      policyFuse := v.policyFuse, lcShown := v.lcFuse, drbg := v.drbg },
    mgmt := { Mgmt.reset with staticAddr := s.mgmt.staticAddr } }

/-- POWER_OFF. -/
def execPowerOff (s : State) : Result := .next s.cutFuses.unpowered

/-- POWER_ON: the counts start from zero and everything is reset; RAIL_ON_s of every stove is high, and no domain has power yet (R364). -/
def execPowerOn (s : State) : Result :=
  if s.pwr.block = .off then .next (s.unpowered.startReset .powerOn 1#3) else .next s

/-! ### The end of a wipe -/

/-- A reset completes (R327, R328, R333, R334, R369): the self-tests' flags, ATTEST, a fresh nonce, the credits, and after the reset of a block
that slept what waits for Run. An alarm met during the reset leaves the block HALTED (R342). -/
def State.completeReset (s : State) (selftestFail entropyFail : Bool) (credits : List (BitVec 13 × BitVec 13)) : State :=
  let halted := s.vault.handling.isSome
  let s := s.endWipe
  let v := s.vault
  let bad := s.cfg.hasSeal && selftestFail
  let s := { s with vault := { v with
    resetting := false, resetCold := false, busy := false, handling := none, halted := halted, selftestFail := bad,
    entropyFail := s.cfg.hasSeal && entropyFail, attest := v.keyed && !bad && !v.keysErased } }
  let s := match s.drbg with
    | (some w, s) => { s with vault := { s.vault with nonce := w.setWidth 64 } }
    | (none, s) =>
      let (w, s) := s.draw64
      { s with vault := { s.vault with nonce := w } }
  ((s.sampleCredits credits).startTargets.releaseAlarms).takeHeld.regrant

/-- Every record that an alarm writes is acknowledged or abandoned. -/
def State.recordsOut (s : State) : Bool := s.rings.all fun p => p.2.entries.isEmpty

/-- The handling of an alarm completes (R341, steps 4 and 5). -/
def State.completeAlarm (s : State) : State :=
  let s := s.ringsOff.endWipe
  { s with vault := { s.vault with handling := none, halted := true } }

/-- WIPE_DONE. `failRow` names a row of Table 16-7 that failed a second time, 0 for none: a fatal event, and WIPE_DONE stays low (R338). -/
def execWipeDone (failRow : BitVec 3) (selftestFail entropyFail : Bool) (credits : List (BitVec 13 × BitVec 13)) (s : State) : Result :=
  if s.vault.wiping = false ∨ (s.err.stopped ∧ s.err.fatalCause = 0x15#8) then .next s
  else if failRow ≠ 0#3 then .next (s.fatal 0x15 8 0 (failRow.setWidth 64))
  else if s.vault.resetting then
    if s.allUp then .next (s.completeReset selftestFail entropyFail credits) else .next s
  else if s.recordsOut then .next s.completeAlarm
  else .next s

/-! ### The end of a wake -/

/-- Run is reached in an ordinary wake: POOL_WARN is sampled again, the accesses that stalled complete, and the ports send what waited. -/
def State.resume (s : State) (credits : List (BitVec 13 × BitVec 13)) (warn : W8) : State :=
  let s := s.reachRun credits
  let s := if warn = s.xch.warn then s else s.warnIn warn
  let s := s.completeStalled
  ((List.range s.portCount).foldl (fun s p => s.pump p) s).regrant

/-- WAKE_DONE: the block reaches Run once its domains have power and the hearths that wake from RETAIN with it are ACTIVE; an alarm that waited
acts. From Hibernate an alarm is handled with nothing else: the wipe, and the stalled accesses in the block that it halts (R342). -/
def execWakeDone (sample : WakeSample) (s : State) : Result :=
  let credits := sample.credits
  let warn := sample.warn
  if s.pwr.block = .waking ∧ s.coreUp ∧ s.vault.resetting = false ∧ s.wakesHearths = false then
    if s.vault.handling.isSome then
      if s.pwr.sleeping = .hibernate then .next (s.wakeUp credits).haltWork.completeStalled
      else .next (s.resume credits warn).haltWork
    else .next (s.resume credits warn)
  else .next s

end Sys2Proof.Machine
end

