-- ==== Sys2Proof/Machine/Dispatch.lean ====
section
/-! DEFINITION. The dispatch: one arm for each command, a direct call of its meaning. -/

namespace Sys2Proof.Machine

/-- What a command does to everything but the queue of commands. -/
def exec (i : Instr) (s : State) : Host.Outcome State Fault Refusal :=
  match i with
  | .registerWrite off data => Sys2Proof.Machine.execRegisterWrite off data s
  | .sashAccessError write off be => Sys2Proof.Machine.execSashAccessError write off be s
  | .sashWakeAccess write off data => Sys2Proof.Machine.execSashWakeAccess write off data s
  | .doorbellWrite ring data => Sys2Proof.Machine.execDoorbellWrite ring data s
  | .ringEnable ring cfg => Sys2Proof.Machine.execRingEnable ring cfg s
  | .ringDisable ring cfg => Sys2Proof.Machine.execRingDisable ring cfg s
  | .ringResume ring => Sys2Proof.Machine.execRingResume ring s
  | .evtPop => Sys2Proof.Machine.execEvtPop s
  | .irqUnmask mask => Sys2Proof.Machine.execIrqUnmask mask s
  | .patchGo ctl => Sys2Proof.Machine.execPatchGo ctl s
  | .patchVerifyDone reason version minor major => Sys2Proof.Machine.execPatchVerifyDone reason version minor major s
  | .xchBsetRelease set => Sys2Proof.Machine.execXchBsetRelease set s
  | .isoRelease bits => Sys2Proof.Machine.execIsoRelease bits s
  | .pstateTargetWrite stove target => Sys2Proof.Machine.execPstateTargetWrite stove target s
  | .vreqCodeWrite stove code => Sys2Proof.Machine.execVreqCodeWrite stove code s
  | .vokAssert stove => Sys2Proof.Machine.execVokAssert stove s
  | .pstateFreqSwitch stove => Sys2Proof.Machine.execPstateFreqSwitch stove s
  | .vokTimeout stove => Sys2Proof.Machine.execVokTimeout stove s
  | .damperThrottle stove estimate => Sys2Proof.Machine.execDamperThrottle stove estimate s
  | .sealLcGo target => Sys2Proof.Machine.execSealLcGo target s
  | .lifecycleFusesDone => Sys2Proof.Machine.execLifecycleFusesDone s
  | .keyCtlGo index => Sys2Proof.Machine.execKeyCtlGo index s
  | .eraseKeys => Sys2Proof.Machine.execEraseKeys s
  | .policyLock data => Sys2Proof.Machine.execPolicyLock data s
  | .attCtlGo pub => Sys2Proof.Machine.execAttCtlGo pub s
  | .attestReportDone memError => Sys2Proof.Machine.execAttestReportDone memError s
  | .recorderEnable ctl => Sys2Proof.Machine.execRecorderEnable ctl s
  | .errCtlEnable ctl => Sys2Proof.Machine.execErrCtlEnable ctl s
  | .matmul ring pos => Sys2Proof.Machine.execMatmul ring pos s
  | .drain ring pos => Sys2Proof.Machine.execDrain ring pos s
  | .groupOpen ring pos => Sys2Proof.Machine.execGroupOpen ring pos s
  | .groupSpill ring pos => Sys2Proof.Machine.execGroupSpill ring pos s
  | .groupResume ring pos => Sys2Proof.Machine.execGroupResume ring pos s
  | .groupClose ring pos => Sys2Proof.Machine.execGroupClose ring pos s
  | .chain ring pos => Sys2Proof.Machine.execChain ring pos s
  | .softmax ring pos => Sys2Proof.Machine.execSoftmax ring pos s
  | .logsoftmax ring pos => Sys2Proof.Machine.execLogsoftmax ring pos s
  | .rmsnorm ring pos => Sys2Proof.Machine.execRmsnorm ring pos s
  | .layernorm ring pos => Sys2Proof.Machine.execLayernorm ring pos s
  | .topkSoftmax ring pos => Sys2Proof.Machine.execTopkSoftmax ring pos s
  | .merge ring pos => Sys2Proof.Machine.execMerge ring pos s
  | .tableLoad ring pos => Sys2Proof.Machine.execTableLoad ring pos s
  | .tableSwap ring pos => Sys2Proof.Machine.execTableSwap ring pos s
  | .routeBuild ring pos => Sys2Proof.Machine.execRouteBuild ring pos s
  | .dispatch ring pos => Sys2Proof.Machine.execDispatch ring pos s
  | .combine ring pos => Sys2Proof.Machine.execCombine ring pos s
  | .dispatchReverse ring pos => Sys2Proof.Machine.execDispatchReverse ring pos s
  | .combineReverse ring pos => Sys2Proof.Machine.execCombineReverse ring pos s
  | .copy ring pos => Sys2Proof.Machine.execCopy ring pos s
  | .fill ring pos => Sys2Proof.Machine.execFill ring pos s
  | .fenceRing ring pos => Sys2Proof.Machine.execFenceRing ring pos s
  | .fenceEpoch ring pos => Sys2Proof.Machine.execFenceEpoch ring pos s
  | .epochInstall => Sys2Proof.Machine.execEpochInstall s
  | .launchAt ring pos => Sys2Proof.Machine.execLaunchAt ring pos s
  | .launchAtExpire ring => Sys2Proof.Machine.execLaunchAtExpire ring s
  | .sealClose ring pos => Sys2Proof.Machine.execSealClose ring pos s
  | .wait ring pos => Sys2Proof.Machine.execWait ring pos s
  | .lowPowerEnter => Sys2Proof.Machine.execLowPowerEnter s
  | .hearthSetOffline ring pos => Sys2Proof.Machine.execHearthSetOffline ring pos s
  | .hearthOfflineSettle => Sys2Proof.Machine.execHearthOfflineSettle s
  | .hearthSetOnline ring pos => Sys2Proof.Machine.execHearthSetOnline ring pos s
  | .maintStart ring pos => Sys2Proof.Machine.execMaintStart ring pos s
  | .maintCancel ring pos => Sys2Proof.Machine.execMaintCancel ring pos s
  | .pauseAuto ring pos => Sys2Proof.Machine.execPauseAuto ring pos s
  | .resumeAuto ring pos => Sys2Proof.Machine.execResumeAuto ring pos s
  | .nop ring pos => Sys2Proof.Machine.execNop ring pos s
  | .descriptorFetch => Sys2Proof.Machine.execDescriptorFetch s
  | .descriptorIssue => Sys2Proof.Machine.execDescriptorIssue s
  | .chunkStep hearth => Sys2Proof.Machine.execChunkStep hearth s
  | .tileSwap hearth => Sys2Proof.Machine.execTileSwap hearth s
  | .tileLoad hearth => Sys2Proof.Machine.execTileLoad hearth s
  | .autoSpill hearth => Sys2Proof.Machine.execAutoSpill hearth s
  | .tileDrainCommit hearth => Sys2Proof.Machine.execTileDrainCommit hearth s
  | .stagePanelFetch hearth => Sys2Proof.Machine.execStagePanelFetch hearth s
  | .kSplitCombine ring pos tile => Sys2Proof.Machine.execKSplitCombine ring pos tile s
  | .chainPass hearth => Sys2Proof.Machine.execChainPass hearth s
  | .sfuGrant hearth => Sys2Proof.Machine.execSfuGrant hearth s
  | .shapeReload hearth bank line outcome => Sys2Proof.Machine.execShapeReload hearth bank line outcome s
  | .orderedAddRelease port => Sys2Proof.Machine.execOrderedAddRelease port s
  | .xchPacketSend port => Sys2Proof.Machine.execXchPacketSend port s
  | .xchCountReceive port pkt => Sys2Proof.Machine.execXchCountReceive port pkt s
  | .poolGrant tag pool index base => Sys2Proof.Machine.execPoolGrant tag pool index base s
  | .xchReadyReceive port pkt => Sys2Proof.Machine.execXchReadyReceive port pkt s
  | .xchRowReceive port pkt => Sys2Proof.Machine.execXchRowReceive port pkt s
  | .xchDoneReceive port pkt => Sys2Proof.Machine.execXchDoneReceive port pkt s
  | .xchDwReceive port pkt => Sys2Proof.Machine.execXchDwReceive port pkt s
  | .xchStaleReceive port pkt => Sys2Proof.Machine.execXchStaleReceive port pkt s
  | .xchAbortReceive port pkt => Sys2Proof.Machine.execXchAbortReceive port pkt s
  | .xchCreditReturn port ctrl out ret => Sys2Proof.Machine.execXchCreditReturn port ctrl out ret s
  | .poolWarnChange warn => Sys2Proof.Machine.execPoolWarnChange warn s
  | .xchTimeout combine reverse xid peer => Sys2Proof.Machine.execXchTimeout combine reverse xid peer s
  | .memoryReadResponse port tag data parity poison err => Sys2Proof.Machine.execMemoryReadResponse port tag data parity poison err s
  | .memoryWriteAck port tag err => Sys2Proof.Machine.execMemoryWriteAck port tag err s
  | .completionRecordWrite ring pos => Sys2Proof.Machine.execCompletionRecordWrite ring pos s
  | .fatalEvent cause unitType unit info => Sys2Proof.Machine.execFatalEvent cause unitType unit info s
  | .fatalHalt => Sys2Proof.Machine.execFatalHalt s
  | .hearthIdleEntry hearth => Sys2Proof.Machine.execHearthIdleEntry hearth s
  | .hearthWakeDone hearth => Sys2Proof.Machine.execHearthWakeDone hearth s
  | .blockWake source => Sys2Proof.Machine.execBlockWake source s
  | .pswAck domain level => Sys2Proof.Machine.execPswAck domain level s
  | .wakeDone sample => Sys2Proof.Machine.execWakeDone sample s
  | .mgmtWrite addr bytes => Sys2Proof.Machine.execMgmtWrite addr bytes s
  | .mgmtRead addr => Sys2Proof.Machine.execMgmtRead addr s
  | .entdaa addr => Sys2Proof.Machine.execEntdaa addr s
  | .setdasa addr => Sys2Proof.Machine.execSetdasa addr s
  | .rstdaa => Sys2Proof.Machine.execRstdaa s
  | .getpid => Sys2Proof.Machine.execGetpid s
  | .getbcr => Sys2Proof.Machine.execGetbcr s
  | .getdcr => Sys2Proof.Machine.execGetdcr s
  | .getstatus => Sys2Proof.Machine.execGetstatus s
  | .powerOn => Sys2Proof.Machine.execPowerOn s
  | .powerOff => Sys2Proof.Machine.execPowerOff s
  | .coldReset periods => Sys2Proof.Machine.execColdReset periods s
  | .blockReset periods => Sys2Proof.Machine.execBlockReset periods s
  | .wipeDone failRow selftestFail entropyFail credits => Sys2Proof.Machine.execWipeDone failRow selftestFail entropyFail credits s
  | .entropyHealthFail => Sys2Proof.Machine.execEntropyHealthFail s
  | .alarmTrip source => Sys2Proof.Machine.execAlarmTrip source s
  | .syncPulse pulse => Sys2Proof.Machine.execSyncPulse pulse s
  | .syncPulseMissed => Sys2Proof.Machine.execSyncPulseMissed s
  | .syncOutPulse => Sys2Proof.Machine.execSyncOutPulse s
  | .countTick => Sys2Proof.Machine.execCountTick s
  | .recorderGap => Sys2Proof.Machine.execRecorderGap s
  | .replayStep => Sys2Proof.Machine.execReplayStep s
  | .replayDiverge => Sys2Proof.Machine.execReplayDiverge s
  | .maintSchedule activity target => Sys2Proof.Machine.execMaintSchedule activity target s
  | .tempHiChange hearth hi => Sys2Proof.Machine.execTempHiChange hearth hi s
  | .maintGrant => Sys2Proof.Machine.execMaintGrant s
  | .maintStep activity target outcome => Sys2Proof.Machine.execMaintStep activity target outcome s
  | .maintActivityDone activity target pass unit => Sys2Proof.Machine.execMaintActivityDone activity target pass unit s
  | .extest => Sys2Proof.Machine.execExtest s
  | .idcode => Sys2Proof.Machine.execIdcode s
  | .samplePreload => Sys2Proof.Machine.execSamplePreload s
  | .clamp => Sys2Proof.Machine.execClamp s
  | .ijtagAccess => Sys2Proof.Machine.execIjtagAccess s
  | .wrapperAccess => Sys2Proof.Machine.execWrapperAccess s
  | .bypass test => Sys2Proof.Machine.execBypass test s
  | .alarmRecordAbandon => Sys2Proof.Machine.execAlarmRecordAbandon s
  | .alarmConditionEnd source => Sys2Proof.Machine.execAlarmConditionEnd source s

end Sys2Proof.Machine
end

