-- ==== Sys2Proof/WellFormed.lean ====
section
/-! DEFINITION. Which commands can reach the block: their units exist in a configuration with a number of hearths (R3, R6), and their operands have
the shape that the ports give them. Any other command is answered all the same: it changes nothing, or faults on an absent unit. -/

namespace Sys2Proof

/-- A Sash offset of a full access: a multiple of 8 (R15). -/
def full (off : BitVec 20) : Bool := off.toNat % 8 == 0

/-- A packet of one of the given types whose LEN is its payload's length (Table 11-9). -/
def Packet.wellFormed (p : Packet) (types : List Nat) : Bool :=
  types.contains p.type.toNat && p.payload.length == p.len.toNat

/-- Well-formed commands of a block with `hearths` hearths. -/
def Instr.wellFormed (hearths : Nat) : Instr → Bool
  | .registerWrite off _ => full off
  | .sashAccessError _ off be => be != 0xFF#8 || !full off
  | .sashWakeAccess _ off _ => full off
  | .doorbellWrite _ _ => true
  | .ringEnable _ _ => true
  | .ringDisable _ _ => true
  | .ringResume _ => true
  | .evtPop => true
  | .irqUnmask _ => true
  | .patchGo _ => true
  | .patchVerifyDone _ _ _ _ => true
  | .xchBsetRelease _ => true
  | .isoRelease _ => true
  | .pstateTargetWrite _ _ => true
  | .vreqCodeWrite _ _ => true
  | .vokAssert stove => decide (stove.toNat < hearths / 8)
  | .pstateFreqSwitch stove => decide (stove.toNat < hearths / 8)
  | .vokTimeout stove => decide (stove.toNat < hearths / 8)
  | .damperThrottle stove _ => decide (stove.toNat < hearths / 8)
  | .sealLcGo _ => true
  | .lifecycleFusesDone => true
  | .keyCtlGo _ => true
  | .eraseKeys => true
  | .policyLock _ => true
  | .attCtlGo _ => true
  | .attestReportDone _ => true
  | .recorderEnable _ => true
  | .errCtlEnable _ => true
  | .matmul _ _ => true
  | .drain _ _ => true
  | .groupOpen _ _ => true
  | .groupSpill _ _ => true
  | .groupResume _ _ => true
  | .groupClose _ _ => true
  | .chain _ _ => true
  | .softmax _ _ => true
  | .logsoftmax _ _ => true
  | .rmsnorm _ _ => true
  | .layernorm _ _ => true
  | .topkSoftmax _ _ => true
  | .merge _ _ => true
  | .tableLoad _ _ => true
  | .tableSwap _ _ => true
  | .routeBuild _ _ => true
  | .dispatch _ _ => true
  | .combine _ _ => true
  | .dispatchReverse _ _ => true
  | .combineReverse _ _ => true
  | .copy _ _ => true
  | .fill _ _ => true
  | .fenceRing _ _ => true
  | .fenceEpoch _ _ => true
  | .epochInstall => true
  | .launchAt _ _ => true
  | .launchAtExpire _ => true
  | .sealClose _ _ => true
  | .wait _ _ => true
  | .lowPowerEnter => true
  | .hearthSetOffline _ _ => true
  | .hearthOfflineSettle => true
  | .hearthSetOnline _ _ => true
  | .maintStart _ _ => true
  | .maintCancel _ _ => true
  | .pauseAuto _ _ => true
  | .resumeAuto _ _ => true
  | .nop _ _ => true
  | .descriptorFetch => true
  | .descriptorIssue => true
  | .chunkStep hearth => decide (hearth.toNat < hearths)
  | .tileSwap hearth => decide (hearth.toNat < hearths)
  | .tileLoad hearth => decide (hearth.toNat < hearths)
  | .autoSpill hearth => decide (hearth.toNat < hearths)
  | .tileDrainCommit hearth => decide (hearth.toNat < hearths)
  | .stagePanelFetch hearth => decide (hearth.toNat < hearths)
  | .kSplitCombine _ _ _ => true
  | .chainPass hearth => decide (hearth.toNat < hearths)
  | .sfuGrant hearth => decide (hearth.toNat < hearths)
  | .shapeReload hearth _ _ _ => decide (hearth.toNat < hearths)
  | .orderedAddRelease port => decide (port.toNat < 3 * (hearths / 8))
  | .xchPacketSend port => decide (port.toNat < hearths / 8)
  | .xchCountReceive port pkt => decide (port.toNat < hearths / 8) && pkt.wellFormed [3]
  | .poolGrant _ _ _ _ => true
  | .xchReadyReceive port pkt => decide (port.toNat < hearths / 8) && pkt.wellFormed [4]
  | .xchRowReceive port pkt => decide (port.toNat < hearths / 8) && pkt.wellFormed [1, 2]
  | .xchDoneReceive port pkt => decide (port.toNat < hearths / 8) && pkt.wellFormed [5]
  | .xchDwReceive port pkt => decide (port.toNat < hearths / 8) && pkt.wellFormed [6]
  | .xchStaleReceive port pkt => decide (port.toNat < hearths / 8) && pkt.wellFormed [7]
  | .xchAbortReceive port pkt => decide (port.toNat < hearths / 8) && pkt.wellFormed [8]
  | .xchCreditReturn port _ _ _ => decide (port.toNat < hearths / 8)
  | .poolWarnChange _ => true
  | .xchTimeout _ _ _ _ => true
  | .memoryReadResponse port _ data _ _ _ => decide (port.toNat < 3 * (hearths / 8)) && decide (data.length ≤ 256)
  | .memoryWriteAck port _ _ => decide (port.toNat < 3 * (hearths / 8))
  | .completionRecordWrite _ _ => true
  | .fatalEvent _ _ _ _ => true
  | .fatalHalt => true
  | .hearthIdleEntry hearth => decide (hearth.toNat < hearths)
  | .hearthWakeDone hearth => decide (hearth.toNat < hearths)
  | .blockWake _ => true
  | .pswAck domain _ => decide (domain.toNat < 9 + hearths)
  | .wakeDone sample => decide (sample.credits.length ≤ 3 * (hearths / 8))
  | .mgmtWrite _ _ => true
  | .mgmtRead _ => true
  | .entdaa _ => true
  | .setdasa _ => true
  | .rstdaa => true
  | .getpid => true
  | .getbcr => true
  | .getdcr => true
  | .getstatus => true
  | .powerOn => true
  | .powerOff => true
  | .coldReset periods => decide (2 ≤ periods.toNat)
  | .blockReset periods => decide (2 ≤ periods.toNat)
  | .wipeDone _ _ _ credits => decide (credits.length ≤ 3 * (hearths / 8))
  | .entropyHealthFail => true
  | .alarmTrip source => decide (source.toNat < 5) || decide (7 < source.toNat)
  | .syncPulse _ => true
  | .syncPulseMissed => true
  | .syncOutPulse => true
  | .countTick => true
  | .recorderGap => true
  | .replayStep => true
  | .replayDiverge => true
  | .maintSchedule activity target => decide (target.toNat < hearths) && decide (1 ≤ activity.toNat) && decide (activity.toNat ≤ 3)
  | .tempHiChange hearth _ => decide (hearth.toNat < hearths)
  | .maintGrant => true
  | .maintStep activity target _ => decide (target.toNat < hearths) && decide (1 ≤ activity.toNat) && decide (activity.toNat ≤ 3)
  | .maintActivityDone activity target _ _ => decide (target.toNat < hearths) && decide (1 ≤ activity.toNat) && decide (activity.toNat ≤ 6)
  | .extest => true
  | .idcode => true
  | .samplePreload => true
  | .clamp => true
  | .ijtagAccess => true
  | .wrapperAccess => true
  | .bypass _ => true
  | .alarmRecordAbandon => true
  | .alarmConditionEnd source => decide (source.toNat < 5) || decide (7 < source.toNat)

end Sys2Proof
end

