-- ==== Sys2Proof/Safety.lean ====
section
/-! DEFINITION. What counts as a safe run, in the terms that claims use. -/

namespace Sys2Proof.Machine

/-- A command runs: it has a next state. -/
def Completes (c : Instr) (s : State) : Prop := ∃ t, exec c s = .next t

/-- Every waiting command is well-formed for the configuration. -/
def State.wellQueued (s : State) : Bool := s.pending.all fun c => c.wellFormed s.cfg.hearths

/-- The state can be one of a block: its configuration is one of Table 00-1, its queue is well-formed, and its memories stand in their
canonical form. -/
def State.sound (s : State) : Bool := s.cfg.valid && s.wellQueued && Memory.wf s.host && Memory.wf s.mantel

end Sys2Proof.Machine
end

