-- ==== Sys2Proof/Certificates/Slice0/Obligations.lean ====
section
/-! DEFINITION. The statements of this row, for the provers: what the step does, what every step keeps, and what each command does. -/

/-! ### Vocabulary of the statements -/

namespace Sys2Proof.Machine

/-- The Sash port answers every offset: Run, and neither a reset nor a transition in progress (R307, R334). -/
def State.sashOpen (s : State) : Prop := s.pwr.block = .run ∧ s.vault.resetting = false ∧ s.vault.busy = false

/-- The port's response to a write, with the effect `t` that the write had. -/
def State.answered (t : State) : State := t.respond false 0#64

/-- The command names only stoves, hearths and ports that the configuration has (R3, R6, R293). -/
def commandPresent (c : BlockConfig) : Instr → Bool
  | .vokAssert v => decide (v.toNat < c.stoves)
  | .pstateFreqSwitch v => decide (v.toNat < c.stoves)
  | .vokTimeout v => decide (v.toNat < c.stoves)
  | .damperThrottle v _ => decide (v.toNat < c.stoves)
  | .hearthIdleEntry h => decide (h.toNat < c.hearths)
  | .hearthWakeDone h => decide (h.toNat < c.hearths)
  | .pswAck d _ => decide (d.toNat < 9 + c.hearths)
  | .maintSchedule _ h => decide (h.toNat < c.hearths)
  | .tempHiChange h _ => decide (h.toNat < c.hearths)
  | .stagePanelFetch h => decide (h.toNat < c.hearths)
  | .tileLoad h => decide (h.toNat < c.hearths)
  | .tileSwap h => decide (h.toNat < c.hearths)
  | .chunkStep h => decide (h.toNat < c.hearths)
  | .autoSpill h => decide (h.toNat < c.hearths)
  | .tileDrainCommit h => decide (h.toNat < c.hearths)
  | .chainPass h => decide (h.toNat < c.hearths)
  | .sfuGrant h => decide (h.toNat < c.hearths)
  | .shapeReload h _ _ _ => decide (h.toNat < c.hearths)
  | .orderedAddRelease p => decide (p.toNat < 3 * c.stoves)
  | .memoryReadResponse p _ _ _ _ _ => decide (p.toNat < 3 * c.stoves)
  | .memoryWriteAck p _ _ => decide (p.toNat < 3 * c.stoves)
  | .xchPacketSend p => decide (p.toNat < c.stoves)
  | .xchCreditReturn p _ _ _ => decide (p.toNat < c.stoves)
  | .xchCountReceive p _ => decide (p.toNat < c.stoves)
  | .xchReadyReceive p _ => decide (p.toNat < c.stoves)
  | .xchRowReceive p _ => decide (p.toNat < c.stoves)
  | .xchDoneReceive p _ => decide (p.toNat < c.stoves)
  | .xchDwReceive p _ => decide (p.toNat < c.stoves)
  | .xchStaleReceive p _ => decide (p.toNat < c.stoves)
  | .xchAbortReceive p _ => decide (p.toNat < c.stoves)
  | _ => true

end Sys2Proof.Machine

open Sys2Proof Sys2Proof.Machine

/-! ### The step, and what every step keeps -/

/-- The block takes the oldest waiting command and runs it with the rest of the queue; with none waiting it idles (log entry 1). -/
def Obligations.StepRunsTheFrontCommand : Prop :=
  (∀ (c : Instr) (rest : List Instr) (s : State), s.pending = c :: rest → step s = exec c { s with pending := rest }) ∧
  ∀ s : State, s.pending = [] → step s = .next s

/-- No command is refused: one whose units the configuration has takes a next state, any other names an absent unit and stops. -/
def Obligations.EveryPresentCommandCompletes : Prop :=
  ∀ (c : Instr) (s : State),
    (commandPresent s.cfg c = true → Completes c s) ∧ (commandPresent s.cfg c = false → exec c s = .fault .absentUnit)

/-- The configuration never changes (R382), and a step takes one command off the queue and puts none on it. -/
def Obligations.EveryStepKeepsTheConfiguration : Prop :=
  ∀ s t : State, step s = .next t → t.cfg = s.cfg ∧ t.pending = s.pending.tail

/-- A state of a block stays one: configuration of Table 00-1, well-formed queue, memories in their canonical form. -/
def Obligations.EveryStepKeepsSoundStates : Prop :=
  ∀ s t : State, s.sound = true → step s = .next t → t.sound = true

/-- A blown life-cycle fuse stays blown (Table 16-3): no command takes a part back to an earlier life-cycle fuse code. -/
def Obligations.BlownFusesStayBlown : Prop :=
  ∀ (s t : State) (b : Nat), step s = .next t → s.vault.lcFuse.getLsbD b = true → t.vault.lcFuse.getLsbD b = true

/-- The state after reset is a state of a block. -/
def Obligations.ResetIsSound : Prop := State.reset.sound = true

/-- Registers whose Reset column gives one value: offset and value (Tables 12-1, 12-13 to 12-15, 13-9, 15-11, 16-13, 17-10, 17-11). -/
def Sys2Proof.resetReads : List (Nat × Nat) :=
  [(0x1000, 0), (0x1010, 0), (0x1018, 0), (0x1020, 0), (0x1028, 0), (0x1400, 0xFFFF), (0x2000, 0), (0x2008, 0), (0x2010, 1), (0x2018, 0),
    (0x4000, 0), (0x4008, 0), (0x4010, 0), (0x4018, 0), (0x4020, 0), (0x4040, 0), (0x4048, 0), (0x4050, 0), (0x4058, 0), (0x8010, 6),
    (0x30008, 0), (0x30010, 0), (0x30018, 0), (0x38000, 0), (0x38008, 0), (0x38010, 0), (0x38018, 0), (0x38020, 0), (0x38028, 0),
    (0x38100, 256 + 4096 * 2 ^ 16 + 64 * 2 ^ 32), (0x38108, 0), (0x40020, 0), (0x40028, 0x55555555)]

/-- What the register map reads right after reset, where its tables give a value: single registers, the stoves (Table 15-12), the hearths'
pages (Table 15-13) and the rings other than 0 (Table 12-1). -/
def Obligations.ResetRegistersRead : Prop :=
  (∀ p ∈ resetReads, State.reset.readReg p.1 = BitVec.ofNat 64 p.2) ∧
  (∀ v : Nat, v < 8 → State.reset.readReg (0x2200 + 8 * v) = 0x11#64 ∧ State.reset.readReg (0x2240 + 8 * v) = 0x64#64 ∧
    State.reset.readReg (0x2280 + 8 * v) = 0x80000#64) ∧
  (∀ h : Nat, h < 64 → State.reset.readReg (0x20000 + 0x400 * h) = 0x100001#64 ∧ State.reset.readReg (0x20008 + 0x400 * h) = 0#64) ∧
  ∀ n o : Nat, 0 < n → n < 128 → o ∈ [0x00, 0x08, 0x10, 0x18, 0x20, 0x28, 0x30] → State.reset.readReg (0x8000 + 0x40 * n + o) = 0#64

/-! ### The test and management ports -/

/-- Only the test port's registers and the count of drawn free values change. -/
def Sys2Proof.OnlyTestPort (s t : State) : Prop := t = { s with jtag := t.jtag, draws := t.draws }

/-- A test instruction that acts as BYPASS. -/
def Sys2Proof.ActsAsBypass (c : Instr) (code : W8) (s : State) : Prop :=
  ∃ t, exec c s = .next t ∧ OnlyTestPort s t ∧ t.jtag.ir = code ∧ t.jtag.dr = .bypass ∧ t.jtag.capture = 0#32 ∧
    t.jtag.driving = false ∧ t.jtag.attached = false ∧ t.jtag.boundary = s.jtag.boundary ∧ t.jtag.wrappers = s.jtag.wrappers

/-- A test instruction that selects a register of pins or instruments, and what the scan leaves in the port's registers. -/
def Sys2Proof.SelectsRegister (c : Instr) (code : W8) (d : DataRegister) (driving attached : Bool) (scan : Jtag → Prop) (s : State) : Prop :=
  ∃ t, exec c s = .next t ∧ OnlyTestPort s t ∧ t.jtag.ir = code ∧ t.jtag.dr = d ∧ t.jtag.driving = driving ∧ t.jtag.attached = attached ∧
    scan t.jtag

/-- Every hearth's wrapper takes what a scan leaves in it, and a hearth without power has none to take it. -/
def Sys2Proof.WrappersTake (s : State) (f : Nat → Wrapper → Wrapper) (j : Jtag) : Prop :=
  j.boundary = s.jtag.boundary ∧ ∀ h, Tab.at Wrapper.reset j.wrappers h =
    if h < s.cfg.hearths ∧ (s.hearth h).power ≠ .shut then f h (s.wrapper h) else s.wrapper h

/-- The test instructions of Table 18-15 while TRST is low: their data registers, the boundary cells and the wrappers that a scan loads, and
which of them act as BYPASS in PROVISIONED and MISSION (R378, R379). IDCODE is captured, for IVR-64 as the chapter writes it; the captured bits of
the boundary, the network and the wrappers, and what a scan brings, are free. That EXTEST and CLAMP drive the ports, and what a high TRST resets
are log entry 29's. -/
def Obligations.TestInstructionsSelectTheirRegisters : Prop :=
  ∀ s : State, s.pwr.block ≠ .off → s.jtag.trst = false →
    let scanned (j : Jtag) : Prop := (∃ k, j.boundary = Config.scannedCells k) ∧ j.wrappers = s.jtag.wrappers
    (∃ t, exec .idcode s = .next t ∧ OnlyTestPort s t ∧ t.jtag.ir = 0x01#8 ∧ t.jtag.dr = .idcode ∧
      (s.cfg.hearths = 64 → t.jtag.capture = 0x31A40000#32 ||| (s.cfg.jtagMfr.setWidth 32 <<< 1) ||| 1#32)) ∧
    SelectsRegister .samplePreload 0x02#8 .boundary false false scanned s ∧
    (s.vault.keyed = false →
      SelectsRegister .extest 0x00#8 .boundary true false scanned s ∧
      SelectsRegister .clamp 0x03#8 .bypass true false
        (fun j => j.boundary = s.jtag.boundary ∧ j.wrappers = s.jtag.wrappers ∧ j.capture = 0#32) s ∧
      SelectsRegister .ijtagAccess 0x10#8 .network false true (fun j =>
        ∃ k, WrappersTake s (fun h w => { w with parallel := (Config.scannedPort k h).getD w.parallel }) j) s ∧
      SelectsRegister .wrapperAccess 0x11#8 .wrapper false true (fun j =>
        ∃ k, WrappersTake s (fun h w =>
          let q := Config.scannedWrapper k h
          { w with wir := q.1, wby := q.2.1, wbr := q.2.2 }) j) s) ∧
    (s.vault.keyed = true →
      ActsAsBypass .extest 0x00#8 s ∧ ActsAsBypass .clamp 0x03#8 s ∧ ActsAsBypass .ijtagAccess 0x10#8 s ∧ ActsAsBypass .wrapperAccess 0x11#8 s) ∧
    (∀ code : W8, code ∉ [0x00#8, 0x01#8, 0x02#8, 0x03#8, 0x10#8, 0x11#8] → ActsAsBypass (.bypass ⟨code, false⟩) code s) ∧
    ∀ code : W8, ∃ t, exec (.bypass ⟨code, true⟩) s = .next t ∧ OnlyTestPort s t ∧ t.jtag.trst = true ∧ t.jtag.dr = .idcode ∧
      t.jtag.driving = false ∧ t.jtag.attached = false

/-- Only the management port's registers change. -/
def Sys2Proof.OnlyManagement (s t : State) : Prop := t = { s with mgmt := t.mgmt }

/-- A write transaction leaves the scratch registers as they were. -/
def Sys2Proof.ScratchKept (addr : BitVec 7) (bytes : List W8) (s : State) (offset : W16) : Prop :=
  ∃ t, exec (.mgmtWrite addr bytes) s = .next t ∧ OnlyManagement s t ∧ t.mgmt.offset = offset ∧ t.mgmt.scratch = s.mgmt.scratch ∧
    t.mgmt.dynamic = s.mgmt.dynamic ∧ t.mgmt.acked = true

/-- Outside Off and sleep, a write transaction at an address of the port sets the offset and, with 8 bytes of data, a scratch register; at
the offset of any other entry it changes no scratch register; with a misaligned offset, or any other count of bytes, it has no effect (R375,
R385). A read returns the entry at the offset, least significant byte first, zero beyond the page, and sets nothing (R386). Another
address is not acknowledged. In sleep a transaction at the port's address is acknowledged and only wakes the block with code 2; a
read returns 0xFF eight times (R315). -/
def Obligations.ManagementTransactionsReachTheMirror : Prop :=
  ∀ (s : State) (addr : BitVec 7), s.pwr.block ≠ .off →
    (s.mgmt.answers addr = false → ∀ bytes, exec (.mgmtWrite addr bytes) s = .next (s.mgmtAnswer false []) ∧
      exec (.mgmtRead addr) s = .next (s.mgmtAnswer false [])) ∧
    (s.mgmt.answers addr = true → s.asleep = false →
      (∀ hi lo : W8, (256 * hi.toNat + lo.toNat) % 8 = 0 →
        ScratchKept addr [hi, lo] s (hi ++ lo) ∧
        ((∀ i < 4, 256 * hi.toNat + lo.toNat ≠ 0x100 + 8 * i) → ∀ w : W64,
          ScratchKept addr (hi :: lo :: leBytes 8 w.toNat) s (hi ++ lo))) ∧
      (∀ (i : Nat) (w : W64), i < 4 →
        ∃ t, exec (.mgmtWrite addr (1#8 :: BitVec.ofNat 8 (8 * i) :: leBytes 8 w.toNat)) s = .next t ∧ OnlyManagement s t ∧
          (∀ j, Tab.at 0#64 t.mgmt.scratch j = if j = i then w else Tab.at 0#64 s.mgmt.scratch j) ∧
          t.mgmt.dynamic = s.mgmt.dynamic ∧ t.mgmt.acked = true) ∧
      (∀ (hi lo : W8) (rest : List W8), (256 * hi.toNat + lo.toNat) % 8 ≠ 0 → ScratchKept addr (hi :: lo :: rest) s s.mgmt.offset) ∧
      (∀ bytes : List W8, bytes.length ≠ 2 → bytes.length ≠ 10 → ScratchKept addr bytes s s.mgmt.offset) ∧
      ∃ t, exec (.mgmtRead addr) s = .next t ∧ OnlyManagement s t ∧ t.mgmt.acked = true ∧
        (s.mgmt.offset.toNat < 0x1000 → t.mgmt.data = leBytes 8 (s.readReg (0x7F000 + s.mgmt.offset.toNat)).toNat) ∧
        (0x1000 ≤ s.mgmt.offset.toNat → t.mgmt.data = List.replicate 8 0#8) ∧
        t.mgmt.offset = s.mgmt.offset ∧ t.mgmt.scratch = s.mgmt.scratch ∧ t.mgmt.dynamic = s.mgmt.dynamic) ∧
    (s.mgmt.answers addr = true → s.asleep = true →
      ∀ c ∈ [Instr.mgmtRead addr, .mgmtWrite addr [1#8, 0#8]],
        ∃ t, exec c s = .next t ∧ t.pwr.block = .waking ∧ t.pwr.lastWake = 2#3 ∧ t.mgmt.acked = true ∧ t.mgmt.offset = s.mgmt.offset ∧
          t.mgmt.scratch = s.mgmt.scratch ∧ (c = .mgmtRead addr → t.mgmt.data = List.replicate 8 0xFF#8) ∧
          t = { s with pwr := t.pwr, hearths := t.hearths, mgmt := t.mgmt })

/-- Outside Off and sleep, a block without a dynamic address takes one with ENTDAA or SETDASA, one that has it keeps it, and RSTDAA takes it
away; the four GET codes return 6, 1, 1 and 2 bytes to a block that has one, and another acknowledges none of them (R375). The bytes' values
are free (log entry 28). -/
def Obligations.CommonCommandCodesActOnTheAddress : Prop :=
  ∀ s : State, s.pwr.block ≠ .off → s.asleep = false →
    (∀ addr, ∀ c ∈ [Instr.entdaa addr, .setdasa addr],
      (s.mgmt.dynamic ≠ none → exec c s = .next s) ∧
      (s.mgmt.dynamic = none →
        ∃ t, exec c s = .next t ∧ OnlyManagement s t ∧ t.mgmt.dynamic = some addr ∧ t.mgmt.offset = s.mgmt.offset ∧
          t.mgmt.scratch = s.mgmt.scratch ∧ t.mgmt.acked = true)) ∧
    (∃ t, exec .rstdaa s = .next t ∧ OnlyManagement s t ∧ t.mgmt.dynamic = none ∧ t.mgmt.offset = s.mgmt.offset ∧
      t.mgmt.scratch = s.mgmt.scratch) ∧
    ∀ p ∈ [(Instr.getpid, 6), (.getbcr, 1), (.getdcr, 1), (.getstatus, 2)],
      (s.mgmt.dynamic = none → exec p.1 s = .next (s.mgmtAnswer false [])) ∧
      (s.mgmt.dynamic ≠ none →
        ∃ t, exec p.1 s = .next t ∧ OnlyManagement s t ∧ t.mgmt.acked = true ∧ t.mgmt.data.length = p.2 ∧
          t.mgmt.dynamic = s.mgmt.dynamic ∧ t.mgmt.offset = s.mgmt.offset ∧ t.mgmt.scratch = s.mgmt.scratch)

/-! ### Operating points and the cap -/

/-- Only one stove's registers change. -/
def Sys2Proof.OnlyStove (s t : State) (v : Nat) : Prop :=
  t = { s with pwr := { s.pwr with stoves := t.pwr.stoves } } ∧ ∀ w, w ≠ v → t.stove w = s.stove w

/-- A stove `x` without a sequence becomes `y`, on its way to a PSTATE: nothing to do at the current one; lowering goes to the frequency switch
with the code unchanged; raising requests at least the code of Table 15-6 and awaits VOK (R317). -/
def Sys2Proof.StartsToward (x y : Stove) (p : BitVec 3) : Prop :=
  (p = x.current → y = { x with sequence := .idle }) ∧
  (x.current.toNat < p.toNat → y = { x with sequence := .awaitSwitch p true }) ∧
  (p.toNat < x.current.toNat → y = { x with
    sequence := .awaitVok p x.code, vok := false, code := BitVec.ofNat 8 (max x.code.toNat (pstateCode p.toNat).toNat) })

/-- VOK is sampled high, and nothing but the power region changes: in a raise the switch then awaits its COUNT multiple of 64, with CURRENT
and the code as they were (R317); where the stove's rails were asked for, its PSW_REQ rises, and nothing else of a request outside a reset
(R364; that the core's rises with stove 0's is log entry 147). -/
def Sys2Proof.VokLetsARaiseSwitch : Prop :=
  ∀ (s : State) (v : BitVec 3), v.toNat < s.cfg.stoves →
    let x := s.stove v.toNat
    ∃ t, exec (.vokAssert v) s = .next t ∧
      t = { s with pwr := { s.pwr with stoves := t.pwr.stoves, pswReq := t.pwr.pswReq } } ∧ (∀ w, w ≠ v.toNat → t.stove w = s.stove w) ∧
      (∀ g old, x.sequence = .awaitVok g old → t.stove v.toNat = { x with vok := true, sequence := .awaitSwitch g false }) ∧
      ((∀ g old, x.sequence ≠ .awaitVok g old) → t.stove v.toNat = { x with vok := true }) ∧
      (x.railOn = false → t.pwr.pswReq = s.pwr.pswReq) ∧
      (x.railOn = true → t.pwr.pswReq.getLsbD (1 + v.toNat) = true ∧ (s.vault.resetting = false → ∀ j < 73,
        t.pwr.pswReq.getLsbD j = (s.pwr.pswReq.getLsbD j || decide (j = 1 + v.toNat) || decide (v.toNat = 0 ∧ j = 0))))

/-- The divider switches at a COUNT multiple of 64, and not between: CURRENT takes the target; after a lowering the code of Table 15-6
follows; a TARGET written meanwhile starts the next sequence, otherwise the stove is idle (R317). -/
def Sys2Proof.FrequencySwitchesOnMultiplesOf64 : Prop :=
  ∀ (s : State) (v g : BitVec 3) (lower : Bool), v.toNat < s.cfg.stoves → (s.stove v.toNat).sequence = .awaitSwitch g lower →
    let x := s.stove v.toNat
    let switched := { x with
      current := g, sequence := .idle, nextTarget := none, code := if lower then pstateCode g.toNat else x.code }
    (s.audit.count.toNat % 64 = 0 →
      ∃ t, exec (.pstateFreqSwitch v) s = .next t ∧ OnlyStove s t v.toNat ∧
        (x.nextTarget = none → t.stove v.toNat = switched) ∧
        ∀ p, x.nextTarget = some p → StartsToward switched (t.stove v.toNat) p) ∧
    (s.audit.count.toNat % 64 ≠ 0 → exec (.pstateFreqSwitch v) s = .next s)

/-- A raise without VOK is abandoned: the previous code returns, CURRENT keeps its value, FAIL is set and FAIL_COUNT increments, a TARGET
written meanwhile starts the next sequence, and the error record of cause 0x10 is logged (R319). -/
def Sys2Proof.VokTimeoutAbandonsTheRaise : Prop :=
  ∀ (s : State) (v g : BitVec 3) (old : W8), v.toNat < s.cfg.stoves → (s.stove v.toNat).sequence = .awaitVok g old →
    let x := s.stove v.toNat
    let abandoned := { x with code := old, fail := true, failCount := satInc x.failCount, sequence := .idle, nextTarget := none }
    ∃ t u, exec (.vokTimeout v) s = .next t ∧ OnlyStove s u v.toNat ∧
      (x.nextTarget = none → u.stove v.toNat = abandoned) ∧
      (∀ p, x.nextTarget = some p → StartsToward abandoned (u.stove v.toNat) p) ∧
      t = u.logError (ErrorEvent.plain 2 0x10 7 v.toNat (x.code.setWidth 64))

/-- Above a nonzero CAP the next window of the stove's work is withheld from Banked, Draught and Admin and THROTTLE_COUNT increments; Flue
work is never withheld (R321). The controllers run: the block is clocked, and no fatal event has stopped it (R305, R350). -/
def Sys2Proof.DamperWithholdsAllButFlue : Prop :=
  ∀ (s : State) (v : BitVec 3) (estimate : W16), v.toNat < s.cfg.stoves → s.upkeep = true →
    ∃ t, exec (.damperThrottle v estimate) s = .next t ∧ OnlyStove s t v.toNat ∧
      (let above := (s.stove v.toNat).cap ≠ 0#10 ∧ (s.stove v.toNat).cap.toNat < estimate.toNat
       (t.stove v.toNat).throttleCount = if above then satInc (s.stove v.toNat).throttleCount else (s.stove v.toNat).throttleCount) ∧
      ∀ h cls, h / 8 = v.toNat →
        (t.withheld h cls = true ↔
          cls ≠ 0#2 ∧ (s.stove v.toNat).cap ≠ 0#10 ∧ (s.stove v.toNat).cap.toNat < estimate.toNat)
/-! ### Registers and the Sash port -/

/-- Registers whose RW fields take the written bits with no effect of their own: offset, and those bits (R16; Tables 11-14, 12-8, 12-12 to 12-15,
13-9, 15-11, 15-12, 17-9, 17-10, 19-15). HMASK bits of absent hearths read zero (R244); REC_BASE and ERR_BASE only take a write while
their ring is not enabled (Tables 13-9, 17-9). -/
def Sys2Proof.Machine.State.plainRegisters (s : State) : List (Nat × W64) :=
  [(0x1010, 0xFFFFFFFFF#64), (0x1020, 0xFFFFFFFFFFFFF000#64), (0x2010, 3#64), (0x4050, 0xFFFFFFFF#64), (0x4070, 0xFFFFFFFF#64),
    (0x38010, 0xFFFFFFFF#64), (0x38100, 0xFFFFFFFFFFFF#64)] ++
    (if s.audit.recEnable then [] else [(0x4040, 0xFFFFFFFFFFFFFFFF#64)]) ++
    (if s.err.enable then [] else [(0x38000, 0xFFFFFFFFFFFFFFFF#64)]) ++
    (if s.cfg.hasTransom then [(0x30008, 0xFFFFFFFFFFFFFFFF#64), (0x30010, 0xFF#64), (0x30018, 0xFFFFFFFF#64)] else []) ++
    ((List.range s.cfg.stoves).map fun v => (0x2280 + 8 * v, 0x3FF#64)) ++
    ((List.range 8).map fun w => (0x4200 + 16 * w, 0xFFFFFFFFFFFFFFFF#64)) ++
    ((List.range 8).map fun w => (0x4208 + 16 * w, 0x3FFFFFFFFFFFFF#64)) ++
    ((List.range 16).map fun v => (0x1300 + 16 * v, 0xFFFFFFFFFFFFFFF8#64)) ++
    ((List.range 16).map fun v => (0x1308 + 16 * v, 0xFFFFFFFFFFFFFFFF#64)) ++
    ((List.range 16).map fun m => (0x1200 + 8 * m, BitVec.ofNat 64 (2 ^ s.cfg.hearths - 1))) ++
    ((List.range 128).map fun n => (0x4400 + 8 * n, 0xFFFFFFFFFFFFFFFF#64)) ++
    (List.range 4).map fun i => (0x7F100 + 8 * i, 0xFFFFFFFFFFFFFFFF#64)

/-- Registers with W1C bits: offset, those bits, and the offset of the mirror's copy (Tables 12-13, 13-9, 16-14, 17-10, 19-15). -/
def Sys2Proof.clearRegisters (c : BlockConfig) : List (Nat × W64 × Nat) :=
  [(0x1000, 0x1FF#64, 0x7F070), (0x4018, 2#64, 0x7F050), (0x4060, 1#64, 0x4060), (0x38108, 0x10000#64, 0x38108)] ++
    if c.hasSeal then [(0x40020, 0xFFFF#64, 0x7F068)] else []

/-- The offsets with a field that a write acts on (chapter 19). -/
def Sys2Proof.Writable (c : BlockConfig) (o : Nat) : Prop :=
  o ∈ [0x1000, 0x1010, 0x1020, 0x1028, 0x1400, 0x2000, 0x2010, 0x2020, 0x4010, 0x4018, 0x4040, 0x4048, 0x4050, 0x4060, 0x4070, 0x38000,
    0x38008, 0x38010, 0x38100, 0x38108] ∨
  (∃ m < 16, o = 0x1200 + 8 * m ∨ o = 0x1300 + 16 * m ∨ o = 0x1308 + 16 * m) ∨
  (∃ v < c.stoves, o = 0x2200 + 8 * v ∨ o = 0x2240 + 8 * v ∨ o = 0x2280 + 8 * v) ∨
  (∃ w < 8, o = 0x4200 + 16 * w ∨ o = 0x4208 + 16 * w) ∨
  (∃ n < 128, o = 0x4400 + 8 * n ∨ o = 0x10000 + 8 * n ∨ ∃ r ∈ [0x00, 0x08, 0x10, 0x18, 0x28], o = 0x8000 + 0x40 * n + r) ∨
  (∃ h < c.hearths, o = 0x20000 + 0x400 * h) ∨
  (c.hasTransom = true ∧ o ∈ [0x30008, 0x30010, 0x30018, 0x30050]) ∨
  (c.hasSeal = true ∧ (o ∈ [0x40000, 0x40010, 0x40018, 0x40020, 0x40028, 0x40070, 0x40080, 0x40088] ∨ ∃ w < 6, o = 0x40040 + 8 * w)) ∨
  ∃ i < 4, o = 0x7F100 + 8 * i

/-- Only registers change: memories, rings, hearths, ports and queue stay. -/
def Sys2Proof.MemoryKept (s t : State) : Prop :=
  t.host = s.host ∧ t.mantel = s.mantel ∧ t.rings = s.rings ∧ t.hearths = s.hearths ∧ t.ports = s.ports ∧ t.pending = s.pending

/-- A full, aligned write in Run: RW fields take the written bits and no other register changes; the W1C bits that the word names clear, and
only they; a write of a read-only register or of an offset that no table lists has no effect (R15, R16). -/
def Sys2Proof.RegisterWritesFollowTheirAccessCode : Prop :=
  ∀ (s : State) (d : W64), s.sashOpen → s.cfg.valid = true →
    (∀ p ∈ s.plainRegisters, ∃ t, exec (.registerWrite (BitVec.ofNat 20 p.1) d) s = .next t ∧ MemoryKept s t ∧
      t.readReg p.1 = (d &&& p.2) ||| (s.readReg p.1 &&& ~~~p.2) ∧ ∀ o, o ≠ p.1 → t.readReg o = s.readReg o) ∧
    (∀ p ∈ clearRegisters s.cfg, ∃ t, exec (.registerWrite (BitVec.ofNat 20 p.1) d) s = .next t ∧ MemoryKept s t ∧
      t.readReg p.1 = s.readReg p.1 &&& ~~~(d &&& p.2.1) ∧ ∀ o, o ≠ p.1 → o ≠ p.2.2 → t.readReg o = s.readReg o) ∧
    ∀ off : BitVec 20, off.toNat % 8 = 0 → ¬Writable s.cfg off.toNat → exec (.registerWrite off d) s = .next s.answered

/-- Writes in Run of registers whose fields have conditions: MODE 3, IDLE_STATE 3 and IDLE_DELAY 0 leave their fields (R308, R310); REC_BASE and
ERR_BASE stay while enabled; a RING_STATUS write clears FAULT, and RESUME returns a stopped ring to RUN; the ring's bases and mask change only in
STATE OFF (R242); a write of SYNC_CTL that keeps ROLE changes DELAY alone; PATCH_CTL without GO sets LEN; FAIL of PSTATE_s clears. -/
def Sys2Proof.ConditionalFieldsFollowTheirRules : Prop :=
  ∀ (s : State) (d : W64), s.sashOpen → s.cfg.valid = true →
    exec (.registerWrite 0x2000#20 d) s = .next { s with pwr := { s.pwr with
      mode := if d.toNat % 4 = 3 then s.pwr.mode else d.setWidth 2, dozeHearth := d.getLsbD 2 } }.answered ∧
    (∀ h : Nat, h < s.cfg.hearths → exec (.registerWrite (BitVec.ofNat 20 (0x20000 + 0x400 * h)) d) s = .next
      (s.setHearth h { s.hearth h with
        idleState := if d.toNat % 4 = 3 then (s.hearth h).idleState else d.setWidth 2,
        idleDelay := if (d >>> 16).setWidth 16 = 0#16 then (s.hearth h).idleDelay else (d >>> 16).setWidth 16 }).answered) ∧
    (s.audit.recEnable = true → exec (.registerWrite 0x4040#20 d) s = .next s.answered) ∧
    (s.err.enable = true → exec (.registerWrite 0x38000#20 d) s = .next s.answered) ∧
    (d.setWidth 2 = s.audit.role → exec (.registerWrite 0x4010#20 d) s = .next
      { s with audit := { s.audit with delay := (d >>> 8).setWidth 16 } }.answered) ∧
    (d.getLsbD 63 = false → exec (.registerWrite 0x1028#20 d) s = .next { s with blk := { s.blk with patchLen := d.setWidth 13 } }.answered) ∧
    (∀ v : Nat, v < s.cfg.stoves → ∃ t, exec (.registerWrite (BitVec.ofNat 20 (0x2200 + 8 * v)) d) s = .next t ∧
      (t.stove v).fail = ((s.stove v).fail && !d.getLsbD 8) ∧ OnlyStove s { t with sash := s.sash } v) ∧
    ∀ n : BitVec 7,
      let r := s.ring n.toNat
      let at' (o : Nat) : BitVec 20 := BitVec.ofNat 20 (0x8000 + 0x40 * n.toNat + o)
      (r.state ≠ .off → ∀ o ∈ [0x00, 0x08, 0x18], exec (.registerWrite (at' o) d) s = .next s.answered) ∧
      (r.state = .off →
        exec (.registerWrite (at' 0x00) d) s = .next (s.setRing n.toNat { r with sqBase := d }).answered ∧
        exec (.registerWrite (at' 0x08) d) s = .next (s.setRing n.toNat { r with cqBase := d }).answered ∧
        exec (.registerWrite (at' 0x18) d) s = .next
          (s.setRing n.toNat { r with hmask := d &&& BitVec.ofNat 64 (2 ^ s.cfg.hearths - 1) }).answered) ∧
      ∃ t, exec (.registerWrite (at' 0x28) d) s = .next t ∧ t = { s with rings := t.rings, sash := t.sash } ∧
        (∀ m, m ≠ n.toNat → t.ring m = s.ring m) ∧
        t.ring n.toNat = { r with
          fault := r.fault && !d.getLsbD 3, state := if d.getLsbD 8 = true ∧ r.state = .stopped then .run else r.state }

/-- The registers of the Seal in Run, as Table 16-6 lets them be written: address, key word, index, reference, target and PUB where the
life-cycle state admits the write; elsewhere the write only counts in DENIED_COUNT (R336). -/
def Sys2Proof.SealWritesFollowTable16_6 : Prop :=
  ∀ (s : State) (d : W64), s.sashOpen → s.cfg.hasSeal = true →
    let v := s.vault
    let denied : Seal := { v with denied := satInc v.denied }
    exec (.registerWrite 0x40010#20 d) s = .next { s with vault := if v.lc ≠ 4 then { v with authAddr := d } else denied }.answered ∧
    exec (.registerWrite 0x40080#20 d) s = .next { s with vault := if v.keyed then { v with attAddr := d } else denied }.answered ∧
    (∀ w : Nat, w < 6 → exec (.registerWrite (BitVec.ofNat 20 (0x40040 + 8 * w)) d) s = .next
      { s with vault := if v.lc = 1 then { v with keyData := Tab.put 0#64 v.keyData w d } else denied }.answered) ∧
    (d.getLsbD 63 = false → exec (.registerWrite 0x40070#20 d) s = .next
      { s with vault := if v.lc = 1 then { v with keyIndex := d.setWidth 3 } else denied }.answered) ∧
    (d.getLsbD 0 = false → exec (.registerWrite 0x40088#20 d) s = .next
      { s with vault := if v.keyed then { v with attPub := d.getLsbD 1 } else denied }.answered) ∧
    (d.getLsbD 8 = false → exec (.registerWrite 0x40018#20 d) s = .next
      { s with vault := if v.keyed then { v with keyRef := d.setWidth 2 } else denied }.answered) ∧
    (d.getLsbD 11 = false → exec (.registerWrite 0x40000#20 d) s = .next
      { s with vault := if v.lc ≠ 4 then { v with target := (d >>> 8).setWidth 3 } else denied }.answered) ∧
    (d.getLsbD 32 = false → exec (.registerWrite 0x40028#20 d) s = .next
      { s with vault := if v.lockFuse = false ∧ (v.lc = 0 ∨ v.lc = 1) then { v with policy := d.setWidth 32 } else denied }.answered)

/-- A narrow or misaligned access changes nothing and receives an error response; while accesses stall it waits behind them, at most 8, and
takes its response in their order (R15, R367). -/
def Sys2Proof.BadAccessesOnlyAnswerAnError : Prop :=
  ∀ (s : State) (write : Bool) (off : BitVec 20) (be : W8), s.pwr.block ≠ .off → (be ≠ 0xFF#8 ∨ off.toNat % 8 ≠ 0) →
    (s.sash.stalled = [] → exec (.sashAccessError write off be) s = .next (s.respond true 0#64)) ∧
    (0 < s.sash.stalled.length → s.sash.stalled.length < 8 → exec (.sashAccessError write off be) s = .next { s with sash := { s.sash with
      stalled := s.sash.stalled ++ [{ write := write, off := off, data := 0#64, bad := true }] } }) ∧
    (8 ≤ s.sash.stalled.length → exec (.sashAccessError write off be) s = .next s)

/-- What Ember answers in sleep: reads and writes of the power region and of the mirror, and reads of COUNT and POWERED_TIME (R307). -/
def Sys2Proof.EmberOffset (o : Nat) : Prop :=
  (0x2000 ≤ o ∧ o < 0x4000) ∨ o = 0x4000 ∨ o = 0x4008 ∨ (0x7F000 ≤ o ∧ o < 0x80000)

/-- From the commit to Run an aligned access that Ember does not answer stalls, at most 8 of them, and with one stalled every later access
does; in Doze and Hibernate it wakes the block with code 3, while an entry is under way the first source is kept for it. Ember's answers
wake nothing (R307, R314, R367). That WAKE_COUNT counts where the wake starts is log entry 49. -/
def Sys2Proof.SleepingAccessesWakeOrAreAnswered : Prop :=
  ∀ (s : State) (write : Bool) (off : BitVec 20) (d : W64), s.pwr.block ≠ .run → s.pwr.block ≠ .off → s.vault.resetting = false →
    s.vault.busy = false → off.toNat % 8 = 0 →
    let queued : State :=
      { s with sash := { s.sash with stalled := s.sash.stalled ++ [{ write := write, off := off, data := d, bad := false }] } }
    (s.sash.stalled = [] → EmberOffset off.toNat →
      exec (.sashWakeAccess false off d) s = .next (s.respond false (s.readReg off.toNat)) ∧
      exec (.sashWakeAccess true off d) s = .next (s.writeReg off.toNat d.toNat).answered) ∧
    (8 ≤ s.sash.stalled.length → exec (.sashWakeAccess write off d) s = .next s) ∧
    (s.sash.stalled.length < 8 →
      (s.sash.stalled ≠ [] ∨ (¬EmberOffset off.toNat ∧ ¬(write = true ∧ 0x10000 ≤ off.toNat ∧ off.toNat < 0x10400))) →
      ((s.pwr.block = .doze ∨ s.pwr.block = .hibernate) →
        ∃ t, exec (.sashWakeAccess write off d) s = .next t ∧ t.pwr.block = .waking ∧ t.pwr.lastWake = 3#3 ∧
          t.pwr.wakeCount = satInc s.pwr.wakeCount ∧ t.sash = queued.sash ∧
          t = { s with pwr := t.pwr, hearths := t.hearths, sash := t.sash }) ∧
      (s.pwr.block = .entering → exec (.sashWakeAccess write off d) s = .next { queued with pwr := { s.pwr with
        dueWake := some (s.pwr.dueWake.getD 3#3) } }) ∧
      (s.pwr.block = .waking → exec (.sashWakeAccess write off d) s = .next queued))

/-- Until the wipe of a reset or a transition ends, an access outside Ember's registers and SEAL_LC has no effect and a read returns zero
(R334; which offsets are meant is log entry 27). -/
def Sys2Proof.AccessesInAResetReadZero : Prop :=
  ∀ (s : State) (write : Bool) (off : BitVec 20) (d : W64), s.pwr.block ≠ .off → (s.vault.resetting = true ∨ s.vault.busy = true) →
    off.toNat % 8 = 0 → ¬EmberOffset off.toNat → off.toNat ∉ [0x4010, 0x4018, 0x4020, 0x38028, 0x40000] →
    exec (.sashWakeAccess write off d) s = .next (s.respond false 0#64)

/-- The commands that write or read one register are accesses of the Sash port: each acts in every state as the access that it names. -/
def Sys2Proof.registerCommands (s : State) : List (Instr × Instr) :=
  let wr (off : Nat) (d : W64) : Instr := .sashWakeAccess true (BitVec.ofNat 20 off) d
  [(.evtPop, .sashWakeAccess false 0x1008#20 0#64), (.eraseKeys, wr 0x40018 (s.vault.keyRef.setWidth 64 ||| 0x100#64))]

/-- Every command that is a write or a read of one register acts as that access (R15). -/
def Sys2Proof.RegisterCommandsAreAccesses : Prop :=
  ∀ (s : State) (off : BitVec 20) (d : W64) (n : BitVec 7) (v p : BitVec 3) (code set : W8) (mask : W16) (bits : BitVec 9) (pub : Bool),
    let wr (off : Nat) (d : W64) : Instr := .sashWakeAccess true (BitVec.ofNat 20 off) d
    ∀ c ∈ (registerCommands s ++
      [(.registerWrite off d, .sashWakeAccess true off d), (.doorbellWrite n d, wr (0x10000 + 8 * n.toNat) d),
        (.ringEnable n d, wr (0x8010 + 0x40 * n.toNat) (d ||| 1#64)), (.ringDisable n d, wr (0x8010 + 0x40 * n.toNat) (d &&& ~~~1#64)),
        (.ringResume n, wr (0x8028 + 0x40 * n.toNat) 0x100#64), (.irqUnmask mask, wr 0x1400 (mask.setWidth 64)),
        (.patchGo d, wr 0x1028 (d ||| 0x8000000000000000#64)), (.xchBsetRelease set, wr 0x30050 (set.setWidth 64)),
        (.isoRelease bits, wr 0x2020 (bits.setWidth 64)), (.pstateTargetWrite v p, wr (0x2200 + 8 * v.toNat) (p.setWidth 64)),
        (.vreqCodeWrite v code, wr (0x2240 + 8 * v.toNat) (code.setWidth 64)),
        (.sealLcGo v, wr 0x40000 (0x800#64 ||| (v.setWidth 64 <<< 8))), (.keyCtlGo v, wr 0x40070 (0x8000000000000000#64 ||| v.setWidth 64)),
        (.policyLock d, wr 0x40028 (d ||| 0x100000000#64)), (.attCtlGo pub, wr 0x40088 (if pub then 3#64 else 1#64)),
        (.recorderEnable d, wr 0x4048 (d ||| 1#64)), (.errCtlEnable d, wr 0x38008 (d ||| 1#64))] : List (Instr × Instr)),
      exec c.1 s = exec c.2 s

/-! ### Doorbells and ring states -/

/-- Nothing holds or redirects a ring's doorbells: no recorder, no alarm, no fatal halt, and none withheld. -/
def Sys2Proof.Machine.State.plainDoorbells (s : State) (n : Nat) : Prop :=
  s.audit.recEnable = false ∧ s.err.fatalHalted = false ∧ s.vault.halted = false ∧ (s.ring n).withheld = []

/-- Table 12-3, rows in order: d and c are the written and the accepted TAIL less HEAD. A stray doorbell is counted and flagged; one beyond
the ring's size faults the ring with CAUSE 1 and leaves TAIL; one that goes back is counted; the same TAIL has no effect; any other is
accepted (R245). -/
def Obligations.DoorbellsFollowTable12_3 : Prop :=
  ∀ (s : State) (n : BitVec 7) (d : W64), s.sashOpen → s.plainDoorbells n.toNat →
    let r := s.ring n.toNat
    let tail : W32 := d.setWidth 32
    let dist := (tail - r.head).toNat
    let acc := (r.tail - r.head).toNat
    ((r.state = .off ∨ r.state = .draining ∨ r.state = .fault) →
      ∃ t, exec (.doorbellWrite n d) s = .next t ∧ t.rings = s.rings ∧ t.blk.dbStray = satInc s.blk.dbStray ∧
        t.blk.blkEvent.getLsbD 1 = true ∧ t.blk.dbBack = s.blk.dbBack ∧ t.mantel = s.mantel ∧ t.hearths = s.hearths) ∧
    ((r.state = .run ∨ r.state = .stopped) →
      (2 ^ r.log2Size.toNat < dist →
        ∃ t, exec (.doorbellWrite n d) s = .next t ∧ (t.ring n.toNat).state = .fault ∧ (t.ring n.toNat).cause = 1#4 ∧
          (t.ring n.toNat).tail = r.tail ∧ (t.ring n.toNat).fault = true ∧ (t.ring n.toNat).faultCount = satInc r.faultCount ∧
          t.blk.blkEvent.getLsbD 0 = true ∧ (∀ m, m ≠ n.toNat → t.ring m = s.ring m) ∧ t.mantel = s.mantel ∧ t.hearths = s.hearths) ∧
      (dist ≤ 2 ^ r.log2Size.toNat →
        (dist < acc → exec (.doorbellWrite n d) s = .next { s with blk := { s.blk with dbBack := satInc s.blk.dbBack } }.answered) ∧
        (dist = acc → exec (.doorbellWrite n d) s = .next s.answered) ∧
        (acc < dist →
          exec (.doorbellWrite n d) s =
            .next (s.setRing n.toNat { r with tail := tail, accepts := (tail, s.audit.count) :: r.accepts }).answered)))

/-- From the commit to Run Ember holds the TAIL, the latest one, and with DB_WAKE it wakes the block with code 1; the ring itself stays
(R307, R313, R314). -/
def Sys2Proof.SleepingDoorbellsAreHeld : Prop :=
  ∀ (s : State) (n : BitVec 7) (d : W64), s.pwr.block ≠ .run → s.pwr.block ≠ .off → s.vault.resetting = false →
    s.vault.busy = false → s.sash.stalled = [] →
    ∃ t, exec (.doorbellWrite n d) s = .next t ∧ t.ring n.toNat = { s.ring n.toNat with held := some (d.setWidth 32) } ∧
      (∀ m, m ≠ n.toNat → t.ring m = s.ring m) ∧ t = { s with rings := t.rings, pwr := t.pwr, hearths := t.hearths, sash := t.sash } ∧
      (s.pwr.dbWake = false → t.pwr = s.pwr ∧ t.hearths = s.hearths) ∧
      (s.pwr.dbWake = true → (s.pwr.block = .doze ∨ s.pwr.block = .hibernate) → t.pwr.block = .waking ∧ t.pwr.lastWake = 1#3) ∧
      (s.pwr.dbWake = true → s.pwr.block = .entering → t.pwr = { s.pwr with dueWake := some (s.pwr.dueWake.getD 1#3) }) ∧
      (s.pwr.block = .waking → t.pwr = s.pwr ∧ t.hearths = s.hearths)

/-- In Run, a halted block ignores a doorbell; replay counts it and ignores it; a recorder that holds inputs for room keeps it waiting behind
the earlier ones (R278, R277, R341). -/
def Sys2Proof.HeldBackDoorbells : Prop :=
  ∀ (s : State) (n : BitVec 7) (d : W64), s.sashOpen →
    let r := s.ring n.toNat
    ((s.err.fatalHalted = true ∨ s.vault.halted = true) → exec (.doorbellWrite n d) s = .next s.answered) ∧
    (s.err.fatalHalted = false → s.vault.halted = false →
      (s.audit.replaying = true →
        exec (.doorbellWrite n d) s = .next { s with blk := { s.blk with dbStray := satInc s.blk.dbStray } }.answered) ∧
      (s.audit.replaying = false → (s.audit.holds 1 = true ∨ r.withheld ≠ []) →
        exec (.doorbellWrite n d) s = .next (s.setRing n.toNat { r with withheld := r.withheld ++ [d.setWidth 32] }).answered))

/-- The four refusals of R242, in order of cause: 8 no active patch, 9 LOG2SIZE, 10 a base, 11 class 3 off ring 0. -/
def Sys2Proof.enableCause (s : State) (n : Nat) (r : Ring) : BitVec 4 :=
  if s.blk.patchState ≠ 2#3 then 8#4
  else if r.log2Size.toNat < 6 ∨ 16 < r.log2Size.toNat then 9#4
  else if r.sqBase.toNat % 4096 ≠ 0 ∨ r.cqBase.toNat % 4096 ≠ 0 ∨ 2 ^ 52 ≤ r.sqBase.toNat ∨ 2 ^ 52 ≤ r.cqBase.toNat then 10#4
  else if n ≠ 0 ∧ r.cls = 3#2 then 11#4
  else 0#4

/-- ENABLE = 1 in STATE OFF takes the written fields, then refuses with the first cause, leaving ENABLE at 0 and STATE at OFF, or sets HEAD and
TAIL to 0 and STATE to RUN; other rings stay. In any other STATE the write has no effect (R242). -/
def Sys2Proof.EnableStartsOrRefusesARing : Prop :=
  ∀ (s : State) (n : BitVec 7) (cfg : W64), s.sashOpen →
    let r := (s.ring n.toNat).setCfg n.toNat cfg.toNat
    ((s.ring n.toNat).state ≠ .off → exec (.ringEnable n cfg) s = .next s.answered) ∧
    ((s.ring n.toNat).state = .off →
      ∃ t, exec (.ringEnable n cfg) s = .next t ∧ (∀ m, m ≠ n.toNat → t.ring m = s.ring m) ∧
        (enableCause s n.toNat r ≠ 0#4 →
          t.ring n.toNat = { r with enable := false, cause := enableCause s n.toNat r } ∧
            t = { s with rings := t.rings, sash := t.sash }) ∧
        (enableCause s n.toNat r = 0#4 →
          (t.ring n.toNat).state = .run ∧ (t.ring n.toNat).enable = true ∧ (t.ring n.toNat).head = 0#32 ∧ (t.ring n.toNat).tail = 0#32 ∧
            (t.ring n.toNat).log2Size = r.log2Size ∧ (t.ring n.toNat).sqBase = r.sqBase ∧ (t.ring n.toNat).cqBase = r.cqBase ∧
            (t.ring n.toNat).cls = r.cls ∧ (t.ring n.toNat).errStop = r.errStop ∧ (t.ring n.toNat).vec = r.vec ∧
            (t.ring n.toNat).irqErr = r.irqErr ∧ t = { s with rings := t.rings, ports := t.ports, sash := t.sash }))

/-- ENABLE = 0: a ring that runs or is stopped completes its fetched, unissued descriptors, and an issued LAUNCH_AT, with E_ABORTED, DETAIL 1,
and drains; it is OFF at once when nothing awaits a record, and so is a faulted ring; a draining ring keeps draining (Table 12-2, R243, R274). In
STATE OFF the write sets the other fields. RESUME returns a stopped ring to RUN and leaves any other as it is. -/
def Sys2Proof.DisableDrainsAndResumeRuns : Prop :=
  ∀ (s : State) (n : BitVec 7) (cfg : W64), s.sashOpen →
    let r := s.ring n.toNat
    ((r.state = .run ∨ r.state = .stopped ∨ r.state = .fault) →
      ∃ t, exec (.ringDisable n cfg) s = .next t ∧ t = { s with rings := t.rings, sash := t.sash } ∧
        (∀ m, m ≠ n.toNat → t.ring m = s.ring m) ∧ (t.ring n.toNat).enable = false ∧
        (r.entries = [] → r.fetched = [] → (t.ring n.toNat).state = .off) ∧
        (r.state ≠ .fault → ¬(r.entries = [] ∧ r.fetched = []) → (t.ring n.toNat).state = .draining ∧ (t.ring n.toNat).fetched = [] ∧
          (∀ f ∈ r.fetched, Entry.refused f.pos f.desc stAborted 1 ∈ (t.ring n.toNat).entries) ∧
          ∀ e ∈ r.entries,
            if descOpcode e.desc = 0x41 ∧ e.stage = .running then
              { e with stage := .finished, status := BitVec.ofNat 8 stAborted, detail := 1#16 } ∈ (t.ring n.toNat).entries
            else e ∈ (t.ring n.toNat).entries) ∧
        (t.ring n.toNat).head = r.head ∧ (t.ring n.toNat).tail = r.tail) ∧
    (r.state = .draining → exec (.ringDisable n cfg) s = .next s.answered) ∧
    (r.state = .off → exec (.ringDisable n cfg) s = .next (s.setRing n.toNat (r.setCfg n.toNat cfg.toNat)).answered) ∧
    (r.state = .stopped → exec (.ringResume n) s = .next (s.setRing n.toNat { r with state := .run }).answered) ∧
    (r.state ≠ .stopped → ∃ t, exec (.ringResume n) s = .next t ∧ t = { s with rings := t.rings, sash := t.sash } ∧
      ∀ m, t.ring m = s.ring m)

/-! ### Events, interrupts and the patch -/

/-- EVT_POP returns and removes the oldest entry; an empty queue reads VALID = 0 with a zero body; nothing else changes (R17, R263). -/
def Sys2Proof.EventPopTakesTheOldest : Prop :=
  ∀ s : State, s.sashOpen →
    (∀ e rest, s.blk.events = e :: rest →
      exec .evtPop s = .next ({ s with blk := { s.blk with events := rest } }.respond false e)) ∧
    (s.blk.events = [] → exec .evtPop s = .next (s.respond false 0#64))

/-- A write of IRQ_CTL sets MASK and clears PEND of the vectors that it unmasks; masked vectors keep their PEND. One pending vector that it
unmasks sends its message, where its port has credit: the 64 bits of IRQ_DATA go to IRQ_ADDR (R261). -/
def Sys2Proof.UnmaskingSendsAPendingMessage : Prop :=
  ∀ (s : State) (mask : W16), s.sashOpen →
    (s.blk.irqPend &&& ~~~mask = 0#16 →
      exec (.irqUnmask mask) s = .next { s with blk := { s.blk with irqMask := mask } }.answered) ∧
    (∃ t, exec (.irqUnmask mask) s = .next t ∧ t.blk.irqMask = mask ∧ t.blk.irqPend = s.blk.irqPend &&& mask ∧ t.mantel = s.mantel ∧
      t.rings = s.rings ∧ t.hearths = s.hearths) ∧
    ∀ v : Nat, v < 16 → s.blk.irqPend &&& ~~~mask = BitVec.ofNat 16 (2 ^ v) →
      s.portAwake 0 = true → (s.port 0).waiting = [] → (s.port 0).inflight = [] → 3 ≤ (s.port 0).wrCredits.toNat →
      (Tab.at 0#64 s.blk.irqAddr v).toNat < 2 ^ 52 →
      ∃ t, exec (.irqUnmask mask) s = .next t ∧ t.blk.irqMask = mask ∧ t.blk.irqPend = s.blk.irqPend &&& mask ∧
        t.host = s.host.store (Tab.at 0#64 s.blk.irqAddr v).toNat (leBytes 8 (Tab.at 0#64 s.blk.irqData v).toNat) ∧
        t.mantel = s.mantel ∧ t.rings = s.rings ∧ t.hearths = s.hearths ∧ t.blk.events = s.blk.events

/-- GO in NONE or REJECTED starts the verification of the image; in any other state it is ignored and sets REASON 5. The end of a
verification makes the state ACTIVE with the image's version, or REJECTED with its reason, and sets BLK_EVENT.PATCH (R254). -/
def Obligations.PatchGoVerifiesAnImage : Prop :=
  ∀ s : State, s.sashOpen →
    (∀ ctl : W64, ∃ t, exec (.patchGo ctl) s = .next t ∧ t.blk.patchLen = ctl.setWidth 13 ∧ t = { s with blk := t.blk, sash := t.sash } ∧
      ((s.blk.patchState = 0#3 ∨ s.blk.patchState = 3#3) → t.blk.patchState = 1#3) ∧
      (¬(s.blk.patchState = 0#3 ∨ s.blk.patchState = 3#3) → t.blk.patchState = s.blk.patchState ∧ t.blk.patchReason = 5#4)) ∧
    ∀ version : W16, s.blk.patchState = 1#3 → s.portAwake 0 = true → s.portAwake 2 = true →
      0 < s.blk.patchLen.toNat → s.blk.patchLen.toNat ≤ 4096 →
      (∃ t, exec (.patchVerifyDone 0#4 version 3#8 1#8) s = .next t ∧ t.blk.patchState = 2#3 ∧ t.blk.patchReason = 0#4 ∧
        t.blk.patchVersion = version ∧ t.blk.blkEvent.getLsbD 2 = true ∧ t.mantel = s.mantel ∧ t.rings = s.rings ∧ t.hearths = s.hearths) ∧
      (∀ minor major : W8, ¬(minor = 3#8 ∧ major = 1#8) → ∃ t, exec (.patchVerifyDone 2#4 version minor major) s = .next t ∧
        t.blk.patchState = 3#3 ∧ t.blk.patchReason = 2#4 ∧ t.blk.patchMinor = minor ∧ t.blk.patchMajor = major ∧
        t.blk.blkEvent.getLsbD 2 = true ∧ t.mantel = s.mantel ∧ t.rings = s.rings ∧ t.hearths = s.hearths) ∧
      ∀ reason ∈ [1#4, 4#4], ∃ t, exec (.patchVerifyDone reason version 3#8 1#8) s = .next t ∧ t.blk.patchState = 3#3 ∧
        t.blk.patchReason = reason ∧ t.blk.blkEvent.getLsbD 2 = true ∧ t.mantel = s.mantel ∧ t.rings = s.rings ∧ t.hearths = s.hearths

/-- Full writes act by the access code of their field, and a bad access only answers an error (R15, R16). -/
def Obligations.RegisterAccessesFollowTheirCodes : Prop :=
  RegisterWritesFollowTheirAccessCode ∧ ConditionalFieldsFollowTheirRules ∧ SealWritesFollowTable16_6 ∧ BadAccessesOnlyAnswerAnError

/-- Register accesses outside Run and in a reset are answered, stall or wake the block, and doorbells are held (R307, R313, R334). -/
def Obligations.SleepingAccessesWakeOrAreHeld : Prop :=
  SleepingAccessesWakeOrAreAnswered ∧ SleepingDoorbellsAreHeld ∧ HeldBackDoorbells ∧ AccessesInAResetReadZero ∧ RegisterCommandsAreAccesses

/-- The states of a ring under writes of RING_CFG and RING_STATUS (R242, R243). -/
def Obligations.RingsStartDrainAndResume : Prop :=
  EnableStartsOrRefusesARing ∧ DisableDrainsAndResumeRuns

/-- The event queue and the interrupt vectors (R261, R263). -/
def Obligations.EventsPopAndMessagesLeave : Prop :=
  EventPopTakesTheOldest ∧ UnmaskingSendsAPendingMessage

/-! ### Operating points, power registers and the Seal: commands that are writes of one register -/

/-- A direct write of VREQ_CODE is accepted only with no sequence in progress, at a code of at least the one that Table 15-6 gives for the
current clock and of at most 0x80; it changes the request at once. Any other write is refused: the code stays and REFUSED_COUNT increments
(R318). -/
def Obligations.VreqWritesFollowR318 : Prop :=
  ∀ (s : State) (v : BitVec 3) (c : W8), s.sashOpen → s.cfg.valid = true → v.toNat < s.cfg.stoves →
    let x := s.stove v.toNat
    let accepted := x.sequence = .idle ∧ (pstateCode x.current.toNat).toNat ≤ c.toNat ∧ c.toNat ≤ 0x80
    ∃ u : State, exec (.vreqCodeWrite v c) s = .next u.answered ∧ OnlyStove s u v.toNat ∧
      (accepted → u.stove v.toNat = { x with code := c }) ∧
      (¬accepted → u.stove v.toNat = { x with refused := satInc x.refused })

/-- A TARGET of 5 to 7 is ignored; one written during a sequence, or outside Run, waits for its end; otherwise lowering goes to the frequency
switch with the code unchanged, and raising requests at least the code of Table 15-6 and awaits VOK (R317). -/
def Sys2Proof.TargetWritesStartASequence : Prop :=
  ∀ (s : State) (v p : BitVec 3), s.cfg.valid = true → v.toNat < s.cfg.stoves → s.pwr.block ≠ .off →
    (s.pwr.block = .run ∨ s.sash.stalled = []) →
    let x := s.stove v.toNat
    (4 < p.toNat → exec (.pstateTargetWrite v p) s = .next s.answered) ∧
    (p.toNat ≤ 4 →
      ∃ u : State, exec (.pstateTargetWrite v p) s = .next u.answered ∧ OnlyStove s u v.toNat ∧
        ((x.sequence ≠ .idle ∨ s.pwr.block ≠ .run) → u.stove v.toNat = { x with target := p, nextTarget := some p }) ∧
        (x.sequence = .idle → s.pwr.block = .run → StartsToward { x with target := p } (u.stove v.toNat) p))

/-- In IVR-48 and IVR-64 ISO_RELEASE ignores writes; in IVR-16 and IVR-32 a written bit releases the outputs of a stove's ports, or of the pool
port, whose domain is up, and a released bit stays (R316). With nothing waiting to be sent, only the grants of receive credit follow. That the
pool port is the core's domain is Table 18-13's. -/
def Sys2Proof.IsoReleaseFreesPortsOfPoweredDomains : Prop :=
  ∀ (s : State) (bits : BitVec 9), s.pwr.block ≠ .off → s.pwr.block ≠ .hibernate → (s.pwr.block = .run ∨ s.sash.stalled = []) →
    (48 ≤ s.cfg.hearths → exec (.isoRelease bits) s = .next s.answered) ∧
    (s.cfg.hearths < 48 →
      ∃ u : State, exec (.isoRelease bits) s = .next u.answered ∧
        (∀ v < 8, u.pwr.isoStoves.getLsbD v =
          (s.pwr.isoStoves.getLsbD v || (bits.getLsbD v && decide (v < s.cfg.stoves) && s.domainUp (1 + v)))) ∧
        u.pwr.isoPool = (s.pwr.isoPool || (bits.getLsbD 8 && s.domainUp 0)) ∧
        u.pwr = { s.pwr with isoStoves := u.pwr.isoStoves, isoPool := u.pwr.isoPool } ∧
        u.mantel = s.mantel ∧ u.rings = s.rings ∧ u.hearths = s.hearths ∧
        ((∀ p, (s.port p).waiting = []) → s.xch.unsent = [] →
          u = { s with pwr := u.pwr, xch := { s.xch with rxCredits := u.xch.rxCredits } }))

/-- Of every ring only the session changes. -/
def Sys2Proof.RingsLoseSessions (s t : State) : Prop :=
  Tab.wf Ring.reset s.rings = true → ∀ n, t.ring n = { s.ring n with session := none, sessionLost := (t.ring n).sessionLost }

/-- A refused GO: a RESULT and a fresh nonce, where the DRBG gives one; no other state changes (R333). -/
def Sys2Proof.LcRefused (s t : State) (g : BitVec 3) (r : BitVec 4) : Prop :=
  t = { s with vault := t.vault, sash := t.sash } ∧
    t.vault = { s.vault with target := g, result := r, deciding := false, nonce := t.vault.nonce, drbg := t.vault.drbg }

/-- An accepted GO: BUSY, the volatile keys erased, open sessions ended, and the fuses of the target about to be blown (R334). -/
def Sys2Proof.LcAccepted (s t : State) (g : BitVec 3) : Prop :=
  t = { s with rings := t.rings, vault := t.vault, audit := { s.audit with recKey := none }, sash := t.sash } ∧
    t.vault = { s.vault with
      target := g, result := 0#4, deciding := false, busy := true, blowing := true, goal := g, attest := false, nonce := t.vault.nonce,
      drbg := t.vault.drbg } ∧
    (∀ n, (t.ring n).session = none) ∧ RingsLoseSessions s t

/-- Table 16-4's refusals, in the order 1, 2, 4, 5, 3; 0 for none. That order, where more than one applies, is log entry 46's. -/
def Sys2Proof.lcRefusal (s : State) (g : Nat) : BitVec 4 :=
  let v := s.vault
  if (v.lc, g) ∉ [(0, 1), (1, 2), (1, 3), (2, 3), (0, 4), (1, 4), (2, 4), (3, 4)] ∨ (v.lc = 0 ∧ g = 1 ∧ v.rootBlank = false) then 1#4
  else if (List.range 128).any (fun n => decide ((s.ring n).state ≠ .off)) = true then 2#4
  else if v.lc = 1 ∧ g = 2 ∧ v.lockFuse = false then 4#4
  else if g = 3 ∧ (v.lc = 2 ∨ v.slotMask.getLsbD 4 = true) ∧ v.entropyFail = true then 5#4
  else if g = 3 ∧ v.lc = 2 ∧ v.slotMask.getLsbD 4 = false then 3#4
  else 0#4

/-- A GO is refused with the code of Table 16-4, or accepted; to DIAGNOSE, where slot 4 is programmed, it first reads the authorisation, and
while it is read another GO has no effect (log entry 144). Every GO that ends draws a fresh nonce (R333, R334). In SCRAPPED the write is
denied (R336). -/
def Sys2Proof.TransitionsFollowTable16_4 : Prop :=
  ∀ (s : State) (g : BitVec 3), s.sashOpen → s.cfg.hasSeal = true →
    (s.vault.lc = 4 → exec (.sealLcGo g) s = .next s.deny.answered) ∧
    (s.vault.lc ≠ 4 → s.vault.deciding = true → exec (.sealLcGo g) s = .next s.answered) ∧
    (s.vault.lc ≠ 4 → s.vault.deciding = false →
      ∃ t, exec (.sealLcGo g) s = .next t ∧ t.vault.target = g ∧ t.vault.lcFuse = s.vault.lcFuse ∧
        (lcRefusal s g.toNat ≠ 0#4 → LcRefused s t g (lcRefusal s g.toNat) ∧
          (s.vault.entropyFail = false → t.vault.nonce = (Config.drbgOutput s.vault.drbg).setWidth 64)) ∧
        (lcRefusal s g.toNat = 0#4 →
          (¬(g = 3#3 ∧ s.vault.slotMask.getLsbD 4 = true) → LcAccepted s t g ∧
            (s.vault.entropyFail = false → t.vault.nonce = (Config.drbgOutput s.vault.drbg).setWidth 64)) ∧
          (g = 3#3 → s.vault.slotMask.getLsbD 4 = true → s.vault.authAddr.toNat / 64 * 64 + 256 ≤ 2 ^ 52 →
            t.vault = { s.vault with target := g, deciding := true } ∧ t.mantel = s.mantel ∧ t.rings = s.rings ∧ t.hearths = s.hearths)))

/-- The last part of the authorisation arrives at M2: RESULT 3 unless it is intact and all of R335 holds, in which case the transition goes on;
with an error or poison it is refused at once. Nothing else has changed since the GO, and no other request waits. -/
def Sys2Proof.AuthorisationDecides : Prop :=
  ∀ (s : State) (r : Request) (data : List W8) (poison : BitVec 4) (err : W8), s.clocked = true → s.vault.deciding = true →
    (s.port 2).inflight = [r] → (s.port 2).waiting = [] → r.write = false → r.purpose = .authorisation → data.length = r.size →
    lcRefusal s s.vault.target.toNat = 0#4 → s.pwr.block = .run → s.vault.resetting = false → 0 < s.cfg.stoves →
    ∃ t, exec (.memoryReadResponse 2#5 r.tag data (parityBits data) poison err) s = .next t ∧
      (let seen := s.readArrives r data poison
       let ok := err = 0#8 ∧ poison = 0#4 ∧ seen.authorised s.vault.target.toNat = true
       (ok → t.vault.busy = true ∧ t.vault.result = 0#4 ∧ t.vault.goal = s.vault.target ∧ t.vault.attest = false) ∧
       (¬ok → t.vault.busy = s.vault.busy ∧ t.vault.result = 3#4 ∧ t.vault.attest = s.vault.attest)) ∧
      t.vault.deciding = false ∧ t.vault.lcFuse = s.vault.lcFuse ∧ t.mantel = s.mantel ∧ t.hearths = s.hearths

/-- The fuses of the accepted transition are blown, over those already blown, and a cold reset with the full wipe begins; COUNT and
POWERED_TIME are kept, and so is the power of the domains (Table 16-3, R334). -/
def Sys2Proof.FusesOfATransitionAreBlown : Prop :=
  ∀ s : State, (s.vault.blowing = false → exec .lifecycleFusesDone s = .next s) ∧
    (s.vault.blowing = true →
      ∃ t, exec .lifecycleFusesDone s = .next t ∧
        (s.vault.goal = 1#3 → t.vault.lcFuse = s.vault.lcFuse ||| 1#4 ∧ t.vault.rootBlank = false) ∧
        (s.vault.goal = 2#3 → t.vault.lcFuse = s.vault.lcFuse ||| 2#4) ∧
        (s.vault.goal = 3#3 → t.vault.lcFuse = s.vault.lcFuse ||| 6#4) ∧
        (s.vault.goal = 4#3 → t.vault.lcFuse = 15#4) ∧
        t.vault.lcShown = t.vault.lcFuse ∧ t.vault.resetting = true ∧ t.vault.resetCold = true ∧ t.vault.wiping = true ∧
        t.vault.wipeKind = 2#3 ∧ t.vault.keySlots = s.vault.keySlots ∧ t.vault.slotMask = s.vault.slotMask ∧
        t.audit.count = s.audit.count ∧ t.audit.powered = s.audit.powered ∧ t.host = s.host ∧ t.hostPoison = s.hostPoison ∧
        t.mantel = [] ∧ t.hearths = [] ∧ t.rings = [] ∧ t.cfg = s.cfg ∧ t.pending = s.pending ∧
        (∀ j, s.pwr.pswReq.getLsbD j = true → t.pwr.pswReq.getLsbD j = true) ∧ t.pwr.pswAck = s.pwr.pswAck)

/-- KEY_CTL with GO: RESULT 2 for a programmed slot, 3 for a zero value, otherwise 0 with the slot programmed and its bit set in SLOTS; KEY_DATA is
zero after every GO, and only the Seal changes (R330). Outside PROVISIONED the write is ignored and counted (R336); that RESULT is then 1 and
KEY_DATA zero is log entry 47. The RESULT of an INDEX above 4 is free (log entry 19). -/
def Sys2Proof.KeyProgrammingFollowsR330 : Prop :=
  ∀ (s : State) (i : BitVec 3), s.sashOpen → s.cfg.hasSeal = true →
    (s.vault.lc ≠ 1 → exec (.keyCtlGo i) s = .next (State.answered
      { s with vault := { s.vault with denied := satInc s.vault.denied, keyResult := 1#4, keyData := [] } })) ∧
    (s.vault.lc = 1 → ∃ t, exec (.keyCtlGo i) s = .next t ∧ t = { s with vault := t.vault, sash := t.sash, draws := t.draws } ∧
      t.vault.keyData = [] ∧ t.vault.keyIndex = i ∧ t.vault.lcFuse = s.vault.lcFuse ∧ t.vault.denied = s.vault.denied ∧
      (4 < i.toNat → t.vault.keySlots = s.vault.keySlots ∧ t.vault.slotMask = s.vault.slotMask) ∧
      (i.toNat ≤ 4 →
        (s.vault.slotMask.getLsbD i.toNat = true →
          t.vault.keyResult = 2#4 ∧ t.vault.keySlots = s.vault.keySlots ∧ t.vault.slotMask = s.vault.slotMask) ∧
        (s.vault.slotMask.getLsbD i.toNat = false →
          (s.vault.keyWord = 0 →
            t.vault.keyResult = 3#4 ∧ t.vault.keySlots = s.vault.keySlots ∧ t.vault.slotMask = s.vault.slotMask) ∧
          (s.vault.keyWord ≠ 0 → t.vault.keyResult = 0#4 ∧ t.vault.slotMask = s.vault.slotMask ||| BitVec.ofNat 5 (2 ^ i.toNat) ∧
            ∀ j, Tab.at 0#384 t.vault.keySlots j =
              if j = i.toNat then BitVec.ofNat 384 s.vault.keyWord else Tab.at 0#384 s.vault.keySlots j))))

/-- ERASE_KEYS, in any state, zeroises ATTEST, the session keys and the digest engines, sets KEYS_ERASED and blocks the reads of ROOT and of the
owner slots (R331). LOCK = 1 in PROVISIONED blows the policy and the lock; a write after the lock, or from MISSION on, is denied; in BLANK the
policy takes the write and the lock is denied (R336, R340; log entry 60). -/
def Sys2Proof.EraseKeysAndPolicyLock : Prop :=
  ∀ s : State, s.sashOpen → s.cfg.hasSeal = true →
    (∃ u : State, exec .eraseKeys s = .next u.answered ∧ u.vault = { s.vault with attest := false, keysErased := true, blocked := true } ∧
      u.audit = { s.audit with recKey := none } ∧ (∀ n, (u.ring n).session = none) ∧ RingsLoseSessions s u ∧
      u = { s with rings := u.rings, vault := u.vault, audit := u.audit }) ∧
    ∀ d : W64,
      (s.vault.lockFuse = true ∨ 2 ≤ s.vault.lc → exec (.policyLock d) s = .next s.deny.answered) ∧
      (s.vault.lockFuse = false → s.vault.lc = 1 →
        exec (.policyLock d) s = .next (State.answered
          { s with vault := { s.vault with policy := d.setWidth 32, policyFuse := d.setWidth 32, lockFuse := true } })) ∧
      (s.vault.lockFuse = false → s.vault.lc = 0 →
        exec (.policyLock d) s = .next (State.answered
          { s with vault := { s.vault with policy := d.setWidth 32, denied := satInc s.vault.denied } }))

/-- The report's port: M2 takes a request of the Seal at once. -/
def Sys2Proof.Machine.State.reportPort (s : State) : Prop :=
  s.portUp 2 = true ∧ 3 ≤ (s.port 2).rdCredits.toNat ∧ 3 ≤ (s.port 2).wrCredits.toNat

/-- What keeps a keyed report from being made: RESULT 2 for erased or absent keys, 3 for a failed self-test or a stopped DRBG; 0 for nothing. -/
def Sys2Proof.attestRefusal (v : Seal) : BitVec 4 :=
  if v.blocked = true then 2#4
  else if v.selftestFail = true ∨ v.entropyFail = true then 3#4
  else if v.attest = false then 2#4
  else 0#4

/-- GO of ATT_CTL where the life-cycle state allows it: ignored while BUSY, refused with RESULT 2 or 3, or BUSY with the read of DATA at its
port. Elsewhere the write is ignored and counted, PUB and STATE stay (R336), and RESULT is 1 (R344; that it is written is log entry 47). -/
def Sys2Proof.AttestationStarts : Prop :=
  ∀ (s : State) (pub : Bool), s.cfg.hasSeal = true → s.sashOpen →
    (s.vault.keyed = false → exec (.attCtlGo pub) s = .next (State.answered
      { s with vault := { s.vault with denied := satInc s.vault.denied, attResult := 1#4 } })) ∧
    (s.vault.keyed = true →
      (s.vault.attBusy = true → exec (.attCtlGo pub) s = .next (State.answered { s with vault := { s.vault with attPub := pub } })) ∧
      (s.vault.attBusy = false →
        (attestRefusal s.vault ≠ 0#4 → exec (.attCtlGo pub) s = .next (State.answered
          { s with vault := { s.vault with attPub := pub, attResult := attestRefusal s.vault } })) ∧
        (attestRefusal s.vault = 0#4 →
          ∃ t, exec (.attCtlGo pub) s = .next t ∧ t.vault.attPub = pub ∧ t.vault.attBusy = true ∧ t.vault.attSent = false ∧
            t.vault.attResult = s.vault.attResult ∧ t.vault.lcFuse = s.vault.lcFuse ∧ t.mantel = s.mantel ∧ t.rings = s.rings ∧
            t.hearths = s.hearths ∧
            (s.reportPort → (s.port 2).inflight = [] → (s.port 2).waiting = [] → s.vault.attAddr.toNat % 256 = 0 →
              s.vault.attAddr.toNat < 2 ^ 52 → t = { s with vault := t.vault, ports := t.ports, sash := t.sash } ∧
                ∃ q, (t.port 2).inflight = [q] ∧ q.write = false ∧ q.addr = s.vault.attAddr.toNat + 64 ∧ q.size = 128 ∧ q.cls = 2#2 ∧
                  q.purpose = .reportData))))

/-- DATA is read intact: the report, with DATA, stands in the buffer at ATT_ADDR, written through M2; a failed access leaves the buffer and is
remembered; keys erased meanwhile end it with RESULT 2 (R344). -/
def Sys2Proof.ReportsAreWritten : Prop :=
  ∀ (s : State) (r : Request) (data : List W8) (err : W8), s.vault.attBusy = true → s.vault.attSent = false → s.vault.attFault = false →
    s.vault.attPub = false → s.reportPort → 0 < s.cfg.stoves → (s.port 2).inflight = [r] → (s.port 2).waiting = [] →
    s.vault.attAddr.toNat % 256 = 0 → s.vault.attAddr.toNat < 2 ^ 52 → r.write = false → r.purpose = .reportData →
    r.addr = s.vault.attAddr.toNat + 64 → r.size = 128 → data.length = 128 →
    ∃ t, exec (.memoryReadResponse 2#5 r.tag data (parityBits data) 0#4 err) s = .next t ∧
      (err = 0#8 → attestRefusal s.vault = 0#4 → t.vault.attBusy = true ∧ t.vault.attSent = true ∧
        ∃ k, 0 < k ∧ t.host = (s.host.store r.addr data).store s.vault.attAddr.toNat
          ((s.attestReport ((s.host.store r.addr data).read (s.vault.attAddr.toNat + 112) 48) k).take 256)) ∧
      (err = 0#8 → attestRefusal s.vault ≠ 0#4 → t.vault.attBusy = false ∧ t.vault.attResult = attestRefusal s.vault ∧
        t.host = s.host.store r.addr data) ∧
      (err ≠ 0#8 → t.vault.attBusy = true ∧ t.vault.attFault = true ∧ t.vault.attSent = false) ∧
      t.mantel = s.mantel ∧ t.rings = s.rings ∧ t.hearths = s.hearths

/-- Once every access of the report is answered, STATE returns to IDLE with RESULT 4 when one failed and 0 when the report was written; before
that, and without a report, nothing happens (R344). The command's operand is an error that no response of the port has reported: RESULT is 4
then too (the model's, log entry 151). -/
def Sys2Proof.ReportsEnd : Prop :=
  ∀ (s : State) (memError : Bool),
    let open' := (s.port 2).inflight ++ (s.port 2).waiting
    let ends := exec (.attestReportDone memError) s
    let idle (r : BitVec 4) : State :=
      { s with vault := { s.vault with attBusy := false, attSent := false, attFault := false, attResult := r } }
    ((s.vault.attBusy = false ∨ ∃ q ∈ open', q.purpose = .reportData ∨ q.purpose = .report) → ends = .next s) ∧
    (s.vault.attBusy = true → (∀ q ∈ open', q.purpose ≠ .reportData ∧ q.purpose ≠ .report) →
      (s.vault.attFault = true ∨ memError = true → ends = .next (idle 4#4)) ∧
      (s.vault.attFault = false → memError = false → s.vault.attSent = true → ends = .next (idle 0#4)) ∧
      (s.vault.attFault = false → memError = false → s.vault.attSent = false → ends = .next s))

/-- A refused enable leaves ENABLE at 0, sets REFUSED, and writes and replays nothing: inputs are neither recorded nor held. An accepted one
clears REFUSED (R283). -/
def Obligations.RecorderEnableFollowsR283 : Prop :=
  ∀ (s : State) (ctl : W64), s.sashOpen → s.audit.recEnable = false →
    let l := ctl.toNat / 8 % 32
    let base := s.audit.recBase.toNat
    let refused := l < 10 ∨ 24 < l ∨ base % 4096 ≠ 0 ∨ 2 ^ 52 < base + 32 * 2 ^ l
    ∃ t, exec (.recorderEnable ctl) s = .next t ∧ t = { s with audit := t.audit, sash := t.sash } ∧
      (refused → t.audit.recEnable = false ∧ t.audit.recRefused = true ∧ t.audit.replaying = false ∧
        ∀ (kind source : Nat) (data : W64) (bytes : List W8),
          t.audit.holds kind = false ∧ t.audit.holdsInput kind = false ∧ t.recordInput kind source data bytes = t) ∧
      (¬refused → t.audit.recEnable = true ∧ t.audit.recRefused = false)

/-- An enable of the error ring is refused in the three cases of R358, with REFUSED set, and events that are not counted as corrected go to
LOST; an accepted one sets ERR_HEAD, ERR_TAIL and INDEX to 0 and clears REFUSED. While ENABLE is 1 the write changes nothing (Table 17-9). -/
def Obligations.ErrorEnableFollowsR358 : Prop :=
  ∀ (s : State) (ctl : W64), s.sashOpen →
    let l := ctl.toNat / 8 % 32
    let base := s.err.base.toNat
    let refused := l < 6 ∨ 16 < l ∨ base % 4096 ≠ 0 ∨ 2 ^ 52 < base + 64 * 2 ^ l
    (s.err.enable = true → exec (.errCtlEnable ctl) s = .next s.answered) ∧
    (s.err.enable = false → ∃ t, exec (.errCtlEnable ctl) s = .next t ∧ t.host = s.host ∧ t.mantel = s.mantel ∧ t.rings = s.rings ∧ t.hearths = s.hearths ∧
      t.audit = s.audit ∧ t.vault = s.vault ∧ t.err.base = s.err.base ∧ t.err.corrected = s.err.corrected ∧ t.err.lost = s.err.lost ∧
      t.err.logCorrected = ctl.getLsbD 1 ∧ t.err.log2.toNat = l ∧
      (refused → t.err.enable = false ∧ t.err.refused = true ∧
        (s.err.writing = [] → ∀ e : ErrorEvent, e.severity ≠ 1#8 → t.logError e = { t with err := { t.err with lost := satInc t.err.lost } })) ∧
      (¬refused → t.err.enable = true ∧ t.err.refused = false ∧ t.err.head = 0#32 ∧ t.err.tail = 0#32 ∧ t.err.index = 0#32))

/-- A failed health test stops the DRBG's services, and nothing else changes (R327); a block without the Seal has no entropy source (R7). -/
def Sys2Proof.HealthFailuresStopTheDrbg : Prop :=
  ∀ s : State, (s.cfg.hasSeal = true →
      exec .entropyHealthFail s = .next { s with vault := { s.vault with entropyFail := true } } ∧
      ({ s with vault := { s.vault with entropyFail := true } } : State).drbg.1 = none) ∧
    (s.cfg.hasSeal = false → exec .entropyHealthFail s = .next s)

/-- An attestation from its GO to its report and its RESULT (R344, R327). -/
def Obligations.AttestationFollowsR344 : Prop :=
  AttestationStarts ∧ ReportsAreWritten ∧ ReportsEnd ∧ HealthFailuresStopTheDrbg

/-- A PSTATE sequence from the write of TARGET to its end (R317, R319). -/
def Obligations.OperatingPointSequences : Prop :=
  TargetWritesStartASequence ∧ VokLetsARaiseSwitch ∧ FrequencySwitchesOnMultiplesOf64 ∧ VokTimeoutAbandonsTheRaise

/-- The current cap, and the release of a domain's ports (R316, R321). -/
def Obligations.CapAndIsoRelease : Prop :=
  DamperWithholdsAllButFlue ∧ IsoReleaseFreesPortsOfPoweredDomains

/-- A transition from its GO to the blowing of its fuses (R333, R334). -/
def Obligations.LifecycleTransitions : Prop :=
  TransitionsFollowTable16_4 ∧ AuthorisationDecides ∧ FusesOfATransitionAreBlown

/-- Key slots, the erasure of keys, and the lock of the policy (R330, R331, R340). -/
def Obligations.KeysAndPolicy : Prop :=
  KeyProgrammingFollowsR330 ∧ EraseKeysAndPolicyLock

/-! ### Power-on, resets and the end of a wipe -/

/-- What every kind of reset starts with: the wipe, every register of the core at its reset value, memory outside the block untouched. -/
def Sys2Proof.ResetStarted (s t : State) : Prop :=
  t.vault.resetting = true ∧ t.vault.wiping = true ∧ t.vault.wipeKind = 1#3 ∧ t.audit.count = s.audit.count ∧
    t.audit.powered = s.audit.powered ∧ t.mantel = [] ∧ t.mantelPoison = [] ∧ t.ports = [] ∧ t.blk = Block.reset ∧
    t.xch = Transom.reset ∧ t.maint = Maint.reset ∧ t.host = s.host ∧ t.hostPoison = s.hostPoison ∧
    t.vault.keySlots = s.vault.keySlots ∧ t.vault.slotMask = s.vault.slotMask ∧ t.vault.pend = s.vault.pend ∧
    t.vault.alarmCount = s.vault.alarmCount ∧ (s.vault.blowing = false → t.vault.lcFuse = s.vault.lcFuse) ∧
    t.vault.lcShown = t.vault.lcFuse ∧ t.sash.stalled = [] ∧ t.cfg = s.cfg ∧ t.pending = s.pending

/-- Every stove's registers at reset, with its rails asked for and VOK not yet high (R364). -/
def Sys2Proof.RailsAskedFor (s t : State) : Prop :=
  t.pwr.pswReq = 0#73 ∧ ∀ v < s.cfg.stoves, t.stove v = { Stove.reset with railOn := true, vok := false }

/-- What a block reset keeps of Ember: the power region, with the block on its way to Run and its hearths' power asked for; ERR_FATAL, the SYNC
registers, the test and management ports, and the doorbells that it holds (R361, R376, Tables 18-2 and 18-3). -/
def Sys2Proof.EmberKept (s t : State) : Prop :=
  (s.pwr.block ≠ .hibernate → t.pwr = { s.pwr with
    block := .run, sleeping := .run, committed := false, dueWake := none, pswReq := t.pwr.pswReq }) ∧
  (s.cfg.valid = true → ∀ h < s.cfg.hearths,
    t.pwr.pswReq.getLsbD (9 + h) = (s.pwr.pswReq.getLsbD (9 + h) || s.domainUp (1 + h / 8))) ∧
  (∀ j < 9, t.pwr.pswReq.getLsbD j = s.pwr.pswReq.getLsbD j) ∧
  (Tab.wf Ring.reset s.rings = true → ∀ n, t.ring n = { Ring.reset with held := (s.ring n).held }) ∧
  t.mgmt = s.mgmt ∧ t.jtag = { s.jtag with wrappers := [] } ∧ t.err.fatalValid = s.err.fatalValid ∧
  t.err.fatalCause = s.err.fatalCause ∧ t.err.fatalStamp = s.err.fatalStamp ∧ t.err.enable = false ∧ t.audit.role = s.audit.role ∧
  t.audit.skew = s.audit.skew ∧ t.audit.locked = s.audit.locked ∧ t.audit.recEnable = false

/-- A pulse of fewer than 2 periods is ignored, and so is BLK_RST during a cold reset; otherwise the reset starts, COUNT and POWERED_TIME
kept: a cold reset takes the power of every domain and asks for the rails anew, a block reset keeps what Ember holds (R361, R362, R364, Table
19-6). That the fuses are read again at each reset, and what PWR_STATE keeps, are log entries 31 and 58. -/
def Sys2Proof.ResetsStartWithTheWipe : Prop :=
  ∀ (s : State) (periods : W8), s.pwr.block ≠ .off →
    (periods.toNat < 2 → exec (.coldReset periods) s = .next s ∧ exec (.blockReset periods) s = .next s) ∧
    (s.vault.resetting = true → s.vault.resetCold = true → exec (.blockReset periods) s = .next s) ∧
    (2 ≤ periods.toNat →
      (∃ t, exec (.coldReset periods) s = .next t ∧ ResetStarted s t ∧ t.vault.resetCold = true ∧ t.hearths = [] ∧ t.rings = [] ∧
        t.sash = Sash.reset ∧ RailsAskedFor s t ∧ t.pwr = { Power.reset with
          pswReq := 0#73, pswAck := s.pwr.pswAck, stoves := t.pwr.stoves } ∧
        t.err = Errors.reset ∧ t.jtag = Jtag.reset ∧
        t.audit = { Audit.reset with count := s.audit.count, powered := s.audit.powered }) ∧
      (¬(s.vault.resetting = true ∧ s.vault.resetCold = true) →
        ∃ t, exec (.blockReset periods) s = .next t ∧ t.vault.resetting = true ∧ t.vault.resetCold = false ∧ t.mantel = [] ∧
          t.sash.stalled = [] ∧ (s.sash.stalled = [] → ResetStarted s t ∧ t.sash = s.sash ∧ EmberKept s t)))

/-- Power-off loses everything but the fuses and the memory outside the block; power-on starts COUNT and POWERED_TIME from zero, with a
reset in progress, no domain powered, and the rails of every stove asked for (R306, R362, R364). -/
def Sys2Proof.PowerOffAndOnLoseTheCounts : Prop :=
  ∀ s : State,
    (∃ t, exec .powerOff s = .next t ∧ t.pwr.block = .off ∧ t.pwr.pswReq = 0#73 ∧ (∀ v < s.cfg.stoves, (t.stove v).railOn = false) ∧
      t.audit = Audit.reset ∧ t.mantel = [] ∧ t.rings = [] ∧ t.hearths = [] ∧
      t.blk = Block.reset ∧ t.err = Errors.reset ∧ t.vault.keySlots = s.vault.keySlots ∧ t.vault.slotMask = s.vault.slotMask ∧
      t.vault.lockFuse = s.vault.lockFuse ∧ t.vault.pend = 0#16 ∧ (s.vault.blowing = false → t.vault.lcFuse = s.vault.lcFuse) ∧
      t.host = s.host ∧ t.hostPoison = s.hostPoison ∧ t.cfg = s.cfg ∧ t.pending = s.pending) ∧
    (s.pwr.block = .off →
      ∃ t, exec .powerOn s = .next t ∧ t.audit.count = 0#64 ∧ t.audit.powered = 0#64 ∧ t.vault.resetting = true ∧
        t.vault.resetCold = true ∧ t.vault.wiping = true ∧ RailsAskedFor s t ∧
        t.pwr = { Power.reset with pswReq := 0#73, pswAck := 0#73, stoves := t.pwr.stoves } ∧ t.rings = [] ∧ t.hearths = [] ∧
        t.mantel = [] ∧ t.vault.keySlots = s.vault.keySlots ∧ t.host = s.host ∧ t.cfg = s.cfg) ∧
    (s.pwr.block ≠ .off → exec .powerOn s = .next s)

/-- The Seal as WIPE_DONE leaves it after a reset (R327, R328, R334, R338, R342). -/
def Sys2Proof.SealAfterWipe (s t : State) (selftest entropy : Bool) : Prop :=
  t.vault.wiping = false ∧ t.vault.resetting = false ∧ t.vault.busy = false ∧ t.vault.wipeCause = s.vault.wipeKind ∧
    t.vault.wipeCount = satInc s.vault.wipeCount ∧ t.vault.selftestFail = (s.cfg.hasSeal && selftest) ∧
    t.vault.entropyFail = (s.cfg.hasSeal && entropy) ∧ t.vault.halted = s.vault.handling.isSome ∧ t.vault.handling = none ∧
    t.vault.attest = (s.vault.keyed && !(s.cfg.hasSeal && selftest) && !s.vault.keysErased) ∧ t.vault.lcFuse = s.vault.lcFuse

/-- A failed row of Table 16-7 is a fatal event of cause 0x15, and WIPE_DONE stays low, for good. Otherwise WIPE_DONE rises and SEAL_WIPE counts
the wipe and reports its cause: a reset completes, once every domain has power, with the self-tests' flags and the credits that it samples; the
handling of an alarm ends HALTED with every ring OFF, once its records are out (R338, R341, R369). -/
def Obligations.WipeDoneEndsTheReset : Prop :=
  ∀ (s : State) (row : BitVec 3) (selftest entropy : Bool) (credits : List (BitVec 13 × BitVec 13)),
    let done := exec (.wipeDone row selftest entropy credits) s
    ((s.vault.wiping = false ∨ (s.err.stopped = true ∧ (s.err.fatalCause = 0x15#8 ∨ row ≠ 0#3))) → done = .next s) ∧
    (s.vault.wiping = true → s.err.stopped = false → row ≠ 0#3 →
      ∃ t, done = .next t ∧ t.vault = s.vault ∧ t.err.fatalValid = true ∧
        t.err.fatalCause = 0x15#8 ∧ t.err.stopped = true ∧ t.rings = s.rings ∧ t.hearths = s.hearths ∧ t.mantel = s.mantel) ∧
    (s.vault.wiping = true → ¬(s.err.stopped = true ∧ s.err.fatalCause = 0x15#8) → row = 0#3 →
      (s.vault.resetting = true → s.allUp = false → done = .next s) ∧
      (s.vault.resetting = true → s.allUp = true →
        ∃ t, done = .next t ∧ SealAfterWipe s t selftest entropy ∧ t.mantel = s.mantel ∧ t.hearths = s.hearths ∧
          (∀ p c, credits[p]? = some c → p < 3 * s.cfg.stoves →
            (t.port p).rdCredits.toNat = min 4096 (max 16 c.1.toNat) ∧ (t.port p).wrCredits.toNat = min 4096 (max 16 c.2.toNat)) ∧
          ((∀ n, (s.ring n).held = none ∧ (s.ring n).withheld = []) → s.pwr.queuedAlarms = [] → t.rings = s.rings ∧ t.blk = s.blk ∧
            t.audit = s.audit ∧ t.err = s.err ∧ t.host = s.host ∧ t.pwr = { s.pwr with stoves := t.pwr.stoves } ∧
            t.xch = { s.xch with rxCredits := t.xch.rxCredits })) ∧
      (s.vault.resetting = false → s.recordsOut = false → done = .next s) ∧
      (s.vault.resetting = false → s.recordsOut = true →
        ∃ t, done = .next t ∧ t.vault.wiping = false ∧ t.vault.halted = true ∧
          t.vault.handling = none ∧ t.vault.wipeCause = s.vault.wipeKind ∧ t.vault.wipeCount = satInc s.vault.wipeCount ∧
          (∀ n, (t.ring n).state = .off ∧ (t.ring n).entries = []) ∧ t = { s with rings := t.rings, vault := t.vault }))

/-! ### Alarms and fatal events -/

/-- PEND, SENSE and the count of a source, and no other source's. -/
def Sys2Proof.AlarmNoted (s t : State) (i : Nat) : Prop :=
  (∀ j < 16, t.vault.pend.getLsbD j = (s.vault.pend.getLsbD j || decide (j = i)) ∧
    t.vault.sense.getLsbD j = (s.vault.sense.getLsbD j || decide (j = i))) ∧
  (∀ j, Tab.at 0#32 t.vault.alarmCount j =
    if j = i then satInc (Tab.at 0#32 s.vault.alarmCount j) else Tab.at 0#32 s.vault.alarmCount j) ∧
  (t.vault.blowing = false) ∧ (s.vault.blowing = true → t.vault.busy = false)

/-- A source of Table 16-8 trips: PEND, SENSE and its count; under LOG nothing else stops but fuse programming, of which some first fields, how
many is free (log entry 30), were blown. ERASE and ERASE_SCRAP erase the keys at once, and ERASE_SCRAP blows every life-cycle fuse. Above LOG, in
Run, the wipe starts and hearths and Mantel stand at what a wipe leaves; in sleep the block wakes with code 4 and the event waits (R339 to R342). A
reserved source, and a block in Off or without the Seal, trips nothing. -/
def Sys2Proof.AlarmsActByTheirPolicy : Prop :=
  ∀ (s : State) (i : BitVec 4),
    let policy := s.vault.applied i.toNat
    ((s.cfg.hasSeal = false ∨ s.pwr.block = .off ∨ (5 ≤ i.toNat ∧ i.toNat ≤ 7)) → exec (.alarmTrip i) s = .next s) ∧
    (s.cfg.hasSeal = true → s.pwr.block ≠ .off → ¬(5 ≤ i.toNat ∧ i.toNat ≤ 7) →
      ∃ t, exec (.alarmTrip i) s = .next t ∧ AlarmNoted s t i.toNat ∧
        (policy = polLog → t.rings = s.rings ∧ t.hearths = s.hearths ∧ t.mantel = s.mantel ∧ t.audit = s.audit ∧
          t.vault.handling = s.vault.handling ∧ t.vault.attest = s.vault.attest) ∧
        (s.pwr.block = .run → policy = polLog → t.blk.blkEvent.getLsbD 6 = true) ∧
        (policy ≠ polScrap → ∃ k, t.vault.lcFuse = if s.vault.blowing then (s.vault.blowFirst k).lcFuse else s.vault.lcFuse) ∧
        (2 ≤ policy.toNat → t.vault.keysErased = true ∧ t.vault.blocked = true ∧ t.vault.attest = false) ∧
        (policy = polScrap → t.vault.lcFuse = 0xF#4) ∧
        (policy ≠ polLog → s.vault.halted = false →
          (∀ q, s.vault.handling = some q → t.vault.handling = some (if q.toNat ≤ policy.toNat then policy else q)) ∧
          (s.vault.handling = none → t.vault.handling = some policy ∧
            (s.vault.resetting = false → s.pwr.block = .run → t.vault.wiping = true ∧ t.vault.wipeKind = 3#3 ∧ t.mantel = [] ∧
              ∀ h, (t.hearth h).store = [] ∧ (t.hearth h).acc = [] ∧ (t.hearth h).xab = []) ∧
            (s.vault.resetting = false → (s.pwr.block = .doze ∨ s.pwr.block = .hibernate) →
              t.pwr.block = .waking ∧ t.pwr.lastWake = 4#3 ∧ t.pwr.queuedAlarms = s.pwr.queuedAlarms ++ [(i.toNat, policy)]))))

/-- Records that get no acknowledgement are abandoned: every ring is OFF, and no record, PHASE word or interrupt message waits (R341); with no
alarm in force nothing happens. The end of a condition clears its SENSE bit, and PEND stays (R345). KEYS_ERASED under ERASE_SCRAP is log
entry 48's reading. -/
def Sys2Proof.AlarmsAbandonRecordsAndEnd : Prop :=
  ∀ s : State,
    (s.vault.handling.isSome = true → s.vault.wiping = true → s.vault.resetting = false →
      ∃ t, exec .alarmRecordAbandon s = .next t ∧ t = { s with rings := t.rings, ports := t.ports } ∧
        (∀ n, (t.ring n).state = .off ∧ (t.ring n).entries = []) ∧
        ∀ p, ∀ r ∈ (t.port p).waiting, r.purpose ≠ .recordBody ∧ r.purpose ≠ .phase ∧ ∀ v, r.purpose ≠ .interrupt v) ∧
    (¬(s.vault.handling.isSome = true ∧ s.vault.wiping = true ∧ s.vault.resetting = false) →
      exec .alarmRecordAbandon s = .next s) ∧
    ∀ i : BitVec 4, ∃ t, exec (.alarmConditionEnd i) s = .next t ∧ t = { s with vault := { s.vault with sense := t.vault.sense } } ∧
      ∀ j < 16, t.vault.sense.getLsbD j = (s.vault.sense.getLsbD j && decide (j ≠ i.toNat))

/-- A fatal event stops issue and every engine and latches ERR_FATAL with COUNT[41:10]; a second one changes nothing. FATAL_HALT drops every
AWAKE, and no doorbell is taken (R350). -/
def Obligations.FatalEventsStopTheBlock : Prop :=
  ∀ s : State,
    (∀ (cause type unit : W8) (info : W64),
      (s.err.stopped = true → exec (.fatalEvent cause type unit info) s = .next s) ∧
      (s.err.stopped = false →
        ∃ t, exec (.fatalEvent cause type unit info) s = .next t ∧ t.err.stopped = true ∧ t.err.fatalValid = true ∧
          t.err.fatalCause = cause ∧ t.err.fatalType = type.setWidth 4 ∧ t.err.fatalUnit = unit ∧
          t.err.fatalStamp = s.audit.count.extractLsb' 10 32 ∧ t.issuing = false ∧ (∀ n pos op, t.running n pos op = none) ∧
          (∀ x, t.maintains x = false) ∧
          t = { s with err := t.err, ports := t.ports, host := t.host, hostPoison := t.hostPoison })) ∧
    (s.err.stopped = true →
      ∃ t, exec .fatalHalt s = .next t ∧ t = { s with err := { s.err with fatalHalted := true } } ∧ (∀ p, t.portAwake p = false) ∧
        t.poolAwake = false ∧ ∀ n tail, t.doorbell n tail = t) ∧
    (s.err.stopped = false → exec .fatalHalt s = .next s)

/-! ### Maintenance -/

/-- The arbiter's units work on an activity: the block is clocked, no fatal event and no wipe of the Seal is in force, and a bank's tier refreshes
(R305, R350, R353). -/
def Sys2Proof.Maintainable (s : State) (a : Nat) : Prop :=
  (s.pwr.block = .run ∨ s.pwr.block = .entering) ∧ s.err.stopped = false ∧ s.vault.wiping = false ∧
    (a ∈ [1, 4, 5] ∨ s.cfg.hasMantel = true)

/-- An expired period, and a change of a tier's temperature, request their activity: it then runs or waits. A period of 0 requests nothing, and
nothing is requested of units that stand (R286, R352). -/
def Sys2Proof.ScheduleAndTemperatureRequestActivities : Prop :=
  ∀ (s : State) (h : BitVec 6), h.toNat < s.cfg.hearths →
    (∀ a : BitVec 3, let period := nth 0#16 [0#16, s.maint.sramPeriod, s.maint.mantelPeriod, s.maint.recalPeriod] a.toNat
      ((period = 0#16 ∨ ¬Maintainable s a.toNat) → exec (.maintSchedule a h) s = .next s) ∧
      (period ≠ 0#16 → Maintainable s a.toNat →
        ∃ t, exec (.maintSchedule a h) s = .next t ∧ t = { s with maint := t.maint } ∧ t.maint.running = s.maint.running ∧
          (a.toNat, h.toNat) ∈ t.maint.running ++ t.maint.queued ∧ (a.toNat, h.toNat) ∈ t.maint.scheduled)) ∧
    ∀ hi : Bool,
      (((s.hearth h.toNat).tempHi = hi ∨ ¬Maintainable s 3) → exec (.tempHiChange h hi) s = .next s) ∧
      ((s.hearth h.toNat).tempHi ≠ hi → Maintainable s 3 →
        ∃ t, exec (.tempHiChange h hi) s = .next t ∧ t = { s with hearths := t.hearths, maint := t.maint } ∧
          t.hearth h.toNat = { s.hearth h.toNat with tempHi := hi } ∧ (∀ k, k ≠ h.toNat → t.hearth k = s.hearth k) ∧
          (3, h.toNat) ∈ t.maint.running ++ t.maint.queued)

/-- The arbiter starts the first activity that may start, and aborts one of lower rank on the same resource: it is flagged, counted, queued
again, and recorded with cause 0x12 (R353). A scrub of a hearth that is neither ACTIVE nor GATED is skipped (R308). With none that may start, or
its units standing, nothing changes. -/
def Sys2Proof.TheArbiterStartsAndAborts : Prop :=
  ∀ s : State,
    (s.maint.startable = none → exec .maintGrant s = .next s) ∧
    ∀ x : Nat × Nat, s.maint.startable = some x → (¬Maintainable s x.1 → exec .maintGrant s = .next s) ∧ (Maintainable s x.1 →
      let skipped := x.1 = 1 ∧ (s.hearth x.2).power ≠ .active ∧ (s.hearth x.2).power ≠ .gated
      (¬skipped → (∀ y ∈ s.maint.running, maintOverlap x y = false) →
        ∃ t, exec .maintGrant s = .next t ∧ t.maint = { s.maint with
            running := s.maint.running ++ [x], queued := s.maint.queued.erase x } ∧
          t = { s with maint := t.maint, hearths := t.hearths, pwr := t.pwr } ∧
          (x.1 ≠ 4 → t.hearths = s.hearths ∧ t.pwr = s.pwr)) ∧
      (skipped → (∀ y ∈ s.maint.running, maintOverlap x y = false) →
        ∃ t, exec .maintGrant s = .next t ∧ t.maint.running = (s.maint.running ++ [x]).erase x ∧ x ∉ t.maint.scheduled ∧
          t = { s with maint := t.maint, rings := t.rings } ∧ ∀ n, n ≠ 0 → t.ring n = s.ring n) ∧
      ∀ y, ¬skipped → s.maint.running = [y] → maintOverlap x y = true →
        let logged := s.logError (ErrorEvent.plain 0 0x12 9 y.2 (BitVec.ofNat 64 (y.1 + 256 * x.1)))
        ∃ t, exec .maintGrant s = .next t ∧ t.maint.running = [x] ∧ y ∈ t.maint.queued ∧ t.maint.aborted = true ∧
          t.maint.abortCount = satInc s.maint.abortCount ∧ t.err = logged.err ∧ t.ports = logged.ports ∧ t.host = logged.host ∧
          t.rings = s.rings ∧ t.mantel = s.mantel ∧ t.blk = s.blk)

/-- What a scrub finds in a line: a newer write (3), an uncorrectable unit (2), a correctable one (1), or nothing. -/
def Sys2Proof.ScrubFinds (outcome : BitVec 2) (bad soft : Prop) (found : Nat) : Prop :=
  (outcome = 3#2 → found = 3) ∧ (outcome ≠ 3#2 → (bad ∨ outcome = 2#2) → found = 2) ∧
    (outcome ≠ 3#2 → ¬(bad ∨ outcome = 2#2) → (soft ∨ outcome = 1#2) → found = 1) ∧
    (outcome ≠ 3#2 → ¬(bad ∨ outcome = 2#2) → ¬(soft ∨ outcome = 1#2) → found = 0)

/-- Some unit of the 64-byte line at an address is in a list of marks of 8-byte words. -/
def Sys2Proof.InLine (m : List Nat) (a : Nat) : Prop := ∃ k ∈ m, a / 8 ≤ k ∧ k < a / 8 + 8

/-- One step of a scrub advances its pointer by 64 bytes and counts what it finds; an uncorrectable line that is not marked yet is marked, at its
first word in an SRAM; a corrected one is rewritten; only the hearth and its bank are concerned (R354, Table 17-11, Table 14-8). Recalibration
steps, and steps of what does not run, change nothing here. That a step is one line of 64 bytes, and which word is marked, are log entries 55
and 74. -/
def Sys2Proof.ScrubStepsCountWhatTheyFind : Prop :=
  ∀ (s : State) (a : BitVec 3) (h : BitVec 6) (outcome : BitVec 2),
    let x := s.hearth h.toNat
    (¬((a.toNat, h.toNat) ∈ s.maint.running ∧ Maintainable s a.toNat) → exec (.maintStep a h outcome) s = .next s) ∧
    ((a.toNat, h.toNat) ∈ s.maint.running → Maintainable s a.toNat →
      (a ≠ 1#3 → a ≠ 2#3 → exec (.maintStep a h outcome) s = .next s) ∧
      (a = 1#3 →
        let p := x.sramPtr
        let inStore := p < 2 ^ 23
        let inAcc := 2 ^ 23 ≤ p ∧ p < 3 * 2 ^ 22
        let bad := (inStore ∧ InLine x.storeBad p) ∨ (inAcc ∧ InLine x.accBad (p - 2 ^ 23))
        let soft := (inStore ∧ InLine x.storeSoft p) ∨ (inAcc ∧ InLine x.accSoft (p - 2 ^ 23))
        ∃ t found, exec (.maintStep a h outcome) s = .next t ∧ ScrubFinds outcome bad soft found ∧
          (∀ k, k ≠ h.toNat → t.hearth k = s.hearth k) ∧ (t.hearth h.toNat).sramPtr = (p + 64) % (13 * 2 ^ 20) ∧
          (t.hearth h.toNat).sramCe = (if found = 1 then satInc x.sramCe else x.sramCe) ∧
          (t.hearth h.toNat).sramUe = (if found = 2 then satInc x.sramUe else x.sramUe) ∧
          (found = 2 → ¬bad → (inStore → p / 8 ∈ (t.hearth h.toNat).storePoison ∧ p / 8 ∈ (t.hearth h.toNat).storeBad) ∧
            (inAcc → (p - 2 ^ 23) / 8 ∈ (t.hearth h.toNat).accPoison ∧ (p - 2 ^ 23) / 8 ∈ (t.hearth h.toNat).accBad)) ∧
          (found ≠ 2 → (t.hearth h.toNat).storePoison = x.storePoison ∧ (t.hearth h.toNat).accPoison = x.accPoison) ∧
          (found = 1 → (inStore → ¬InLine (t.hearth h.toNat).storeSoft p) ∧ (inAcc → ¬InLine (t.hearth h.toNat).accSoft (p - 2 ^ 23))) ∧
          (t.hearth h.toNat).store = x.store ∧ (t.hearth h.toNat).acc = x.acc ∧
          t.mantel = s.mantel ∧ t.rings = s.rings ∧ t.maint = s.maint) ∧
      (a = 2#3 →
        let line := (2 ^ 28 * h.toNat + x.mantelPtr) / 64
        ∃ t found, exec (.maintStep a h outcome) s = .next t ∧
          ScrubFinds outcome (line ∈ s.mantelBad) (line ∈ s.mantelSoft) found ∧
          (∀ k, k ≠ h.toNat → t.hearth k = s.hearth k) ∧ (t.hearth h.toNat).mantelPtr = (x.mantelPtr + 64) % 2 ^ 28 ∧
          (t.hearth h.toNat).mantelCorrected = (if found = 1 then satInc x.mantelCorrected else x.mantelCorrected) ∧
          (t.hearth h.toNat).mantelUncorr = (if found = 2 then satInc x.mantelUncorr else x.mantelUncorr) ∧
          (t.hearth h.toNat).store = x.store ∧
          (found = 2 → line ∈ t.mantelPoison ∧ line ∈ t.mantelBad) ∧ (found = 1 → line ∉ t.mantelSoft) ∧
          (∀ k, k ≠ line → (k ∈ t.mantelPoison ↔ k ∈ s.mantelPoison)) ∧
          t.mantel = s.mantel ∧ t.rings = s.rings ∧ t.maint = s.maint))

/-- An activity ends, BIST only on its ACTIVE hearth: it no longer runs and the MAINT that awaited it is finished; a scrub pass is counted and its
pointer starts anew; BIST leaves its result and the hearth SHUT and OFFLINE; a wipe of a hearth empties its memories, and a wipe of a bank zeroes
exactly its bytes (R355, R356). -/
def Sys2Proof.ActivitiesEndWithTheirResults : Prop :=
  ∀ (s : State) (a : BitVec 3) (h : BitVec 6) (pass : Bool) (unit : W8),
    let ends := (a.toNat, h.toNat) ∈ s.maint.running ∧ Maintainable s a.toNat ∧ (a = 4#3 → (s.hearth h.toNat).power = .active)
    (¬ends → exec (.maintActivityDone a h pass unit) s = .next s) ∧
    (ends →
      ∃ t, exec (.maintActivityDone a h pass unit) s = .next t ∧ t.maint.running = s.maint.running.erase (a.toNat, h.toNat) ∧
        (∀ w ∈ s.maint.waiting, w.2 = (a.toNat, h.toNat) → ∀ e ∈ (t.ring 0).entries, e.pos = w.1 → e.stage = .finished) ∧
        (∀ n, n ≠ 0 → t.ring n = s.ring n) ∧ (∀ k, k ≠ h.toNat → t.hearth k = s.hearth k) ∧
        (a ≠ 6#3 → t.mantel = s.mantel) ∧
        (a = 1#3 → (t.hearth h.toNat).scrubPasses = satInc (s.hearth h.toNat).scrubPasses ∧ (t.hearth h.toNat).sramPtr = 0 ∧
          (t.hearth h.toNat).store = (s.hearth h.toNat).store) ∧
        (a = 2#3 → (t.hearth h.toNat) = { s.hearth h.toNat with mantelPtr := 0 }) ∧
        (a = 4#3 → (t.hearth h.toNat).bistResult = (if pass then 1#2 else 2#2) ∧
          (t.hearth h.toNat).bistUnit = (if pass then 0#8 else unit) ∧
          (t.hearth h.toNat).bistRuns = satInc (s.hearth h.toNat).bistRuns ∧
          (t.hearth h.toNat).bistFails = (if pass then (s.hearth h.toNat).bistFails else satInc (s.hearth h.toNat).bistFails) ∧
          (t.hearth h.toNat).power = .shut ∧ (t.hearth h.toNat).offline = true) ∧
        (a = 5#3 → (t.hearth h.toNat).store = [] ∧ (t.hearth h.toNat).acc = []) ∧
        (a = 6#3 → ∀ b, t.mantel.byte b = if b / 2 ^ 28 = h.toNat then 0#8 else s.mantel.byte b))

/-! ### Hearth and block power -/

/-- While its stove's controller runs, an idle hearth enters GATED, and from GATED RETAIN where IDLE_STATE is 2; a hearth at work or under
maintenance, or with IDLE_STATE 0, stays (R305, R308). Its wake ends ACTIVE and counted, from SHUT with its memories wiped (R309); in any other
state nothing ends. -/
def Obligations.HearthsIdleAndWake : Prop :=
  ∀ (s : State) (h : BitVec 6), h.toNat < s.cfg.hearths →
    let x := s.hearth h.toNat
    ((s.hearthWork h.toNat = true ∨ s.hearthMaint h.toNat = true ∨ x.idleState = 0#2 ∨ s.upkeep = false ∨
      (x.power ≠ .active ∧ x.power ≠ .gated)) → exec (.hearthIdleEntry h) s = .next s) ∧
    (s.hearthWork h.toNat = false → s.hearthMaint h.toNat = false → s.upkeep = true →
      (x.power = .active → (x.idleState = 1#2 ∨ x.idleState = 2#2) →
        exec (.hearthIdleEntry h) s = .next (s.setHearth h.toNat { x with power := .gated })) ∧
      (x.power = .gated → x.idleState = 2#2 → exec (.hearthIdleEntry h) s = .next (s.setHearth h.toNat { x with power := .retain })) ∧
      (x.power = .gated → x.idleState = 1#2 → exec (.hearthIdleEntry h) s = .next s)) ∧
    (x.power = .waking → x.fromShut = false →
      ∃ t, exec (.hearthWakeDone h) s = .next t ∧ t.hearth h.toNat = { x with power := .active, wakeCount := satInc x.wakeCount } ∧
        (∀ k, k ≠ h.toNat → t.hearth k = s.hearth k) ∧ t = { s with hearths := t.hearths, rings := t.rings } ∧
        ∀ n, n ≠ 0 → t.ring n = s.ring n) ∧
    (x.power = .wiping →
      ∃ t, exec (.hearthWakeDone h) s = .next t ∧ (t.hearth h.toNat).power = .active ∧
        (t.hearth h.toNat).wakeCount = satInc x.wakeCount ∧ (t.hearth h.toNat).wipeCount = satInc x.wipeCount ∧
        (t.hearth h.toNat).store = [] ∧ (t.hearth h.toNat).acc = [] ∧ (t.hearth h.toNat).tiles = [] ∧ (t.hearth h.toNat).shapes = [] ∧
        (t.hearth h.toNat).xab = x.xab ∧ (∀ k, k ≠ h.toNat → t.hearth k = s.hearth k) ∧
        t = { s with hearths := t.hearths, rings := t.rings }) ∧
    (x.power ≠ .wiping → ¬(x.power = .waking ∧ x.fromShut = false) → exec (.hearthWakeDone h) s = .next s)

/-- A switch's acknowledgement sets its bit. A hearth that waits for power starts its wipe; a stove that has power in a reset raises its hearths'
requests, and at a wake from Hibernate without an alarm starts their wakes where WAKE_TARGET asks for it (R311, R376, Table 18-3). -/
def Sys2Proof.SwitchesAcknowledge : Prop :=
  ∀ (s : State) (d : BitVec 7) (level : Bool), d.toNat < 9 + s.cfg.hearths →
    ∃ t, exec (.pswAck d level) s = .next t ∧ (∀ j < 73, t.pwr.pswAck.getLsbD j = if j = d.toNat then level else s.pwr.pswAck.getLsbD j) ∧
      t = { s with pwr := { s.pwr with pswAck := t.pwr.pswAck, pswReq := t.pwr.pswReq }, hearths := t.hearths } ∧
      ((d = 0#7 ∨ level = false) → t.pwr.pswReq = s.pwr.pswReq ∧ t.hearths = s.hearths) ∧
      (9 ≤ d.toNat → t.pwr.pswReq = s.pwr.pswReq ∧
        ∀ k, t.hearth k = if level = true ∧ d.toNat = 9 + k ∧ (s.hearth k).power = .waking ∧ (s.hearth k).fromShut = true then
          { s.hearth k with power := .wiping } else s.hearth k) ∧
      (1 ≤ d.toNat → d.toNat < 9 → level = true →
        (∀ h, h < s.cfg.hearths → h / 8 = d.toNat - 1 → s.vault.resetting = true → s.pwr.pswReq.getLsbD d.toNat = true →
          t.pwr.pswReq.getLsbD (9 + h) = true) ∧
        (¬(s.pwr.block = .waking ∧ s.pwr.sleeping = .hibernate ∧ s.vault.handling = none ∧ s.pwr.wakeHearths = true) →
          t.hearths = s.hearths) ∧
        (s.pwr.block = .waking → s.pwr.sleeping = .hibernate → s.vault.handling = none → s.pwr.wakeHearths = true →
          ∀ h, h < s.cfg.hearths → h / 8 = d.toNat - 1 → (s.hearth h).offline = false → (s.hearth h).power = .shut →
            ((t.hearth h).power = .waking ∨ (t.hearth h).power = .wiping) ∧ (t.hearth h).fromShut = true ∧
              t.pwr.pswReq.getLsbD (9 + h) = true))

/-- The wake sources of R314: the management port and an access always; a doorbell only with DB_WAKE and a held TAIL; an alarm only while one is
handled whose policy is not LOG. They wake from Doze and Hibernate; during an entry the first one is kept; in Off, in Run and in a wake under
way, and for any other source, nothing happens. -/
def Sys2Proof.SourcesWakeTheBlock : Prop :=
  ∀ (s : State) (source : BitVec 3),
    let wakes := source = 2#3 ∨ source = 3#3 ∨ (source = 1#3 ∧ s.pwr.dbWake = true ∧ (s.rings.any fun p => p.2.held.isSome) = true) ∨
      (source = 4#3 ∧ s.vault.handling.isSome = true)
    ((¬wakes ∨ s.pwr.block = .off ∨ s.pwr.block = .run ∨ s.pwr.block = .waking) → exec (.blockWake source) s = .next s) ∧
    (wakes → s.pwr.block = .entering →
      exec (.blockWake source) s = .next { s with pwr := { s.pwr with dueWake := some (s.pwr.dueWake.getD source) } }) ∧
    (wakes → (s.pwr.block = .doze ∨ s.pwr.block = .hibernate) →
      ∃ t, exec (.blockWake source) s = .next t ∧ t.pwr.block = .waking ∧ t.pwr.lastWake = source ∧
        t.pwr.wakeCount = satInc s.pwr.wakeCount ∧ t = { s with pwr := t.pwr, hearths := t.hearths } ∧
        (s.pwr.block = .hibernate → t.hearths = s.hearths ∧ ∀ v < s.cfg.stoves, (t.stove v).railOn = true ∧ (t.stove v).vok = false) ∧
        (s.pwr.block = .doze → s.pwr.wakeHearths = false → t.hearths = s.hearths) ∧
        (s.pwr.block = .doze → s.pwr.wakeHearths = true → ∀ h < s.cfg.hearths, (s.hearth h).offline = false →
          (s.hearth h).power = .retain → (t.hearth h).power = .waking))

/-- The block reaches Run, once its core has power and the hearths that wake with it are ACTIVE: WAKE_DONE is set and its event queued, LAST_WAKE
stays, transmit credit stands at zero, and the accesses that stalled complete (R311, R314, R371). An alarm that waited acts: its wipe starts
(R342). -/
def Sys2Proof.WakesReachRun : Prop :=
  ∀ (s : State) (credits : List (BitVec 13 × BitVec 13)) (warn : W8),
    let ready := s.pwr.block = .waking ∧ s.coreUp = true ∧ s.vault.resetting = false ∧
      ∀ h < s.cfg.hearths, (s.hearth h).power = .waking → (s.hearth h).fromShut = true
    (¬ready → exec (.wakeDone ⟨credits, warn⟩) s = .next s) ∧
    (ready → s.vault.handling = none →
      ∃ t, exec (.wakeDone ⟨credits, warn⟩) s = .next t ∧ t.pwr.block = .run ∧ t.pwr.lastWake = s.pwr.lastWake ∧ t.sash.stalled = [] ∧
        t.audit.count = s.audit.count ∧
        (s.sash.stalled = [] → (∀ n, (s.ring n).held = none ∧ (s.ring n).withheld = []) → warn = s.xch.warn →
          t.blk.blkEvent.getLsbD 4 = true ∧ t.xch.txCredits = [] ∧ t.mantel = s.mantel ∧ t.hearths = s.hearths ∧
            t.rings = s.rings ∧ t.sash = s.sash)) ∧
    (ready → s.vault.handling.isSome = true → (s.pwr.sleeping ≠ .hibernate ∨ s.sash.stalled = []) →
      ∃ t, exec (.wakeDone ⟨credits, warn⟩) s = .next t ∧ t.pwr.block = .run ∧ t.vault.wiping = true ∧ t.vault.wipeKind = 3#3 ∧ t.mantel = [])

/-- After the WAIT's record, MODE 1 enters Doze, with every hearth that is not SHUT in RETAIN, or SHUT too where DOZE_HEARTH asks for it, and
nothing else lost; MODE 2 enters Hibernate, with every hearth SHUT, the rails and the core's registers lost, and the Mantel and the doorbells that
Ember holds kept. A source that came meanwhile then starts the wake (R311, R313, R314). -/
def Sys2Proof.LowPowerEntryKeepsWhatTheStateKeeps : Prop :=
  ∀ s : State,
    (¬(s.pwr.block = .entering ∧ (s.ring 0).entries = []) → exec .lowPowerEnter s = .next s) ∧
    (s.pwr.block = .entering → (s.ring 0).entries = [] →
      (s.pwr.mode = 1#2 →
        ∃ t, exec .lowPowerEnter s = .next t ∧ (∀ h < s.cfg.hearths, (t.hearth h).power ≠ .active ∧ (t.hearth h).power ≠ .gated) ∧
          t = { s with pwr := t.pwr, hearths := t.hearths, jtag := t.jtag, xch := { s.xch with rxCredits := [] } } ∧
          (s.pwr.dueWake = none → t.pwr = { s.pwr with block := .doze, committed := false, pswReq := t.pwr.pswReq } ∧
            (s.pwr.dozeHearth = true → ∀ h < s.cfg.hearths, (t.hearth h).power = .shut ∧ (t.hearth h).store = []) ∧
            (s.pwr.dozeHearth = false → ∀ h < s.cfg.hearths, (s.hearth h).fromShut = false →
              ((s.hearth h).power ≠ .shut → t.hearth h = { s.hearth h with power := .retain }) ∧
              ((s.hearth h).power = .shut → (t.hearth h).power = .shut))) ∧
          ∀ code, s.pwr.dueWake = some code → t.pwr.block = .waking ∧ t.pwr.lastWake = code) ∧
      (s.pwr.mode = 2#2 →
        ∃ t, exec .lowPowerEnter s = .next t ∧
          (s.pwr.dueWake = none → t.pwr.block = .hibernate ∧ ∀ v < s.cfg.stoves, (t.stove v).railOn = false) ∧
          (∀ code, s.pwr.dueWake = some code → t.pwr.block = .waking ∧ t.pwr.lastWake = code) ∧
          t.pwr.pswReq = 0#73 ∧ t.pwr.isoStoves = 0#8 ∧ t.pwr.isoPool = false ∧
          (∀ h < s.cfg.hearths, (t.hearth h).power = .shut ∧ (t.hearth h).store = [] ∧ (t.hearth h).xab = (s.hearth h).xab) ∧
          (Tab.wf Ring.reset s.rings = true → ∀ n, t.ring n = { Ring.reset with held := (s.ring n).held }) ∧
          t.blk = Block.reset ∧ t.mantel = s.mantel ∧ t.mantelPoison = s.mantelPoison ∧
          t.audit.count = s.audit.count ∧ t.audit.powered = s.audit.powered ∧ t.host = s.host ∧
          t.vault.keySlots = s.vault.keySlots ∧ t.vault.pend = s.vault.pend))

/-! ### The common count, its synchronisation, and the recorder -/

/-- With no slew to apply, COUNT and POWERED_TIME advance by 10 in Run and by 40 in sleep, and stand in Off (R272); that a transition counts as
Run is the model's reading (log entry 123). The soft errors of that time, a free value (log entry 146), mark words and change no byte. -/
def Obligations.CountAdvancesByTheStateOfTheBlock : Prop :=
  ∀ s : State, s.audit.slew = 0 →
    (s.pwr.block = .off → exec .countTick s = .next s) ∧
    (s.pwr.block ≠ .off →
      let d : W64 := if s.pwr.block = .doze ∨ s.pwr.block = .hibernate then 40#64 else 10#64
      ∃ t, exec .countTick s = .next t ∧
        t.audit = { s.audit with count := s.audit.count + d, powered := s.audit.powered + d, syncOut := t.audit.syncOut } ∧
        (∀ h, (t.hearth h).store = (s.hearth h).store ∧ (t.hearth h).acc = (s.hearth h).acc ∧ (t.hearth h).tiles = (s.hearth h).tiles ∧
          (t.hearth h).live = (s.hearth h).live ∧ (t.hearth h).jobs = (s.hearth h).jobs ∧ (t.hearth h).shapes = (s.hearth h).shapes) ∧
        t = { s with audit := t.audit, hearths := t.hearths, mantelPoison := t.mantelPoison, mantelBad := t.mantelBad,
                     mantelSoft := t.mantelSoft, draws := s.draws + 1 })

/-- A pulse is counted; a follower sets SKEW to the nearest multiple of 64 at its first pulse, reports the rest as RESIDUAL and slews nothing; a
later pulse slews the residual, and the fourth in a row within 16 ns locks; beyond 256 ns the lock is lost (R273). A missed pulse unlocks a
follower. A leader drives SYNC_OUT at a multiple of 2^20 (R374). A change of ROLE starts the measurement anew (log entry 24). In Off nothing
happens. -/
def Obligations.SyncPulsesMeasureAndLock : Prop :=
  ∀ s : State,
    (s.pwr.block = .off → (∀ leader ns, exec (.syncPulse ⟨leader, ns⟩) s = .next s) ∧ exec .syncPulseMissed s = .next s ∧
      exec .syncOutPulse s = .next s) ∧
    (s.pwr.block ≠ .off → s.audit.recEnable = false → ∀ (leader : W64) (ns : BitVec 6),
      let diff := (leader - (s.audit.count + ns.setWidth 64 - s.audit.delay.setWidth 64)).toInt
      (s.audit.role ≠ 2#2 →
        exec (.syncPulse ⟨leader, ns⟩) s = .next { s with audit := { s.audit with pulses := s.audit.pulses + 1#64 } }) ∧
      (s.audit.role = 2#2 → s.audit.skewUnset = true →
        ∃ t, exec (.syncPulse ⟨leader, ns⟩) s = .next t ∧ t = { s with audit := t.audit } ∧ t.audit.pulses = s.audit.pulses + 1#64 ∧
          (∃ m : Int, t.audit.skew = BitVec.ofInt 64 (64 * m) ∧ -32 ≤ diff - 64 * m ∧ diff - 64 * m ≤ 32 ∧
            t.audit.residual = BitVec.ofInt 32 (diff - 64 * m)) ∧
          t.audit.skewUnset = false ∧ t.audit.slew = 0 ∧ t.audit.goodPulses = 0 ∧ t.audit.locked = s.audit.locked ∧
          t.audit.count = s.audit.count) ∧
      (s.audit.role = 2#2 → s.audit.skewUnset = false →
        let res := diff - s.audit.skew.toInt
        ∃ t, exec (.syncPulse ⟨leader, ns⟩) s = .next t ∧ t = { s with audit := t.audit } ∧ t.audit.residual = BitVec.ofInt 32 res ∧
          t.audit.count = s.audit.count ∧ t.audit.slew = res ∧
          (-16 ≤ res → res ≤ 16 → t.audit.goodPulses = s.audit.goodPulses + 1 ∧
            t.audit.locked = (s.audit.locked || decide (3 ≤ s.audit.goodPulses))) ∧
          ((res < -16 ∨ 16 < res) → t.audit.goodPulses = 0) ∧
          (-256 ≤ res → res ≤ 256 → t.audit.lockLost = s.audit.lockLost ∧ (s.audit.locked = true → t.audit.locked = true)) ∧
          ((res < -256 ∨ 256 < res) → t.audit.locked = false ∧ t.audit.lockLost = true ∧
            t.audit.lostCount = satInc s.audit.lostCount))) ∧
    (s.pwr.block ≠ .off →
      (s.audit.role = 2#2 →
        ∃ t, exec .syncPulseMissed s = .next t ∧ t = { s with audit := t.audit } ∧ t.audit.locked = false ∧ t.audit.lockLost = true ∧
          t.audit.lostCount = satInc s.audit.lostCount ∧ t.audit.count = s.audit.count) ∧
      (s.audit.role ≠ 2#2 → exec .syncPulseMissed s = .next s) ∧
      (s.audit.role = 1#2 → s.audit.count.toNat % 2 ^ 20 < 64 →
        exec .syncOutPulse s = .next { s with audit := { s.audit with syncOut := true } }) ∧
      ((s.audit.role ≠ 1#2 ∨ 64 ≤ s.audit.count.toNat % 2 ^ 20) → exec .syncOutPulse s = .next s)) ∧
    (s.sashOpen → ∀ d : W64, d.setWidth 2 ≠ s.audit.role →
      ∃ t, exec (.registerWrite 0x4010#20 d) s = .next t ∧ t = { s with audit := t.audit, sash := t.sash } ∧
        t.audit.role = d.setWidth 2 ∧ t.audit.delay = (d >>> 8).setWidth 16 ∧ t.audit.locked = false ∧ t.audit.goodPulses = 0 ∧
        t.audit.skewUnset = true ∧ t.audit.syncOut = (s.audit.syncOut && decide (d.setWidth 2 = 1#2)))

/-- Nothing is held or withheld for want of room in the recorder's ring, or for a wake. -/
def Sys2Proof.NothingWithheld (s : State) : Prop := (∀ n, (s.ring n).held = none ∧ (s.ring n).withheld = []) ∧ s.audit.withheldRows = []

/-- The gap record goes first when space returns: kind 6, its DATA the number of lost records (R277). -/
def Sys2Proof.GapRecordsGoFirst : Prop :=
  ∀ s : State,
    (¬(s.issuing = true ∧ s.audit.recEnable = true ∧ s.audit.recMode = false ∧ s.audit.recFull = false) →
      exec .recorderGap s = .next s) ∧
    (s.issuing = true → s.audit.recEnable = true → s.audit.recMode = false → s.audit.recFull = false → NothingWithheld s →
      (s.audit.recGap = 0#64 → ∃ t, exec .recorderGap s = .next t ∧ t = { s with xch := { s.xch with rxCredits := t.xch.rxCredits } }) ∧
      (s.audit.recGap ≠ 0#64 → s.reportPort → (s.port 2).inflight = [] → (s.port 2).waiting = [] →
        ∃ t, exec .recorderGap s = .next t ∧ t.audit = { s.audit with
            recGap := 0#64, recTail := s.audit.recTail + 1#32, recIndex := s.audit.recIndex + 1#32 } ∧
          t.host = s.host.store (s.audit.recBase.toNat + 32 * (s.audit.recTail.toNat % 2 ^ s.audit.recLog2.toNat))
            ([6#8, 0#8, 0#8, 0#8] ++ leBytes 4 s.audit.recIndex.toNat ++ leBytes 8 s.audit.count.toNat ++
              leBytes 8 s.audit.recGap.toNat ++ leBytes 8 0) ∧
          t = { s with audit := t.audit, ports := t.ports, host := t.host, hostPoison := t.hostPoison,
                       xch := { s.xch with rxCredits := t.xch.rxCredits } }))

/-- Replay takes the record at REC_TAIL: a doorbell is acted on, a gap skipped, a pulse acted on when the input that it names waits; a record
whose input has not come waits; at REC_LIMIT replay stops. A missing input sets DIVERGED, counts it, names the record's INDEX, and the block goes
on live (R278; that replay passes gap records is the model's reading, log entry 121). -/
def Sys2Proof.ReplayFollowsTheRecords : Prop :=
  ∀ s : State,
    (s.issuing = false → exec .replayStep s = .next s ∧ exec .replayDiverge s = .next s) ∧
    (s.issuing = true → s.audit.recEnable = true → s.audit.recMode = true → s.audit.replayLive = false →
      (s.audit.recTail = s.audit.recLimit → exec .replayStep s = .next s) ∧
      (s.audit.recTail ≠ s.audit.recLimit →
        let kind := fld s.replayRecord 0 0 8
        let passed : State := { s with audit := { s.audit with recTail := s.audit.recTail + 1#32 } }
        (kind = 1 →
          exec .replayStep s = .next (passed.takeDoorbell (fld s.replayRecord 1 0 8 % 128) (BitVec.ofNat 32 (fld s.replayRecord 16 0 32)))) ∧
        (kind = 6 → exec .replayStep s = .next passed) ∧
        (kind ≠ 1 → kind ≠ 6 → s.audit.replayWaiting = [] → exec .replayStep s = .next s) ∧
        (∀ leader ns, kind = 5 → s.audit.replayWaiting = [.syncPulse ⟨leader, ns⟩] →
          fld s.replayRecord 16 0 64 = (s.audit.pulses + 1#64).toNat →
          fld s.replayRecord 24 0 64 = (s.audit.digest (leBytes 8 (s.audit.pulses + 1#64).toNat)).toNat →
          ∃ t, exec .replayStep s = .next t ∧ t = { s with audit := t.audit } ∧ t.audit.pulses = s.audit.pulses + 1#64 ∧
            t.audit.recTail = s.audit.recTail + 1#32 ∧ t.audit.replayWaiting = []) ∧
        (s.xch.timeout ≠ 0#32 → s.audit.replayWaiting = [] →
          ∃ t, exec .replayDiverge s = .next t ∧ t = { s with
            audit := { s.audit with
              diverged := true, divergeCount := satInc s.audit.divergeCount,
              divergeAt := BitVec.ofNat 32 (fld s.replayRecord 4 0 32), replayLive := true },
            xch := { s.xch with rxCredits := t.xch.rxCredits } })))

/-- The recorder's gap record, and replay (R277, R278). -/
def Obligations.RecordingAndReplay : Prop :=
  GapRecordsGoFirst ∧ ReplayFollowsTheRecords

/-- Power-switch acknowledgements and wake sources (R311, R314, R376). -/
def Obligations.SwitchesAndWakeSources : Prop :=
  SwitchesAcknowledge ∧ SourcesWakeTheBlock

/-- Resets, power-off and power-on (R306, R361, R362). -/
def Obligations.ResetsAndPowerCycles : Prop :=
  ResetsStartWithTheWipe ∧ PowerOffAndOnLoseTheCounts

/-- An alarm, the abandoning of its records, and the end of its condition (R341, R345). -/
def Obligations.AlarmsFromTripToEnd : Prop :=
  AlarmsActByTheirPolicy ∧ AlarmsAbandonRecordsAndEnd

/-- Requests of activities and the arbiter (R352, R353). -/
def Obligations.MaintenanceRequestsAndGrants : Prop :=
  ScheduleAndTemperatureRequestActivities ∧ TheArbiterStartsAndAborts

/-- Steps and ends of activities (R354 to R356). -/
def Obligations.MaintenanceStepsAndEnds : Prop :=
  ScrubStepsCountWhatTheyFind ∧ ActivitiesEndWithTheirResults

/-- The entry to Doze and Hibernate, and the end of a wake (R311, R314). -/
def Obligations.SleepEntryAndWake : Prop :=
  LowPowerEntryKeepsWhatTheStateKeeps ∧ WakesReachRun

/-! ### Descriptors of the fast path -/

/-- Only one issued position changes. -/
def Sys2Proof.OnlyEntry (s t : State) (n : Nat) (pos : W32) : Prop :=
  t = { s with rings := t.rings } ∧ (∀ m, m ≠ n → t.ring m = s.ring m) ∧
    t.ring n = { s.ring n with entries := (t.ring n).entries } ∧ ∀ q, q ≠ pos → t.entry n q = s.entry n q

/-- The command ends the work of a position and changes nothing else: its record is due, with the status that it has, and it holds no tile,
slot or group. -/
def Sys2Proof.EndsWork (c : Instr) (n : Nat) (e : Entry) (s : State) : Prop :=
  ∃ t, exec c s = .next t ∧ OnlyEntry s t n e.pos ∧ t.entry n e.pos = some e.finished ∧ e.finished.stage = .finished ∧
    e.finished.status = e.status ∧ e.finished.detail = e.detail ∧ e.finished.flags = e.flags

/-- NOP performs no work and completes OK (R251). -/
def Obligations.NopCompletesWithoutWork : Prop :=
  ∀ (s : State) (n : BitVec 7) (pos : W32) (e : Entry), s.running n.toNat pos 0x60 = some e → e.status = 0#8 →
    EndsWork (.nop n pos) n.toNat e s ∧
    ∃ t f, exec (.nop n pos) s = .next t ∧ t.entry n.toNat pos = some f ∧ f.stage = .finished ∧ f.status = 0#8

/-- FENCE KIND RING ends once every earlier position of its ring has its record, and waits until then; no later position of the ring issues
before its own record (R250). -/
def Sys2Proof.FenceRingHoldsItsRing : Prop :=
  ∀ (s : State) (n : BitVec 7) (pos : W32) (e : Entry),
    (s.running n.toNat pos 0x40 = some e → fld e.desc.toNat 16 0 2 = 0 →
      ((∀ f ∈ (s.ring n.toNat).entries, e.order ≤ f.order) → EndsWork (.fenceRing n pos) n.toNat e s) ∧
      ((∃ f ∈ (s.ring n.toNat).entries, f.order < e.order) → exec (.fenceRing n pos) s = .next s)) ∧
    (e ∈ (s.ring n.toNat).entries → descOpcode e.desc = 0x40 → fld e.desc.toNat 16 0 2 = 0 → e.status = 0#8 →
      s.issueRing n.toNat = none)

/-- FENCE KIND EPOCH starts, and is then EPOCH_INSTALL's; from its decode until its record no ring issues a ROUTE_BUILD, DISPATCH or COMBINE,
and afterwards the hold has ended (R248, R250). -/
def Sys2Proof.FenceEpochHoldsExchanges : Prop :=
  ∀ (s : State),
    (∀ (pos : W32) (e : Entry), s.running 0 pos 0x40 = some e → fld e.desc.toNat 16 0 2 = 1 →
      ∃ t, exec (.fenceEpoch 0#7 pos) s = .next t ∧ OnlyEntry s t 0 pos ∧ t.entry 0 pos = some { e with started := true }) ∧
    ((∃ e ∈ (s.ring 0).entries, descOpcode e.desc = 0x40 ∧ fld e.desc.toNat 16 0 2 = 1 ∧ e.stage ≠ .recorded ∧ e.status ≠ 0x0C#8) →
      s.epochHeld = true) ∧
    ((∃ f rest, (s.ring 0).fetched = f :: rest ∧ (s.ring 0).state = .run ∧ descOpcode f.desc = 0x40 ∧ fld f.desc.toNat 16 0 2 = 1) →
      s.epochHeld = true) ∧
    ((∀ e ∈ (s.ring 0).entries, descOpcode e.desc = 0x40 → fld e.desc.toNat 16 0 2 = 1 → e.stage = .recorded) →
      (∀ f ∈ (s.ring 0).fetched, descOpcode f.desc ≠ 0x40) → s.epochHeld = false) ∧
    ∀ (n : Nat) (f : Fetched) (rest : List Fetched), s.epochHeld = true → (s.ring n).fetched = f :: rest →
      descOpcode f.desc ∈ [0x20, 0x21, 0x22] → s.issueRing n = none

/-- LAUNCH_AT ends at once when the count that BASE chooses has passed VALUE, and otherwise holds its ring until that count reaches VALUE
(R274). -/
def Sys2Proof.LaunchAtHoldsUntilItsCount : Prop :=
  ∀ (s : State) (n : BitVec 7) (pos : W32) (e : Entry),
    let now := if flag e.desc.toNat 16 0 then s.audit.count + s.audit.skew else s.audit.count
    (s.running n.toNat pos 0x41 = some e →
      (fld e.desc.toNat 24 0 64 ≤ now.toNat → EndsWork (.launchAt n pos) n.toNat e s) ∧
      (now.toNat < fld e.desc.toNat 24 0 64 →
        ∃ t, exec (.launchAt n pos) s = .next t ∧ OnlyEntry s t n.toNat pos ∧ t.entry n.toNat pos = some { e with started := true }) ∧
      s.issueRing n.toNat = none) ∧
    (s.running n.toNat e.pos 0x41 = some e → e.started = true →
      ((s.ring n.toNat).entries.find? fun f => descOpcode f.desc == 0x41 && decide (f.stage = .running) && f.started) = some e →
      (fld e.desc.toNat 24 0 64 ≤ now.toNat → EndsWork (.launchAtExpire n) n.toNat e s) ∧
      (now.toNat < fld e.desc.toNat 24 0 64 → exec (.launchAtExpire n) s = .next s))

/-- SEAL_CLOSE waits for the earlier positions; a refused keyed service ends it with E_SEAL and the refusal's DETAIL; otherwise the 128 bytes
of the record of the ring's session, or of an empty one, are written at its address, the session ends, and SEALED is due in its FLAGS (R281, R343).
A record to the Mantel stands there at once, or waits while a wipe of its bank runs (R354); one to host memory leaves through M2. -/
def Obligations.SealCloseWritesTheRecord : Prop :=
  ∀ (s : State) (n : BitVec 7) (pos : W32) (e : Entry), s.running n.toNat pos 0x42 = some e →
    ((∃ f ∈ (s.ring n.toNat).entries, f.order < e.order) → exec (.sealClose n pos) s = .next s) ∧
    ((∀ f ∈ (s.ring n.toNat).entries, e.order ≤ f.order) →
      (s.sealRefusal n.toNat ≠ 0 → e.status = 0#8 →
        ∃ t f, exec (.sealClose n pos) s = .next t ∧ t.entry n.toNat pos = some f ∧ f.stage = .finished ∧ f.status = 0x0E#8 ∧
          f.detail = BitVec.ofNat 16 (s.sealRefusal n.toNat) ∧ t = { s with rings := t.rings } ∧
          t.ring n.toNat = { s.ring n.toNat with sessionLost := false, entries := (t.ring n.toNat).entries } ∧
          ∀ m, m ≠ n.toNat → t.ring m = s.ring m) ∧
      (s.sealRefusal n.toNat = 0 →
        let a := fld e.desc.toNat 24 0 64
        let bytes := s.sealRecord n.toNat ((s.ring n.toNat).session.getD (s.newSession n.toNat))
        let ends (t : State) : Prop :=
          (∃ f, t.entry n.toNat pos = some f ∧ f.stage = .finished ∧ f.status = e.status ∧ f.sealed = true) ∧
            t.ring n.toNat = { s.ring n.toNat with session := none, entries := (t.ring n.toNat).entries } ∧
            ∀ m, m ≠ n.toNat → t.ring m = s.ring m
        (fld e.desc.toNat 16 0 2 = 1 →
          (s.maint.running.contains (6, a / 2 ^ 28) = true → exec (.sealClose n pos) s = .next s) ∧
          ((∀ h, s.maint.running.contains (6, h) = false) →
            ∃ t, exec (.sealClose n pos) s = .next t ∧ ends t ∧ t.mantel = s.mantel.store a bytes ∧
              t = { s with
                rings := t.rings, mantel := t.mantel, mantelPoison := t.mantelPoison, mantelBad := t.mantelBad,
                mantelSoft := t.mantelSoft })) ∧
        (fld e.desc.toNat 16 0 2 = 3 → s.portAwake 2 = true → (s.port 2).waiting = [] → (s.port 2).inflight = [] →
          3 ≤ (s.port 2).wrCredits.toNat → a % 256 ≤ 128 → a < 2 ^ 52 →
          ∃ t, exec (.sealClose n pos) s = .next t ∧ ends t ∧ t.host = s.host.store a bytes ∧
            t = { s with rings := t.rings, ports := t.ports, host := t.host, hostPoison := t.hostPoison })))

/-- The record of a position: 28 bytes of Table 12-9 in its slot, and after them the PHASE word of R256; a status of OK becomes E_SEAL where a
keyed service was refused, and a contributor carries SEALED (R259, R279). LAST_POS, LAST_STATUS and LAST_DETAIL follow a status other than OK.
Nothing is written before every unit has stopped and every write is acknowledged, or after a fatal event. The port M0 is log entry 14's. -/
def Sys2Proof.RecordsAreWritten : Prop :=
  ∀ (s : State) (n : BitVec 7) (pos : W32) (e : Entry), s.entry n.toNat pos = some e →
    ((e.stage ≠ .finished ∨ s.outstanding n.toNat pos = true ∨ s.err.stopped = true) →
      exec (.completionRecordWrite n pos) s = .next s) ∧
    (e.stage = .finished → s.outstanding n.toNat pos = false → s.err.stopped = false →
      (e.failed = false ∨ (e.outs = [] ∧ e.uses = Uses.none ∧ descOpcode e.desc ≠ 0x01)) → descOpcode e.desc ∉ [0x21, 0x22] →
      Tab.wf Port.reset s.ports = true → s.portAwake 0 = true → (s.port 0).waiting = [] → (s.port 0).inflight = [] →
      4 ≤ (s.port 0).wrCredits.toNat → (s.ring n.toNat).cqSlot pos < 2 ^ 52 →
      let r := s.ring n.toNat
      let refused := e.status = 0#8 ∧ e.sealRefusal ≠ 0#16
      let status : W8 := if refused then 0x0E#8 else e.status
      let detail : W16 := if refused then e.sealRefusal else e.detail
      let flags : W16 := if e.sealed then e.flags ||| BitVec.ofNat 16 fSealed else e.flags
      let a := r.cqBase.toNat + 32 * (pos.toNat % 2 ^ r.log2Size.toNat)
      let body := leBytes 4 (descSeq e.desc) ++ [status, BitVec.ofNat 8 (descOpcode e.desc)] ++ leBytes 2 detail.toNat ++
        leBytes 4 flags.toNat ++ leBytes 4 pos.toNat ++ leBytes 8 s.audit.count.toNat ++ leBytes 4 (r.duration pos s.audit.count)
      let phase := if pos.toNat / 2 ^ r.log2Size.toNat % 2 = 0 then 1 else 0
      descIrq e.desc = false → (status = 0#8 ∨ (r.irqErr = false ∧ r.errStop = false)) →
      ∃ t, exec (.completionRecordWrite n pos) s = .next t ∧ t.host = (s.host.store a body).store (a + 28) (leBytes 4 phase) ∧
        t.entry n.toNat pos = some { e with
          status := status, detail := detail, flags := flags, stage := .recorded, holds := Uses.none, work := [] } ∧
        (∀ m, m ≠ n.toNat → t.ring m = s.ring m) ∧
        t.ring n.toNat = { r with
          entries := (t.ring n.toNat).entries, session := (t.ring n.toNat).session,
          lastPos := if status ≠ 0#8 then pos else r.lastPos, lastStatus := if status ≠ 0#8 then status else r.lastStatus,
          lastDetail := if status ≠ 0#8 then detail else r.lastDetail } ∧
        (e.sealed = false → (t.ring n.toNat).session = r.session) ∧
        t = { s with host := t.host, hostPoison := t.hostPoison, rings := t.rings, ports := t.ports })

/-- With ERR_STOP = 1 a record with a status other than OK stops a running ring, and BLK_EVENT.RING_STOPPED is set (Table 12-2, R262). -/
def Sys2Proof.FailuresStopTheRing : Prop :=
  ∀ (s : State) (n : BitVec 7) (pos : W32) (e : Entry), s.entry n.toNat pos = some e → e.stage = .finished →
    s.outstanding n.toNat pos = false → s.err.stopped = false → e.status ≠ 0#8 → (e.outs = [] ∧ e.uses = Uses.none) →
    descOpcode e.desc ∉ [0x01, 0x21, 0x22] → (s.ring n.toNat).cqSlot pos < 2 ^ 52 → (s.ring n.toNat).errStop = true →
    (s.ring n.toNat).state = .run →
    ∃ t, exec (.completionRecordWrite n pos) s = .next t ∧ (t.ring n.toNat).state = .stopped ∧ t.blk.blkEvent.getLsbD 8 = true ∧
      (t.ring n.toNat).lastPos = pos ∧ (t.ring n.toNat).lastStatus = e.status ∧ (t.ring n.toNat).lastDetail = e.detail ∧
      (∀ m, m ≠ n.toNat → t.ring m = s.ring m) ∧ t.mantel = s.mantel ∧ t.hearths = s.hearths

/-- A fetch asks for the next descriptors of the ring that the priority serves, a Flue ring before ring 0 and ring 0 before the others: at most
8, none beyond TAIL, none past the last slot. A single one is one read of 128 bytes at its slot. With nothing to fetch, nothing changes (R252). -/
def Obligations.FetchesReadTheNextDescriptors : Prop :=
  ∀ s : State,
    ((s.issuing = false ∨ ∀ n, (s.ring n).fetchable = false) → exec .descriptorFetch s = .next s) ∧
    ∀ n, s.issuing = true → s.serve s.blk.fetchNextFlue s.blk.fetchNext (fun m => (s.ring m).fetchable) = some n →
      (s.ring n).sqBase.toNat + 128 * 2 ^ (s.ring n).log2Size.toNat ≤ 2 ^ 52 →
      let r := s.ring n
      ((∃ m < 128, s.classOf m = 0#2 ∧ (s.ring m).fetchable = true) → s.classOf n = 0#2) ∧
      (s.classOf n ≠ 0#2 → (s.ring 0).fetchable = true → n = 0) ∧
      r.burst ≤ 8 ∧ r.burst ≤ (r.tail - r.fetchPos).toNat ∧
        r.fetchPos.toNat % 2 ^ r.log2Size.toNat + r.burst ≤ 2 ^ r.log2Size.toNat ∧
      ∃ t, exec .descriptorFetch s = .next t ∧ t.ring n = { r with fetchPos := r.fetchPos + BitVec.ofNat 32 r.burst } ∧
        (∀ m, m ≠ n → t.ring m = s.ring m) ∧
        t = { s with rings := t.rings, ports := t.ports, blk := t.blk, host := t.host, hostPoison := t.hostPoison } ∧
        t.blk = { s.blk with
          fetchNextFlue := if s.classOf n = 0#2 then (n + 1) % 128 else s.blk.fetchNextFlue,
          fetchNext := if s.classOf n = 0#2 ∨ n = 0 then s.blk.fetchNext else (n + 1) % 128 } ∧
        (let a := r.sqBase.toNat + 128 * (r.fetchPos.toNat % 2 ^ r.log2Size.toNat)
         let p := a / 256 % 3
         r.burst = 1 → a % 128 = 0 → s.portAwake p = true → (s.port p).waiting = [] → (s.port p).inflight = [] →
          3 ≤ (s.port p).rdCredits.toNat →
          t.host = s.host ∧ ∃ q, (t.port p).inflight = [q] ∧ q.write = false ∧ q.addr = a ∧ q.size = 128 ∧ q.ring = n ∧
            q.pos = r.fetchPos)

/-- A ring's next fetched descriptor issues in position order: an opcode outside Table 12-6 is refused with E_OPCODE and performs no work
(R259); a NOP with a valid header is issued with status OK. A block that issues nothing now, and rings whose descriptors all wait, stay
(R248, R252). -/
def Obligations.IssueTakesOnePosition : Prop :=
  ∀ s : State,
    ((s.issuing = false ∨ ∀ n, s.issueRing n = none) → exec .descriptorIssue s = .next s) ∧
    ∀ (n : Nat) (f : Fetched) (rest : List Fetched), s.issuing = true →
      s.serve s.blk.decodeNextFlue s.blk.decodeNext (fun m => (s.issueRing m).isSome) = some n → (s.ring n).state = .run →
      (s.ring n).fetched = f :: rest → f.pos = (s.ring n).issuePos → (s.ring n).entries = [] → descSeal f.desc = false →
      let issued (e : Entry) : Prop :=
        ∃ t, exec .descriptorIssue s = .next t ∧ t.ring n = { s.ring n with
            fetched := rest, issuePos := (s.ring n).issuePos + 1#32,
            entries := [{ e with order := s.blk.issued, issued := s.audit.count }] } ∧
          t = { s with rings := t.rings, blk := t.blk } ∧ (∀ m, m ≠ n → t.ring m = s.ring m) ∧
          t.blk = { s.blk with
            issued := s.blk.issued + 1,
            decodeNextFlue := if s.classOf n = 0#2 then (n + 1) % 128 else s.blk.decodeNextFlue,
            decodeNext := if s.classOf n = 0#2 ∨ n = 0 then s.blk.decodeNext else (n + 1) % 128 }
      (opcodeInfo (descOpcode f.desc) = none →
        issued { Entry.start f.pos f.desc with stage := .finished, status := 0x02#8, detail := 0#16 }) ∧
      (descOpcode f.desc = 0x60 → s.headerVerdict n f.desc = none → bodyReserved f.desc.toNat [] = [] →
        (∀ e ∈ (s.ring 0).entries, descOpcode e.desc ≠ 0x52) → issued (Entry.start f.pos f.desc))

/-! ### Descriptors of the Admin ring -/

/-- WAIT with MODE 0 completes at once; otherwise it waits for the earlier positions, and with a refuser it ends with E_REFUSED, whose code is
counted, named and reported, and the state stays; without one the entry is committed and the WAIT's record is written (R310, R312). -/
def Obligations.WaitRefusesOrCommits : Prop :=
  ∀ (s : State) (n : BitVec 7) (pos : W32) (e : Entry), s.running n.toNat pos 0x50 = some e →
    (s.pwr.mode = 0#2 → EndsWork (.wait n pos) n.toNat e s) ∧
    (s.pwr.mode ≠ 0#2 → (∃ f ∈ (s.ring n.toNat).entries, f.order < e.order) → exec (.wait n pos) s = .next s) ∧
    (s.pwr.mode ≠ 0#2 → (∀ f ∈ (s.ring n.toNat).entries, e.order ≤ f.order) →
      (s.refuser pos ≠ 0 → e.status = 0#8 →
        ∃ t f, exec (.wait n pos) s = .next t ∧ t.pwr.block = s.pwr.block ∧ t.entry n.toNat pos = some f ∧ f.stage = .finished ∧
          f.status = 0x0D#8 ∧ f.detail = BitVec.ofNat 16 (s.refuser pos) ∧ t.pwr.refuserCode = BitVec.ofNat 8 (s.refuser pos) ∧
          t.pwr.refuserOpcode = 0x50#8 ∧ (∀ c, Tab.at 0#32 t.pwr.refuseCount c =
            if c = s.refuser pos then satInc (Tab.at 0#32 s.pwr.refuseCount c) else Tab.at 0#32 s.pwr.refuseCount c) ∧
          t.blk.blkEvent.getLsbD 5 = true ∧ t.mantel = s.mantel ∧ t.hearths = s.hearths) ∧
      (s.refuser pos = 0 →
        ∃ t, exec (.wait n pos) s = .next t ∧ t.pwr = s.commitEntry.pwr ∧ t.pwr.block = .entering ∧ t.pwr.committed = true ∧
          t.mantel = s.mantel ∧ t.hearths = s.hearths ∧
          (s.outstanding n.toNat pos = false → (s.ring n.toNat).cqSlot pos < 2 ^ 52 → e.status = 0#8 → e.sealRefusal = 0#16 →
            ∃ f, t.entry n.toNat pos = some f ∧ f.stage = .recorded ∧ f.status = 0#8)))

/-- OFFLINE of hearths that a Banked ring pins is refused with code 8; otherwise OFFLINE is set, and once their work has ended the hearths
are SHUT and unpowered, a scrub that ran on one ends, and the position completes; an open group or a PARKED tile undoes the change, with E_GROUP_OPEN or
E_TILE_BUSY. Of several refusing hearths the lowest is reported (log entry 149). ONLINE clears OFFLINE and starts each wake, and completes when every
named hearth is ACTIVE (R323, R324). -/
def Obligations.HearthSetTakesHearthsOffAndOn : Prop :=
  ∀ (s : State) (pos : W32) (e : Entry) (mask : W64), s.running 0 pos 0x52 = some e → mask = BitVec.ofNat 64 (fld e.desc.toNat 24 0 64) →
    (fld e.desc.toNat 16 0 2 = 0 → e.started = false →
      (∀ r, s.pinningRing mask = some r → e.status = 0#8 →
        ∃ t f, exec (.hearthSetOffline 0#7 pos) s = .next t ∧ t.entry 0 pos = some f ∧ f.stage = .finished ∧ f.status = 0x0D#8 ∧
          f.detail = BitVec.ofNat 16 (8 + 256 * r) ∧ t.hearths = s.hearths ∧ t.pwr.refuserCode = 8#8) ∧
      (s.pinningRing mask = none →
        ∃ t, exec (.hearthSetOffline 0#7 pos) s = .next t ∧ t = { s with rings := t.rings, hearths := t.hearths } ∧
          t.entry 0 pos = some { e with started := true } ∧
          ∀ h < s.cfg.hearths, t.hearth h = if mask.getLsbD h then { s.hearth h with offline := true } else s.hearth h)) ∧
    (fld e.desc.toNat 16 0 2 = 0 → e.started = true → (s.ring 0).entries = [e] →
      ((∃ h < s.cfg.hearths, mask.getLsbD h = true ∧ s.hearthWork h = true) → exec .hearthOfflineSettle s = .next s) ∧
      ((∀ h < s.cfg.hearths, mask.getLsbD h = true → s.hearthWork h = false) →
        ((∀ h < s.cfg.hearths, mask.getLsbD h = true → (s.hearth h).offlineRefusal = none) →
          ∃ t, exec .hearthOfflineSettle s = .next t ∧ t.entry 0 pos = some e.finished ∧
            (∀ h < s.cfg.hearths, mask.getLsbD h = true → (t.hearth h).power = .shut ∧ (t.hearth h).store = [] ∧
              t.pwr.pswReq.getLsbD (9 + h) = false ∧
              (s.maint.running.count (1, h) ≤ 1 → t.maint.running.contains (1, h) = false)) ∧
            ∀ h < s.cfg.hearths, mask.getLsbD h = false → t.hearth h = s.hearth h) ∧
        (∀ (g : Nat) (x : Nat × Nat), g < s.cfg.hearths → mask.getLsbD g = true → (s.hearth g).offlineRefusal = some x →
          (∀ h < g, mask.getLsbD h = true → (s.hearth h).offlineRefusal = none) → e.status = 0#8 →
          ∃ t f, exec .hearthOfflineSettle s = .next t ∧ t.entry 0 pos = some f ∧ f.stage = .finished ∧
            (x.1 = 0x05 ∨ x.1 = 0x04) ∧ f.status = BitVec.ofNat 8 x.1 ∧ f.detail = BitVec.ofNat 16 x.2 ∧
            ∀ h < s.cfg.hearths, t.hearth h = if mask.getLsbD h then { s.hearth h with offline := false } else s.hearth h))) ∧
    (fld e.desc.toNat 16 0 2 = 1 → e.started = false →
      ∃ t, exec (.hearthSetOnline 0#7 pos) s = .next t ∧
        (∀ h < s.cfg.hearths, mask.getLsbD h = true → (s.hearth h).offline = true → (s.hearth h).power = .shut →
          (t.hearth h).offline = false ∧ ((t.hearth h).power = .waking ∨ (t.hearth h).power = .wiping) ∧ t.pwr.pswReq.getLsbD (9 + h) = true) ∧
        (∀ h < s.cfg.hearths, (mask.getLsbD h = false ∨ (s.hearth h).offline = false) → t.hearth h = s.hearth h) ∧
        t.mantel = s.mantel ∧ t.maint = s.maint ∧
        ((∀ h < s.cfg.hearths, mask.getLsbD h = true → (s.hearth h).offline = false ∧ (s.hearth h).power = .active) →
          t.entry 0 pos = some { e with started := true }.finished))

/-- START requests its activity and awaits it; CANCEL of rank 3 or below ends it, queued or running, and of rank 4 ends nothing; PAUSE_AUTO stops
the activities that only the schedule asked for, and RESUME_AUTO lets them start again (R356). -/
def Obligations.MaintDescriptorsActOnTheArbiter : Prop :=
  ∀ (s : State) (n : BitVec 7) (pos : W32) (e : Entry), s.running n.toNat pos 0x51 = some e →
    let x := (fld e.desc.toNat 17 0 3, fld e.desc.toNat 18 0 6)
    (fld e.desc.toNat 16 0 3 = 0 → e.started = false →
      ∃ t, exec (.maintStart n pos) s = .next t ∧ t = { s with rings := t.rings, maint := t.maint } ∧
        t.entry n.toNat pos = some { e with started := true } ∧ x ∈ t.maint.running ++ t.maint.queued ∧
        t.maint.running = s.maint.running ∧ (pos, x.1, x.2) ∈ t.maint.waiting) ∧
    (fld e.desc.toNat 16 0 3 = 1 → maintRank x.1 ≤ 3 →
      ∃ t f, exec (.maintCancel n pos) s = .next t ∧ t.entry n.toNat pos = some f ∧ f.stage = .finished ∧ f.status = e.status ∧
        t.maint.running = s.maint.running.erase x ∧ t.maint.queued = s.maint.queued.erase x ∧ t.mantel = s.mantel ∧
        ∀ h, h ≠ x.2 → t.hearth h = s.hearth h) ∧
    (fld e.desc.toNat 16 0 3 = 1 → maintRank x.1 = 4 → EndsWork (.maintCancel n pos) n.toNat e s) ∧
    (fld e.desc.toNat 16 0 3 = 2 →
      ∃ t, exec (.pauseAuto n pos) s = .next t ∧ t = { s with rings := t.rings, maint := t.maint } ∧ t.maint.paused = true ∧
        t.entry n.toNat pos = some e.finished ∧
        ∀ y, y ∈ t.maint.running ↔ y ∈ s.maint.running ∧
          (y ∈ s.maint.scheduled → ∃ w ∈ s.maint.waiting, w.2 = y)) ∧
    (fld e.desc.toNat 16 0 3 = 3 →
      ∃ t, exec (.resumeAuto n pos) s = .next t ∧ t = { s with rings := t.rings, maint := { s.maint with paused := false } } ∧
        t.entry n.toNat pos = some e.finished)

/-! ### Responses at the memory ports -/

/-- The parity bits that come with read data agree with its bytes: bit i with the exclusive OR of bytes 8i to 8i + 7 (R368). -/
def Sys2Proof.ParityHolds (data : List W8) (parity : BitVec 32) : Prop :=
  ∀ i < 32, 8 * i < data.length → parity.getLsbD i = laneParity ((data.drop (8 * i)).take 8)

/-- A read waits for this response at a port whose clock runs and from which no request waits to leave. -/
def Sys2Proof.AwaitsRead (s : State) (port : BitVec 5) (tag : BitVec 12) (r : Request) : Prop :=
  port.toNat < 3 * s.cfg.stoves ∧ s.clocked = true ∧ (s.port port.toNat).waiting = [] ∧
    ((s.port port.toNat).inflight.find? fun q => q.write == false && q.tag == tag) = some r

/-- The data of an operand arrives, line by line with its poison bits, and frees the credit; a first parity error repeats the read and counts a
corrected error; a second one, or an error, ends the descriptor with E_MEM and the port as DETAIL (R294, R297, R368). -/
def Sys2Proof.OperandsArriveOrFail : Prop :=
  ∀ (s : State) (port : BitVec 5) (tag : BitVec 12) (r : Request) (data : List W8) (parity : BitVec 32) (poison : BitVec 4) (err : W8),
    AwaitsRead s port tag r → r.purpose = .operand → s.sealing r.ring r.pos = false → s.exchange r.ring r.pos = none →
    data.length = r.size → r.size ≤ 256 →
    (ParityHolds data parity →
      ∃ t, exec (.memoryReadResponse port tag data parity poison 0#8) s = .next t ∧
        (t.port port.toNat).inflight = (s.port port.toNat).inflight.erase r ∧
        (∀ i, i < r.size → t.host.byte (r.addr + i) = data.getD i 0#8) ∧
        (∀ a, (a < r.addr ∨ r.addr + r.size ≤ a) → t.host.byte a = s.host.byte a) ∧
        (r.addr % 64 = 0 → ∀ k, (64 * k < r.size → poison.getLsbD k = true → r.addr / 64 + k ∈ t.hostPoison) ∧
          (64 * (k + 1) ≤ r.size → poison.getLsbD k = false → r.addr / 64 + k ∉ t.hostPoison)) ∧
        t = { s with host := t.host, hostPoison := t.hostPoison, ports := t.ports }) ∧
    (¬ParityHolds data parity → r.repeated = false →
      ∃ t, exec (.memoryReadResponse port tag data parity poison 0#8) s = .next t ∧ t.err.corrected = satInc s.err.corrected ∧
        (∃ q ∈ (t.port port.toNat).inflight ++ (t.port port.toNat).waiting,
          q = { r with repeated := true, tag := q.tag, shared := q.shared }) ∧
        t.rings = s.rings ∧ t.hearths = s.hearths ∧ t.mantel = s.mantel) ∧
    ((err ≠ 0#8 ∨ (¬ParityHolds data parity ∧ r.repeated = true)) →
      ∃ t, exec (.memoryReadResponse port tag data parity poison err) s = .next t ∧ t.hearths = s.hearths ∧ t.mantel = s.mantel ∧
        (∀ e, s.entry r.ring r.pos = some e → e.status = 0#8 →
          t.entry r.ring r.pos = some { e with status := 0x0A#8, detail := BitVec.ofNat 16 port.toNat }) ∧
        ∀ m, m ≠ r.ring → t.ring m = s.ring m)

/-- An intact descriptor is fetched; an error or poison in its read faults the ring with CAUSE 2, once every earlier read of the burst is answered
(R243). -/
def Sys2Proof.DescriptorsArriveOrFault : Prop :=
  ∀ (s : State) (port : BitVec 5) (tag : BitVec 12) (r : Request) (data : List W8) (parity : BitVec 32) (poison : BitVec 4) (err : W8)
    (last : W32),
    AwaitsRead s port tag r → r.purpose = .descriptors 1 last → r.size = 128 → data.length = 128 → ParityHolds data parity →
    (s.ring r.ring).state = .run → (s.ring r.ring).failedRead = none →
    (err = 0#8 → poison = 0#4 → (s.ring r.ring).fetched = [] →
      ∃ t, exec (.memoryReadResponse port tag data parity poison err) s = .next t ∧
        t.ring r.ring = { s.ring r.ring with fetched := [{ pos := r.pos, desc := BitVec.ofNat 1024 (leNat data) }] } ∧
        (∀ m, m ≠ r.ring → t.ring m = s.ring m) ∧ t = { s with rings := t.rings, ports := t.ports }) ∧
    ((err ≠ 0#8 ∨ poison ≠ 0#4) → s.readsBefore r.ring r.pos last = false →
      ∃ t, exec (.memoryReadResponse port tag data parity poison err) s = .next t ∧ (t.ring r.ring).state = .fault ∧
        (t.ring r.ring).cause = 2#4 ∧ (∀ m, m ≠ r.ring → t.ring m = s.ring m) ∧ t.mantel = s.mantel ∧ t.hearths = s.hearths)

/-- A response that no request awaits, or one on a stopped clock, changes nothing (R360). -/
def Sys2Proof.StrayResponsesChangeNothing : Prop :=
  ∀ (s : State) (port : BitVec 5) (tag : BitVec 12) (data : List W8) (parity : BitVec 32) (poison : BitVec 4) (err : W8),
    port.toNat < 3 * s.cfg.stoves →
    ((s.clocked = false ∨ ∀ q ∈ (s.port port.toNat).inflight, q.write = false → q.tag ≠ tag) →
      exec (.memoryReadResponse port tag data parity poison err) s = .next s) ∧
    ((s.clocked = false ∨ ∀ q ∈ (s.port port.toNat).inflight, q.write = true → q.tag ≠ tag) →
      exec (.memoryWriteAck port tag err) s = .next s)

/-- An acknowledged output or atomic only frees its credit, its effect on memory being done when it left (log entry 44); an error leaves the
bytes that it addressed undefined and ends the descriptor with E_MEM and the port as DETAIL (R294, R296). -/
def Sys2Proof.OutputsAreAcknowledged : Prop :=
  ∀ (s : State) (port : BitVec 5) (tag : BitVec 12) (r : Request) (err : W8), port.toNat < 3 * s.cfg.stoves → s.clocked = true →
    (s.port port.toNat).waiting = [] → ((s.port port.toNat).inflight.find? fun q => q.write == true && q.tag == tag) = some r →
    s.exchange r.ring r.pos = none → (r.purpose = .output ∨ ∃ o i w, r.purpose = .atomic o i w) →
    (∃ t, exec (.memoryWriteAck port tag 0#8) s = .next t ∧ (t.port port.toNat).inflight = (s.port port.toNat).inflight.erase r ∧
      (∀ p, p ≠ port.toNat → t.port p = s.port p) ∧ t = { s with ports := t.ports }) ∧
    (err ≠ 0#8 →
      ∃ t, exec (.memoryWriteAck port tag err) s = .next t ∧ t.hearths = s.hearths ∧ t.mantel = s.mantel ∧
        (s.err.enable = false →
          (∃ k, ∀ i < r.bytes.length, t.host.byte (r.addr + i) = Config.freeByte (k + i)) ∧
          ∀ a, (a < r.addr ∨ r.addr + r.bytes.length ≤ a) → t.host.byte a = s.host.byte a) ∧
        (∀ e, s.entry r.ring r.pos = some e → e.status = 0#8 →
          t.entry r.ring r.pos = some { e with status := 0x0A#8, detail := BitVec.ofNat 16 port.toNat }) ∧
        ∀ m, m ≠ r.ring → t.ring m = s.ring m)

/-- The acknowledgement of the PHASE word completes the record, and HEAD passes it (R257); an error faults the ring with CAUSE 3, and HEAD stays
(R243). An acknowledged error record moves ERR_TAIL on and sets BLK_EVENT.ERR_RECORD (R349). -/
def Sys2Proof.RecordsAreAcknowledged : Prop :=
  ∀ (s : State) (port : BitVec 5) (tag : BitVec 12) (r : Request) (err : W8), port.toNat < 3 * s.cfg.stoves → s.clocked = true →
    (s.port port.toNat).waiting = [] → ((s.port port.toNat).inflight.find? fun q => q.write == true && q.tag == tag) = some r →
    s.exchange r.ring r.pos = none →
    (r.purpose = .phase → ∀ e, s.entry r.ring r.pos = some e →
      (∃ t, exec (.memoryWriteAck port tag 0#8) s = .next t ∧ (∀ f ∈ (t.ring r.ring).entries, f.pos ≠ r.pos) ∧
        ((s.ring r.ring).done = [] → (s.ring r.ring).head = r.pos → (t.ring r.ring).head = r.pos + 1#32) ∧
        (∀ m, m ≠ r.ring → t.ring m = s.ring m) ∧ t = { s with rings := t.rings, ports := t.ports }) ∧
      (err ≠ 0#8 → (s.ring r.ring).state = .run → (s.ring r.ring).enable = true →
        ∃ t, exec (.memoryWriteAck port tag err) s = .next t ∧ (t.ring r.ring).state = .fault ∧ (t.ring r.ring).cause = 3#4 ∧
          (t.ring r.ring).head = (s.ring r.ring).head ∧ (∀ f ∈ (t.ring r.ring).entries, f.pos ≠ r.pos) ∧
          (∀ m, m ≠ r.ring → t.ring m = s.ring m) ∧ t.mantel = s.mantel ∧ t.hearths = s.hearths)) ∧
    (∀ w : ErrorEvent, r.purpose = .errorRecord → s.err.writing = [w] → w.index = r.pos → s.err.written = [] →
      ∃ t, exec (.memoryWriteAck port tag 0#8) s = .next t ∧ t.err.tail = s.err.tail + 1#32 ∧
        t.blk.blkEvent.getLsbD 3 = true ∧ t.rings = s.rings ∧ t.mantel = s.mantel ∧ t.hearths = s.hearths)

/-- A home port holds an add while a lower position of the walk has not sent its end mark, and then lets it leave, with its ticket and without
the ORDERED attribute (R294, R299); the FP32 or wrapping sum replaces the element when the request leaves (R298; log entry 44). One at or above
2^52 is refused, and its descriptor ends with E_MEM (R294). -/
def Obligations.OrderedAddsWaitForLowerPositions : Prop :=
  ∀ (s : State) (port : BitVec 5) (a : OrderedAdd), port.toNat < 3 * s.cfg.stoves → (s.port port.toNat).adds = [a] →
    let marks := (s.port port.toNat).marks
    let free := ∀ k ∈ s.lowerOf a, (a.ring, a.pos, k) ∈ marks
    (¬free → ∃ t, exec (.orderedAddRelease port) s = .next t ∧ (∀ p, t.port p = s.port p) ∧ t = { s with ports := t.ports }) ∧
    (free → a.position < 64 → a.addr < 2 ^ 52 →
      ∃ t, exec (.orderedAddRelease port) s = .next t ∧ (t.port port.toNat).adds = [] ∧
        (∃ q ∈ (t.port port.toNat).inflight ++ (t.port port.toNat).waiting, q.addr = a.addr ∧ q.size = 4 ∧ q.ordered = false ∧
          q.ticket = BitVec.ofNat 7 a.ring ++ BitVec.ofNat 6 a.position ++ a.pos.setWidth 19 ∧ q.ring = a.ring ∧ q.pos = a.pos ∧
          q.purpose = .atomic true a.int a.operand) ∧
        (s.portAwake port.toNat = true → (s.port port.toNat).waiting = [] → (s.port port.toNat).inflight = [] →
          3 ≤ (s.port port.toNat).wrCredits.toNat →
          let old : W32 := BitVec.ofNat 32 (s.host.nat a.addr 4)
          t.host = s.host.store a.addr (leBytes 4 (if a.int then old + a.operand else (fAdd old a.operand).1).toNat)) ∧
        t.rings = s.rings ∧ t.hearths = s.hearths ∧ t.mantel = s.mantel) ∧
    (free → a.position < 64 → 2 ^ 52 ≤ a.addr →
      ∃ t, exec (.orderedAddRelease port) s = .next t ∧ (t.port port.toNat).adds = [] ∧ t.hearths = s.hearths ∧ t.mantel = s.mantel ∧
        ∀ e, s.entry a.ring a.pos = some e → e.status = 0#8 →
          t.entry a.ring a.pos = some { e with status := 0x0A#8, detail := BitVec.ofNat 16 port.toNat })

/-- The fences and LAUNCH_AT: what they wait for and what they hold (R248, R250, R274). -/
def Obligations.FencesAndLaunchesWait : Prop :=
  FenceRingHoldsItsRing ∧ FenceEpochHoldsExchanges ∧ LaunchAtHoldsUntilItsCount

/-- Completion records, and what a failure leaves in its ring's registers (R255 to R257). -/
def Obligations.RecordsFollowTable12_9 : Prop :=
  RecordsAreWritten ∧ FailuresStopTheRing

/-- Responses to reads (R294, R297, R360). -/
def Obligations.ReadResponsesArriveOrFail : Prop :=
  OperandsArriveOrFail ∧ DescriptorsArriveOrFault ∧ StrayResponsesChangeNothing

/-- Acknowledgements of writes (R296, R257, R349). -/
def Obligations.WriteAcknowledgementsComplete : Prop :=
  OutputsAreAcknowledged ∧ RecordsAreAcknowledged

/-! ### The work of descriptors -/

/-- No read of these ranges finds an error: nothing in them is marked, stored uncorrectable, or corrected by the read. -/
def Sys2Proof.Machine.State.readsSound (s : State) (rs : List Range) : Prop :=
  (∀ r ∈ rs, s.tainted r = false) ∧ unitsAmong s.bad rs = [] ∧ unitsAmong s.soft rs = []

/-- Nothing keeps the work of a position from running now: no error has ended it, it enters no seal session, the pieces of host memory that it
reads are here (`done`), no read finds an error, and no bank that it reads or writes is being wiped. -/
def Sys2Proof.Machine.State.clear (s : State) (n : Nat) (e : Entry) (done : List (Nat × Nat × Nat)) (rs outs : List Range) : Prop :=
  e.status = 0#8 ∧ e.sealed = false ∧ (∀ g ∈ hostPieces rs, g ∈ done) ∧ s.reading n e.pos = false ∧
    (∀ r ∈ rs, s.stalls r = false) ∧ s.readsSound rs ∧ ∀ r ∈ outs, s.stalls r = false

/-- A command first requests the pieces of host memory that its work reads and has not requested before, and waits for them. -/
def Sys2Proof.FetchesFirst (c : Instr) (s : State) (n : Nat) (e : Entry) (rs outs : List Range) : Prop :=
  let missing := (hostPieces rs).filter fun g => !e.reads.contains g
  e.status = 0#8 → (∀ r ∈ outs, s.stalls r = false) → missing ≠ [] →
    exec c s = .next ((s.readHost n e.pos missing).modEntry n e.pos fun f => { f with started := true, reads := e.reads ++ missing })

/-- A hearth takes the next piece of a ring's work: it runs, the Damper does not withhold it, and no Flue descriptor has it (R267, R321). -/
def Sys2Proof.Machine.State.serves (s : State) (n h : Nat) : Bool :=
  s.hearthRuns h && !s.withheld h (s.classOf n) && !s.yields n h

/-- Every hearth but one is as before. -/
def Sys2Proof.OnlyHearth (s t : State) (h : Nat) : Prop := ∀ g, g ≠ h → t.hearth g = s.hearth g

/-- The memories of a hearth and what its Grate and lanes hold, the queue of the Grate apart. -/
def Sys2Proof.SameUnits (x y : Hearth) : Prop :=
  y.store = x.store ∧ y.storePoison = x.storePoison ∧ y.acc = x.acc ∧ y.accPoison = x.accPoison ∧ y.xab = x.xab ∧ y.live = x.live ∧
    y.liveJob = x.liveJob ∧ y.groups = x.groups ∧ y.stats = x.stats ∧ y.topk = x.topk ∧ y.shapes = x.shapes ∧ y.slots = x.slots

/-- MATMUL: each item of the dealing that performs work becomes a job of its hearth, and nothing else is queued; LEFT counts the
shares that end the descriptor. A dealing that begins accumulations opens the tiles, with K elements each (R58, R104, R105). -/
def Sys2Proof.MatmulDealsItsTiles : Prop :=
  ∀ (s : State) (n : BitVec 7) (pos : W32) (e : Entry), s.running n.toNat pos 0x01 = some e →
    (e.started = true → exec (.matmul n pos) s = .next s) ∧
    (e.started = false →
      let b := matmulOf e.desc
      let sp := b.parts (s.workHearths e).length
      let items := b.working sp (s.matmulItems b (s.workHearths e))
      ∃ t, exec (.matmul n pos) s = .next t ∧ t = { s with rings := t.rings, hearths := t.hearths } ∧
        (∀ m, m ≠ n.toNat → t.ring m = s.ring m) ∧
        t.entry n.toNat pos = some { e with started := true, left := items.length + if sp = 1 then 0 else b.tiles } ∧
        (∀ h j, j ∈ (t.hearth h).jobs ↔
          j ∈ (s.hearth h).jobs ∨ ∃ i ∈ items, i.hearth = h ∧ j = itemJob n.toNat e b sp (decide (s.classOf n.toNat = 0#2)) i) ∧
        (b.begins = true → ∀ i ∈ items, (t.hearth i.hearth).tile i.atile =
          { (s.hearth i.hearth).tile i.atile with isOpen := true, elements := b.k, spilled := false, fresh := false }) ∧
        ∀ h, SameUnits (s.hearth h) (t.hearth h))

/-- DRAIN passes its tiles through the epilogue as they stand in accumulator memory, in blocks of 1,024 elements, at whose boundaries it yields
to Flue and waits for a hearth that does not run, for a swap-out drain and for a wipe of the bank of its output; after a tile row's last block
its records are written. An error that has ended the descriptor ends its work (R109, R110, R267, R354, R387). One tile is stated here. -/
def Sys2Proof.DrainPassesItsTiles : Prop :=
  ∀ (s : State) (n : BitVec 7) (pos : W32) (e : Entry), s.running n.toNat pos 0x02 = some e →
    let b := drainOf e.desc
    let items := b.items (s.workHearths e)
    (e.status ≠ 0#8 → exec (.drain n pos) s = .next (s.finish n.toNat pos)) ∧
    (e.status = 0#8 → (∀ i ∈ items, s.serves n.toNat i.hearth = false ∨ (s.hearth i.hearth).shadowUse.drains = true) →
      exec (.drain n pos) s = .next s) ∧
    ∀ i, items = [i] → e.status = 0#8 →
      let h := i.hearth
      let k := e.pieces h
      let t := b.tilePass e items h i.tile
      let own : Range := { space := 2, hearth := h, lo := i.atile * 65536 + 4096 * k, len := 512 * min 8 (t.rows - 8 * k) }
      ((∃ r ∈ t.writes h, s.stalls r = true) → exec (.drain n pos) s = .next s) ∧
      (k < 16 → s.serves n.toNat h = true → (s.hearth h).shadowUse.drains = false → (∀ r ∈ t.writes h, s.stalls r = false) →
        s.readsSound [own] → s.readsSound (t.reads h) →
        let begun := if k = 0 then (s.act n.toNat pos h).startTopk h t else s.act n.toNat pos h
        let u := begun.epilogueBlock n.toNat pos h t (tileWords (s.hearth h).acc i.atile) negZero32 false k
        (k + 1 < t.blocks → exec (.drain n pos) s = .next (u.advance n.toNat pos [(h, 16)] h (k + 1) 16)) ∧
        (t.blocks ≤ k + 1 → exec (.drain n pos) s = .next
          (((u.endTileRow n.toNat pos h t false).modEntry n.toNat pos fun e => e.taken h i.atile).advance n.toNat pos [(h, 16)] h 16 16)))

/-- MATMUL is dealt, and DRAIN passes tiles through the epilogue (R104, R105, R109). -/
def Obligations.MatmulsAreDealtAndDrainsPassTiles : Prop := MatmulDealsItsTiles ∧ DrainPassesItsTiles

/-- TILE_LOAD: the tile of the next job is copied from accumulator memory into the free shadow set; a preloaded tile is first written there
(R69, R101). A job that needs no load, or whose tile is live, waits; with no job nothing changes; an error that has ended the descriptor stops
its work (R387). -/
def Sys2Proof.LoadsCopyTheNextTile : Prop :=
  ∀ (s : State) (h : BitVec 6), h.toNat < s.cfg.hearths → s.hearthRuns h.toNat = true →
    let x := s.hearth h.toNat
    (x.jobs = [] → exec (.tileLoad h) s = .next s) ∧
    ∀ j rest e, x.jobs = j :: rest → s.entry j.ring j.pos = some e →
      (e.status ≠ 0#8 → exec (.tileLoad h) s = .next (s.stopWork j.ring j.pos)) ∧
      (e.status = 0#8 → (j.load = false ∨ (x.tile j.atile).fresh = true ∨ x.shadowUse ≠ .free ∨ ∃ l, x.liveJob = some l ∧ l.atile = j.atile) →
        exec (.tileLoad h) s = .next s) ∧
      (e.status = 0#8 → j.load = true → (x.tile j.atile).fresh = false → x.shadowUse = .free →
        (∀ l, x.liveJob = some l → l.atile ≠ j.atile) → (s.grateHeld h.toNat = false ∨ j.flue = true) →
        (j.preload = false → s.readsSound [tileRange h.toNat j.atile] →
          ∃ t, exec (.tileLoad h) s = .next t ∧ t = { s with rings := t.rings, hearths := t.hearths } ∧ OnlyHearth s t h.toNat ∧
            t.hearth h.toNat = { x with
              shadow := tileWords x.acc j.atile, shadowFill := negZero32, shadowBad := false, shadowUse := .loaded j }) ∧
        (j.preload = true → s.readsSound (preloadReads h.toNat (matmulOf e.desc) j) →
          ∃ t, exec (.tileLoad h) s = .next t ∧ t = { s with rings := t.rings, hearths := t.hearths } ∧ OnlyHearth s t h.toNat ∧
            let y := t.hearth h.toNat
            y.acc = x.acc.store (j.atile * tileBytes) (tableBytes (s.preloadTable h.toNat (matmulOf e.desc) j)) ∧
            y.shadow = tileWords y.acc j.atile ∧ y.shadowUse = .loaded { j with preload := false } ∧
            y.jobs = { j with preload := false } :: rest ∧ y.store = x.store ∧ y.live = x.live ∧ y.liveJob = x.liveJob))

/-- TILE_SWAP: nothing while the shadow set drains, a spill is due, or the live tile has chunks left and does not yield; a loaded tile goes live
with its words; a tile that begins at -0 goes live without a load; a tile whose chunks are done leaves for the shadow set, or stays live where the
next job continues its accumulation; one that yields to Flue leaves too, to be loaded again, and sets PREEMPTED (R66, R67, R69, R73, R267). -/
def Sys2Proof.SwapsExchangeTheSets : Prop :=
  ∀ (s : State) (h : BitVec 6), h.toNat < s.cfg.hearths → s.hearthRuns h.toNat = true →
    let x := s.hearth h.toNat
    let moved (t : State) : Prop := exec (.tileSwap h) s = .next t ∧ OnlyHearth s t h.toNat ∧
      (t.hearth h.toNat).acc = x.acc ∧ (t.hearth h.toNat).store = x.store ∧ (t.hearth h.toNat).xab = x.xab
    ((x.shadowUse.drains = true ∨ x.spillDue = true) → exec (.tileSwap h) s = .next s) ∧
    ∀ j rest e, x.shadowUse.drains = false → x.spillDue = false → s.entry j.ring j.pos = some e →
      let b := matmulOf e.desc
      let first := b.begins = true ∧ j.kNext = j.part * b.partLen j.parts
      let goes (y : Hearth) (words : Tab W32) : Prop :=
        y.live = words ∧ y.liveFill = negZero32 ∧ y.liveJob = some j ∧ y.jobs = rest ∧ y.shadowUse = .free ∧
          y.tile j.atile = { x.tile j.atile with
            state := .live, fresh := false, chunk := if first then b.firstChunk j else (x.tile j.atile).chunk }
      (x.liveJob = none → x.jobs = j :: rest → (s.grateHeld h.toNat = false ∨ j.flue = true) →
        (x.shadowUse = .loaded j → ∃ t, moved t ∧ t = { s with hearths := t.hearths } ∧ goes (t.hearth h.toNat) x.shadow) ∧
        (x.shadowUse = .free → (j.load = false ∨ (x.tile j.atile).fresh = true) →
          ∃ t, moved t ∧ t = { s with hearths := t.hearths } ∧ goes (t.hearth h.toNat) [])) ∧
      (x.liveJob = some j → j.kNext ≠ j.kEnd → x.yielding = false → exec (.tileSwap h) s = .next s) ∧
      (x.liveJob = some j → j.kNext = j.kEnd → x.jobs = [] →
        ∃ t, moved t ∧ t = { s with hearths := t.hearths } ∧
          let y := t.hearth h.toNat
          y.shadow = x.live ∧ y.shadowFill = x.liveFill ∧ y.shadowBad = x.liveBad ∧ y.shadowUse = .draining j ∧ y.live = [] ∧
          y.liveJob = none ∧ (y.tile j.atile).state = .draining ∧ y.jobs = []) ∧
      (∀ k f, x.liveJob = some j → j.kNext = j.kEnd → j.ends = false → x.jobs = k :: rest → k.atile = j.atile →
        s.entry k.ring k.pos = some f → (matmulOf f.desc).begins = false →
        ∃ t, moved t ∧ t = { s with rings := t.rings, hearths := t.hearths } ∧ (t.hearth h.toNat).live = x.live ∧
          (t.hearth h.toNat).liveJob = some k ∧ (t.hearth h.toNat).jobs = rest) ∧
      (x.liveJob = some j → j.kNext ≠ j.kEnd → x.yielding = true → x.jobs = [] → x.shadowUse = .free →
        ∃ t f, moved t ∧ t = { s with rings := t.rings, hearths := t.hearths } ∧ t.entry j.ring j.pos = some f ∧
          f.flags = e.flags ||| BitVec.ofNat 16 fPreempted ∧
          (t.hearth h.toNat).shadow = x.live ∧ (t.hearth h.toNat).shadowUse = .draining j ∧ (t.hearth h.toNat).liveJob = none ∧
          (t.hearth h.toNat).jobs = [{ j with load := true }])

/-- CHUNK_STEP: every cell of the live set takes one chunk of its operands, and the tile's chunk number rises by one (R49 to R57); its flags enter
the record, with BOUND_VOID at the last chunk of an accumulation that R60 names, and a group is touched (R84). With Flue work due, the
accumulation yields after a chunk whose number is one less than a multiple of 256 (R267). It waits at the end of its chunks, for a spill and
under the Damper; an error that has ended the descriptor stops its work (R387). -/
def Sys2Proof.ChunksAdvanceTheLiveSet : Prop :=
  ∀ (s : State) (h : BitVec 6) (j : TileJob) (e : Entry), h.toNat < s.cfg.hearths → s.hearthRuns h.toNat = true →
    let x := s.hearth h.toNat
    let b := matmulOf e.desc
    let kn := min (pairWidth b.a.fmt b.b.fmt) (j.kEnd - j.kNext)
    let held := j.kNext = j.kEnd ∨ x.spillDue = true ∨ x.yielding = true ∨ (j.flue = false ∧ s.withheld h.toNat 1#2 = true)
    (x.liveJob = none → exec (.chunkStep h) s = .next s) ∧
    (x.liveJob = some j → held → exec (.chunkStep h) s = .next s) ∧
    (x.liveJob = some j → ¬held → s.entry j.ring j.pos = some e →
      (e.status ≠ 0#8 → exec (.chunkStep h) s = .next (s.stopWork j.ring j.pos)) ∧
      ∀ ma mb, e.status = 0#8 → x.operandBytes b j b.a = some ma → x.operandBytes b j b.b = some mb → s.readsSound (b.chunkReads h.toNat j kn) →
        ∃ t f, exec (.chunkStep h) s = .next t ∧ t = { s with rings := t.rings, hearths := t.hearths } ∧ OnlyHearth s t h.toNat ∧
          let y := t.hearth h.toNat
          let c := (x.tile j.atile).chunk
          let step := b.stepCells h.toNat c j x.liveFill x.live (b.placedA.slice ma (128 * j.ti) b.m j.kNext kn)
            (b.placedB.slice mb (128 * j.tj) b.n j.kNext kn)
          let last := decide (j.kNext + kn = j.kEnd)
          let yields := x.flueDue && !j.flue && decide ((c + 1) % 256 = 0) && !last
          y.live = step.1 ∧ y.liveFill = x.liveFill ∧ y.liveJob = some { j with kNext := j.kNext + kn } ∧
          (y.tile j.atile).chunk = c + 1 ∧ y.spillDue = b.spills s.cfg.hasMantel j c (j.kNext + kn) ∧ y.yielding = yields ∧
          y.jobs = x.jobs ∧ y.acc = x.acc ∧ y.store = x.store ∧ y.xab = x.xab ∧ y.shadow = x.shadow ∧ y.shadowUse = x.shadowUse ∧
          (b.group = true → (y.group b.gid).touched = true) ∧ t.entry j.ring j.pos = some f ∧ f.status = 0#8 ∧
          f.flags = e.flags ||| BitVec.ofNat 16 (step.2 ||| flagIf (last && b.boundVoid s.cfg.hasMantel j (c + 1)) fBoundVoid))

/-- AUTO_SPILL: the live set is added to the tile's XAB area and restarts at -0 (R59). It waits while the shadow set drains and while the bank is
wiped; a tile loaded in the shadow set, free under R67, gives way. A cell that has lost its parity ends the descriptor with E_MEM, its source the
hearth, and marks the tile (Table 17-1). -/
def Sys2Proof.SpillsRestartTheCells : Prop :=
  ∀ (s : State) (h : BitVec 6) (j : TileJob), h.toNat < s.cfg.hearths → s.hearthRuns h.toNat = true →
    let x := s.hearth h.toNat
    x.liveJob = some j →
    ((x.spillDue = false ∨ x.shadowUse.drains = true ∨ s.bankWiping (h.toNat * 2 ^ 28) = true) → exec (.autoSpill h) s = .next s) ∧
    (x.spillDue = true → x.shadowUse.drains = false → s.bankWiping (h.toNat * 2 ^ 28) = false →
      (x.liveBad = false →
        ∃ t, exec (.autoSpill h) s = .next t ∧ t = { s with hearths := t.hearths } ∧ OnlyHearth s t h.toNat ∧
          let y := t.hearth h.toNat
          y.live = [] ∧ y.liveFill = negZero32 ∧ y.spillDue = false ∧ (y.tile j.atile).spilled = true ∧ y.liveJob = some j ∧
          y.acc = x.acc ∧ y.store = x.store ∧ y.shadowUse = .free ∧ y.jobs = x.jobs ∧
          y.xab = x.xab.store (j.atile * xabBytes) ((List.range 128).flatMap fun r =>
            ((rowWords x.live r).zip (List.range 128)).flatMap fun w =>
              leBytes 8 (spillAdd (x.xabAt j.atile (128 * r + w.2)) w.1).toNat)) ∧
      (x.liveBad = true → ∀ e, s.entry j.ring j.pos = some e → e.status = 0#8 →
        ∃ t f, exec (.autoSpill h) s = .next t ∧ t.entry j.ring j.pos = some f ∧ f.stage = .finished ∧ f.status = 0x0A#8 ∧
          f.detail = BitVec.ofNat 16 (0x300 + h.toNat) ∧ t.tainted (tileRange h.toNat j.atile) = true ∧ t.mantel = s.mantel))

/-- TILE_DRAIN_COMMIT: a parked tile's raw words stand in accumulator memory, its accumulation stays open, and where its chunks are done its share
ends; a tile whose accumulation ends commits its result. It waits for a wipe of the bank of its output; a cell that has lost its parity ends the
descriptor with E_MEM (R68, R73, R354, Table 17-1). -/
def Sys2Proof.CommitsWriteTheTile : Prop :=
  ∀ (s : State) (h : BitVec 6), h.toNat < s.cfg.hearths → s.hearthRuns h.toNat = true →
    let x := s.hearth h.toNat
    ((∀ j, x.shadowUse ≠ .draining j) → exec (.tileDrainCommit h) s = .next s) ∧
    ∀ j e, x.shadowUse = .draining j → s.entry j.ring j.pos = some e →
      let freed := s.setHearth h.toNat { x with shadowUse := .free, shadow := [], shadowBad := false }
      (e.status ≠ 0#8 → exec (.tileDrainCommit h) s = .next (freed.stopWork j.ring j.pos)) ∧
      (e.status = 0#8 → s.drainStalls h.toNat j e = true → exec (.tileDrainCommit h) s = .next s) ∧
      (e.status = 0#8 → s.drainStalls h.toNat j e = false →
        (x.shadowBad = true →
          ∃ t f, exec (.tileDrainCommit h) s = .next t ∧ t.entry j.ring j.pos = some f ∧ f.stage = .finished ∧ f.status = 0x0A#8 ∧
            f.detail = BitVec.ofNat 16 (0x300 + h.toNat) ∧ t.tainted (tileRange h.toNat j.atile) = true) ∧
        (x.shadowBad = false → (j.ends = false ∨ j.kNext ≠ j.kEnd) →
          ∃ t, exec (.tileDrainCommit h) s = .next t ∧ t = { s with rings := t.rings, hearths := t.hearths } ∧ OnlyHearth s t h.toNat ∧
            (let y := t.hearth h.toNat
             y.acc = x.acc.store (j.atile * tileBytes) (tableBytes x.shadow) ∧ y.shadow = [] ∧ y.shadowUse = .free ∧
             y.tile j.atile = { x.tile j.atile with state := .parked } ∧ y.store = x.store ∧ y.xab = x.xab ∧ y.live = x.live ∧
             y.liveJob = x.liveJob ∧ y.jobs = x.jobs) ∧
            (j.kNext ≠ j.kEnd → t = { s with hearths := t.hearths }) ∧
            (j.kNext = j.kEnd → ∃ f, t.entry j.ring j.pos = some f ∧ f.left = e.left - 1)) ∧
        (x.shadowBad = false → j.ends = true → j.kNext = j.kEnd →
          exec (.tileDrainCommit h) s = .next (freed.commitEnd h.toNat j e x.shadow)))

/-- A tile's way through the Grate: loads, swaps, chunk steps, auto-spills and commits (R49 to R59, R66 to R69, R73, R101). -/
def Obligations.TilesPassThroughTheGrate : Prop :=
  LoadsCopyTheNextTile ∧ SwapsExchangeTheSets ∧ ChunksAdvanceTheLiveSet ∧ SpillsRestartTheCells ∧ CommitsWriteTheTile

/-- STAGE_PANEL_FETCH: the first panel goes into the first half of the stage; outside that half the store is as before. What the stage
reads as is free (Config.freeByte). With both halves taken, with every panel there, and without a streamed operand, nothing changes. -/
def Sys2Proof.PanelsFillTheStage : Prop :=
  ∀ (s : State) (h : BitVec 6), h.toNat < s.cfg.hearths → s.hearthRuns h.toNat = true →
    let x := s.hearth h.toNat
    (x.grateJobs = [] → exec (.stagePanelFetch h) s = .next s) ∧
    ∀ j rest e, x.grateJobs = j :: rest → s.entry j.ring j.pos = some e →
      let b := matmulOf e.desc
      let own := x.panels.filter fun q => q.ring == j.ring && q.pos == j.pos
      (b.streamed = none → exec (.stagePanelFetch h) s = .next s) ∧
      ((2 ≤ own.length ∨ ∀ k ∈ x.grateJobs, k.of j.ring j.pos = true → ∃ q ∈ own, q.id = b.panelOf k) →
        exec (.stagePanelFetch h) s = .next s) ∧
      ∀ p, b.streamed = some p → x.panels = [] → e.status = 0#8 → e.sealed = false →
        let reads := b.panelReads p (b.panelOf j)
        (∀ r ∈ reads, s.stalls r = false) → s.readsSound reads →
        ∃ t, exec (.stagePanelFetch h) s = .next t ∧ t = { s with rings := t.rings, hearths := t.hearths, draws := t.draws } ∧
          OnlyHearth s t h.toNat ∧
          let y := t.hearth h.toNat
          y.panels = [{ ring := j.ring, pos := j.pos, id := b.panelOf j, half := 0, data := snapshot s.mantel reads }] ∧
          (∀ a, (a < b.stageBase ∨ b.stageBase + b.panelBytes p ≤ a) → y.store.byte a = x.store.byte a) ∧ y.acc = x.acc ∧
          y.live = x.live ∧ y.jobs = x.jobs ∧ y.liveJob = x.liveJob

/-- K_SPLIT_COMBINE: nothing until every working part of the tile has arrived, while the home does not run, and while the bank of the output is
wiped; then, for two parts, RN(part 0 + part 1) element by element stands in the home's tile and passes through the epilogue (R105, R354). -/
def Sys2Proof.PartsCombineAtTheirHome : Prop :=
  ∀ (s : State) (n : BitVec 7) (pos : W32) (tile : BitVec 32) (e : Entry), s.running n.toNat pos 0x01 = some e → e.started = true →
    e.status = 0#8 →
    let b := matmulOf e.desc
    let sp := b.parts (s.workHearths e).length
    let items := b.working sp (s.matmulItems b (s.workHearths e))
    ((sp = 1 ∨ ∃ i ∈ items, i.tile = tile.toNat ∧ (tile.toNat, i.part) ∉ e.arrived) → exec (.kSplitCombine n pos tile) s = .next s) ∧
    ∀ i k, items = [i, k] → i.tile = tile.toNat → k.tile = tile.toNat → i.part = 0 → k.part = 1 → sp ≠ 1 →
      let pass := b.tilePass e items i.hearth tile.toNat
      ((s.hearthRuns i.hearth = false ∨ ∃ r ∈ pass.writes i.hearth, s.stalls r = true) → exec (.kSplitCombine n pos tile) s = .next s) ∧
      ((tile.toNat, 0) ∈ e.arrived → (tile.toNat, 1) ∈ e.arrived → (tile.toNat, sp) ∉ e.arrived → s.hearthRuns i.hearth = true →
        (∀ r ∈ pass.writes i.hearth, s.stalls r = false) → s.classOf n.toNat ≠ 2#2 → s.classOf n.toNat ≠ 3#2 →
        s.readsSound [tileRange i.hearth i.atile, tileRange k.hearth k.atile] →
        let ij := tileAt b.order b.tm b.tn tile.toNat
        let sum := addTables b ij.1 ij.2 (tileWords (s.hearth i.hearth).acc i.atile) (tileWords (s.hearth k.hearth).acc k.atile)
        let t := (((s.storeTile i.hearth i.atile sum.1).raise n.toNat pos sum.2).modEntry n.toNat pos fun f =>
            { f with arrived := f.arrived ++ [(tile.toNat, sp)] }).epilogue n.toNat pos i.hearth pass sum.1 negZero32 false
        exec (.kSplitCombine n pos tile) s = .next (if t.ended n.toNat pos then t.stopWork n.toNat pos
          else (t.modEntry n.toNat pos fun f => (f.committed i.hearth i.atile).committed k.hearth k.atile).shareDone n.toNat pos))

/-- Streamed panels and parts of a K split (R105, R107). -/
def Obligations.PanelsAndPartsMeetTheirTiles : Prop := PanelsFillTheStage ∧ PartsCombineAtTheirHome

/-- A GROUP operation moves its data piece by piece, and waits where no hearth serves its next piece; with the last piece of all, and with
nothing to keep it, it acts on every hearth of the mask with its record, and ends. A RESUME whose record another has taken by then ends
with the status of Table 04-6. That the effect comes with the last piece is the model's choice (log entry 84). -/
def Sys2Proof.GroupActs (c : Instr) (n : Nat) (pos : W32) (op : Nat) (act : State → GroupDesc → List (Nat × Nat) → State) : Prop :=
  ∀ (s : State) (e : Entry), s.running n pos 0x03 = some e →
    let b := groupOf e.desc
    let ps := b.places (s.hearthsOf e.mask)
    let may (h : Nat) : Bool := s.hearthRuns h && !s.yields n h
    (b.op ≠ op → exec c s = .next s) ∧
    (b.op = op → (∀ q ∈ ps, may q.1 = false) → exec c s = .next s) ∧
    ∀ h k, b.op = op → e.nextPiece (ps.map fun q => (q.1, s.groupPieces b q.1)) may = some (h, k) →
      s.clear n e e.reads (ps.flatMap fun q => s.groupReads b q.1 q.2) (ps.flatMap fun q => s.groupOuts b q.1 q.2) →
      let last := k + 1 = s.groupPieces b h ∧ ∀ q ∈ ps, q.1 ≠ h → s.groupPieces b q.1 ≤ e.pieces q.1
      (¬last → exec c s = .next (s.modEntry n pos fun f => { f with started := true, prog := Tab.put 0 e.prog h (k + 1) })) ∧
      (last → s.resumeRefusal n b ps = none → exec c s = .next ((act s b ps).finish n pos)) ∧
      (last → ∀ v, s.resumeRefusal n b ps = some v → exec c s = .next (s.finishWith n pos v.1 v.2))

/-- OPEN on one hearth: the group is open with its tiles, at their values in memory with KEEP, at -0 without. SPILL of an untouched group
writes the header alone; of a touched one the header and each tile's exact value; both release the group (R83, R90). RESUME opens the group
with the record's counts and sets its STATE to 2. CLOSE of an untouched group without KEEP or record leaves +0 (R85, R86). One tile each. -/
def Sys2Proof.GroupEffects : Prop :=
  (∀ (s : State) (n : Nat) (b : GroupDesc) (h : Nat),
    let t := s.openGroup n b h
    OnlyHearth s t h ∧ t = { s with hearths := t.hearths } ∧
    (t.hearth h).group b.gid = { isOpen := true, tiles := b.tiles, touched := false, bound := none, keep := b.keep, cls := s.classOf n } ∧
    (b.keep = true → (t.hearth h).acc = (s.hearth h).acc) ∧
    (∀ a, b.keep = false → groupTiles b.tiles = [a] →
      (t.hearth h).acc = (s.hearth h).acc.store (a * tileBytes) (tableBytes (Tab.build negZero32 16384 fun _ => negZero32))) ∧
    ∀ a ∈ groupTiles b.tiles, (t.hearth h).tile a =
      { state := .idle, isOpen := true, elements := 0, chunk := 0, spilled := false, fresh := !b.keep }) ∧
  (∀ (s : State) (n : Nat) (pos : W32) (b : GroupDesc) (h xa : Nat), s.sealing n pos = false → s.mantelPoison = [] →
    let x := s.hearth h
    let g := x.group b.gid
    let t := s.spillGroup n pos b h xa
    g.bound = none →
    OnlyHearth s t h ∧ (t.hearth h).group b.gid = Group.reset ∧ (t.hearth h).acc = x.acc ∧
    (∀ a ∈ groupTiles g.tiles, (t.hearth h).tile a = (x.tile a).closed) ∧
    (g.headerOnly = true → t.mantel = s.mantel.store xa (spillHeaderBytes g x false (s.classOf n).toNat 1 s.audit.count)) ∧
    ∀ a, g.headerOnly = false → groupTiles g.tiles = [a] →
      t.mantel = (s.mantel.store xa (spillHeaderBytes g x true (s.classOf n).toNat 1 s.audit.count)).store (xa + 4096)
        ((List.range 16384).flatMap fun c => leBytes 8 (toF64 (x.groupSum a (tileWords x.acc a) [] c)).toNat)) ∧
  (∀ (s : State) (n : Nat) (pos : W32) (b : GroupDesc) (h xa a : Nat), s.sealing n pos = false → s.mantelPoison = [] →
    groupTiles b.tiles = [a] →
    let img := s.spillImage xa
    let t := s.resumeGroup n pos b h xa
    OnlyHearth s t h ∧ t.mantel = s.mantel.store (xa + 2) [0x02#8] ∧
    (t.hearth h).group b.gid = { isOpen := true, tiles := b.tiles, touched := flag img 4 0, bound := some (BitVec.ofNat 64 xa),
                                 keep := flag img 4 2, cls := s.classOf n } ∧
    (t.hearth h).tile a = { state := .idle, isOpen := true, elements := fld img 68 0 32, chunk := fld img 72 0 32, spilled := false,
                            fresh := true }) ∧
  ∀ (s : State) (n : Nat) (pos : W32) (b : GroupDesc) (h : Nat),
    let g := (s.hearth h).group b.gid
    g.touched = false → g.keep = false → g.bound = none →
    let t := s.closeGroup n pos b h
    OnlyHearth s t h ∧ t.mantel = s.mantel ∧ (t.hearth h).group b.gid = Group.reset ∧
    (∀ a, groupTiles g.tiles = [a] →
      (t.hearth h).acc = (s.hearth h).acc.store (a * tileBytes) (tableBytes (Tab.build negZero32 16384 fun _ => 0#32))) ∧
    ∀ a ∈ groupTiles g.tiles, (t.hearth h).tile a = ((s.hearth h).tile a).closed

/-- GROUP: OPEN, SPILL, RESUME and CLOSE on every hearth of the mask; SPILL sets SPILLED, and CLOSE sets EMPTY_GROUP where the group is
untouched on every hearth (R82 to R90). -/
def Obligations.GroupOperationsActOnEveryHearth : Prop :=
  (∀ (n : BitVec 7) (pos : W32),
    GroupActs (.groupOpen n pos) n.toNat pos 0 (fun s b ps => ps.foldl (fun s q => s.openGroup n.toNat b q.1) s) ∧
    GroupActs (.groupSpill n pos) n.toNat pos 1 (fun s b ps =>
      (ps.foldl (fun s q => s.spillGroup n.toNat pos b q.1 q.2) s).raise n.toNat pos fSpilled) ∧
    GroupActs (.groupResume n pos) n.toNat pos 2 (fun s b ps => ps.foldl (fun s q => s.resumeGroup n.toNat pos b q.1 q.2) s) ∧
    GroupActs (.groupClose n pos) n.toNat pos 3 (fun s b ps =>
      (ps.foldl (fun s q => s.closeGroup n.toNat pos b q.1) s).raise n.toNat pos
        (flagIf (ps.all fun q => !((s.hearth q.1).group b.gid).touched) fEmptyGroup))) ∧
  GroupEffects

/-- CHAIN: each run of the dealing joins its hearth's runs with the record read there, and LEFT counts the runs
(R144). -/
def Sys2Proof.ChainDealsItsRuns : Prop :=
  ∀ (s : State) (n : BitVec 7) (pos : W32) (e : Entry), s.running n.toNat pos 0x10 = some e →
    (e.started = true → exec (.chain n pos) s = .next s) ∧
    (e.started = false →
      let c := chainOf e.desc
      let runs := c.deal s.cfg.lanes (s.workHearths e)
      s.readsSound (runs.map fun q => { space := 0, hearth := q.1, lo := c.streamOff, len := 256 }) →
      ∃ t, exec (.chain n pos) s = .next t ∧ t = { s with rings := t.rings, hearths := t.hearths } ∧
        (∀ m, m ≠ n.toNat → t.ring m = s.ring m) ∧ t.entry n.toNat pos = some { e with started := true, left := runs.length } ∧
        ∀ h, t.hearth h = { s.hearth h with chains := (s.hearth h).chains ++
          (runs.filter fun q => q.1 == h).map fun q =>
            { ring := n.toNat, pos := pos, first := q.2.1, count := q.2.2, pass := 0, passes := c.passes s.cfg.lanes q.2.2,
              record := s.streamRecord c h, lines := [], marks := [], reads := [] } })

/-- CHAIN_PASS: with no run nothing changes; the run that is served first requests the host memory that its pass reads, and then makes the pass,
with the effects of what its program computes; it waits under the Damper and for Flue, and an error that has ended the descriptor stops its work
(R144, R154, R157, R267, R387). A pass without outputs, reductions and adds leaves the memories as they are and only advances the run. -/
def Sys2Proof.PassesRunTheProgram : Prop :=
  ∀ (s : State) (h : BitVec 6), h.toNat < s.cfg.hearths → s.hearthRuns h.toNat = true →
    ((s.hearth h.toNat).chains = [] → exec (.chainPass h) s = .next s) ∧
    ∀ r e, s.nextRun (s.hearth h.toNat).chains = some r → s.entry r.ring r.pos = some e →
      ((s.withheld h.toNat (s.classOf r.ring) = true ∨ s.yields r.ring h.toNat = true) → exec (.chainPass h) s = .next s) ∧
      (s.withheld h.toNat (s.classOf r.ring) = false → s.yields r.ring h.toNat = false →
        let q := s.planPass h.toNat r e
        let missing := (hostPieces q.reads).filter fun g => !r.reads.contains g
        (e.status ≠ 0#8 → exec (.chainPass h) s = .next (s.stopWork r.ring r.pos)) ∧
        (e.status = 0#8 → missing ≠ [] → exec (.chainPass h) s = .next
          (((s.readHost r.ring r.pos missing).advanceRun h.toNat r { r with reads := r.reads ++ missing }).stopIfEnded r.ring r.pos)) ∧
        (s.clear r.ring e r.reads q.reads q.outs → s.addsStall r.ring e h.toNat q.ctx q.run = false →
          exec (.chainPass h) s = .next (s.commitPass r.ring e h.toNat r q.ctx q.lines q.run q.flags) ∧
          (q.run.adds = [] → q.run.outs = [] → q.run.leaves = [] → r.pass + 1 ≠ r.passes →
            ∃ t, exec (.chainPass h) s = .next t ∧ t = { s with rings := t.rings, hearths := t.hearths, draws := t.draws } ∧
              OnlyHearth s t h.toNat ∧ SameUnits (s.hearth h.toNat) (t.hearth h.toNat) ∧
              (t.hearth h.toNat).jobs = (s.hearth h.toNat).jobs ∧
              (t.hearth h.toNat).chains =
                (s.hearth h.toNat).chains.map fun p => if p = r then { r with pass := r.pass + 1, reads := [] } else p)))

/-- SFU_GRANT: at most two requests leave the queue, the oldest pass first, its lowest stage first, and the groups round from the last one
granted (R175). -/
def Sys2Proof.GrantsServeTheOldestPass : Prop :=
  ∀ (s : State) (h : BitVec 6), h.toNat < s.cfg.hearths → s.hearthRuns h.toNat = true →
    ∃ t, exec (.sfuGrant h) s = .next t ∧ t = { s with hearths := t.hearths } ∧ OnlyHearth s t h.toNat ∧
      let x := s.hearth h.toNat
      let y := t.hearth h.toNat
      y = { x with sfuQueue := y.sfuQueue, sfuLast := y.sfuLast } ∧ x.sfuQueue.length ≤ y.sfuQueue.length + 2 ∧
      (x.sfuQueue = [] → y = x) ∧
      (∀ q, x.sfuQueue = [q] → q.2.2 < 8 → y.sfuQueue = [] ∧ y.sfuLast = q.2.2) ∧
      (∀ p g, x.sfuQueue = [(p, 0, g), (p, 1, g)] → g < 8 → y.sfuQueue = []) ∧
      (∀ p g k l m, p ≠ k → g < 8 → l < 8 → m < 8 → x.sfuQueue = [(p, 1, g), (p, 0, l), (k, 0, m)] → y.sfuQueue = [(k, 0, m)]) ∧
      ∀ p, x.sfuLast = 3 → x.sfuQueue = [(p, 0, 2), (p, 0, 3), (p, 0, 5)] → y.sfuQueue = [(p, 0, 3)] ∧ y.sfuLast = 2

/-- The lanes: dealing a CHAIN, its passes, and the SFU (R144, R154, R157, R175). -/
def Obligations.ChainsRunPassAfterPass : Prop := ChainDealsItsRuns ∧ PassesRunTheProgram ∧ GrantsServeTheOldestPass

/-- A NORM works pass by pass: the next pass of the first hearth that serves it first requests its host memory; with its inputs there it computes
the rows that end with that pass, queues its SFU requests and moves on; the position ends with its last pass. It waits where no hearth serves
it (R175, R194, R196, R211, R267). Rows act at their last pass (log entry 140). -/
def Sys2Proof.NormActs (c : Instr) (n : Nat) (pos : W32) (op : Nat) (act : State → State → Norm → NormRow → Bool → State) : Prop :=
  ∀ (s : State) (e : Entry), s.running n pos 0x11 = some e →
    let b := normOf e.desc
    let lanes := s.cfg.lanes
    let runs := deal (s.workHearths e) b.rows
    let shares := runs.map fun q => (q.1, b.passes lanes q.2.2)
    (b.op ≠ op → exec c s = .next s) ∧
    (b.op = op → e.status = 0#8 → (∀ q ∈ runs, s.serves n q.1 = false) → exec c s = .next s) ∧
    ∀ h k q, b.op = op → e.status = 0#8 → e.nextPiece shares (fun h => s.serves n h) = some (h, k) → runs.find? (fun q => q.1 == h) = some q →
      let row (i : Nat) : NormRow := { h := h, own := i, m := q.2.1 + i }
      let rows := (b.rowsEnding lanes q.2.2 k).map row
      FetchesFirst c s n e (rows.flatMap b.rowReads) (rows.flatMap b.rowOuts) ∧
      (s.clear n e e.reads (rows.flatMap b.rowReads) (rows.flatMap b.rowOuts) →
        let u := rows.foldl (fun u r => u.normOne n pos act b false r) s
        exec c s = .next (((u.modHearth h fun x =>
            x.queueSfu (u.normRequests b (row (k / b.rowPasses lanes * b.rowsAtOnce lanes)) k)).act n pos h).advance
          n pos shares h (k + 1) (b.passes lanes q.2.2)))

/-- A row none of whose reads is undefined is computed from the values that stand. Rows of a softmax and a normalisation without elements, and
with a NaN: their values and flags (Table 10-4). -/
def Sys2Proof.RowsWithoutElements : Prop :=
  (∀ (s : State) (n : Nat) (pos : W32) (b : Norm) (bad : Bool) (q : NormRow) (act : State → State → Norm → NormRow → Bool → State),
    s.rowVoid n pos b q = [] → s.normOne n pos act b bad q = act s s b q bad) ∧
  ∀ (lanes k : Nat) (mul : W32),
    (softRow false lanes mul (List.replicate k none)).1 = List.replicate k 0#32 ∧
    (softRow true lanes mul (List.replicate k none)).1 = List.replicate k negInf32 ∧
    (∀ log, (softRow log lanes mul (List.replicate k none)).2.1 = fRowEmpty) ∧
    (∀ b g h, normRow b lanes (List.replicate k none) g h = (List.replicate k 0#32, normRecord 0#32 0#32 0#32 0, fRowEmpty)) ∧
    (∀ b g h (xs : List (Option W32)) x, some x ∈ xs → (f32 x).isNan = true →
      (normRow b lanes xs g h).1 = List.replicate xs.length qnan32 ∧ (normRow b lanes xs g h).2.2 = fRowNan ||| fNanSeen) ∧
    (∀ ps, ps ≠ [] → (∀ p ∈ ps, p.isEmpty = true ∧ p.isNan = false) → (mergeRecords ps).1.l = 0#32 ∧ (mergeRecords ps).1.isEmpty = true ∧
      (mergeRecords ps).2 = fRowEmpty) ∧
    ∀ log anchored r (xs : List (Option W32)), r.isNan = true →
      (softFromRecord log anchored mul r xs).1 = List.replicate xs.length qnan32

/-- NORM: each operation, row by row (R198 to R208), and the rows that have no number to give (Table 10-4). -/
def Obligations.NormsWorkRowByRow : Prop :=
  (∀ (n : BitVec 7) (pos : W32),
    NormActs (.softmax n pos) n.toNat pos 0 (fun s view b q bad => s.softmaxRow view n.toNat pos b q bad) ∧
    NormActs (.logsoftmax n pos) n.toNat pos 1 (fun s view b q bad => s.softmaxRow view n.toNat pos b q bad) ∧
    NormActs (.rmsnorm n pos) n.toNat pos 2 (fun s view b q bad => s.normaliseRow view n.toNat pos b q bad) ∧
    NormActs (.layernorm n pos) n.toNat pos 3 (fun s view b q bad => s.normaliseRow view n.toNat pos b q bad) ∧
    NormActs (.topkSoftmax n pos) n.toNat pos 4 (fun s view b q bad => s.topkRow view n.toNat pos b q bad) ∧
    NormActs (.merge n pos) n.toNat pos 5 (fun s view b q bad => s.mergeRow view n.toNat pos b q bad)) ∧
  RowsWithoutElements

/-- TABLE_LOAD on one hearth: the bank takes the image's entries and the named slot records, no other entry or slot changes, and LOADING is
clear (R184, R185). A hearth that does not run, and an earlier reader or load of the bank there, hold it back; a slot record that fails
the checks by then ends it with E_DESC. -/
def Sys2Proof.LoadsFillTheBank : Prop :=
  ∀ (s : State) (n : BitVec 7) (pos : W32) (e : Entry), s.running n.toNat pos 0x12 = some e →
    let b := tableLoadOf e.desc
    let hs := s.hearthsOf e.mask
    ∀ h, hs = [h] → e.prog = [] →
      ((s.hearthRuns h = false ∨ s.tableHeld e b.bank h = true) → ∃ t, exec (.tableLoad n pos) s = .next t ∧ t = s) ∧
      (s.hearthRuns h = true → s.tableHeld e b.bank h = false → s.clear n.toNat e e.reads (b.reads hs) [] →
        (∀ v, descVerdict (s.slotRecordBreaches b hs) = some v →
          ∃ t f, exec (.tableLoad n pos) s = .next t ∧ t.entry n.toNat pos = some f ∧ f.stage = .finished ∧ f.status = BitVec.ofNat 8 v.1 ∧
            f.detail = BitVec.ofNat 16 v.2 ∧ (t.hearth h).shapes = (s.hearth h).shapes ∧ (t.hearth h).slots = (s.hearth h).slots) ∧
        (s.slotRecordBreaches b hs = [] →
          ∃ t f, exec (.tableLoad n pos) s = .next t ∧ t = { s with rings := t.rings, hearths := t.hearths } ∧ OnlyHearth s t h ∧
            t.entry n.toNat pos = some f ∧ f.stage = .finished ∧ f.status = 0#8 ∧
            let x := s.hearth h
            let y := t.hearth h
            y.shapes = Tab.splice 0#64 x.shapes (65536 * bitNat b.bank + b.first)
              (entriesOf (s.peek b.space h b.srcAddr (8 * b.count)) b.count) ∧
            (∀ k < 64, Tab.at 0#256 y.slots k = if 32 * bitNat b.bank ≤ k ∧ k - 32 * bitNat b.bank ∈ b.slots then
              BitVec.ofNat 256 (s.slotRecord b h (k - 32 * bitNat b.bank)) else Tab.at 0#256 x.slots k) ∧
            y.loading = false ∧ y.active = x.active ∧ y.store = x.store ∧ y.acc = x.acc))

/-- TABLE_SWAP: every hearth of the mask reads the other bank from now on; SWAP_COUNT counts the changes; an earlier swap of one of its hearths
goes first (R186). -/
def Sys2Proof.SwapsChangeTheActiveBank : Prop :=
  ∀ (s : State) (n : BitVec 7) (pos : W32) (e : Entry), s.running n.toNat pos 0x13 = some e →
    ((∃ p ∈ s.rings, ∃ f ∈ p.2.entries, f.order < e.order ∧ ∃ h ∈ s.hearthsOf e.mask, f.swaps h = true) →
      exec (.tableSwap n pos) s = .next s) ∧
    ((∀ p ∈ s.rings, ∀ f ∈ p.2.entries, f.order < e.order → ∀ h ∈ s.hearthsOf e.mask, f.swaps h = false) →
      ∃ t, exec (.tableSwap n pos) s = .next t ∧ t = { s with rings := t.rings, hearths := t.hearths } ∧
        t.entry n.toNat pos = some e.finished ∧
        (∀ h, h ∉ s.hearthsOf e.mask → t.hearth h = s.hearth h) ∧
        ∀ h ∈ s.hearthsOf e.mask,
          (t.hearth h).active = tableSwapTo e.desc ∧
          ((s.hearth h).active = tableSwapTo e.desc → t.hearth h = s.hearth h) ∧
          ((s.hearth h).active ≠ tableSwapTo e.desc →
            t.hearth h = { s.hearth h with active := tableSwapTo e.desc, swapCount := satInc (s.hearth h).swapCount }))

/-- SHAPE_RELOAD: a line is read again from its unchanged source, and RELOAD_COUNT rises; a line without a source becomes undefined, and no other
entry changes; a failed read ends the CHAIN with E_MEM and the shape store of the hearth as the source (R189, R259). -/
def Sys2Proof.ReloadsRestoreALine : Prop :=
  ∀ (s : State) (h : BitVec 6) (bank : Bool) (line : BitVec 10), h.toNat < s.cfg.hearths → s.hearthRuns h.toNat = true →
    64 * line.toNat < bankSize s.cfg.shapeEntries →
    (∀ o, s.lookupRun h.toNat bank = none → exec (.shapeReload h bank line o) s = .next s) ∧
    ∀ (r : ChainRun) (e : Entry), s.lookupRun h.toNat bank = some r → s.entry r.ring r.pos = some e →
    let x := s.hearth h.toNat
    let src := Tab.at noSource x.sources (1024 * bitNat bank + line.toNat)
    let key := 65536 * bitNat bank + 64 * line.toNat
    (src ≠ noSource → s.readsSound [{ space := src.1, hearth := h.toNat, lo := src.2.toNat, len := 512 }] →
      entriesOf (s.peek src.1 h.toNat src.2.toNat 512) 64 = Tab.list 0#64 x.shapes key 64 →
      ∃ t, exec (.shapeReload h bank line 0#2) s = .next t ∧ OnlyHearth s t h.toNat ∧ t.rings = s.rings ∧ t.mantel = s.mantel ∧
        t.hearth h.toNat = { x with reloadCount := satInc x.reloadCount }) ∧
    (src = noSource →
      ∃ t, exec (.shapeReload h bank line 0#2) s = .next t ∧ OnlyHearth s t h.toNat ∧ t.rings = s.rings ∧ t.mantel = s.mantel ∧
        t.hearth h.toNat = { x with reloadCount := satInc x.reloadCount, shapes := (t.hearth h.toNat).shapes } ∧
        ∀ k, (k < key ∨ key + 64 ≤ k) → Tab.at 0#64 (t.hearth h.toNat).shapes k = Tab.at 0#64 x.shapes k) ∧
    (e.status = 0#8 →
      ∃ t f, exec (.shapeReload h bank line 1#2) s = .next t ∧ t.entry r.ring r.pos = some f ∧ f.status = 0x0A#8 ∧
        f.detail = BitVec.ofNat 16 (0x400 + h.toNat) ∧ f.stage = .finished ∧ (t.hearth h.toNat).shapes = x.shapes ∧ t.mantel = s.mantel)

/-- The shape tables: loads, swaps and reloads (R183 to R186, R189). -/
def Obligations.ShapeTablesLoadSwapAndReload : Prop := LoadsFillTheBank ∧ SwapsChangeTheActiveBank ∧ ReloadsRestoreALine

/-- A COPY or FILL moves its data piece by piece: the next piece of the first hearth that serves it first requests its host memory, and then its
spans of rows are written and the share moves on; it waits where no hearth serves it (R267, R300, R301). What the pieces are is log entry 139. -/
def Sys2Proof.MoverActs (c : Instr) (n : Nat) (pos : W32) (op : Nat) (body : DescBits → Mover) : Prop :=
  ∀ (s : State) (e : Entry), s.running n pos op = some e →
    let b := body e.desc
    let runs := b.deal (s.hearthsOf e.mask) (s.workHearths e)
    let shares := runs.map fun q => (q.1, b.pieces q.2.2)
    (e.status = 0#8 → (∀ q ∈ runs, s.serves n q.1 = false) → exec c s = .next s) ∧
    ∀ h k q, e.status = 0#8 → e.nextPiece shares (fun h => s.serves n h) = some (h, k) → runs.find? (fun q => q.1 == h) = some q →
      let spans := b.spans q.2.2 k
      let reads := match b.src with
        | some p => spans.flatMap fun x => p.spanReads h q.2.1 x
        | none => []
      let outs := spans.flatMap fun x => b.dst.spanReads h q.2.1 x
      FetchesFirst c s n e reads outs ∧
      (s.clear n e e.reads reads outs → b.void = [] →
        exec c s = .next (((spans.foldl (fun u x => u.moveSpan n pos b h q.2.1 s false x) s).act n pos h).advance n pos shares h (k + 1)
          (b.pieces q.2.2)))

/-- FILL with RAW of one row into one hearth's store writes VALUE COLS / 4 times from its address, and changes no other byte (R301). The row
is one piece here. -/
def Sys2Proof.FillWritesItsWord : Prop :=
  ∀ (s : State) (n : BitVec 7) (pos : W32) (e : Entry) (h : Nat), s.running n.toNat pos 0x31 = some e → e.prog = [] →
    let b := fillOf e.desc
    b.dst.raw = true → b.dst.space = 0 → b.rows = 1 → b.deal (s.hearthsOf e.mask) (s.workHearths e) = [(h, 0, 1)] →
    s.serves n.toNat h = true → s.clear n.toNat e e.reads [] [] → (s.hearth h).storePoison = [] → 0 < b.elems → b.elems ≤ 1024 →
    ∃ t f, exec (.fill n pos) s = .next t ∧ t = { s with rings := t.rings, hearths := t.hearths } ∧ OnlyHearth s t h ∧
      t.entry n.toNat pos = some f ∧ f.stage = .finished ∧ f.status = 0#8 ∧
      (t.hearth h).store = (s.hearth h).store.store b.dst.addr ((List.replicate b.elems (leBytes 4 b.value.toNat)).flatten) ∧
      (t.hearth h).acc = (s.hearth h).acc

/-- COPY and FILL (R300, R301). -/
def Obligations.MoversWriteTheirRows : Prop :=
  (∀ (n : BitVec 7) (pos : W32), MoverActs (.copy n pos) n.toNat pos 0x30 copyOf ∧ MoverActs (.fill n pos) n.toNat pos 0x31 fillOf) ∧
  FillWritesItsWord

/-! ### The Transom -/

/-- ROUTE_BUILD: the route record and the count table stand in the Mantel as the walk of the top-k entries gives them, and PERM_OOR says that
an entry named no valid expert (R215, R217). It first requests its entries from host memory, and waits for the Transom. K and TOKENS of zero end
with E_DESC before (R216). -/
def Sys2Proof.RoutesAreBuilt : Prop :=
  ∀ (s : State) (n : BitVec 7) (pos : W32) (e : Entry), s.running n.toNat pos 0x20 = some e →
    let b := routeOf e.desc
    let c := s.installed
    let count := b.k * b.tokens
    let reads : List Range :=
      [{ space := b.space, hearth := transomUnit, lo := b.inAddr, len := 8 * count }, { space := 1, hearth := 0, lo := c.addr, len := c.size }]
    let outs : List Range :=
      [{ space := 1, hearth := 0, lo := b.rrAddr, len := 16 * count }, { space := 1, hearth := 0, lo := b.ctAddr, len := 64 + 4 * c.nexp }]
    (s.transomRuns = false → exec (.routeBuild n pos) s = .next s) ∧
    (s.transomRuns = true → FetchesFirst (.routeBuild n pos) s n.toNat e reads outs) ∧
    (s.transomRuns = true → s.mantelPoison = [] → 0 < count → s.clear n.toNat e e.reads reads outs →
      let w := routeWalk (s.expertMap c) b.k count 0 (numbersOf 4 (2 * count) (s.peek b.space 0 b.inAddr (8 * count)))
        { entries := [], counts := [], valid := 0, nulled := 0 }
      ∃ t f, exec (.routeBuild n pos) s = .next t ∧
        t = { s with rings := t.rings, mantel := t.mantel, mantelPoison := t.mantelPoison, mantelBad := t.mantelBad,
                     mantelSoft := t.mantelSoft } ∧
        t.mantel = (s.mantel.store b.rrAddr (w.entries.reverse.flatMap RouteEntry.bytes)).store b.ctAddr (s.countTable b w) ∧
        t.entry n.toNat pos = some f ∧ f.stage = .finished ∧ f.status = 0#8 ∧
        f.flags = e.flags ||| (if 0 < w.nulled then BitVec.ofNat 16 fPermOor else 0#16))

/-- EPOCH_INSTALL: a valid block becomes the installed one, the epoch rises by one, and the FENCE ends; a breach ends the FENCE and installs
nothing. It waits while an exchange descriptor is issued and not completed, and does nothing without an EPOCH fence (R214). -/
def Sys2Proof.EpochsAreInstalled : Prop :=
  (∀ s : State, s.epochFence = none → exec .epochInstall s = .next s) ∧
  ∀ (s : State) (e : Entry), s.epochFence = some e → s.entry 0 e.pos = some e → s.cfg.hasTransom = true →
    let a := s.xch.nextCfg.toNat
    let c := s.configAt a
    ((s.transomRuns = false ∨ s.exchangeBusy = true) → exec .epochInstall s = .next s) ∧
    (s.transomRuns = true → s.exchangeBusy = false →
      (∀ v, descVerdict (s.configBreaches a) = some v → exec .epochInstall s = .next (s.finishWith 0 e.pos v.1 v.2)) ∧
      (s.configBreaches a = [] → s.readsSound [{ space := 1, hearth := 0, lo := a, len := c.size }] →
        ∃ t, exec .epochInstall s = .next t ∧ t = { s with
            xch := { s.xch with
              self := BitVec.ofNat 16 c.self, epoch := s.xch.epoch + 1#16, members := c.members, cfgAddr := s.xch.nextCfg }
            rings := t.rings } ∧
          (∀ m, m ≠ 0 → t.ring m = s.ring m) ∧ t.entry 0 e.pos = some e.finished))

/-- Routes and the installation of a configuration (R214 to R217). -/
def Obligations.RoutesAndEpochsAreInstalled : Prop := RoutesAreBuilt ∧ EpochsAreInstalled

/-- A command of an exchange waits for the Transom; its first one starts the exchange; a later one takes packets that waited, and sends rows to
the next member (a COMBINE with REVERSE works on whole gradient rows beside). Then what can settle settles. -/
def Sys2Proof.ExchangeActs (c : Instr) (n : Nat) (pos : W32) (op : Nat) (reverse : Bool) : Prop :=
  ∀ (s : State) (e : Entry), s.running n pos op = some e → (xchOf e.desc).reverse = reverse →
    (s.transomRuns = false → exec c s = .next s) ∧
    (s.transomRuns = true → e.started = false → exec c s = .next ((s.startExchange n e).settleExchange n pos)) ∧
    (s.exchange n pos = none → e.started = true → exec c s = .next s) ∧
    (s.transomRuns = true → e.started = true → ∀ x, s.exchange n pos = some x →
      let b := xchOf e.desc
      let u := (s.takePending x).sendRows n pos b
      exec c s = .next ((if op = 0x22 ∧ reverse = true then
        State.gradRows n pos b (((u.exchange n pos).map fun x => x.grads.length).getD 0) u else u).settleExchange n pos))

/-- An exchange that returns rows starts with its route, nothing sent and nothing received, in place of an ended exchange of its triple
(R213, R222). No packet waits for it here. A wipe of a bank that it reads holds it back (R354). -/
def Sys2Proof.ReturningExchangesStart : Prop :=
  ∀ (s : State) (n : Nat) (e : Entry), s.entry n e.pos = some e → e.sealed = false →
    let b := xchOf e.desc
    ((∃ r ∈ s.startReads b, s.stalls r = true) → s.startExchange n e = s) ∧
    (b.returns = true → (∀ r ∈ s.startReads b, s.stalls r = false) → s.readsSound (s.startReads b) → s.xch.pendingArea = [] →
      s.xch.received = [] →
      let x := Exchange.start n e (s.routeAt b.rrAddr (b.tokens * b.k))
      let t := s.startExchange n e
      t = { s with rings := t.rings, xch := { s.xch with exchanges := t.xch.exchanges } } ∧
      t.xch.exchanges = (s.xch.exchanges.filter fun y =>
        !(y.closed && y.xid == b.xid && y.combine == b.combine && y.reverse == b.reverse)) ++ [x] ∧
      t.entry n e.pos = some { e with started := true } ∧ ∀ m, m ≠ n → t.ring m = s.ring m)

/-- DISPATCH and COMBINE, forward and reverse (R222, R233). -/
def Obligations.ExchangesStartAndGoOn : Prop :=
  (∀ (n : BitVec 7) (pos : W32),
    ExchangeActs (.dispatch n pos) n.toNat pos 0x21 false ∧ ExchangeActs (.combine n pos) n.toNat pos 0x22 false ∧
    ExchangeActs (.dispatchReverse n pos) n.toNat pos 0x21 true ∧ ExchangeActs (.combineReverse n pos) n.toNat pos 0x22 true) ∧
  ReturningExchangesStart

/-- A packet of one of a command's types takes its units of the credit that the port grants, and is received; one that comes without them is
received as discarded (R371). A replay that holds packets keeps the command (R278), and so does a recorder that is full and holds (R277); the port
grants its credit anew after. A packet of another type, or with the Transom stopped, has no effect (R230). -/
def Sys2Proof.PacketsAreReceived (c : Packet → Instr) (port : BitVec 3) (types : List Nat) : Prop :=
  ∀ (s : State) (p : Packet), port.toNat < s.cfg.stoves →
    ((s.transomRuns = false ∨ p.type.toNat ∉ types) → exec (c p) s = .next s) ∧
    (s.transomRuns = true → p.type.toNat ∈ types →
      let u := s.grantPort port.toNat
      let rx := (Tab.at Credit.none u.xch.rxCredits port.toNat).take p.vc.toNat (packetUnits p)
      (rx = none → exec (c p) s = .next (s.receivePacket port.toNat p false)) ∧
      ∀ left, rx = some left →
        let v := { u with xch := { u.xch with rxCredits := Tab.put Credit.none u.xch.rxCredits port.toNat left } }
        (s.audit.holdsInput 2 = true → exec (c p) s = .next (State.regrant
          { v with audit := { s.audit with replayWaiting := s.audit.replayWaiting ++ [c p] } })) ∧
        (s.audit.holdsInput 2 = false → (s.audit.holds 2 = true ∨ s.audit.withheldRows ≠ []) → exec (c p) s = .next (State.regrant
          { v with audit := { s.audit with withheldRows := s.audit.withheldRows ++ [c p] } })) ∧
        (s.audit.holdsInput 2 = false → s.audit.withheldRows = [] → s.audit.records 2 = false →
          exec (c p) s = .next (v.receivePacket port.toNat p true).regrant))

/-- A packet takes units of its own channel, one of RET first those reserved for RET and then shared ones, and one that finds too few takes
none (R231, R371). A port with nothing in its receive buffer holds the credit of Table 11-10: 256 units of CTRL, 2,048 reserved for RET and 14,080 that OUT and
RET share, of which WARN1 leaves OUT 7,040 where no more are granted already. One whose AWAKE is low holds none. How the shared part is granted is
log entry 103. -/
def Sys2Proof.PortsGrantTheirBuffers : Prop :=
  (∀ (c : Credit) (k : Nat),
    c.take 0 k = (if k ≤ c.ctrl then some { c with ctrl := c.ctrl - k } else none) ∧
    c.take 1 k = (if k ≤ c.out then some { c with out := c.out - k } else none) ∧
    (k ≤ c.ret → c.take 2 k = some { c with ret := c.ret - k }) ∧
    (c.ret < k → k ≤ c.ret + c.out → c.take 2 k = some { c with ret := 0, out := c.ret + c.out - k }) ∧
    (c.ret + c.out < k → c.take 2 k = none) ∧ c.take 3 k = none) ∧
  ∀ (s : State) (port : Nat),
    let c := Tab.at Credit.none (s.grantPort port).xch.rxCredits port
    let old := Tab.at Credit.none s.xch.rxCredits port
    (s.xchAwake port = false → c = Credit.none) ∧
    (s.xchAwake port = true → s.buffered port = [] → c.ret = 2048 ∧ (s.xch.pendingFull = false → c.ctrl = 256) ∧
      (s.xch.pendingFull = true → c.ctrl = old.ctrl) ∧
      (s.xch.warnLevel ≠ 1 → c.out = max old.out 14080) ∧ (s.xch.warnLevel = 1 → c.out = max old.out 7040))

/-- The exchange has heard of a member. -/
def Sys2Proof.Machine.Exchange.hears (x : Exchange) (src : Nat) : Exchange :=
  { x with heard := if x.heard.contains src then x.heard else x.heard ++ [src] }

/-- What a failure that ends an exchange leaves: the descriptor has ended with the status, XCH_LAST_ERR names the failure, the exchange is no
longer in progress, and no byte of memory changes. -/
def Sys2Proof.EndsTheExchange (s t : State) (n : Nat) (pos : W32) (xid : W16) (status detail cause peer : Nat) : Prop :=
  ∃ f, t.entry n pos = some f ∧ f.stage = .finished ∧ f.status = BitVec.ofNat 8 status ∧ f.detail = BitVec.ofNat 16 detail ∧
    t.exchange n pos = none ∧ t.xch.lastXid = xid ∧ t.xch.lastCause = BitVec.ofNat 8 cause ∧
    t.xch.lastStatus = BitVec.ofNat 8 status ∧ t.xch.lastPeer = BitVec.ofNat 16 peer ∧ t.mantel = s.mantel ∧ t.hearths = s.hearths

/-- A failure that ends an exchange sends ABORT with its status to every other member, where it tells them; its own unsent packets go (R235). -/
def Sys2Proof.FailuresEndExchanges : Prop :=
  ∀ (s : State) (n : Nat) (pos : W32) (x : Exchange) (e : Entry) (status detail cause peer : Nat) (abort : Bool),
    s.exchange n pos = some x → s.entry n pos = some e → e.status = 0#8 →
    let t := s.hardFail n pos status detail cause peer abort
    EndsTheExchange s t n pos x.xid status detail cause peer ∧
    (abort = false → t.xch.txQueue = s.xch.txQueue.filter fun i => !x.owns i.pkt) ∧
    (abort = true → ∀ m ∈ s.chips, m ≠ s.xch.self.toNat → ∃ i ∈ t.xch.txQueue, i.pkt.type = BitVec.ofNat 8 pkAbort ∧
      i.pkt.dstChip = BitVec.ofNat 16 m ∧ i.pkt.offset = BitVec.ofNat 32 status ∧ i.pkt.xid = x.xid ∧ i.pkt.check = packetCrc i.pkt)

/-- A packet of another epoch is counted and answered with STALE, and fails the descriptor of its exchange (R235). That STALE answers every type but
its own is log entry 92. -/
def Sys2Proof.StalePacketsAreAnswered : Prop :=
  ∀ (s : State) (port : Nat) (p : Packet) (sent : Bool), p.epoch ≠ s.xch.epoch →
    let t := s.receivePacket port p sent
    let peer := p.srcChip.toNat
    t.xch.stale = satInc s.xch.stale ∧
    ((∀ x ∈ s.xch.exchanges, x.closed = true ∨ x.owns p = false) → s.unstarted p.xid p.combine p.reverse = none →
      (p.type.toNat = pkStale → t = { s with xch := { s.xch with stale := satInc s.xch.stale } }) ∧
      (p.type.toNat ≠ pkStale → ∃ i, t.xch.txQueue = s.xch.txQueue ++ [i] ∧ i.pkt.type = BitVec.ofNat 8 pkStale ∧
        i.pkt.dstChip = p.srcChip ∧ i.pkt.epoch = s.xch.epoch ∧ i.pkt.xid = p.xid ∧ i.pkt.srcChip = s.xch.self ∧
        i.pkt.check = packetCrc i.pkt ∧ i.pkt.payload = [])) ∧
    (∀ x e, s.xch.exchanges.find? (fun x => !x.closed && x.owns p) = some x → s.exchange x.ring x.pos = some x →
      s.entry x.ring x.pos = some e → e.status = 0#8 → EndsTheExchange s t x.ring x.pos x.xid stEpoch peer 2 peer) ∧
    ∀ n e, (∀ x ∈ s.xch.exchanges, x.closed = true ∨ x.owns p = false) → s.unstarted p.xid p.combine p.reverse = some (n, e) →
      s.entry n e.pos = some e → s.exchange n e.pos = none → e.status = 0#8 →
      EndsTheExchange s t n e.pos p.xid stEpoch peer 2 peer

/-- A packet of this epoch whose exchange is not in progress (R233, R235): a READY or DONE that an ended exchange is owed is taken; an ABORT or
STALE fails the issued descriptor that has not started; one of an exchange that failed here is discarded; any other waits. Which exchange a
late packet meets is log entry 93. -/
def Sys2Proof.EarlyPacketsWait : Prop :=
  ∀ (s : State) (port : Nat) (p : Packet) (sent : Bool), p.epoch = s.xch.epoch →
    s.xch.exchanges.find? (fun x => !x.closed && x.owns p) = none →
    let t := s.receivePacket port p sent
    let owed := (p.type.toNat, p.xid, p.combine, p.reverse, p.srcChip.toNat)
    let whole := sent = true ∧ packetCrc p = p.check
    let waits := { s with xch := { s.xch with pendingArea := s.xch.pendingArea ++ [(port, p, sent)] } }
    (s.unstarted p.xid p.combine p.reverse = none →
      (whole → owed ∈ s.xch.owed → t = { s with xch := { s.xch with owed := s.xch.owed.erase owed } }) ∧
      (¬(whole ∧ owed ∈ s.xch.owed) →
        ((∃ x ∈ s.xch.exchanges, x.closed = true ∧ x.owns p = true) → t = s) ∧
        ((∀ x ∈ s.xch.exchanges, x.closed = false ∨ x.owns p = false) → t = waits))) ∧
    ∀ n e, s.unstarted p.xid p.combine p.reverse = some (n, e) →
      (whole → s.entry n e.pos = some e → s.exchange n e.pos = none → e.status = 0#8 →
        (p.type.toNat = pkAbort →
          EndsTheExchange s t n e.pos p.xid p.offset.toNat (abortDetail p.offset.toNat p.srcChip.toNat) 5 p.srcChip.toNat) ∧
        (p.type.toNat = pkStale → EndsTheExchange s t n e.pos p.xid stEpoch p.srcChip.toNat 2 p.srcChip.toNat)) ∧
      (¬(whole ∧ p.type.toNat ∈ [pkAbort, pkStale]) → t = waits)

/-- A packet of an exchange in progress (R233, R235, R354): it waits in the receive buffer for a wipe of the bank that it writes; with a bad
CHECK, or without units, it is recorded and fails the descriptor, and ends the exchange unless it is of a row; a sound one acts by its type. That
a lost control message ends the exchange is log entry 103. -/
def Sys2Proof.LivePacketsAct : Prop :=
  (∀ (s : State) (port : Nat) (p : Packet) (sent : Bool) (x : Exchange) (e : Entry), p.epoch = s.xch.epoch →
    s.xch.exchanges.find? (fun x => !x.closed && x.owns p) = some x → s.entry x.ring x.pos = some e →
    let t := s.receivePacket port p sent
    let b := xchOf e.desc
    let sound := packetCrc p = p.check ∧ sent = true
    (s.packetStalls x.ring b p = true → t = { s with xch := { s.xch with received := s.xch.received ++ [(port, p, sent)] } }) ∧
    (s.packetStalls x.ring b p = false →
      (sound → p.poison = false → t = (s.actOnPacket x.ring x.pos b p true true).settleExchange x.ring x.pos) ∧
      (sound → p.poison = true → t = ((s.softFail x.ring x.pos stPoison (0x200 + port) 6 p.srcChip.toNat).actOnPacket x.ring x.pos b p
        true true).settleExchange x.ring x.pos) ∧
      (¬sound → vitalPacket p sent = true →
        t = (s.logCrc x.ring x.pos port p).hardFail x.ring x.pos stPoison (0x200 + port) 6 p.srcChip.toNat true) ∧
      (¬sound → vitalPacket p sent = false →
        t = (((s.logCrc x.ring x.pos port p).softFail x.ring x.pos stPoison (0x200 + port) 6 p.srcChip.toNat).actOnPacket x.ring x.pos b p
          (decide (packetCrc p = p.check)) sent).settleExchange x.ring x.pos))) ∧
  ∀ (s : State) (n : Nat) (pos : W32) (b : XchDesc) (p : Packet),
    let src := p.srcChip.toNat
    let u := s.modExchange n pos fun x => x.hears src
    let t := s.actOnPacket n pos b p true true
    (p.type.toNat = pkOut → b.allocates = true → t = u.takeRow n pos b p p.poison true) ∧
    (p.type.toNat = pkRet → b.returns = true → t = u.takeRow n pos b p p.poison true) ∧
    (p.type.toNat = pkDw → b.combine = true → b.reverse = true → t = u.takeDw n pos b p p.poison) ∧
    (p.type.toNat = pkCount → b.combine = false → b.reverse = false → t = u.takeCount n pos b p) ∧
    (p.type.toNat = pkReady → b.allocates = true →
      t = s.modExchange n pos fun x => { x.hears src with readyFrom := x.readyFrom ++ [src] }) ∧
    (p.type.toNat = pkDone → t = s.modExchange n pos fun x => { x.hears src with doneFrom := x.doneFrom ++ [src] }) ∧
    (p.type.toNat = pkStale → t = u.hardFail n pos stEpoch src 2 src true) ∧
    (p.type.toNat = pkAbort → t = u.hardFail n pos p.offset.toNat (abortDetail p.offset.toNat src) 5 src false)

/-- Packets from the exchange ports (R230 to R235, R371). -/
def Obligations.PacketsActOnTheirExchange : Prop :=
  (∀ port : BitVec 3,
    PacketsAreReceived (.xchCountReceive port) port [pkCount] ∧ PacketsAreReceived (.xchReadyReceive port) port [pkReady] ∧
    PacketsAreReceived (.xchRowReceive port) port [pkOut, pkRet] ∧ PacketsAreReceived (.xchDoneReceive port) port [pkDone] ∧
    PacketsAreReceived (.xchDwReceive port) port [pkDw] ∧ PacketsAreReceived (.xchStaleReceive port) port [pkStale] ∧
    PacketsAreReceived (.xchAbortReceive port) port [pkAbort]) ∧
  PortsGrantTheirBuffers ∧ FailuresEndExchanges ∧ StalePacketsAreAnswered ∧ EarlyPacketsWait ∧ LivePacketsAct

/-- XCH_PACKET_SEND: the first packet that credit and its row's port let go leaves the queue and stands on the port; it costs its units, and
the rest of its row keeps the port. Its bytes fill lanes of 32, the first with SOP and the last with EOP, and zeros fill the last one (R370); it
starts in the lane after the last one sent, and a poisoned payload carries poison (log entry 145). XCH_CREDIT_RETURN adds what the
three channels return (R230, R231, R371). Neither acts on a port that does not drive its signals (R316). -/
def Sys2Proof.PacketsLeaveOnCredit : Prop :=
  (∀ (s : State) (port : BitVec 3), port.toNat < s.cfg.stoves → s.xchAwake port.toNat = false →
    exec (.xchPacketSend port) s = .next s ∧ ∀ ctrl out ret, exec (.xchCreditReturn port ctrl out ret) s = .next s) ∧
  ∀ (s : State) (port : BitVec 3), port.toNat < s.cfg.stoves → s.xchAwake port.toNat = true →
    ((∀ i ∈ s.xch.txQueue, s.maySend port.toNat i = false) → exec (.xchPacketSend port) s = .next s) ∧
    (∀ i, s.xch.txQueue.find? (fun i => s.maySend port.toNat i) = some i →
      ∃ t, exec (.xchPacketSend port) s = .next t ∧
        t = { s with xch := { s.xch with
          txQueue := t.xch.txQueue, txTurn := t.xch.txTurn, txCredits := t.xch.txCredits, sent := t.xch.sent, sentLanes := t.xch.sentLanes } } ∧
        Tab.at none t.xch.sent port.toNat = some i.pkt ∧
        t.credit port.toNat = (s.credit port.toNat).spend i.pkt.vc.toNat (packetUnits i.pkt) ∧
        (∀ q, q ≠ port.toNat → t.credit q = s.credit q ∧ Tab.at none t.xch.sent q = Tab.at none s.xch.sent q ∧
          Tab.at [] t.xch.sentLanes q = Tab.at [] s.xch.sentLanes q) ∧
        t.xch.txQueue.map TxItem.pkt = (s.xch.txQueue.erase i).map TxItem.pkt ∧
        (isRow i.pkt = true → ∀ j ∈ t.xch.txQueue, j.row = i.row → j.port = some port.toNat) ∧
        (isRow i.pkt = false → t.xch.txQueue = s.xch.txQueue.erase i ∧ t.xch.txTurn = s.xch.txTurn) ∧
        let lanes := Tab.at [] t.xch.sentLanes port.toNat
        lanes.length = (32 + i.pkt.len.toNat + 31) / 32 ∧
        (∀ k l, lanes[k]? = some l → l.lane = BitVec.ofNat 2 (s.nextLane port.toNat + k) ∧ l.data.length = 32 ∧ l.vc = i.pkt.vc ∧
          (l.sop = true ↔ k = 0) ∧ (l.eop = true ↔ k + 1 = lanes.length) ∧ (l.poison = true ↔ i.pkt.poison = true ∧ k ≠ 0)) ∧
        (i.pkt.payload.length = i.pkt.len.toNat → (lanes.flatMap TxLane.data).take (32 + i.pkt.len.toNat) = packetBytes i.pkt ∧
          ∀ z ∈ (lanes.flatMap TxLane.data).drop (32 + i.pkt.len.toNat), z = 0#8)) ∧
    ∀ ctrl out ret, ∃ t, exec (.xchCreditReturn port ctrl out ret) s = .next t ∧
      t = { s with xch := { s.xch with txCredits := t.xch.txCredits } } ∧ (∀ q, q ≠ port.toNat → t.credit q = s.credit q) ∧
      t.credit port.toNat = { ctrl := (s.credit port.toNat).ctrl + ctrl.toNat, out := (s.credit port.toNat).out + out.toNat,
                              ret := (s.credit port.toNat).ret + ret.toNat }

/-- POOL_GRANT: without the Transom or the pool port, and with a tag that no request holds, it has no effect; a grant for a set that is no longer
live is released at once; one that fits gives the segment its buffer; one that does not is released and ends the exchange with E_MEM (R225, R226,
R373). A replay that holds grants keeps it (R278). POOL_WARN_CHANGE takes the level, counts an entry into WARN1 or WARN2, and regrants credit
(R232). Both are stated while nothing records them. -/
def Sys2Proof.PoolsGrantAndWarn : Prop :=
  ∀ s : State,
    (∀ tag pool index base, ((s.transomRuns = false ∨ s.poolAwake = false) → exec (.poolGrant tag pool index base) s = .next s) ∧
      (s.transomRuns = true → s.poolAwake = true → s.audit.holdsInput 3 = true → exec (.poolGrant tag pool index base) s = .next
        { s with audit := { s.audit with replayWaiting := s.audit.replayWaiting ++ [.poolGrant tag pool index base] } })) ∧
    (∀ tag pool index base, s.transomRuns = true → s.poolAwake = true → s.audit.holdsInput 3 = false → s.audit.records 3 = false →
      ((∀ r ∈ s.xch.requests, r.tag ≠ tag) → exec (.poolGrant tag pool index base) s = .next s) ∧
      ∀ r, s.xch.requests.find? (fun r => r.tag == tag) = some r → s.xch.unsent = [] →
        let u := { s with xch := { s.xch with requests := s.xch.requests.erase r } }
        let freed := { s with xch := { s.xch with requests := s.xch.requests.erase r, releases := s.xch.releases ++ [(pool, index)] } }
        ((∀ v, s.bufferSet r.set = some v → v.id ≠ r.id) → exec (.poolGrant tag pool index base) s = .next freed) ∧
        ∀ v g, s.bufferSet r.set = some v → v.id = r.id → v.segments[r.segment]? = some g →
          let set' := { v with segments := setNth v.segments r.segment (g.take r.twin index (base.setWidth 64)) }
          let took := { u with xch := { u.xch with sets := Tab.put none s.xch.sets r.set (some set') } }
          (s.grantFits r g.space pool base.toNat = true →
            ((∀ x ∈ s.xch.exchanges, x.closed = true ∨ x.order ≠ r.id) → exec (.poolGrant tag pool index base) s = .next took) ∧
            ∀ x, s.xch.exchanges.find? (fun x => !x.closed && x.order == r.id) = some x →
              exec (.poolGrant tag pool index base) s = .next (took.sendReady x r.set)) ∧
          (s.grantFits r g.space pool base.toNat = false →
            ((∀ x ∈ s.xch.exchanges, x.closed = true ∨ x.order ≠ r.id) → exec (.poolGrant tag pool index base) s = .next freed) ∧
            ∀ x, s.xch.exchanges.find? (fun x => !x.closed && x.order == r.id) = some x →
              exec (.poolGrant tag pool index base) s =
                .next (freed.hardFail x.ring x.pos stMem 0x00FF 7 s.xch.self.toNat true))) ∧
    ∀ warn, (s.transomRuns = false → exec (.poolWarnChange warn) s = .next s) ∧
      (s.transomRuns = true → s.audit.holdsInput 4 = true → exec (.poolWarnChange warn) s = .next
        { s with audit := { s.audit with replayWaiting := s.audit.replayWaiting ++ [.poolWarnChange warn] } }) ∧
      (s.transomRuns = true → s.audit.holdsInput 4 = false → s.audit.records 4 = false → s.xch.exchanges = [] →
        let now := ({ s.xch with warn := warn } : Transom).warnLevel
        exec (.poolWarnChange warn) s = .next (State.regrant { s with xch := { s.xch with
          warn := warn,
          warn1Count := if now = 1 ∧ s.xch.warnLevel ≠ 1 then satInc s.xch.warn1Count else s.xch.warn1Count,
          warn2Count := if now = 2 ∧ s.xch.warnLevel ≠ 2 then satInc s.xch.warn2Count else s.xch.warn2Count } }))

/-- XCH_TIMEOUT: a member from which nothing has come within XCH_TIMEOUT microseconds of the descriptor's issue ends the exchange with
E_ABORTED, DETAIL 3, and XCH_LAST_ERR names it, whether the exchange has started or not; with XCH_TIMEOUT = 0 nothing ends (R235). -/
def Sys2Proof.SilentMembersEndTheExchange : Prop :=
  ∀ (s : State) (combine reverse : Bool) (xid peer : W16),
    let late (start : W64) := 1000 * s.xch.timeout.toNat ≤ (s.audit.count - start).toNat
    let watched := s.transomRuns = true ∧ s.xch.timeout ≠ 0#32 ∧ peer ≠ s.xch.self ∧ peer.toNat ∈ s.chips
    let live := s.xch.exchanges.find? fun x => !x.closed && x.xid == xid && x.combine == combine && x.reverse == reverse
    (¬watched → exec (.xchTimeout combine reverse xid peer) s = .next s) ∧
    (∀ x e, live = some x → s.exchange x.ring x.pos = some x → s.entry x.ring x.pos = some e → e.status = 0#8 → watched →
      ((peer.toNat ∈ x.heard ∨ ¬late x.started) → exec (.xchTimeout combine reverse xid peer) s = .next s) ∧
      (peer.toNat ∉ x.heard → late x.started →
        ∃ t, exec (.xchTimeout combine reverse xid peer) s = .next t ∧ EndsTheExchange s t x.ring x.pos xid stAborted 3 3 peer.toNat)) ∧
    (live = none → watched →
      (s.unstarted xid combine reverse = none → exec (.xchTimeout combine reverse xid peer) s = .next s) ∧
      ∀ n e, s.unstarted xid combine reverse = some (n, e) → s.entry n e.pos = some e → s.exchange n e.pos = none → e.status = 0#8 →
        let came := ∃ q ∈ s.xch.pendingArea,
          q.2.1.srcChip = peer ∧ q.2.1.xid = xid ∧ q.2.1.combine = combine ∧ q.2.1.reverse = reverse
        ((came ∨ ¬late e.issued) → exec (.xchTimeout combine reverse xid peer) s = .next s) ∧
        (¬came → late e.issued →
          ∃ t, exec (.xchTimeout combine reverse xid peer) s = .next t ∧ EndsTheExchange s t n e.pos xid stAborted 3 3 peer.toNat))

/-- XCH_BSET_RELEASE: a number that names no live set counts as a bad release; the release of a set that an issued descriptor reads waits;
any other gives back every buffer of the set at once (R226). -/
def Sys2Proof.ReleasesGiveBuffersBack : Prop :=
  ∀ (s : State) (k : W8), s.sashOpen → s.cfg.hasTransom = true →
    (s.bufferSet k.toNat = none →
      exec (.xchBsetRelease k) s = .next (State.answered { s with xch := { s.xch with badRelease := satInc s.xch.badRelease } })) ∧
    ∀ v, s.bufferSet k.toNat = some v →
      (s.setRead k.toNat = true →
        exec (.xchBsetRelease k) s = .next (State.answered { s with xch := { s.xch with
          sets := Tab.put none s.xch.sets k.toNat (some { v with releasePending := true }) } })) ∧
      (s.setRead k.toNat = false →
        exec (.xchBsetRelease k) s = .next (State.answered { s with xch := { s.xch with
          sets := Tab.put none s.xch.sets k.toNat none,
          unsent := s.xch.unsent.filter fun r => r.id != v.id,
          releases := s.xch.releases ++ v.segments.flatMap fun g =>
            (if g.granted then [(g.pool, g.index)] else []) ++ if g.twinGranted then [(g.pool, g.twinIndex)] else [] } }))

/-- The exchange ports, the pools, and what ends or releases (R225, R226, R230 to R235, R371, R373). -/
def Obligations.CreditPoolsTimeoutsAndReleases : Prop :=
  PacketsLeaveOnCredit ∧ PoolsGrantAndWarn ∧ SilentMembersEndTheExchange ∧ ReleasesGiveBuffersBack
end

