-- ==== Sys2Proof/Laws/Tab.lean ====
section
/-! SUPPORT. Laws of sparse tables and memories: what a read gives after a write, and that every operation keeps the canonical form. -/

namespace Sys2Proof.Machine

variable {α : Type} [DecidableEq α]

/-! ### The canonical form -/

theorem Tab.wf_iff (d : α) (t : Tab α) :
    Tab.wf d t = true ↔ (∀ p ∈ t, p.2 ≠ d) ∧ t.Pairwise (fun p q => p.1 < q.1) := by
  induction t with
  | nil => simp [Tab.wf]
  | cons p rest ih =>
    cases rest with
    | nil => simp [Tab.wf]
    | cons q rest =>
      simp only [Tab.wf, Bool.and_eq_true, decide_eq_true_eq, ih, List.pairwise_cons, List.mem_cons, forall_eq_or_imp]
      constructor
      · rintro ⟨⟨hp, hpq⟩, ⟨hq, ha⟩, hr, hs⟩
        exact ⟨⟨hp, hq, ha⟩, ⟨hpq, fun x hx => lt_trans hpq (hr x hx)⟩, hr, hs⟩
      · rintro ⟨⟨hp, hq, ha⟩, ⟨hpq, _⟩, hr, hs⟩
        exact ⟨⟨hp, hpq⟩, ⟨hq, ha⟩, hr, hs⟩

theorem Tab.wf_nil (d : α) : Tab.wf d ([] : Tab α) = true := rfl

theorem Tab.wf_filter {d : α} {t : Tab α} (f : Nat × α → Bool) (h : Tab.wf d t = true) : Tab.wf d (t.filter f) = true := by
  rw [Tab.wf_iff] at h ⊢
  exact ⟨fun p hp => h.1 p (List.mem_of_mem_filter hp), h.2.sublist List.filter_sublist⟩

theorem Tab.wf_drop {d : α} {t : Tab α} (k : Nat) (h : Tab.wf d t = true) : Tab.wf d (Tab.drop t k) = true := Tab.wf_filter _ h

theorem Tab.wf_keep {d : α} {t : Tab α} (f : Nat → Bool) (h : Tab.wf d t = true) : Tab.wf d (Tab.keep t f) = true := Tab.wf_filter _ h

omit [DecidableEq α] in
theorem Tab.mem_insert (k : Nat) (v : α) (t : Tab α) (p : Nat × α) : p ∈ Tab.insert k v t ↔ p = (k, v) ∨ p ∈ t := by
  induction t with
  | nil => simp [Tab.insert]
  | cons q rest ih =>
    unfold Tab.insert
    split
    · simp only [List.mem_cons]
    · simp only [List.mem_cons, ih]; tauto

theorem Tab.wf_insert {d : α} {t : Tab α} {k : Nat} {v : α} (hv : v ≠ d) (hk : ∀ p ∈ t, p.1 ≠ k) (h : Tab.wf d t = true) :
    Tab.wf d (Tab.insert k v t) = true := by
  rw [Tab.wf_iff] at h ⊢
  refine ⟨fun p hp => ?_, ?_⟩
  · rcases (Tab.mem_insert k v t p).1 hp with rfl | hp
    · exact hv
    · exact h.1 p hp
  · obtain ⟨-, hs⟩ := h
    induction t with
    | nil => simp [Tab.insert]
    | cons q rest ih =>
      rw [List.pairwise_cons] at hs
      unfold Tab.insert
      split
      · rename_i hlt
        exact List.pairwise_cons.2 ⟨fun p hp => by
          rcases List.mem_cons.1 hp with rfl | hp
          · exact hlt
          · exact lt_trans hlt (hs.1 p hp), List.pairwise_cons.2 hs⟩
      · rename_i hlt
        have hq : q.1 ≠ k := hk q (List.mem_cons_self ..)
        refine List.pairwise_cons.2 ⟨fun p hp => ?_, ih (fun p hp => hk p (List.mem_cons_of_mem _ hp)) hs.2⟩
        rcases (Tab.mem_insert k v rest p).1 hp with rfl | hp
        · simp only at hlt ⊢; omega
        · exact hs.1 p hp

theorem Tab.wf_put {d : α} {t : Tab α} (k : Nat) (v : α) (h : Tab.wf d t = true) : Tab.wf d (Tab.put d t k v) = true := by
  unfold Tab.put
  split
  · exact Tab.wf_drop k h
  · refine Tab.wf_insert (by assumption) (fun p hp => ?_) (Tab.wf_drop k h)
    simpa [Tab.drop] using (List.mem_filter.1 hp).2

theorem Tab.wf_remap {d : α} {t : Tab α} (f : α → α) (h : Tab.wf d t = true) : Tab.wf d (Tab.remap d t f) = true := by
  rw [Tab.wf_iff] at h ⊢
  refine ⟨fun p hp => by simpa using (List.mem_filter.1 hp).2, ?_⟩
  exact (List.pairwise_map.2 (by simpa using h.2)).sublist List.filter_sublist

theorem Tab.mem_ofList {d : α} {a : Nat} {vs : List α} {p : Nat × α} (h : p ∈ Tab.ofList d a vs) :
    p.2 ≠ d ∧ a ≤ p.1 ∧ p.1 < a + vs.length := by
  induction vs generalizing a with
  | nil => simp [Tab.ofList] at h
  | cons v vs ih =>
    unfold Tab.ofList at h
    simp only [List.length_cons]
    split at h
    · obtain ⟨h1, h2, h3⟩ := ih h
      exact ⟨h1, by omega, by omega⟩
    · rcases List.mem_cons.1 h with rfl | h
      · exact ⟨by assumption, by simp, by simp⟩
      · obtain ⟨h1, h2, h3⟩ := ih h
        exact ⟨h1, by omega, by omega⟩

theorem Tab.wf_ofList (d : α) (a : Nat) (vs : List α) : Tab.wf d (Tab.ofList d a vs) = true := by
  rw [Tab.wf_iff]
  refine ⟨fun p hp => (Tab.mem_ofList hp).1, ?_⟩
  induction vs generalizing a with
  | nil => simp [Tab.ofList]
  | cons v vs ih =>
    unfold Tab.ofList
    split
    · exact ih _
    · exact List.pairwise_cons.2 ⟨fun p hp => by have := (Tab.mem_ofList hp).2.1; simp only; omega, ih _⟩

theorem Tab.wf_splice {d : α} {t : Tab α} (a : Nat) (vs : List α) (h : Tab.wf d t = true) :
    Tab.wf d (Tab.splice d t a vs) = true := by
  have h0 := h
  rw [Tab.wf_iff] at h0
  have hlo := (Tab.wf_iff d _).1 (Tab.wf_filter (fun p => decide (p.1 < a)) h)
  have hhi := (Tab.wf_iff d _).1 (Tab.wf_filter (fun p => decide (a + vs.length ≤ p.1)) h)
  have hmid := (Tab.wf_iff d _).1 (Tab.wf_ofList d a vs)
  rw [Tab.wf_iff]
  unfold Tab.splice
  refine ⟨fun p hp => ?_, ?_⟩
  · simp only [List.append_assoc, List.mem_append] at hp
    rcases hp with hp | hp | hp
    · exact hlo.1 p hp
    · exact hmid.1 p hp
    · exact hhi.1 p hp
  · rw [List.append_assoc, List.pairwise_append, List.pairwise_append]
    refine ⟨hlo.2, ⟨hmid.2, hhi.2, fun p hp q hq => ?_⟩, fun p hp q hq => ?_⟩
    · have := (Tab.mem_ofList hp).2.2
      have := (List.mem_filter.1 hq).2
      simp only [decide_eq_true_eq] at this
      omega
    · have h1 := (List.mem_filter.1 hp).2
      simp only [decide_eq_true_eq] at h1
      rcases List.mem_append.1 hq with hq | hq
      · have := (Tab.mem_ofList hq).2.1
        omega
      · have := (List.mem_filter.1 hq).2
        simp only [decide_eq_true_eq] at this
        omega

/-! ### Reads after writes -/

omit [DecidableEq α] in
theorem Tab.at_of_forall_ne {d : α} {t : Tab α} {k : Nat} (h : ∀ p ∈ t, p.1 ≠ k) : Tab.at d t k = d := by
  induction t with
  | nil => rfl
  | cons p rest ih =>
    simp only [Tab.at]
    rw [if_neg (h p (List.mem_cons_self ..))]
    exact ih fun q hq => h q (List.mem_cons_of_mem _ hq)

omit [DecidableEq α] in
theorem Tab.at_filter {d : α} {t : Tab α} {k : Nat} (f : Nat → Bool) :
    Tab.at d (t.filter fun p => f p.1) k = if f k then Tab.at d t k else d := by
  induction t with
  | nil => simp [Tab.at]
  | cons p rest ih =>
    by_cases hp : p.1 = k
    · subst hp
      by_cases hf : f p.1
      · simp [Tab.at, hf]
      · simp [hf] at ih ⊢
        exact ih
    · by_cases hf : f p.1 <;> simp [Tab.at, hf, hp, ih]

omit [DecidableEq α] in
theorem Tab.at_insert {d : α} {t : Tab α} (k j : Nat) (v : α) (hk : ∀ p ∈ t, p.1 ≠ k) :
    Tab.at d (Tab.insert k v t) j = if j = k then v else Tab.at d t j := by
  induction t with
  | nil => simp [Tab.insert, Tab.at, eq_comm]
  | cons p rest ih =>
    have hp := hk p (List.mem_cons_self ..)
    have ih := ih fun q hq => hk q (List.mem_cons_of_mem _ hq)
    unfold Tab.insert
    split
    · simp [Tab.at, eq_comm]
    · simp only [Tab.at, ih]
      by_cases h1 : p.1 = j
      · subst h1; simp [hp]
      · simp [h1]

/-- A table after a write: the value at its key, and every other value as before. -/
theorem Tab.at_put {d : α} {t : Tab α} (k j : Nat) (v : α) : Tab.at d (Tab.put d t k v) j = if j = k then v else Tab.at d t j := by
  have hdrop : Tab.at d (Tab.drop t k) j = if j = k then d else Tab.at d t j := by
    have := Tab.at_filter (d := d) (t := t) (k := j) (fun i => i != k)
    simp only [Tab.drop, this]
    by_cases h : j = k <;> simp [h]
  unfold Tab.put
  split
  · rename_i hv
    rw [hdrop, hv]
  · rw [Tab.at_insert k j v (fun p hp => by simpa [Tab.drop] using (List.mem_filter.1 hp).2), hdrop]
    by_cases h : j = k <;> simp [h]

@[simp] theorem Tab.at_put_self {d : α} {t : Tab α} (k : Nat) (v : α) : Tab.at d (Tab.put d t k v) k = v := by simp [Tab.at_put]

theorem Tab.at_put_ne {d : α} {t : Tab α} {k j : Nat} (v : α) (h : j ≠ k) : Tab.at d (Tab.put d t k v) j = Tab.at d t j := by
  simp [Tab.at_put, h]

omit [DecidableEq α] in
theorem Tab.at_append {d : α} {t u : Tab α} {k : Nat} (h : ∀ p ∈ t, p.1 ≠ k) : Tab.at d (t ++ u) k = Tab.at d u k := by
  induction t with
  | nil => rfl
  | cons p rest ih =>
    simp only [List.cons_append, Tab.at]
    rw [if_neg (h p (List.mem_cons_self ..))]
    exact ih fun q hq => h q (List.mem_cons_of_mem _ hq)

omit [DecidableEq α] in
theorem Tab.at_append_left {d : α} {t u : Tab α} {k : Nat} (h : ∀ p ∈ u, p.1 ≠ k) : Tab.at d (t ++ u) k = Tab.at d t k := by
  induction t with
  | nil => simpa [Tab.at] using Tab.at_of_forall_ne h
  | cons p rest ih => simp only [List.cons_append, Tab.at, ih]

theorem Tab.at_ofList {d : α} (a : Nat) (vs : List α) (i : Nat) (h : i < vs.length) : Tab.at d (Tab.ofList d a vs) (a + i) = vs[i] := by
  induction vs generalizing a i with
  | nil => simp at h
  | cons v vs ih =>
    cases i with
    | zero =>
      unfold Tab.ofList
      split
      · rename_i hv
        simp only [Nat.add_zero, List.getElem_cons_zero]
        rw [Tab.at_of_forall_ne (fun p hp => by have := (Tab.mem_ofList hp).2.1; omega), hv]
      · simp [Tab.at]
    | succ i =>
      have ih := ih (a + 1) i (by simpa using h)
      have e : a + 1 + i = a + (i + 1) := by omega
      rw [e] at ih
      unfold Tab.ofList
      split
      · simpa using ih
      · simp only [Tab.at]
        rw [if_neg (by omega)]
        simpa using ih

/-- A table after a run of consecutive values: outside the run, every value as before. -/
theorem Tab.at_splice_of_not {d : α} {t : Tab α} {a k : Nat} {vs : List α} (h : k < a ∨ a + vs.length ≤ k) :
    Tab.at d (Tab.splice d t a vs) k = Tab.at d t k := by
  have hmid : ∀ p ∈ Tab.ofList d a vs, p.1 ≠ k := fun p hp => by
    have := (Tab.mem_ofList hp).2
    omega
  unfold Tab.splice
  rw [List.append_assoc]
  rcases h with h | h
  · rw [Tab.at_append_left, Tab.at_filter (fun i => decide (i < a))]
    · simp [h]
    · intro p hp
      rcases List.mem_append.1 hp with hp | hp
      · exact hmid p hp
      · have := (List.mem_filter.1 hp).2
        simp only [decide_eq_true_eq] at this
        omega
  · rw [Tab.at_append, Tab.at_append hmid, Tab.at_filter (fun i => decide (a + vs.length ≤ i))]
    · simp [h]
    · intro p hp
      have := (List.mem_filter.1 hp).2
      simp only [decide_eq_true_eq] at this
      omega

/-- A table after a run of consecutive values: the run reads back. -/
theorem Tab.at_splice {d : α} {t : Tab α} (a : Nat) (vs : List α) (i : Nat) (h : i < vs.length) :
    Tab.at d (Tab.splice d t a vs) (a + i) = vs[i] := by
  unfold Tab.splice
  rw [List.append_assoc, Tab.at_append, Tab.at_append_left, Tab.at_ofList a vs i h]
  · intro p hp
    have := (List.mem_filter.1 hp).2
    simp only [decide_eq_true_eq] at this
    omega
  · intro p hp
    have := (List.mem_filter.1 hp).2
    simp only [decide_eq_true_eq] at this
    omega

/-! ### Memories -/

theorem Memory.wf_write {m : Memory} (a : Nat) (b : W8) (h : Memory.wf m = true) : Memory.wf (m.write a b) = true := Tab.wf_put a b h

theorem Memory.wf_store {m : Memory} (a : Nat) (bs : List W8) (h : Memory.wf m = true) : Memory.wf (m.store a bs) = true :=
  Tab.wf_splice a bs h

theorem Memory.wf_zero {m : Memory} (a n : Nat) (h : Memory.wf m = true) : Memory.wf (m.zero a n) = true := Tab.wf_keep _ h

theorem Memory.byte_write (m : Memory) (a k : Nat) (b : W8) : (m.write a b).byte k = if k = a then b else m.byte k := Tab.at_put a k b

theorem Memory.byte_store_of_not {m : Memory} {a k : Nat} {bs : List W8} (h : k < a ∨ a + bs.length ≤ k) :
    (m.store a bs).byte k = m.byte k := Tab.at_splice_of_not h

theorem Memory.byte_store (m : Memory) (a : Nat) (bs : List W8) (i : Nat) (h : i < bs.length) :
    (m.store a bs).byte (a + i) = bs[i] := Tab.at_splice a bs i h

theorem Memory.byte_zero (m : Memory) (a n k : Nat) :
    (m.zero a n).byte k = if a ≤ k ∧ k < a + n then Memory.unlisted else m.byte k := by
  have := Tab.at_filter (d := Memory.unlisted) (t := m) (k := k) (fun i => decide (i < a) || decide (a + n ≤ i))
  simp only [Memory.byte, Memory.zero, Tab.keep, this]
  by_cases h1 : a ≤ k <;> by_cases h2 : k < a + n <;> simp [h1, h2]

end Sys2Proof.Machine
end

