-- ==== Sys2Proof/Laws/Keeps.lean ====
section
/-! SUPPORT. What every operation over the state keeps: the configuration (R382), the queue, a blown life-cycle fuse, and
the canonical form of host memory and of the Mantel. One lemma for each operation. -/

namespace Sys2Proof.Machine

/-- What no operation but the step itself changes, and the memories' canonical form, kept. -/
structure Keeps (s t : State) : Prop where
  cfg : t.cfg = s.cfg
  pending : t.pending = s.pending
  fuses : ∀ b, s.vault.lcFuse.getLsbD b = true → t.vault.lcFuse.getLsbD b = true
  host : Memory.wf s.host = true → Memory.wf t.host = true
  mantel : Memory.wf s.mantel = true → Memory.wf t.mantel = true

theorem keeps_iff (s t : State) : Keeps s t ↔ t.cfg = s.cfg ∧ t.pending = s.pending ∧
    (∀ b, s.vault.lcFuse.getLsbD b = true → t.vault.lcFuse.getLsbD b = true) ∧
    (Memory.wf s.host = true → Memory.wf t.host = true) ∧ (Memory.wf s.mantel = true → Memory.wf t.mantel = true) :=
  ⟨fun h => ⟨h.1, h.2, h.3, h.4, h.5⟩, fun h => ⟨h.1, h.2.1, h.2.2.1, h.2.2.2.1, h.2.2.2.2⟩⟩

theorem Keeps.refl (s : State) : Keeps s s := ⟨rfl, rfl, fun _ h => h, id, id⟩

theorem Keeps.trans {s t u : State} (h : Keeps s t) (k : Keeps t u) : Keeps s u := by
  grind -ring -linarith -lia -ac -order [keeps_iff]

theorem Keeps.foldl {β : Type} {f : State → β → State} (h : ∀ s b, Keeps s (f s b)) (l : List β) (s : State) : Keeps s (l.foldl f s) := by
  induction l generalizing s with
  | nil => exact Keeps.refl s
  | cons b l ih => exact (h s b).trans (ih _)

theorem Keeps.foldlPair {β γ : Type} {f : State × γ → β → State × γ} (h : ∀ p b, Keeps p.1 (f p b).1) (l : List β) (p : State × γ) :
    Keeps p.1 (List.foldl f p l).1 := by
  induction l generalizing p with
  | nil => exact Keeps.refl p.1
  | cons b l ih => exact (h p b).trans (ih _)

theorem Keeps.ite {s t u : State} {c : Prop} [Decidable c] (h : Keeps s t) (k : Keeps s u) : Keeps s (if c then t else u) := by
  split
  · exact h
  · exact k

grind_pattern Memory.wf_store => Memory.store m a bs
grind_pattern Memory.wf_zero => Memory.zero m a n
grind_pattern Keeps.foldl => List.foldl f s l

/-! ### Named operations -/

theorem State.setRing_keeps (s : State) (n : Nat) (r : Ring) : Keeps s (State.setRing s n r) := by
  grind -ring -linarith -lia -ac -order [State.setRing, keeps_iff]

grind_pattern State.setRing_keeps => State.setRing s n r

theorem State.modRing_keeps (s : State) (n : Nat) (f : Ring → Ring) : Keeps s (State.modRing s n f) := by
  grind -ring -linarith -lia -ac -order [State.modRing, keeps_iff]

grind_pattern State.modRing_keeps => State.modRing s n f

theorem State.setHearth_keeps (s : State) (h : Nat) (x : Hearth) : Keeps s (State.setHearth s h x) := by
  grind -ring -linarith -lia -ac -order [State.setHearth, keeps_iff]

grind_pattern State.setHearth_keeps => State.setHearth s h x

theorem State.modHearth_keeps (s : State) (h : Nat) (f : Hearth → Hearth) : Keeps s (State.modHearth s h f) := by
  grind -ring -linarith -lia -ac -order [State.modHearth, keeps_iff]

grind_pattern State.modHearth_keeps => State.modHearth s h f

theorem State.setPort_keeps (s : State) (p : Nat) (x : Port) : Keeps s (State.setPort s p x) := by
  grind -ring -linarith -lia -ac -order [State.setPort, keeps_iff]

grind_pattern State.setPort_keeps => State.setPort s p x

theorem State.setStove_keeps (s : State) (v : Nat) (x : Stove) : Keeps s (State.setStove s v x) := by
  grind -ring -linarith -lia -ac -order [State.setStove, keeps_iff]

grind_pattern State.setStove_keeps => State.setStove s v x

theorem State.draw64_keeps (s : State) : Keeps s s.draw64.2 := ⟨rfl, rfl, fun _ h => h, id, id⟩

grind_pattern State.draw64_keeps => s.draw64

theorem State.drawBytes_keeps (s : State) (n : Nat) : Keeps s (s.drawBytes n).2 := ⟨rfl, rfl, fun _ h => h, id, id⟩

grind_pattern State.drawBytes_keeps => s.drawBytes n

theorem State.storeHost_keeps (s : State) (a : Nat) (bytes : List W8) (poisoned : Bool) : Keeps s (State.storeHost s a bytes poisoned) := by
  grind -ring -linarith -lia -ac -order [State.storeHost, keeps_iff]

grind_pattern State.storeHost_keeps => State.storeHost s a bytes poisoned

theorem State.performRequest_keeps (s : State) (r : Request) : Keeps s (State.performRequest s r) := by
  grind -ring -linarith -lia -ac -order [State.performRequest, keeps_iff]

grind_pattern State.performRequest_keeps => State.performRequest s r

theorem State.dispatchRequest_keeps (s : State) (p : Nat) (r : Request) (shared : Bool) : Keeps s (State.dispatchRequest s p r shared) := by
  grind -ring -linarith -lia -ac -order [State.dispatchRequest, keeps_iff]

grind_pattern State.dispatchRequest_keeps => State.dispatchRequest s p r shared

theorem State.pumpList_keeps (p : Nat) (l : List Request) (s : State) : Keeps s (State.pumpList p l s) := by
  induction l generalizing s with
  | nil => exact Keeps.refl s
  | cons r rest ih => grind -ring -linarith -lia -ac -order [State.pumpList, keeps_iff]

grind_pattern State.pumpList_keeps => State.pumpList p l s

theorem State.pump_keeps (s : State) (p : Nat) : Keeps s (State.pump s p) := by
  grind -ring -linarith -lia -ac -order [State.pump, keeps_iff]

grind_pattern State.pump_keeps => State.pump s p

theorem State.request_keeps (s : State) (p : Nat) (r : Request) : Keeps s (State.request s p r) := by
  grind -ring -linarith -lia -ac -order [State.request, keeps_iff]

grind_pattern State.request_keeps => State.request s p r

theorem State.logError_keeps (s : State) (e : ErrorEvent) : Keeps s (State.logError s e) := by
  grind -ring -linarith -lia -ac -order [State.logError, keeps_iff]

grind_pattern State.logError_keeps => State.logError s e

theorem State.irqLost_keeps (s : State) (port vec response : Nat) (addr : Nat) : Keeps s (State.irqLost s port vec response addr) := by
  grind -ring -linarith -lia -ac -order [State.irqLost, keeps_iff]

grind_pattern State.irqLost_keeps => State.irqLost s port vec response addr

theorem State.message_keeps (s : State) (v : Nat) (cls : BitVec 2) : Keeps s (State.message s v cls) := by
  grind -ring -linarith -lia -ac -order [State.message, keeps_iff]

grind_pattern State.message_keeps => State.message s v cls

theorem State.eventFlag_keeps (s : State) (b : Nat) : Keeps s (State.eventFlag s b) := by
  grind -ring -linarith -lia -ac -order [State.eventFlag, keeps_iff]

grind_pattern State.eventFlag_keeps => State.eventFlag s b

theorem State.event_keeps (s : State) (e : BlockEvent) (source detail : Nat) : Keeps s (State.event s e source detail) := by
  grind -ring -linarith -lia -ac -order [State.event, keeps_iff]

grind_pattern State.event_keeps => State.event s e source detail

theorem State.spoilHost_keeps (s : State) (a n : Nat) : Keeps s (State.spoilHost s a n) := by
  grind -ring -linarith -lia -ac -order [State.spoilHost, keeps_iff]

grind_pattern State.spoilHost_keeps => State.spoilHost s a n

/-! ### Rings -/

theorem State.putRecord_keeps (s : State) (kind source : Nat) (data : W64) (digest : W64) : Keeps s (State.putRecord s kind source data digest) := by
  grind -ring -linarith -lia -ac -order [State.putRecord, keeps_iff]

grind_pattern State.putRecord_keeps => State.putRecord s kind source data digest

theorem State.putGap_keeps (s : State) : Keeps s (State.putGap s) := by
  grind -ring -linarith -lia -ac -order [State.putGap, keeps_iff]

grind_pattern State.putGap_keeps => State.putGap s

theorem State.recordInput_keeps (s : State) (kind source : Nat) (data : W64) (bytes : List W8) : Keeps s (State.recordInput s kind source data bytes) := by
  grind -ring -linarith -lia -ac -order [State.recordInput, keeps_iff]

grind_pattern State.recordInput_keeps => State.recordInput s kind source data bytes

theorem State.modEntry_keeps (s : State) (n : Nat) (pos : W32) (f : Entry → Entry) : Keeps s (State.modEntry s n pos f) := by
  grind -ring -linarith -lia -ac -order [State.modEntry, keeps_iff]

grind_pattern State.modEntry_keeps => State.modEntry s n pos f

theorem State.raise_keeps (s : State) (n : Nat) (pos : W32) (flags : Nat) : Keeps s (State.raise s n pos flags) := by
  grind -ring -linarith -lia -ac -order [State.raise, keeps_iff]

grind_pattern State.raise_keeps => State.raise s n pos flags

theorem State.fail_keeps (s : State) (n : Nat) (pos : W32) (status detail : Nat) : Keeps s (State.fail s n pos status detail) := by
  grind -ring -linarith -lia -ac -order [State.fail, keeps_iff]

grind_pattern State.fail_keeps => State.fail s n pos status detail

theorem State.finish_keeps (s : State) (n : Nat) (pos : W32) : Keeps s (State.finish s n pos) := by
  grind -ring -linarith -lia -ac -order [State.finish, keeps_iff]

grind_pattern State.finish_keeps => State.finish s n pos

theorem State.advance_keeps (s : State) (n : Nat) (pos : W32) (shares : List (Nat × Nat)) (h k total : Nat) : Keeps s (State.advance s n pos shares h k total) := by
  grind -ring -linarith -lia -ac -order [State.advance, keeps_iff]

grind_pattern State.advance_keeps => State.advance s n pos shares h k total

theorem State.finishWith_keeps (s : State) (n : Nat) (pos : W32) (status detail : Nat) : Keeps s (State.finishWith s n pos status detail) := by
  grind -ring -linarith -lia -ac -order [State.finishWith, keeps_iff]

grind_pattern State.finishWith_keeps => State.finishWith s n pos status detail

theorem State.ringFault_keeps (s : State) (n cause : Nat) : Keeps s (State.ringFault s n cause) := by
  grind -ring -linarith -lia -ac -order [State.ringFault, keeps_iff]

grind_pattern State.ringFault_keeps => State.ringFault s n cause

theorem State.forgetReads_keeps (s : State) (n : Nat) : Keeps s (State.forgetReads s n) := by
  grind -ring -linarith -lia -ac -order [State.forgetReads, keeps_iff]

grind_pattern State.forgetReads_keeps => State.forgetReads s n

theorem State.ringEnable_keeps (s : State) (n : Nat) : Keeps s (State.ringEnable s n) := by
  grind -ring -linarith -lia -ac -order [State.ringEnable, keeps_iff]

grind_pattern State.ringEnable_keeps => State.ringEnable s n

theorem State.ringDisable_keeps (s : State) (n : Nat) : Keeps s (State.ringDisable s n) := by
  grind -ring -linarith -lia -ac -order [State.ringDisable, keeps_iff]

grind_pattern State.ringDisable_keeps => State.ringDisable s n

theorem State.writeRingCfg_keeps (s : State) (n v : Nat) : Keeps s (State.writeRingCfg s n v) := by
  grind -ring -linarith -lia -ac -order [State.writeRingCfg, keeps_iff]

grind_pattern State.writeRingCfg_keeps => State.writeRingCfg s n v

theorem State.ringResume_keeps (s : State) (n : Nat) : Keeps s (State.ringResume s n) := by
  grind -ring -linarith -lia -ac -order [State.ringResume, keeps_iff]

grind_pattern State.ringResume_keeps => State.ringResume s n

theorem State.takeDoorbell_keeps (s : State) (n : Nat) (t : W32) : Keeps s (State.takeDoorbell s n t) := by
  grind -ring -linarith -lia -ac -order [State.takeDoorbell, keeps_iff]

grind_pattern State.takeDoorbell_keeps => State.takeDoorbell s n t

theorem State.doorbell_keeps (s : State) (n : Nat) (t : W32) : Keeps s (State.doorbell s n t) := by
  grind -ring -linarith -lia -ac -order [State.doorbell, keeps_iff]

grind_pattern State.doorbell_keeps => State.doorbell s n t

theorem State.takeWithheld_keeps (n k : Nat) (s : State) : Keeps s (State.takeWithheld n k s) := by
  induction k generalizing s with
  | zero => exact Keeps.refl s
  | succ k ih => grind -ring -linarith -lia -ac -order [State.takeWithheld, keeps_iff]

grind_pattern State.takeWithheld_keeps => State.takeWithheld n k s

theorem State.takeHeld_keeps (s : State) : Keeps s (State.takeHeld s) := by
  grind -ring -linarith -lia -ac -order [State.takeHeld, keeps_iff]

grind_pattern State.takeHeld_keeps => State.takeHeld s

theorem State.settleReadFault_keeps (s : State) (n : Nat) : Keeps s (State.settleReadFault s n) := by
  grind -ring -linarith -lia -ac -order [State.settleReadFault, keeps_iff]

grind_pattern State.settleReadFault_keeps => State.settleReadFault s n

theorem State.arriveDescriptors_keeps (s : State) (n : Nat) (pos burstEnd : W32) (count : Nat) (data : List W8) : Keeps s (State.arriveDescriptors s n pos burstEnd count data) := by
  grind -ring -linarith -lia -ac -order [State.arriveDescriptors, keeps_iff]

grind_pattern State.arriveDescriptors_keeps => State.arriveDescriptors s n pos burstEnd count data

theorem State.readFailed_keeps (s : State) (n : Nat) (pos burstEnd : W32) (port : Nat) : Keeps s (State.readFailed s n pos burstEnd port) := by
  grind -ring -linarith -lia -ac -order [State.readFailed, keeps_iff]

grind_pattern State.readFailed_keeps => State.readFailed s n pos burstEnd port

theorem State.fetchBurst_keeps (s : State) (n : Nat) : Keeps s (State.fetchBurst s n) := by
  grind -ring -linarith -lia -ac -order [State.fetchBurst, keeps_iff]

grind_pattern State.fetchBurst_keeps => State.fetchBurst s n

theorem State.fetch_keeps (s : State) : Keeps s (State.fetch s) := by
  grind -ring -linarith -lia -ac -order [State.fetch, keeps_iff]

grind_pattern State.fetch_keeps => State.fetch s

theorem State.recordFailed_keeps (s : State) (n : Nat) (pos : W32) (port : Nat) : Keeps s (State.recordFailed s n pos port) := by
  grind -ring -linarith -lia -ac -order [State.recordFailed, keeps_iff]

grind_pattern State.recordFailed_keeps => State.recordFailed s n pos port

theorem State.errStop_keeps (s : State) (n : Nat) (e : Entry) : Keeps s (State.errStop s n e) := by
  grind -ring -linarith -lia -ac -order [State.errStop, keeps_iff]

grind_pattern State.errStop_keeps => State.errStop s n e

theorem State.sendRecord_keeps (s : State) (n : Nat) (e : Entry) : Keeps s (State.sendRecord s n e) := by
  grind -ring -linarith -lia -ac -order [State.sendRecord, keeps_iff]

grind_pattern State.sendRecord_keeps => State.sendRecord s n e

theorem State.writeRecord_keeps (s : State) (n : Nat) (e : Entry) : Keeps s (State.writeRecord s n e) := by
  grind -ring -linarith -lia -ac -order [State.writeRecord, keeps_iff]

grind_pattern State.writeRecord_keeps => State.writeRecord s n e

theorem State.completionRecord_keeps (s : State) (n : Nat) (pos : W32) : Keeps s (State.completionRecord s n pos) := by
  grind -ring -linarith -lia -ac -order [State.completionRecord, keeps_iff]

grind_pattern State.completionRecord_keeps => State.completionRecord s n pos

/-! ### The Seal -/

theorem State.deny_keeps (s : State) : Keeps s (State.deny s) := by
  grind -ring -linarith -lia -ac -order [State.deny, keeps_iff]

grind_pattern State.deny_keeps => State.deny s

theorem State.drbg_keeps (s : State) : Keeps s s.drbg.2 := by
  grind -ring -linarith -lia -ac -order [State.drbg, keeps_iff]

grind_pattern State.drbg_keeps => s.drbg

theorem State.endSessions_keeps (s : State) : Keeps s (State.endSessions s) := by
  grind -ring -linarith -lia -ac -order [State.endSessions, keeps_iff]

grind_pattern State.endSessions_keeps => State.endSessions s

theorem State.zeroiseKeys_keeps (s : State) : Keeps s (State.zeroiseKeys s) := by
  grind -ring -linarith -lia -ac -order [State.zeroiseKeys, keeps_iff]

grind_pattern State.zeroiseKeys_keeps => State.zeroiseKeys s

theorem State.eraseKeys_keeps (s : State) : Keeps s (State.eraseKeys s) := by
  grind -ring -linarith -lia -ac -order [State.eraseKeys, keeps_iff]

grind_pattern State.eraseKeys_keeps => State.eraseKeys s

theorem State.freshNonce_keeps (s : State) : Keeps s (State.freshNonce s) := by
  grind -ring -linarith -lia -ac -order [State.freshNonce, keeps_iff]

grind_pattern State.freshNonce_keeps => State.freshNonce s

theorem State.sealRange_keeps (s : State) (n : Nat) (role : Option Nat) (space lo len : Nat) : Keeps s (State.sealRange s n role space lo len) := by
  grind -ring -linarith -lia -ac -order [State.sealRange, keeps_iff]

grind_pattern State.sealRange_keeps => State.sealRange s n role space lo len

theorem State.sealWritten_keeps (s : State) (n space lo : Nat) (bytes : List W8) : Keeps s (State.sealWritten s n space lo bytes) := by
  grind -ring -linarith -lia -ac -order [State.sealWritten, keeps_iff]

grind_pattern State.sealWritten_keeps => State.sealWritten s n space lo bytes

theorem State.lcEnd_keeps (s : State) (res : Nat) : Keeps s (State.lcEnd s res) := by
  grind -ring -linarith -lia -ac -order [State.lcEnd, keeps_iff]

grind_pattern State.lcEnd_keeps => State.lcEnd s res

theorem State.forgetAuthorisation_keeps (s : State) : Keeps s (State.forgetAuthorisation s) := by
  grind -ring -linarith -lia -ac -order [State.forgetAuthorisation, keeps_iff]

grind_pattern State.forgetAuthorisation_keeps => State.forgetAuthorisation s

theorem State.lcRead_keeps (s : State) (intact : Bool) : Keeps s (State.lcRead s intact) := by
  grind -ring -linarith -lia -ac -order [State.lcRead, keeps_iff]

grind_pattern State.lcRead_keeps => State.lcRead s intact

theorem State.sealRefused_keeps (s : State) (a : Nat) : Keeps s (State.sealRefused s a) := by
  grind -ring -linarith -lia -ac -order [State.sealRefused, keeps_iff]

grind_pattern State.sealRefused_keeps => State.sealRefused s a

theorem State.sealRead_keeps (s : State) (a n : Nat) (purpose : Purpose) (lost : State → State) (k : ∀ t, Keeps t (lost t)) : Keeps s (State.sealRead s a n purpose lost) := by
  unfold State.sealRead
  exact Keeps.ite ((State.sealRefused_keeps ..).trans (k _)) (Keeps.foldl (fun s g => State.request_keeps ..) _ _)

grind_pattern State.sealRead_keeps => State.sealRead s a n purpose lost

theorem State.lcGo_keeps (s : State) (target : BitVec 3) : Keeps s (State.lcGo s target) := by
  grind -ring -linarith -lia -ac -order [State.lcGo, keeps_iff]

grind_pattern State.lcGo_keeps => State.lcGo s target

theorem State.keyGo_keeps (s : State) (index : BitVec 3) : Keeps s (State.keyGo s index) := by
  grind -ring -linarith -lia -ac -order [State.keyGo, keeps_iff]

grind_pattern State.keyGo_keeps => State.keyGo s index

theorem State.writePolicy_keeps (s : State) (d : W64) : Keeps s (State.writePolicy s d) := by
  grind -ring -linarith -lia -ac -order [State.writePolicy, keeps_iff]

grind_pattern State.writePolicy_keeps => State.writePolicy s d

theorem State.attIdle_keeps (s : State) (r : BitVec 4) : Keeps s (State.attIdle s r) := by
  grind -ring -linarith -lia -ac -order [State.attIdle, keeps_iff]

grind_pattern State.attIdle_keeps => State.attIdle s r

theorem State.reportFault_keeps (s : State) : Keeps s (State.reportFault s) := by
  grind -ring -linarith -lia -ac -order [State.reportFault, keeps_iff]

grind_pattern State.reportFault_keeps => State.reportFault s

theorem State.sealWrite_keeps (s : State) (a : Nat) (bytes : List W8) : Keeps s (State.sealWrite s a bytes) := by
  grind -ring -linarith -lia -ac -order [State.sealWrite, keeps_iff]

grind_pattern State.sealWrite_keeps => State.sealWrite s a bytes

theorem State.reportRead_keeps (s : State) (bad : Bool) : Keeps s (State.reportRead s bad) := by
  unfold State.reportRead
  extract_lets -lift t
  have k : Keeps s t := by grind -ring -linarith -lia -ac -order [keeps_iff]
  clear_value t
  refine k.trans ?_
  grind -ring -linarith -lia -ac -order [keeps_iff]

grind_pattern State.reportRead_keeps => State.reportRead s bad

theorem State.attGo_keeps (s : State) (pub : Bool) : Keeps s (State.attGo s pub) := by
  grind -ring -linarith -lia -ac -order [State.attGo, keeps_iff]

grind_pattern State.attGo_keeps => State.attGo s pub

theorem State.attDone_keeps (s : State) (memError : Bool) : Keeps s (State.attDone s memError) := by
  grind -ring -linarith -lia -ac -order [State.attDone, keeps_iff]

grind_pattern State.attDone_keeps => State.attDone s memError

/-! ### Operands -/

theorem State.logSource_keeps (s : State) (cause : Nat) (n : Nat) (pos : W32) (status : Nat) (space h a : Nat) : Keeps s (State.logSource s cause n pos status space h a) := by
  grind -ring -linarith -lia -ac -order [State.logSource, keeps_iff]

grind_pattern State.logSource_keeps => State.logSource s cause n pos status space h a

theorem State.countCoded_keeps (s : State) (n : Nat) (pos : W32) (double : Bool) (q : Range) : Keeps s (State.countCoded s n pos double q) := by
  grind -ring -linarith -lia -ac -order [State.countCoded, keeps_iff]

grind_pattern State.countCoded_keeps => State.countCoded s n pos double q

theorem State.detect_keeps (s : State) (n : Nat) (pos : W32) (rs : List Range) : Keeps s (State.detect s n pos rs) := by
  grind -ring -linarith -lia -ac -order [State.detect, keeps_iff]

grind_pattern State.detect_keeps => State.detect s n pos rs

theorem State.logPoison_keeps (s : State) (n : Nat) (pos : W32) (r : Range) : Keeps s (State.logPoison s n pos r) := by
  grind -ring -linarith -lia -ac -order [State.logPoison, keeps_iff]

grind_pattern State.logPoison_keeps => State.logPoison s n pos r

theorem State.logMark_keeps (s : State) (n : Nat) (pos : W32) (r : Range) : Keeps s (State.logMark s n pos r) := by
  grind -ring -linarith -lia -ac -order [State.logMark, keeps_iff]

grind_pattern State.logMark_keeps => State.logMark s n pos r

theorem State.consumed_keeps (s : State) (n : Nat) (pos : W32) (r : Range) : Keeps s (State.consumed s n pos r) := by
  grind -ring -linarith -lia -ac -order [State.consumed, keeps_iff]

grind_pattern State.consumed_keeps => State.consumed s n pos r

theorem State.meet_keeps (s : State) (n : Nat) (pos : W32) (rs : List Range) : Keeps s (s.meet n pos rs).1 := by
  grind -ring -linarith -lia -ac -order [State.meet, keeps_iff]

grind_pattern State.meet_keeps => s.meet n pos rs

theorem State.consumePoison_keeps (s : State) (n : Nat) (pos : W32) (r : Range) : Keeps s (State.consumePoison s n pos r) := by
  grind -ring -linarith -lia -ac -order [State.consumePoison, keeps_iff]

grind_pattern State.consumePoison_keeps => State.consumePoison s n pos r

theorem State.poke_keeps (s : State) (space h a : Nat) (bytes : List W8) (poisoned : Bool) : Keeps s (State.poke s space h a bytes poisoned) := by
  unfold State.poke
  split <;> grind -ring -linarith -lia -ac -order [keeps_iff]

grind_pattern State.poke_keeps => State.poke s space h a bytes poisoned

theorem State.send_keeps (s : State) (p : Nat) (r : Request) : Keeps s (State.send s p r) := by
  grind -ring -linarith -lia -ac -order [State.send, keeps_iff]

grind_pattern State.send_keeps => State.send s p r

theorem State.sendWrite_keeps (s : State) (n : Nat) (pos : W32) (h a : Nat) (bytes : List W8) (poisoned : Bool) : Keeps s (State.sendWrite s n pos h a bytes poisoned) := by
  grind -ring -linarith -lia -ac -order [State.sendWrite, keeps_iff]

grind_pattern State.sendWrite_keeps => State.sendWrite s n pos h a bytes poisoned

theorem State.noteOutput_keeps (s : State) (n : Nat) (pos : W32) (r : Range) : Keeps s (State.noteOutput s n pos r) := by
  grind -ring -linarith -lia -ac -order [State.noteOutput, keeps_iff]

grind_pattern State.noteOutput_keeps => State.noteOutput s n pos r

theorem State.put_keeps (s : State) (n : Nat) (pos : W32) (space h a : Nat) (bytes : List W8) (poisoned : Bool) : Keeps s (State.put s n pos space h a bytes poisoned) := by
  grind -ring -linarith -lia -ac -order [State.put, keeps_iff]

grind_pattern State.put_keeps => State.put s n pos space h a bytes poisoned

theorem State.putLines_keeps (s : State) (n : Nat) (pos : W32) (space h : Nat) (ws : List (Nat × List W8)) (bad : Nat → Nat → Bool) : Keeps s (State.putLines s n pos space h ws bad) := by
  grind -ring -linarith -lia -ac -order [State.putLines, keeps_iff]

grind_pattern State.putLines_keeps => State.putLines s n pos space h ws bad

theorem State.putAll_keeps (s : State) (n : Nat) (pos : W32) (space h : Nat) (ws : List (Nat × List W8)) (poisoned : Bool) : Keeps s (State.putAll s n pos space h ws poisoned) := by
  grind -ring -linarith -lia -ac -order [State.putAll, keeps_iff]

grind_pattern State.putAll_keeps => State.putAll s n pos space h ws poisoned

theorem State.sealReads_keeps (s : State) (n : Nat) (pos : W32) (role : Option Nat) (rs : List Range) : Keeps s (State.sealReads s n pos role rs) := by
  grind -ring -linarith -lia -ac -order [State.sealReads, keeps_iff]

grind_pattern State.sealReads_keeps => State.sealReads s n pos role rs

theorem State.readHost_keeps (s : State) (n : Nat) (pos : W32) (pieces : List (Nat × Nat × Nat)) : Keeps s (State.readHost s n pos pieces) := by
  grind -ring -linarith -lia -ac -order [State.readHost, keeps_iff]

grind_pattern State.readHost_keeps => State.readHost s n pos pieces

theorem State.readiness_keeps {s t : State} {n : Nat} {pos : W32} {done d : List (Nat × Nat × Nat)} {rs : List Range}
    (h : s.readiness n pos done rs = .fetch t d) : Keeps s t := by
  grind -ring -linarith -lia -ac -order [State.readiness]

grind_pattern State.readiness_keeps => s.readiness n pos done rs, Readiness.fetch t d

theorem State.piece_keeps (s : State) (n : Nat) (pos : W32) (role : Option Nat) (own rs outs : List Range) (act : State → Bool → State) (k : ∀ t b, Keeps t (act t b)) : Keeps s (State.piece s n pos role own rs outs act) := by
  grind -ring -linarith -lia -ac -order [State.piece, keeps_iff]

grind_pattern State.piece_keeps => State.piece s n pos role own rs outs act

theorem State.whole_keeps (s : State) (n : Nat) (pos : W32) (role : Option Nat) (rs outs : List Range) (act : State → Bool → State) (k : ∀ t b, Keeps t (act t b)) : Keeps s (State.whole s n pos role rs outs act) := State.piece_keeps _ _ _ _ _ _ _ _ k

grind_pattern State.whole_keeps => State.whole s n pos role rs outs act

theorem State.spoil_keeps (s : State) (r : Range) : Keeps s (State.spoil s r) := by
  grind -ring -linarith -lia -ac -order [State.spoil, keeps_iff]

grind_pattern State.spoil_keeps => State.spoil s r

/-! ### The epilogue -/

theorem State.countSlot_keeps (s : State) (n : Nat) (pos : W32) (h : Nat) (double : Bool) : Keeps s (State.countSlot s n pos h double) := by
  grind -ring -linarith -lia -ac -order [State.countSlot, keeps_iff]

grind_pattern State.countSlot_keeps => State.countSlot s n pos h double

theorem State.slotReads_keeps (s : State) (n : Nat) (pos : W32) (h : Nat) (t : TilePass) (r : Nat) : Keeps s (s.slotReads n pos h t r).1 := by
  grind -ring -linarith -lia -ac -order [State.slotReads, keeps_iff]

grind_pattern State.slotReads_keeps => s.slotReads n pos h t r

theorem State.drainRow_keeps (s : State) (n : Nat) (pos : W32) (h : Nat) (t : TilePass) (word : Nat → W32) (poisoned : Bool) (r : Nat) : Keeps s (State.drainRow s n pos h t word poisoned r) := by
  grind -ring -linarith -lia -ac -order [State.drainRow, keeps_iff]

grind_pattern State.drainRow_keeps => State.drainRow s n pos h t word poisoned r

theorem State.startTopk_keeps (s : State) (h : Nat) (t : TilePass) : Keeps s (State.startTopk s h t) := by
  grind -ring -linarith -lia -ac -order [State.startTopk, keeps_iff]

grind_pattern State.startTopk_keeps => State.startTopk s h t

theorem State.writeRowRecords_keeps (s : State) (n : Nat) (pos : W32) (h : Nat) (t : TilePass) (poisoned : Bool) : Keeps s (State.writeRowRecords s n pos h t poisoned) := by
  grind -ring -linarith -lia -ac -order [State.writeRowRecords, keeps_iff]

grind_pattern State.writeRowRecords_keeps => State.writeRowRecords s n pos h t poisoned

theorem State.epilogueInputs_keeps (s : State) (n : Nat) (pos : W32) (h : Nat) (t : TilePass) : Keeps s (s.epilogueInputs n pos h t).1 := by
  grind -ring -linarith -lia -ac -order [State.epilogueInputs, keeps_iff]

grind_pattern State.epilogueInputs_keeps => s.epilogueInputs n pos h t

theorem State.epilogueBlock_keeps (s : State) (n : Nat) (pos : W32) (h : Nat) (t : TilePass) (words : Tab W32) (d : W32) (poisoned : Bool) (b : Nat) : Keeps s (State.epilogueBlock s n pos h t words d poisoned b) := by
  grind -ring -linarith -lia -ac -order [State.epilogueBlock, keeps_iff]

grind_pattern State.epilogueBlock_keeps => State.epilogueBlock s n pos h t words d poisoned b

theorem State.endTileRow_keeps (s : State) (n : Nat) (pos : W32) (h : Nat) (t : TilePass) (poisoned : Bool) : Keeps s (State.endTileRow s n pos h t poisoned) := by
  grind -ring -linarith -lia -ac -order [State.endTileRow, keeps_iff]

grind_pattern State.endTileRow_keeps => State.endTileRow s n pos h t poisoned

theorem State.epilogue_keeps (s : State) (n : Nat) (pos : W32) (h : Nat) (t : TilePass) (words : Tab W32) (d : W32) (poisoned : Bool) : Keeps s (State.epilogue s n pos h t words d poisoned) := by
  grind -ring -linarith -lia -ac -order [State.epilogue, keeps_iff]

grind_pattern State.epilogue_keeps => State.epilogue s n pos h t words d poisoned

/-! ### Power -/

theorem State.writeTarget_keeps (s : State) (v : Nat) (t : BitVec 3) : Keeps s (State.writeTarget s v t) := by
  grind -ring -linarith -lia -ac -order [State.writeTarget, keeps_iff]

grind_pattern State.writeTarget_keeps => State.writeTarget s v t

theorem State.writeCode_keeps (s : State) (v : Nat) (c : W8) : Keeps s (State.writeCode s v c) := by
  grind -ring -linarith -lia -ac -order [State.writeCode, keeps_iff]

grind_pattern State.writeCode_keeps => State.writeCode s v c

theorem State.requestPower_keeps (s : State) (d : Nat) (on : Bool) : Keeps s (State.requestPower s d on) := by
  grind -ring -linarith -lia -ac -order [State.requestPower, keeps_iff]

grind_pattern State.requestPower_keeps => State.requestPower s d on

theorem State.railsOn_keeps (s : State) : Keeps s (State.railsOn s) := by
  grind -ring -linarith -lia -ac -order [State.railsOn, keeps_iff]

grind_pattern State.railsOn_keeps => State.railsOn s

theorem State.railsOff_keeps (s : State) : Keeps s (State.railsOff s) := by
  grind -ring -linarith -lia -ac -order [State.railsOff, keeps_iff]

grind_pattern State.railsOff_keeps => State.railsOff s

theorem State.raiseHearths_keeps (s : State) (v : Nat) : Keeps s (State.raiseHearths s v) := by
  grind -ring -linarith -lia -ac -order [State.raiseHearths, keeps_iff]

grind_pattern State.raiseHearths_keeps => State.raiseHearths s v

theorem State.shutHearth_keeps (s : State) (h : Nat) : Keeps s (State.shutHearth s h) := by
  grind -ring -linarith -lia -ac -order [State.shutHearth, keeps_iff]

grind_pattern State.shutHearth_keeps => State.shutHearth s h

theorem State.wakeHearth_keeps (s : State) (h : Nat) : Keeps s (State.wakeHearth s h) := by
  grind -ring -linarith -lia -ac -order [State.wakeHearth, keeps_iff]

grind_pattern State.wakeHearth_keeps => State.wakeHearth s h

theorem State.settleOnline_keeps (s : State) : Keeps s (State.settleOnline s) := by
  grind -ring -linarith -lia -ac -order [State.settleOnline, keeps_iff]

grind_pattern State.settleOnline_keeps => State.settleOnline s

theorem State.wakeMask_keeps (s : State) (mask : W64) : Keeps s (State.wakeMask s mask) := by
  grind -ring -linarith -lia -ac -order [State.wakeMask, keeps_iff]

grind_pattern State.wakeMask_keeps => State.wakeMask s mask

theorem State.refuse_keeps (s : State) (n : Nat) (pos : W32) (code detail opcode : Nat) : Keeps s (State.refuse s n pos code detail opcode) := by
  grind -ring -linarith -lia -ac -order [State.refuse, keeps_iff]

grind_pattern State.refuse_keeps => State.refuse s n pos code detail opcode

theorem State.commitEntry_keeps (s : State) : Keeps s (State.commitEntry s) := by
  grind -ring -linarith -lia -ac -order [State.commitEntry, keeps_iff]

grind_pattern State.commitEntry_keeps => State.commitEntry s

theorem State.wakeWithBlock_keeps (s : State) (hs : List Nat) : Keeps s (State.wakeWithBlock s hs) := by
  grind -ring -linarith -lia -ac -order [State.wakeWithBlock, keeps_iff]

grind_pattern State.wakeWithBlock_keeps => State.wakeWithBlock s hs

theorem State.startWake_keeps (s : State) (code : BitVec 3) : Keeps s (State.startWake s code) := by
  grind -ring -linarith -lia -ac -order [State.startWake, keeps_iff]

grind_pattern State.startWake_keeps => State.startWake s code

theorem State.loseCore_keeps (s : State) : Keeps s (State.loseCore s) := by
  grind -ring -linarith -lia -ac -order [State.loseCore, Seal.unpowered, keeps_iff]

grind_pattern State.loseCore_keeps => State.loseCore s

theorem State.dozeHearth_keeps (s : State) (h : Nat) : Keeps s (State.dozeHearth s h) := by
  grind -ring -linarith -lia -ac -order [State.dozeHearth, keeps_iff]

grind_pattern State.dozeHearth_keeps => State.dozeHearth s h

theorem State.dueWake_keeps (s : State) : Keeps s (State.dueWake s) := by
  grind -ring -linarith -lia -ac -order [State.dueWake, keeps_iff]

grind_pattern State.dueWake_keeps => State.dueWake s

theorem State.sampleCredits_keeps (s : State) (credits : List (BitVec 13 × BitVec 13)) : Keeps s (State.sampleCredits s credits) := by
  grind -ring -linarith -lia -ac -order [State.sampleCredits, keeps_iff]

grind_pattern State.sampleCredits_keeps => State.sampleCredits s credits

theorem State.startTargets_keeps (s : State) : Keeps s (State.startTargets s) := by
  grind -ring -linarith -lia -ac -order [State.startTargets, keeps_iff]

grind_pattern State.startTargets_keeps => State.startTargets s

theorem State.loseLock_keeps (s : State) : Keeps s (State.loseLock s) := by
  grind -ring -linarith -lia -ac -order [State.loseLock, keeps_iff]

grind_pattern State.loseLock_keeps => State.loseLock s

theorem State.releaseAlarms_keeps (s : State) : Keeps s (State.releaseAlarms s) := by
  grind -ring -linarith -lia -ac -order [State.releaseAlarms, keeps_iff]

grind_pattern State.releaseAlarms_keeps => State.releaseAlarms s

theorem State.wakeUp_keeps (s : State) (credits : List (BitVec 13 × BitVec 13)) : Keeps s (State.wakeUp s credits) := by
  grind -ring -linarith -lia -ac -order [State.wakeUp, keeps_iff]

grind_pattern State.wakeUp_keeps => State.wakeUp s credits

theorem State.reachRun_keeps (s : State) (credits : List (BitVec 13 × BitVec 13)) : Keeps s (State.reachRun s credits) := by
  grind -ring -linarith -lia -ac -order [State.reachRun, keeps_iff]

grind_pattern State.reachRun_keeps => State.reachRun s credits

theorem State.setOffline_keeps (s : State) (mask : W64) (b : Bool) : Keeps s (State.setOffline s mask b) := by
  grind -ring -linarith -lia -ac -order [State.setOffline, keeps_iff]

grind_pattern State.setOffline_keeps => State.setOffline s mask b

theorem State.maintEnd_keeps (s : State) (x : Nat × Nat) : Keeps s (State.maintEnd s x) := by
  grind -ring -linarith -lia -ac -order [State.maintEnd, keeps_iff]

grind_pattern State.maintEnd_keeps => State.maintEnd s x

theorem State.offlineHearth_keeps (s : State) (h : Nat) : Keeps s (State.offlineHearth s h) := by
  grind -ring -linarith -lia -ac -order [State.offlineHearth, keeps_iff]

grind_pattern State.offlineHearth_keeps => State.offlineHearth s h

theorem State.settleOffline_keeps (s : State) (e : Entry) : Keeps s (State.settleOffline s e) := by
  grind -ring -linarith -lia -ac -order [State.settleOffline, keeps_iff]

grind_pattern State.settleOffline_keeps => State.settleOffline s e

/-! ### Maintenance -/

theorem State.fatal_keeps (s : State) (cause unitType unit : Nat) (info : W64) : Keeps s (State.fatal s cause unitType unit info) := by
  grind -ring -linarith -lia -ac -order [State.fatal, keeps_iff]

grind_pattern State.fatal_keeps => State.fatal s cause unitType unit info

theorem State.maintRequest_keeps (s : State) (x : Nat × Nat) : Keeps s (State.maintRequest s x) := by
  grind -ring -linarith -lia -ac -order [State.maintRequest, keeps_iff]

grind_pattern State.maintRequest_keeps => State.maintRequest s x

theorem State.maintAbort_keeps (s : State) (x cause : Nat × Nat) : Keeps s (State.maintAbort s x cause) := by
  grind -ring -linarith -lia -ac -order [State.maintAbort, keeps_iff]

grind_pattern State.maintAbort_keeps => State.maintAbort s x cause

theorem State.maintBegin_keeps (s : State) (x : Nat × Nat) : Keeps s (State.maintBegin s x) := by
  grind -ring -linarith -lia -ac -order [State.maintBegin, keeps_iff]

grind_pattern State.maintBegin_keeps => State.maintBegin s x

theorem State.codedError_keeps (s : State) (severity cause unitType unit space addr : Nat) (infoFree : Bool) : Keeps s (State.codedError s severity cause unitType unit space addr infoFree) := by
  grind -ring -linarith -lia -ac -order [State.codedError, keeps_iff]

grind_pattern State.codedError_keeps => State.codedError s severity cause unitType unit space addr infoFree

theorem State.sramScrub_keeps (s : State) (h : Nat) (found : Nat) : Keeps s (State.sramScrub s h found) := by
  grind -ring -linarith -lia -ac -order [State.sramScrub, keeps_iff]

grind_pattern State.sramScrub_keeps => State.sramScrub s h found

theorem State.mantelScrub_keeps (s : State) (h : Nat) (found : Nat) : Keeps s (State.mantelScrub s h found) := by
  grind -ring -linarith -lia -ac -order [State.mantelScrub, keeps_iff]

grind_pattern State.mantelScrub_keeps => State.mantelScrub s h found

theorem State.wipeBank_keeps (s : State) (h : Nat) : Keeps s (State.wipeBank s h) := by
  grind -ring -linarith -lia -ac -order [State.wipeBank, keeps_iff]

grind_pattern State.wipeBank_keeps => State.wipeBank s h

theorem State.bistDone_keeps (s : State) (h : Nat) (pass : Bool) (unit : W8) : Keeps s (State.bistDone s h pass unit) := by
  grind -ring -linarith -lia -ac -order [State.bistDone, keeps_iff]

grind_pattern State.bistDone_keeps => State.bistDone s h pass unit

end Sys2Proof.Machine
end

