-- ==== Sys2Proof/Laws/KeepsWork.lean ====
section
/-! SUPPORT. What the operations of the units that work keep: one lemma for each (see Sys2Proof/Laws/Keeps.lean). -/

namespace Sys2Proof.Machine

/-! ### The Grate -/

theorem State.modTile_keeps (s : State) (h a : Nat) (f : TileInfo → TileInfo) : Keeps s (State.modTile s h a f) := by
  grind -ring -linarith -lia -ac -order [State.modTile, keeps_iff]

grind_pattern State.modTile_keeps => State.modTile s h a f

theorem State.storeTile_keeps (s : State) (h a : Nat) (t : Tab W32) : Keeps s (State.storeTile s h a t) := by
  grind -ring -linarith -lia -ac -order [State.storeTile, keeps_iff]

grind_pattern State.storeTile_keeps => State.storeTile s h a t

theorem State.markTile_keeps (s : State) (h a : Nat) : Keeps s (State.markTile s h a) := by
  grind -ring -linarith -lia -ac -order [State.markTile, keeps_iff]

grind_pattern State.markTile_keeps => State.markTile s h a

theorem State.dealMatmul_keeps (s : State) (n : Nat) (e : Entry) : Keeps s (State.dealMatmul s n e) := by
  grind -ring -linarith -lia -ac -order [State.dealMatmul, keeps_iff]

grind_pattern State.dealMatmul_keeps => State.dealMatmul s n e

theorem State.shareDone_keeps (s : State) (n : Nat) (pos : W32) : Keeps s (State.shareDone s n pos) := by
  grind -ring -linarith -lia -ac -order [State.shareDone, keeps_iff]

grind_pattern State.shareDone_keeps => State.shareDone s n pos

theorem State.act_keeps (s : State) (n : Nat) (pos : W32) (h : Nat) : Keeps s (State.act s n pos h) := by
  grind -ring -linarith -lia -ac -order [State.act, keeps_iff]

grind_pattern State.act_keeps => State.act s n pos h

theorem State.stopWork_keeps (s : State) (n : Nat) (pos : W32) : Keeps s (State.stopWork s n pos) := by
  grind -ring -linarith -lia -ac -order [State.stopWork, keeps_iff]

grind_pattern State.stopWork_keeps => State.stopWork s n pos

theorem State.stopIfEnded_keeps (s : State) (n : Nat) (pos : W32) : Keeps s (State.stopIfEnded s n pos) := by
  grind -ring -linarith -lia -ac -order [State.stopIfEnded, keeps_iff]

grind_pattern State.stopIfEnded_keeps => State.stopIfEnded s n pos

theorem State.tileDone_keeps (s : State) (n : Nat) (pos : W32) (h a : Nat) : Keeps s (State.tileDone s n pos h a) := by
  grind -ring -linarith -lia -ac -order [State.tileDone, keeps_iff]

grind_pattern State.tileDone_keeps => State.tileDone s n pos h a

theorem State.fetchPanel_keeps (s : State) (h : Nat) : Keeps s (State.fetchPanel s h) := by
  dsimp only [State.fetchPanel]
  repeat' first | exact Keeps.refl _ | exact State.stopWork_keeps .. | refine Keeps.ite ?_ ?_ | split
  all_goals grind (splits := 20) (ematch := 15) (gen := 15) -ring -linarith -lia -ac -order [keeps_iff]

grind_pattern State.fetchPanel_keeps => State.fetchPanel s h

theorem State.writePreload_keeps (s : State) (h : Nat) (b : Matmul) (j : TileJob) : Keeps s (State.writePreload s h b j) := by
  grind -ring -linarith -lia -ac -order [State.writePreload, keeps_iff]

grind_pattern State.writePreload_keeps => State.writePreload s h b j

theorem State.tileLoad_keeps (s : State) (h : Nat) : Keeps s (State.tileLoad s h) := by
  unfold State.tileLoad
  repeat' first | exact Keeps.refl _ | exact State.stopWork_keeps .. | refine Keeps.ite ?_ ?_ | split
  all_goals grind (splits := 20) (ematch := 15) (gen := 15) -ring -linarith -lia -ac -order [keeps_iff]

grind_pattern State.tileLoad_keeps => State.tileLoad s h

theorem State.tileSwap_keeps (s : State) (h : Nat) : Keeps s (State.tileSwap s h) := by
  grind -ring -linarith -lia -ac -order [State.tileSwap, keeps_iff]

grind_pattern State.tileSwap_keeps => State.tileSwap s h

theorem State.chunkOf_keeps (s : State) (h : Nat) (j : TileJob) (b : Matmul) : Keeps s (State.chunkOf s h j b) := by
  grind -ring -linarith -lia -ac -order [State.chunkOf, keeps_iff]

grind_pattern State.chunkOf_keeps => State.chunkOf s h j b

theorem State.chunk_keeps (s : State) (h : Nat) : Keeps s (State.chunk s h) := by
  grind -ring -linarith -lia -ac -order [State.chunk, keeps_iff]

grind_pattern State.chunk_keeps => State.chunk s h

theorem State.cellParity_keeps (s : State) (h : Nat) (j : TileJob) (words : Tab W32) : Keeps s (State.cellParity s h j words) := by
  grind -ring -linarith -lia -ac -order [State.cellParity, keeps_iff]

grind_pattern State.cellParity_keeps => State.cellParity s h j words

theorem State.commitEnd_keeps (s : State) (h : Nat) (j : TileJob) (e : Entry) (words : Tab W32) : Keeps s (State.commitEnd s h j e words) := by
  grind -ring -linarith -lia -ac -order [State.commitEnd, keeps_iff]

grind_pattern State.commitEnd_keeps => State.commitEnd s h j e words

theorem State.commitPark_keeps (s : State) (h : Nat) (j : TileJob) (words : Tab W32) : Keeps s (State.commitPark s h j words) := by
  grind -ring -linarith -lia -ac -order [State.commitPark, keeps_iff]

grind_pattern State.commitPark_keeps => State.commitPark s h j words

theorem State.drainCommit_keeps (s : State) (h : Nat) : Keeps s (State.drainCommit s h) := by
  grind -ring -linarith -lia -ac -order [State.drainCommit, keeps_iff]

grind_pattern State.drainCommit_keeps => State.drainCommit s h

theorem State.combine_keeps (s : State) (n : Nat) (e : Entry) (tile : Nat) : Keeps s (State.combine s n e tile) := by
  unfold State.combine
  generalize decide (s.classOf n = 2#2) = draught
  generalize decide (s.classOf n = 3#2) = admin
  repeat' first | exact Keeps.refl _ | exact State.stopWork_keeps .. | refine Keeps.ite ?_ ?_ | split
  all_goals grind (splits := 20) (ematch := 15) (gen := 15) -ring -linarith -lia -ac -order [keeps_iff]

grind_pattern State.combine_keeps => State.combine s n e tile

theorem State.drainPiece_keeps (s : State) (n : Nat) (e : Entry) (items : List Item) (h k : Nat) : Keeps s (State.drainPiece s n e items h k) := by
  grind -ring -linarith -lia -ac -order [State.drainPiece, keeps_iff]

grind_pattern State.drainPiece_keeps => State.drainPiece s n e items h k

theorem State.drain_keeps (s : State) (n : Nat) (e : Entry) : Keeps s (State.drain s n e) := by
  grind -ring -linarith -lia -ac -order [State.drain, keeps_iff]

grind_pattern State.drain_keeps => State.drain s n e

/-! ### Planes -/

theorem State.storeSpan_keeps (s : State) (n : Nat) (pos : W32) (p : Plane) (h r : Nat) (seed : W64) (row col len : Nat) (vals : List W32) (bad : Option (Nat → Nat → Bool)) : Keeps s (State.storeSpan s n pos p h r seed row col len vals bad) := by
  grind -ring -linarith -lia -ac -order [State.storeSpan, keeps_iff]

grind_pattern State.storeSpan_keeps => State.storeSpan s n pos p h r seed row col len vals bad

theorem State.storeRow_keeps (s : State) (n : Nat) (pos : W32) (p : Plane) (h r : Nat) (seed : W64) (row : Nat) (vals : List W32) (poisoned : Bool) : Keeps s (State.storeRow s n pos p h r seed row vals poisoned) := by
  grind -ring -linarith -lia -ac -order [State.storeRow, keeps_iff]

grind_pattern State.storeRow_keeps => State.storeRow s n pos p h r seed row vals poisoned

theorem State.blur_keeps (s : State) (rs : List Range) : Keeps s (State.blur s rs) := by
  grind -ring -linarith -lia -ac -order [State.blur, keeps_iff]

grind_pattern State.blur_keeps => State.blur s rs

theorem State.moveSpan_keeps (s : State) (n : Nat) (pos : W32) (b : Mover) (h first : Nat) (view : State) (tainted : Bool) (q : Nat × Nat × Nat) : Keeps s (State.moveSpan s n pos b h first view tainted q) := by
  grind -ring -linarith -lia -ac -order [State.moveSpan, keeps_iff]

grind_pattern State.moveSpan_keeps => State.moveSpan s n pos b h first view tainted q

theorem State.mover_keeps (s : State) (n : Nat) (e : Entry) (b : Mover) : Keeps s (State.mover s n e b) := by
  unfold State.mover
  extract_lets -lift runs shares may
  split
  · exact Keeps.refl s
  · split
    · exact Keeps.refl s
    · extract_lets -lift spans reads
      refine State.piece_keeps _ _ _ _ _ _ _ _ fun t bad => ?_
      extract_lets -lift view u w
      have k1 : Keeps t u := ⟨rfl, rfl, fun _ h => h, id, id⟩
      have k2 : Keeps u w := Keeps.foldl (fun y r => State.moveSpan_keeps ..) _ _
      clear_value u w
      exact (k1.trans k2).trans ((State.act_keeps ..).trans (State.advance_keeps ..))

grind_pattern State.mover_keeps => State.mover s n e b

/-! ### CHAIN -/

theorem State.putEach_keeps (s : State) (n : Nat) (pos : W32) (space h : Nat) (ws : List LineWrite) : Keeps s (State.putEach s n pos space h ws) := by
  grind -ring -linarith -lia -ac -order [State.putEach, keeps_iff]

grind_pattern State.putEach_keeps => State.putEach s n pos space h ws

theorem State.writeLine_keeps (s : State) (n : Nat) (pos : W32) (x : PassCtx) (j : Nat) (line : List PassLane) (w : W32) (poisoned : Bool) : Keeps s (State.writeLine s n pos x j line w poisoned) := by
  unfold State.writeLine
  split
  · exact Keeps.refl s
  · grind -ring -linarith -lia -ac -order [keeps_iff]

grind_pattern State.writeLine_keeps => State.writeLine s n pos x j line w poisoned

theorem State.sendAdd_keeps (s : State) (h : Nat) (lower : List Nat) (a : OrderedAdd) : Keeps s (State.sendAdd s h lower a) := by
  grind -ring -linarith -lia -ac -order [State.sendAdd, keeps_iff]

grind_pattern State.sendAdd_keeps => State.sendAdd s h lower a

theorem State.endMarks_keeps (s : State) (n : Nat) (pos : W32) (position : Nat) : Keeps s (State.endMarks s n pos position) := by
  grind -ring -linarith -lia -ac -order [State.endMarks, keeps_iff]

grind_pattern State.endMarks_keeps => State.endMarks s n pos position

theorem State.dealChain_keeps (s : State) (n : Nat) (e : Entry) : Keeps s (State.dealChain s n e) := by
  grind -ring -linarith -lia -ac -order [State.dealChain, keeps_iff]

grind_pattern State.dealChain_keeps => State.dealChain s n e

theorem State.advanceRun_keeps (s : State) (h : Nat) (r r' : ChainRun) : Keeps s (State.advanceRun s h r r') := by
  grind -ring -linarith -lia -ac -order [State.advanceRun, keeps_iff]

grind_pattern State.advanceRun_keeps => State.advanceRun s h r r'

theorem State.reduceLines_keeps (s : State) (n : Nat) (pos : W32) (x : PassCtx) (lines : List (List PassLane)) (last : Bool) (leaves : List (Nat × Nat × List (Option Leaf) × List Bool)) (kept : Tab (List W32)) (held : List Nat) : Keeps s (s.reduceLines n pos x lines last leaves kept held).1 := by
  unfold State.reduceLines
  refine Keeps.foldlPair (fun p q => ?_) leaves (s, kept, held)
  dsimp only
  split
  · grind -ring -linarith -lia -ac -order [keeps_iff]
  · split <;> grind -ring -linarith -lia -ac -order [keeps_iff]

grind_pattern State.reduceLines_keeps => s.reduceLines n pos x lines last leaves kept held

theorem State.passAdd_keeps (s : State) (n : Nat) (pos : W32) (h position : Nat) (lower : List Nat) (x : PassCtx) (a : Nat × Nat × Nat × W32 × Bool × Bool) : Keeps s (State.passAdd s n pos h position lower x a) := by
  grind -ring -linarith -lia -ac -order [State.passAdd, keeps_iff]

grind_pattern State.passAdd_keeps => State.passAdd s n pos h position lower x a

theorem State.commitPass_keeps (s : State) (n : Nat) (e : Entry) (h : Nat) (r : ChainRun) (x : PassCtx) (lines : List (List PassLane)) (p : PassRun) (flags : Nat) : Keeps s (State.commitPass s n e h r x lines p flags) := by
  grind -ring -linarith -lia -ac -order [State.commitPass, keeps_iff]

grind_pattern State.commitPass_keeps => State.commitPass s n e h r x lines p flags

theorem State.runPass_keeps (s : State) (h : Nat) (r : ChainRun) (e : Entry) : Keeps s (State.runPass s h r e) := by
  grind -ring -linarith -lia -ac -order [State.runPass, keeps_iff]

grind_pattern State.runPass_keeps => State.runPass s h r e

theorem State.chainPass_keeps (s : State) (h : Nat) : Keeps s (State.chainPass s h) := by
  grind -ring -linarith -lia -ac -order [State.chainPass, keeps_iff]

grind_pattern State.chainPass_keeps => State.chainPass s h

theorem State.releaseAdds_keeps (s : State) (p : Nat) : Keeps s (State.releaseAdds s p) := by
  grind -ring -linarith -lia -ac -order [State.releaseAdds, keeps_iff]

grind_pattern State.releaseAdds_keeps => State.releaseAdds s p

/-! ### Norms -/

theorem State.writeStats_keeps (s : State) (n : Nat) (pos : W32) (b : Norm) (q : NormRow) (bytes : List W8) (poisoned : Bool) : Keeps s (State.writeStats s n pos b q bytes poisoned) := by
  grind -ring -linarith -lia -ac -order [State.writeStats, keeps_iff]

grind_pattern State.writeStats_keeps => State.writeStats s n pos b q bytes poisoned

theorem State.writeRow_keeps (s : State) (n : Nat) (pos : W32) (b : Norm) (q : NormRow) (ys : List W32) (poisoned : Bool) : Keeps s (State.writeRow s n pos b q ys poisoned) := by
  grind -ring -linarith -lia -ac -order [State.writeRow, keeps_iff]

grind_pattern State.writeRow_keeps => State.writeRow s n pos b q ys poisoned

theorem State.softmaxRow_keeps (s view : State) (n : Nat) (pos : W32) (b : Norm) (q : NormRow) (poisoned : Bool) : Keeps s (State.softmaxRow s view n pos b q poisoned) := by
  grind -ring -linarith -lia -ac -order [State.softmaxRow, keeps_iff]

grind_pattern State.softmaxRow_keeps => State.softmaxRow s view n pos b q poisoned

theorem State.normaliseRow_keeps (s view : State) (n : Nat) (pos : W32) (b : Norm) (q : NormRow) (poisoned : Bool) : Keeps s (State.normaliseRow s view n pos b q poisoned) := by
  grind -ring -linarith -lia -ac -order [State.normaliseRow, keeps_iff]

grind_pattern State.normaliseRow_keeps => State.normaliseRow s view n pos b q poisoned

theorem State.topkRow_keeps (s view : State) (n : Nat) (pos : W32) (b : Norm) (q : NormRow) (poisoned : Bool) : Keeps s (State.topkRow s view n pos b q poisoned) := by
  grind -ring -linarith -lia -ac -order [State.topkRow, keeps_iff]

grind_pattern State.topkRow_keeps => State.topkRow s view n pos b q poisoned

theorem State.mergeRow_keeps (s view : State) (n : Nat) (pos : W32) (b : Norm) (q : NormRow) (poisoned : Bool) : Keeps s (State.mergeRow s view n pos b q poisoned) := by
  grind -ring -linarith -lia -ac -order [State.mergeRow, keeps_iff]

grind_pattern State.mergeRow_keeps => State.mergeRow s view n pos b q poisoned

theorem State.normOne_keeps (s : State) (n : Nat) (pos : W32) (act : State → State → Norm → NormRow → Bool → State) (b : Norm) (bad : Bool) (q : NormRow) (k : ∀ t v b q bad, Keeps t (act t v b q bad)) : Keeps s (State.normOne s n pos act b bad q) := by
  unfold State.normOne
  extract_lets -lift view
  exact Keeps.trans (t := { s with draws := view.draws }) ⟨rfl, rfl, fun _ h => h, id, id⟩ (k ..)

grind_pattern State.normOne_keeps => State.normOne s n pos act b bad q

theorem State.norm_keeps (s : State) (n : Nat) (pos : W32) (ops : List Nat) (act : State → State → Norm → NormRow → Bool → State) (k : ∀ t v b q bad, Keeps t (act t v b q bad)) : Keeps s (State.norm s n pos ops act) := by
  unfold State.norm
  split
  · exact Keeps.refl s
  · extract_lets -lift b lanes runs shares may
    refine Keeps.ite (Keeps.refl s) ?_
    split
    · exact Keeps.refl s
    · split
      · exact Keeps.refl s
      · extract_lets -lift row rows
        refine State.whole_keeps _ _ _ _ _ _ _ fun t bad => ?_
        extract_lets -lift u w
        have k1 : Keeps t u := Keeps.foldl (fun y r => State.normOne_keeps _ _ _ _ _ _ _ k) _ _
        clear_value u
        refine k1.trans ?_
        grind (splits := 20) (ematch := 15) (gen := 15) -ring -linarith -lia -ac -order [keeps_iff]

grind_pattern State.norm_keeps => State.norm s n pos ops act

/-! ### Tables -/

theorem State.loadTable_keeps (s : State) (b : TableLoad) (h : Nat) : Keeps s (State.loadTable s b h) := by
  grind -ring -linarith -lia -ac -order [State.loadTable, keeps_iff]

grind_pattern State.loadTable_keeps => State.loadTable s b h

theorem State.markLoading_keeps (s : State) (hs : List Nat) (on bank : Bool) : Keeps s (State.markLoading s hs on bank) := by
  grind -ring -linarith -lia -ac -order [State.markLoading, keeps_iff]

grind_pattern State.markLoading_keeps => State.markLoading s hs on bank

theorem State.tableLoad_keeps (s : State) (n : Nat) (e : Entry) : Keeps s (State.tableLoad s n e) := by
  unfold State.tableLoad
  extract_lets -lift b hs
  split
  · exact Keeps.refl s
  · extract_lets -lift t
    have k : Keeps s t := State.whole_keeps _ _ _ _ _ _ _ fun u bad => by grind (splits := 20) (ematch := 15) (gen := 15) -ring -linarith -lia -ac -order [keeps_iff]
    clear_value t
    grind (splits := 20) (ematch := 15) (gen := 15) -ring -linarith -lia -ac -order [keeps_iff]

grind_pattern State.tableLoad_keeps => State.tableLoad s n e

theorem State.tableSwap_keeps (s : State) (n : Nat) (e : Entry) : Keeps s (State.tableSwap s n e) := by
  grind -ring -linarith -lia -ac -order [State.tableSwap, keeps_iff]

grind_pattern State.tableSwap_keeps => State.tableSwap s n e

theorem State.drawEntries_keeps (s : State) (n : Nat) : Keeps s (s.drawEntries n).2 := ⟨rfl, rfl, fun _ h => h, id, id⟩

grind_pattern State.drawEntries_keeps => s.drawEntries n

theorem State.reloadLine_keeps (s : State) (h : Nat) (bank : Bool) (line : Nat) : Keeps s (State.reloadLine s h bank line) := by
  grind -ring -linarith -lia -ac -order [State.reloadLine, keeps_iff]

grind_pattern State.reloadLine_keeps => State.reloadLine s h bank line

theorem State.shapeReload_keeps (s : State) (h : Nat) (bank : Bool) (line outcome : Nat) : Keeps s (State.shapeReload s h bank line outcome) := by
  unfold State.shapeReload
  split
  · exact Keeps.refl s
  · extract_lets -lift src src' tainted t log st
    have k : Keeps s t := by grind (splits := 20) (ematch := 15) (gen := 15) -ring -linarith -lia -ac -order [keeps_iff]
    have kl : ∀ sev cause st u, Keeps u (log sev cause st u) := fun _ _ _ u => State.logError_keeps ..
    clear_value t log
    refine k.trans (Keeps.ite ((State.reloadLine_keeps ..).trans (kl ..)) ?_)
    exact ((kl ..).trans (State.fail_keeps ..)).trans (State.stopWork_keeps ..)

grind_pattern State.shapeReload_keeps => State.shapeReload s h bank line outcome

/-! ### Groups -/

theorem State.clearTile_keeps (s : State) (h a : Nat) (w : W32) : Keeps s (State.clearTile s h a w) := by
  grind -ring -linarith -lia -ac -order [State.clearTile, keeps_iff]

grind_pattern State.clearTile_keeps => State.clearTile s h a w

theorem State.openGroup_keeps (s : State) (n : Nat) (b : GroupDesc) (h : Nat) : Keeps s (State.openGroup s n b h) := by
  grind -ring -linarith -lia -ac -order [State.openGroup, keeps_iff]

grind_pattern State.openGroup_keeps => State.openGroup s n b h

theorem State.spillGroup_keeps (s : State) (n : Nat) (pos : W32) (b : GroupDesc) (h xa : Nat) : Keeps s (State.spillGroup s n pos b h xa) := by
  grind -ring -linarith -lia -ac -order [State.spillGroup, keeps_iff]

grind_pattern State.spillGroup_keeps => State.spillGroup s n pos b h xa

theorem State.resumeGroup_keeps (s : State) (n : Nat) (pos : W32) (b : GroupDesc) (h xa : Nat) : Keeps s (State.resumeGroup s n pos b h xa) := by
  grind -ring -linarith -lia -ac -order [State.resumeGroup, keeps_iff]

grind_pattern State.resumeGroup_keeps => State.resumeGroup s n pos b h xa

theorem State.closeGroup_keeps (s : State) (n : Nat) (pos : W32) (b : GroupDesc) (h : Nat) : Keeps s (State.closeGroup s n pos b h) := by
  grind -ring -linarith -lia -ac -order [State.closeGroup, keeps_iff]

grind_pattern State.closeGroup_keeps => State.closeGroup s n pos b h

theorem State.groupWork_keeps (s : State) (n : Nat) (pos : W32) (op : Nat) (act : State → GroupDesc → List (Nat × Nat) → State) (k : ∀ t b ps, Keeps t (act t b ps)) : Keeps s (State.groupWork s n pos op act) := by
  unfold State.groupWork
  split
  · exact Keeps.refl s
  · extract_lets -lift b ps shares
    refine Keeps.ite (Keeps.refl s) ?_
    split
    · exact Keeps.refl s
    · extract_lets -lift total last
      refine State.piece_keeps _ _ _ _ _ _ _ _ fun t bad => ?_
      refine Keeps.ite (State.finish_keeps ..) (Keeps.ite (State.modEntry_keeps ..) ?_)
      split
      · exact State.finishWith_keeps ..
      · exact (k ..).trans (State.finish_keeps ..)

grind_pattern State.groupWork_keeps => State.groupWork s n pos op act

end Sys2Proof.Machine
end

