-- ==== Sys2Proof/Laws/KeepsBlock.lean ====
section
/-! SUPPORT. What the operations of the exchange, the queues, the Seal, the resets and the ports keep: one lemma for each (see Sys2Proof/Laws/Keeps.lean). -/

namespace Sys2Proof.Machine

/-! ### Routes -/

theorem State.epochInstall_keeps (s : State) : Keeps s (State.epochInstall s) := by
  grind -ring -linarith -lia -ac -order [State.epochInstall, keeps_iff]

grind_pattern State.epochInstall_keeps => State.epochInstall s

theorem State.routeBuild_keeps (s : State) (n : Nat) (e : Entry) : Keeps s (State.routeBuild s n e) := by
  grind -ring -linarith -lia -ac -order [State.routeBuild, keeps_iff]

grind_pattern State.routeBuild_keeps => State.routeBuild s n e

/-! ### The Transom -/

theorem State.modExchange_keeps (s : State) (n : Nat) (pos : W32) (f : Exchange → Exchange) : Keeps s (State.modExchange s n pos f) := by
  grind -ring -linarith -lia -ac -order [State.modExchange, keeps_iff]

grind_pattern State.modExchange_keeps => State.modExchange s n pos f

theorem State.emit_keeps (s : State) (ps : List Packet) : Keeps s (State.emit s ps) := by
  grind -ring -linarith -lia -ac -order [State.emit, keeps_iff]

grind_pattern State.emit_keeps => State.emit s ps

theorem State.toMembers_keeps (s : State) (f : Nat → Packet) : Keeps s (State.toMembers s f) := by
  grind -ring -linarith -lia -ac -order [State.toMembers, keeps_iff]

grind_pattern State.toMembers_keeps => State.toMembers s f

theorem State.noteFailure_keeps (s : State) (n : Nat) (pos : W32) (x : Exchange) (status cause peer : Nat) : Keeps s (State.noteFailure s n pos x status cause peer) := by
  grind -ring -linarith -lia -ac -order [State.noteFailure, keeps_iff]

grind_pattern State.noteFailure_keeps => State.noteFailure s n pos x status cause peer

theorem State.softFail_keeps (s : State) (n : Nat) (pos : W32) (status detail cause peer : Nat) : Keeps s (State.softFail s n pos status detail cause peer) := by
  grind -ring -linarith -lia -ac -order [State.softFail, keeps_iff]

grind_pattern State.softFail_keeps => State.softFail s n pos status detail cause peer

theorem State.readRows_keeps (s : State) (n : Nat) (pos : W32) (rs : List Range) : Keeps s (State.readRows s n pos rs) := by
  grind -ring -linarith -lia -ac -order [State.readRows, keeps_iff]

grind_pattern State.readRows_keeps => State.readRows s n pos rs

theorem State.dropPackets_keeps (s : State) (x : Exchange) : Keeps s (State.dropPackets s x) := by
  grind -ring -linarith -lia -ac -order [State.dropPackets, keeps_iff]

grind_pattern State.dropPackets_keeps => State.dropPackets s x

theorem State.dropRequests_keeps (s : State) (id : Nat) : Keeps s (State.dropRequests s id) := by
  grind -ring -linarith -lia -ac -order [State.dropRequests, keeps_iff]

grind_pattern State.dropRequests_keeps => State.dropRequests s id

theorem State.sendAborts_keeps (s : State) (x : Exchange) (status : Nat) : Keeps s (State.sendAborts s x status) := by
  grind -ring -linarith -lia -ac -order [State.sendAborts, keeps_iff]

grind_pattern State.sendAborts_keeps => State.sendAborts s x status

theorem State.hardFail_keeps (s : State) (n : Nat) (pos : W32) (status detail cause peer : Nat) (abort : Bool) : Keeps s (State.hardFail s n pos status detail cause peer abort) := by
  grind -ring -linarith -lia -ac -order [State.hardFail, keeps_iff]

grind_pattern State.hardFail_keeps => State.hardFail s n pos status detail cause peer abort

theorem State.releaseBuffer_keeps (s : State) (pool : BitVec 2) (index : BitVec 24) : Keeps s (State.releaseBuffer s pool index) := by
  grind -ring -linarith -lia -ac -order [State.releaseBuffer, keeps_iff]

grind_pattern State.releaseBuffer_keeps => State.releaseBuffer s pool index

theorem State.releaseSet_keeps (s : State) (k : Nat) : Keeps s (State.releaseSet s k) := by
  grind -ring -linarith -lia -ac -order [State.releaseSet, keeps_iff]

grind_pattern State.releaseSet_keeps => State.releaseSet s k

theorem State.bsetRelease_keeps (s : State) (k : Nat) : Keeps s (State.bsetRelease s k) := by
  grind -ring -linarith -lia -ac -order [State.bsetRelease, keeps_iff]

grind_pattern State.bsetRelease_keeps => State.bsetRelease s k

theorem State.releaseAtRecord_keeps (s : State) (e : Entry) : Keeps s (State.releaseAtRecord s e) := by
  grind -ring -linarith -lia -ac -order [State.releaseAtRecord, keeps_iff]

grind_pattern State.releaseAtRecord_keeps => State.releaseAtRecord s e

theorem State.sendRequests_keeps (k : Nat) (s : State) : Keeps s (s.sendRequests k) := by
  induction k generalizing s with
  | zero => exact Keeps.refl s
  | succ k ih => grind -ring -linarith -lia -ac -order [State.sendRequests, keeps_iff]

grind_pattern State.sendRequests_keeps => s.sendRequests k

theorem State.pumpRequests_keeps (s : State) : Keeps s (State.pumpRequests s) := by
  grind -ring -linarith -lia -ac -order [State.pumpRequests, keeps_iff]

grind_pattern State.pumpRequests_keeps => State.pumpRequests s

theorem State.beginAlloc_keeps (s : State) (x : Exchange) (e : Entry) (parts : List ExpertPart) : Keeps s (State.beginAlloc s x e parts) := by
  grind -ring -linarith -lia -ac -order [State.beginAlloc, keeps_iff]

grind_pattern State.beginAlloc_keeps => State.beginAlloc s x e parts

theorem State.sendReady_keeps (s : State) (x : Exchange) (k : Nat) : Keeps s (State.sendReady s x k) := by
  grind -ring -linarith -lia -ac -order [State.sendReady, keeps_iff]

grind_pattern State.sendReady_keeps => State.sendReady s x k

theorem State.serveAllocs_keeps (k : Nat) (s : State) : Keeps s (s.serveAllocs k) := by
  induction k generalizing s with
  | zero => exact Keeps.refl s
  | succ k ih => grind -ring -linarith -lia -ac -order [State.serveAllocs, keeps_iff]

grind_pattern State.serveAllocs_keeps => s.serveAllocs k

theorem State.allocate_keeps (s : State) : Keeps s (State.allocate s) := by
  grind -ring -linarith -lia -ac -order [State.allocate, keeps_iff]

grind_pattern State.allocate_keeps => State.allocate s

theorem State.setLayout_keeps (s : State) (n : Nat) (pos : W32) (b : XchDesc) (parts : List ExpertPart) : Keeps s (State.setLayout s n pos b parts) := by
  grind -ring -linarith -lia -ac -order [State.setLayout, keeps_iff]

grind_pattern State.setLayout_keeps => State.setLayout s n pos b parts

theorem State.tryLayout_keeps (s : State) (n : Nat) (pos : W32) (b : XchDesc) : Keeps s (State.tryLayout s n pos b) := by
  grind -ring -linarith -lia -ac -order [State.tryLayout, keeps_iff]

grind_pattern State.tryLayout_keeps => State.tryLayout s n pos b

theorem State.sendCounts_keeps (s : State) (n : Nat) (pos : W32) (x : Exchange) (b : XchDesc) : Keeps s (State.sendCounts s n pos x b) := by
  grind -ring -linarith -lia -ac -order [State.sendCounts, keeps_iff]

grind_pattern State.sendCounts_keeps => State.sendCounts s n pos x b

theorem State.takeCount_keeps (s : State) (n : Nat) (pos : W32) (b : XchDesc) (p : Packet) : Keeps s (State.takeCount s n pos b p) := by
  grind -ring -linarith -lia -ac -order [State.takeCount, keeps_iff]

grind_pattern State.takeCount_keeps => State.takeCount s n pos b p

theorem State.tookPiece_keeps (s : State) (n : Nat) (pos : W32) (b : XchDesc) (row pkt src : Nat) : Keeps s (State.tookPiece s n pos b row pkt src) := by
  grind -ring -linarith -lia -ac -order [State.tookPiece, keeps_iff]

grind_pattern State.tookPiece_keeps => State.tookPiece s n pos b row pkt src

theorem State.xchPut_keeps (s : State) (n : Nat) (pos : W32) (space a : Nat) (bytes : List W8) (bad : Bool) : Keeps s (State.xchPut s n pos space a bytes bad) := by
  grind -ring -linarith -lia -ac -order [State.xchPut, keeps_iff]

grind_pattern State.xchPut_keeps => State.xchPut s n pos space a bytes bad

theorem State.xchLines_keeps (s : State) (n : Nat) (pos : W32) (space a : Nat) (bytes : List W8) (bad : Nat → Nat → Bool) : Keeps s (State.xchLines s n pos space a bytes bad) := by
  grind -ring -linarith -lia -ac -order [State.xchLines, keeps_iff]

grind_pattern State.xchLines_keeps => State.xchLines s n pos space a bytes bad

theorem State.placeRow_keeps (s : State) (n : Nat) (pos : W32) (b : XchDesc) (p : Packet) (bad write : Bool) : Keeps s (State.placeRow s n pos b p bad write) := by
  unfold State.placeRow
  repeat' first | exact Keeps.refl _ | exact State.stopWork_keeps .. | refine Keeps.ite ?_ ?_ | split
  all_goals grind (splits := 20) (ematch := 15) (gen := 15) -ring -linarith -lia -ac -order [keeps_iff]

grind_pattern State.placeRow_keeps => State.placeRow s n pos b p bad write

theorem State.stageRow_keeps (s : State) (n : Nat) (pos : W32) (x : Exchange) (b : XchDesc) (p : Packet) (bad write : Bool) : Keeps s (State.stageRow s n pos x b p bad write) := by
  grind -ring -linarith -lia -ac -order [State.stageRow, keeps_iff]

grind_pattern State.stageRow_keeps => State.stageRow s n pos x b p bad write

theorem State.tokenOut_keeps (s : State) (n : Nat) (pos : W32) (x : Exchange) (b : XchDesc) (t : Nat) : Keeps s (State.tokenOut s n pos x b t) := by
  unfold State.tokenOut
  generalize decide (s.classOf n = 2#2) = draught
  extract_lets -lift js zero d ranges
  clear_value ranges d
  split
  split
  refine Keeps.ite (Keeps.refl s) ?_
  exact ((((State.sealReads_keeps ..).trans (State.readRows_keeps ..)).trans (State.putLines_keeps ..)).trans (State.raise_keeps ..)).trans
    (State.modExchange_keeps ..)

grind_pattern State.tokenOut_keeps => State.tokenOut s n pos x b t

theorem State.tokensOut_keeps (s : State) (n : Nat) (pos : W32) (b : XchDesc) : Keeps s (State.tokensOut s n pos b) := by
  grind -ring -linarith -lia -ac -order [State.tokensOut, keeps_iff]

grind_pattern State.tokensOut_keeps => State.tokensOut s n pos b

theorem State.writeDw_keeps (s : State) (n : Nat) (pos : W32) (b : XchDesc) (tokenSlot : W32) (dw : W32) (bad : Bool) : Keeps s (State.writeDw s n pos b tokenSlot dw bad) := by
  grind -ring -linarith -lia -ac -order [State.writeDw, keeps_iff]

grind_pattern State.writeDw_keeps => State.writeDw s n pos b tokenSlot dw bad

theorem State.gradDone_keeps (s : State) (n : Nat) (pos : W32) (x : Exchange) (b : XchDesc) (lb : BufferSet) (a : Nat) (row : List (Packet × Bool)) : Keeps s (State.gradDone s n pos x b lb a row) := by
  unfold State.gradDone
  repeat' first | exact Keeps.refl _ | exact State.stopWork_keeps .. | refine Keeps.ite ?_ ?_ | split
  all_goals grind (splits := 20) (ematch := 15) (gen := 15) -ring -linarith -lia -ac -order [keeps_iff]

grind_pattern State.gradDone_keeps => State.gradDone s n pos x b lb a row

theorem State.gradStep_keeps (s : State) (n : Nat) (pos : W32) (b : XchDesc) : Keeps s (State.gradStep s n pos b) := by
  unfold State.gradStep
  split
  · split
    · exact Keeps.refl s
    · extract_lets -lift reads out
      refine Keeps.ite (Keeps.refl s) ?_
      split
      · exact (State.readiness_keeps ‹_›).trans (State.modEntry_keeps ..)
      · exact Keeps.refl s
      · exact (State.readRows_keeps ..).trans (State.gradDone_keeps ..)
  · exact Keeps.refl s

grind_pattern State.gradStep_keeps => State.gradStep s n pos b

theorem State.gradRows_keeps (n : Nat) (pos : W32) (b : XchDesc) (k : Nat) (s : State) : Keeps s (State.gradRows n pos b k s) := by
  induction k generalizing s with
  | zero => exact Keeps.refl s
  | succ k ih => grind -ring -linarith -lia -ac -order [State.gradRows, keeps_iff]

grind_pattern State.gradRows_keeps => State.gradRows n pos b k s

theorem State.takeRow_keeps (s : State) (n : Nat) (pos : W32) (b : XchDesc) (p : Packet) (bad write : Bool) : Keeps s (State.takeRow s n pos b p bad write) := by
  grind -ring -linarith -lia -ac -order [State.takeRow, keeps_iff]

grind_pattern State.takeRow_keeps => State.takeRow s n pos b p bad write

theorem State.sendRow_keeps (s : State) (n : Nat) (pos : W32) (x : Exchange) (b : XchDesc) (m : Nat) (r : OutRow) : Keeps s (State.sendRow s n pos x b m r) := by
  grind -ring -linarith -lia -ac -order [State.sendRow, keeps_iff]

grind_pattern State.sendRow_keeps => State.sendRow s n pos x b m r

theorem State.sendRows_keeps (s : State) (n : Nat) (pos : W32) (b : XchDesc) : Keeps s (State.sendRows s n pos b) := by
  unfold State.sendRows
  repeat' first | exact Keeps.refl _ | exact State.stopWork_keeps .. | refine Keeps.ite ?_ ?_ | split
  all_goals grind (splits := 20) (ematch := 15) (gen := 15) -ring -linarith -lia -ac -order [keeps_iff]

grind_pattern State.sendRows_keeps => State.sendRows s n pos b

theorem State.sendDws_keeps (s : State) (n : Nat) (pos : W32) (b : XchDesc) (m : Nat) : Keeps s (State.sendDws s n pos b m) := by
  grind -ring -linarith -lia -ac -order [State.sendDws, keeps_iff]

grind_pattern State.sendDws_keeps => State.sendDws s n pos b m

theorem State.sendDones_keeps (s : State) (n : Nat) (pos : W32) (b : XchDesc) : Keeps s (State.sendDones s n pos b) := by
  grind -ring -linarith -lia -ac -order [State.sendDones, keeps_iff]

grind_pattern State.sendDones_keeps => State.sendDones s n pos b

theorem State.endExchange_keeps (s : State) (n : Nat) (pos : W32) (x : Exchange) (b : XchDesc) : Keeps s (State.endExchange s n pos x b) := by
  grind -ring -linarith -lia -ac -order [State.endExchange, keeps_iff]

grind_pattern State.endExchange_keeps => State.endExchange s n pos x b

theorem State.nullDws_keeps (s : State) (n : Nat) (pos : W32) (b : XchDesc) : Keeps s (State.nullDws s n pos b) := by
  grind -ring -linarith -lia -ac -order [State.nullDws, keeps_iff]

grind_pattern State.nullDws_keeps => State.nullDws s n pos b

theorem State.settleExchange_keeps (s : State) (n : Nat) (pos : W32) : Keeps s (State.settleExchange s n pos) := by
  grind -ring -linarith -lia -ac -order [State.settleExchange, keeps_iff]

grind_pattern State.settleExchange_keeps => State.settleExchange s n pos

theorem State.takeDw_keeps (s : State) (n : Nat) (pos : W32) (b : XchDesc) (p : Packet) (bad : Bool) : Keeps s (State.takeDw s n pos b p bad) := by
  grind -ring -linarith -lia -ac -order [State.takeDw, keeps_iff]

grind_pattern State.takeDw_keeps => State.takeDw s n pos b p bad

theorem State.actOnPacket_keeps (s : State) (n : Nat) (pos : W32) (b : XchDesc) (p : Packet) (ok sent : Bool) : Keeps s (State.actOnPacket s n pos b p ok sent) := by
  grind -ring -linarith -lia -ac -order [State.actOnPacket, keeps_iff]

grind_pattern State.actOnPacket_keeps => State.actOnPacket s n pos b p ok sent

theorem State.logCrc_keeps (s : State) (n : Nat) (pos : W32) (port : Nat) (p : Packet) : Keeps s (State.logCrc s n pos port p) := by
  grind -ring -linarith -lia -ac -order [State.logCrc, keeps_iff]

grind_pattern State.logCrc_keeps => State.logCrc s n pos port p

theorem State.enroll_keeps (s : State) (n : Nat) (e : Entry) (route : List RouteEntry) : Keeps s (State.enroll s n e route) := by
  grind -ring -linarith -lia -ac -order [State.enroll, keeps_iff]

grind_pattern State.enroll_keeps => State.enroll s n e route

theorem State.failUnstarted_keeps (s : State) (n : Nat) (e : Entry) (status detail cause peer : Nat) (abort : Bool) : Keeps s (State.failUnstarted s n e status detail cause peer abort) := by
  grind -ring -linarith -lia -ac -order [State.failUnstarted, keeps_iff]

grind_pattern State.failUnstarted_keeps => State.failUnstarted s n e status detail cause peer abort

theorem State.takeLive_keeps (s : State) (port : Nat) (p : Packet) (sent : Bool) (n : Nat) (e : Entry) : Keeps s (State.takeLive s port p sent n e) := by
  grind -ring -linarith -lia -ac -order [State.takeLive, keeps_iff]

grind_pattern State.takeLive_keeps => State.takeLive s port p sent n e

theorem State.takeEarly_keeps (s : State) (port : Nat) (p : Packet) (sent : Bool) : Keeps s (State.takeEarly s port p sent) := by
  grind -ring -linarith -lia -ac -order [State.takeEarly, keeps_iff]

grind_pattern State.takeEarly_keeps => State.takeEarly s port p sent

theorem State.takePacket_keeps (s : State) (port : Nat) (p : Packet) (sent : Bool) : Keeps s (State.takePacket s port p sent) := by
  grind -ring -linarith -lia -ac -order [State.takePacket, keeps_iff]

grind_pattern State.takePacket_keeps => State.takePacket s port p sent

theorem State.stalePacket_keeps (s : State) (p : Packet) : Keeps s (State.stalePacket s p) := by
  grind -ring -linarith -lia -ac -order [State.stalePacket, keeps_iff]

grind_pattern State.stalePacket_keeps => State.stalePacket s p

theorem State.receivePacket_keeps (s : State) (port : Nat) (p : Packet) (sent : Bool) : Keeps s (State.receivePacket s port p sent) := by
  grind -ring -linarith -lia -ac -order [State.receivePacket, keeps_iff]

grind_pattern State.receivePacket_keeps => State.receivePacket s port p sent

theorem State.takePending_keeps (s : State) (x : Exchange) : Keeps s (State.takePending s x) := by
  grind -ring -linarith -lia -ac -order [State.takePending, keeps_iff]

grind_pattern State.takePending_keeps => State.takePending s x

theorem State.startExchange_keeps (s : State) (n : Nat) (e : Entry) : Keeps s (State.startExchange s n e) := by
  grind -ring -linarith -lia -ac -order [State.startExchange, keeps_iff]

grind_pattern State.startExchange_keeps => State.startExchange s n e

theorem State.exchangeWork_keeps (s : State) (n : Nat) (e : Entry) : Keeps s (State.exchangeWork s n e) := by
  grind -ring -linarith -lia -ac -order [State.exchangeWork, keeps_iff]

grind_pattern State.exchangeWork_keeps => State.exchangeWork s n e

theorem State.exchangeCommand_keeps (s : State) (ring : BitVec 7) (pos : W32) (combine reverse : Bool) : Keeps s (State.exchangeCommand s ring pos combine reverse) := by
  grind -ring -linarith -lia -ac -order [State.exchangeCommand, keeps_iff]

grind_pattern State.exchangeCommand_keeps => State.exchangeCommand s ring pos combine reverse

/-! ### Packets -/

theorem State.sendItem_keeps (s : State) (port : Nat) (i : TxItem) : Keeps s (State.sendItem s port i) := by
  grind -ring -linarith -lia -ac -order [State.sendItem, keeps_iff]

grind_pattern State.sendItem_keeps => State.sendItem s port i

theorem State.holdInput_keeps (s : State) (c : Instr) : Keeps s (State.holdInput s c) := by
  grind -ring -linarith -lia -ac -order [State.holdInput, keeps_iff]

grind_pattern State.holdInput_keeps => State.holdInput s c

theorem State.grantPort_keeps (s : State) (port : Nat) : Keeps s (State.grantPort s port) := by
  grind -ring -linarith -lia -ac -order [State.grantPort, keeps_iff]

grind_pattern State.grantPort_keeps => State.grantPort s port

theorem State.regrant_keeps (s : State) : Keeps s (State.regrant s) := by
  grind -ring -linarith -lia -ac -order [State.regrant, keeps_iff]

grind_pattern State.regrant_keeps => State.regrant s

theorem State.takeUnits_keeps {s t : State} {port : Nat} {p : Packet} (h : s.takeUnits port p = some t) : Keeps s t := by
  grind -ring -linarith -lia -ac -order [State.takeUnits, keeps_iff]

grind_pattern State.takeUnits_keeps => s.takeUnits port p, some t

theorem State.livePacket_keeps (s : State) (port : Nat) (p : Packet) : Keeps s (State.livePacket s port p) := by
  grind -ring -linarith -lia -ac -order [State.livePacket, keeps_iff]

grind_pattern State.livePacket_keeps => State.livePacket s port p

theorem State.arrivePacket_keeps (s : State) (port : Nat) (p : Packet) (c : Instr) : Keeps s (State.arrivePacket s port p c) := by
  grind -ring -linarith -lia -ac -order [State.arrivePacket, keeps_iff]

grind_pattern State.arrivePacket_keeps => State.arrivePacket s port p c

theorem State.takeRows_keeps (k : Nat) (s : State) : Keeps s (State.takeRows k s) := by
  induction k generalizing s with
  | zero => exact Keeps.refl s
  | succ k ih => grind -ring -linarith -lia -ac -order [State.takeRows, keeps_iff]

grind_pattern State.takeRows_keeps => State.takeRows k s

theorem State.packetIn_keeps (s : State) (port : Nat) (p : Packet) (types : List Nat) (c : Instr) : Keeps s (State.packetIn s port p types c) := by
  grind -ring -linarith -lia -ac -order [State.packetIn, keeps_iff]

grind_pattern State.packetIn_keeps => State.packetIn s port p types c

theorem State.grantBuffer_keeps (s : State) (tag : W8) (pool : BitVec 2) (index : BitVec 24) (base : BitVec 52) : Keeps s (State.grantBuffer s tag pool index base) := by
  unfold State.grantBuffer
  repeat' first | exact Keeps.refl _ | exact State.stopWork_keeps .. | refine Keeps.ite ?_ ?_ | split
  all_goals grind (splits := 20) (ematch := 15) (gen := 15) -ring -linarith -lia -ac -order [keeps_iff]

grind_pattern State.grantBuffer_keeps => State.grantBuffer s tag pool index base

theorem State.liveGrant_keeps (s : State) (tag : W8) (pool : BitVec 2) (index : BitVec 24) (base : BitVec 52) : Keeps s (State.liveGrant s tag pool index base) := by
  grind -ring -linarith -lia -ac -order [State.liveGrant, keeps_iff]

grind_pattern State.liveGrant_keeps => State.liveGrant s tag pool index base

theorem State.setWarn_keeps (s : State) (warn : W8) : Keeps s (State.setWarn s warn) := by
  grind -ring -linarith -lia -ac -order [State.setWarn, keeps_iff]

grind_pattern State.setWarn_keeps => State.setWarn s warn

theorem State.liveWarn_keeps (s : State) (warn : W8) : Keeps s (State.liveWarn s warn) := by
  grind -ring -linarith -lia -ac -order [State.liveWarn, keeps_iff]

grind_pattern State.liveWarn_keeps => State.liveWarn s warn

theorem State.warnIn_keeps (s : State) (warn : W8) : Keeps s (State.warnIn s warn) := by
  grind -ring -linarith -lia -ac -order [State.warnIn, keeps_iff]

grind_pattern State.warnIn_keeps => State.warnIn s warn

/-! ### Issue -/

theorem State.enterSession_keeps (s : State) (n : Nat) (desc : DescBits) (failed : Bool) : Keeps s (State.enterSession s n desc failed) := by
  grind -ring -linarith -lia -ac -order [State.enterSession, keeps_iff]

grind_pattern State.enterSession_keeps => State.enterSession s n desc failed

theorem State.sealAtIssue_keeps (s : State) (n : Nat) (desc : DescBits) (failed : Bool) : Keeps s (s.sealAtIssue n desc failed).1 := by
  grind -ring -linarith -lia -ac -order [State.sealAtIssue, keeps_iff]

grind_pattern State.sealAtIssue_keeps => s.sealAtIssue n desc failed

theorem State.placeEntry_keeps (s : State) (n : Nat) (e : Entry) : Keeps s (State.placeEntry s n e) := by
  grind -ring -linarith -lia -ac -order [State.placeEntry, keeps_iff]

grind_pattern State.placeEntry_keeps => State.placeEntry s n e

theorem State.issueRefused_keeps (s : State) (n : Nat) (f : Fetched) (v : Nat × Nat) : Keeps s (State.issueRefused s n f v) := by
  grind -ring -linarith -lia -ac -order [State.issueRefused, keeps_iff]

grind_pattern State.issueRefused_keeps => State.issueRefused s n f v

theorem State.yieldTo_keeps (s : State) (h : Nat) : Keeps s (State.yieldTo s h) := by
  grind -ring -linarith -lia -ac -order [State.yieldTo, keeps_iff]

grind_pattern State.yieldTo_keeps => State.yieldTo s h

theorem State.issueAccepted_keeps (s : State) (n : Nat) (f : Fetched) (mask admitted : W64) (p : Plan) : Keeps s (State.issueAccepted s n f mask admitted p) := by
  grind -ring -linarith -lia -ac -order [State.issueAccepted, keeps_iff]

grind_pattern State.issueAccepted_keeps => State.issueAccepted s n f mask admitted p

theorem State.issueOf_keeps {s t : State} {n : Nat} {f : Fetched} (h : s.issueOf n f = some t) : Keeps s t := by
  grind -ring -linarith -lia -ac -order [State.issueOf]

grind_pattern State.issueOf_keeps => s.issueOf n f, some t

theorem State.issueRing_keeps {s t : State} {n : Nat} (h : s.issueRing n = some t) : Keeps s t := by
  grind -ring -linarith -lia -ac -order [State.issueRing]

grind_pattern State.issueRing_keeps => s.issueRing n, some t

theorem State.issue_keeps (s : State) : Keeps s (State.issue s) := by
  grind -ring -linarith -lia -ac -order [State.issue, keeps_iff]

grind_pattern State.issue_keeps => State.issue s

/-! ### The end of work -/

theorem State.writeSealRecord_keeps (s : State) (n : Nat) (pos : W32) (space a : Nat) (bytes : List W8) : Keeps s (State.writeSealRecord s n pos space a bytes) := by
  grind -ring -linarith -lia -ac -order [State.writeSealRecord, keeps_iff]

grind_pattern State.writeSealRecord_keeps => State.writeSealRecord s n pos space a bytes

theorem State.sealClose_keeps (s : State) (n : Nat) (e : Entry) : Keeps s (State.sealClose s n e) := by
  grind -ring -linarith -lia -ac -order [State.sealClose, keeps_iff]

grind_pattern State.sealClose_keeps => State.sealClose s n e

theorem State.leaveTile_keeps (s : State) (e : Entry) (h a : Nat) : Keeps s (State.leaveTile s e h a) := by
  grind -ring -linarith -lia -ac -order [State.leaveTile, keeps_iff]

grind_pattern State.leaveTile_keeps => State.leaveTile s e h a

theorem State.leaveSlots_keeps (s : State) (e : Entry) : Keeps s (State.leaveSlots s e) := by
  grind -ring -linarith -lia -ac -order [State.leaveSlots, keeps_iff]

grind_pattern State.leaveSlots_keeps => State.leaveSlots s e

theorem State.leaveRecords_keeps (s : State) (e : Entry) : Keeps s (State.leaveRecords s e) := by
  grind -ring -linarith -lia -ac -order [State.leaveRecords, keeps_iff]

grind_pattern State.leaveRecords_keeps => State.leaveRecords s e

theorem State.abandon_keeps (s : State) (e : Entry) : Keeps s (State.abandon s e) := by
  grind -ring -linarith -lia -ac -order [State.abandon, keeps_iff]

grind_pattern State.abandon_keeps => State.abandon s e

theorem State.dropMarks_keeps (s : State) (n : Nat) (pos : W32) : Keeps s (State.dropMarks s n pos) := by
  grind -ring -linarith -lia -ac -order [State.dropMarks, keeps_iff]

grind_pattern State.dropMarks_keeps => State.dropMarks s n pos

/-! ### Audit -/

theorem State.strike_keeps (s : State) (u : Upset) : Keeps s (State.strike s u) := by
  grind -ring -linarith -lia -ac -order [State.strike, keeps_iff]

grind_pattern State.strike_keeps => State.strike s u

theorem State.measure_keeps (s : State) (leader : W64) (ns : Nat) : Keeps s (State.measure s leader ns) := by
  grind -ring -linarith -lia -ac -order [State.measure, keeps_iff]

grind_pattern State.measure_keeps => State.measure s leader ns

theorem State.livePulse_keeps (s : State) (leader : W64) (ns : Nat) : Keeps s (State.livePulse s leader ns) := by
  grind -ring -linarith -lia -ac -order [State.livePulse, keeps_iff]

grind_pattern State.livePulse_keeps => State.livePulse s leader ns

theorem State.takeWaiting_keeps (s : State) : Keeps s (State.takeWaiting s) := by
  grind -ring -linarith -lia -ac -order [State.takeWaiting, keeps_iff]

grind_pattern State.takeWaiting_keeps => State.takeWaiting s

theorem State.enableRecorder_keeps (s : State) : Keeps s (State.enableRecorder s) := by
  grind -ring -linarith -lia -ac -order [State.enableRecorder, keeps_iff]

grind_pattern State.enableRecorder_keeps => State.enableRecorder s

theorem State.replayed_keeps (s : State) (waiting : List Instr) : Keeps s (State.replayed s waiting) := by
  grind -ring -linarith -lia -ac -order [State.replayed, keeps_iff]

grind_pattern State.replayed_keeps => State.replayed s waiting

theorem State.replayPacket_keeps (s : State) (c : Instr) : Keeps s (State.replayPacket s c) := by
  grind -ring -linarith -lia -ac -order [State.replayPacket, keeps_iff]

grind_pattern State.replayPacket_keeps => State.replayPacket s c

theorem State.replayGrant_keeps (s : State) (r : Nat) : Keeps s (State.replayGrant s r) := by
  grind -ring -linarith -lia -ac -order [State.replayGrant, keeps_iff]

grind_pattern State.replayGrant_keeps => State.replayGrant s r

theorem State.replayWarn_keeps (s : State) (r : Nat) : Keeps s (State.replayWarn s r) := by
  grind -ring -linarith -lia -ac -order [State.replayWarn, keeps_iff]

grind_pattern State.replayWarn_keeps => State.replayWarn s r

theorem State.replayPulse_keeps (s : State) (r : Nat) : Keeps s (State.replayPulse s r) := by
  grind -ring -linarith -lia -ac -order [State.replayPulse, keeps_iff]

grind_pattern State.replayPulse_keeps => State.replayPulse s r

theorem State.replayStep_keeps (s : State) : Keeps s (State.replayStep s) := by
  unfold State.replayStep
  refine Keeps.ite ?_ (Keeps.refl s)
  extract_lets -lift r
  generalize fld r 0 0 8 = k
  split
  · exact (State.replayed_keeps ..).trans (State.takeDoorbell_keeps ..)
  · split
    · exact (State.replayPacket_keeps ..).trans (State.regrant_keeps ..)
    · exact Keeps.refl s
  · exact State.replayGrant_keeps ..
  · exact State.replayWarn_keeps ..
  · exact State.replayPulse_keeps ..
  · exact State.replayed_keeps ..
  · exact Keeps.refl s

grind_pattern State.replayStep_keeps => State.replayStep s

theorem State.takeInput_keeps (s : State) (c : Instr) : Keeps s (State.takeInput s c) := by
  unfold State.takeInput
  split
  · exact State.liveGrant_keeps ..
  · exact State.liveWarn_keeps ..
  · exact State.livePulse_keeps ..
  · split
    · exact State.livePacket_keeps ..
    · exact Keeps.refl s

grind_pattern State.takeInput_keeps => State.takeInput s c

theorem State.diverge_keeps (s : State) : Keeps s (State.diverge s) := by
  grind -ring -linarith -lia -ac -order [State.diverge, keeps_iff]

grind_pattern State.diverge_keeps => State.diverge s

/-! ### The Sash -/

theorem arrayWrite_keeps {s : State} {o base step n : Nat} {f : Nat → State} {other : State} (h : ∀ i, Keeps s (f i)) (k : Keeps s other) :
    Keeps s (arrayWrite o base step n f other) := by
  unfold arrayWrite
  split
  · exact h _
  · exact k

theorem State.patchGo_keeps (s : State) : Keeps s (State.patchGo s) := by
  grind -ring -linarith -lia -ac -order [State.patchGo, keeps_iff]

grind_pattern State.patchGo_keeps => State.patchGo s

theorem State.writeIrqMask_keeps (s : State) (mask : W16) : Keeps s (State.writeIrqMask s mask) := by
  grind -ring -linarith -lia -ac -order [State.writeIrqMask, keeps_iff]

grind_pattern State.writeIrqMask_keeps => State.writeIrqMask s mask

theorem State.writeBlock_keeps (s : State) (o d : Nat) : Keeps s (State.writeBlock s o d) := by
  unfold State.writeBlock
  extract_lets
  split
  · grind -ring -linarith -lia -ac -order [keeps_iff]
  split
  · grind -ring -linarith -lia -ac -order [keeps_iff]
  split
  · grind -ring -linarith -lia -ac -order [keeps_iff]
  split
  · grind -ring -linarith -lia -ac -order [keeps_iff]
  split
  · grind -ring -linarith -lia -ac -order [keeps_iff]
  refine arrayWrite_keeps (fun _ => by grind -ring -linarith -lia -ac -order [keeps_iff]) ?_
  refine arrayWrite_keeps (fun _ => by grind -ring -linarith -lia -ac -order [keeps_iff]) ?_
  refine arrayWrite_keeps (fun _ => by grind -ring -linarith -lia -ac -order [keeps_iff]) ?_
  exact Keeps.refl s

grind_pattern State.writeBlock_keeps => State.writeBlock s o d

theorem State.isoRelease_keeps (s : State) (d : Nat) : Keeps s (State.isoRelease s d) := by
  grind -ring -linarith -lia -ac -order [State.isoRelease, keeps_iff]

grind_pattern State.isoRelease_keeps => State.isoRelease s d

theorem State.writePstate_keeps (s : State) (v d : Nat) : Keeps s (State.writePstate s v d) := by
  grind -ring -linarith -lia -ac -order [State.writePstate, keeps_iff]

grind_pattern State.writePstate_keeps => State.writePstate s v d

theorem State.writePower_keeps (s : State) (o d : Nat) : Keeps s (State.writePower s o d) := by
  unfold State.writePower
  extract_lets
  split
  · grind -ring -linarith -lia -ac -order [keeps_iff]
  split
  · grind -ring -linarith -lia -ac -order [keeps_iff]
  split
  · grind -ring -linarith -lia -ac -order [keeps_iff]
  refine arrayWrite_keeps (fun _ => by grind -ring -linarith -lia -ac -order [keeps_iff]) ?_
  refine arrayWrite_keeps (fun _ => by grind -ring -linarith -lia -ac -order [keeps_iff]) ?_
  refine arrayWrite_keeps (fun _ => by grind -ring -linarith -lia -ac -order [keeps_iff]) ?_
  exact Keeps.refl s

grind_pattern State.writePower_keeps => State.writePower s o d

theorem State.disableRecorder_keeps (s : State) : Keeps s (State.disableRecorder s) := by
  grind -ring -linarith -lia -ac -order [State.disableRecorder, keeps_iff]

grind_pattern State.disableRecorder_keeps => State.disableRecorder s

theorem State.writeRecCtl_keeps (s : State) (d : Nat) : Keeps s (State.writeRecCtl s d) := by
  grind -ring -linarith -lia -ac -order [State.writeRecCtl, keeps_iff]

grind_pattern State.writeRecCtl_keeps => State.writeRecCtl s d

theorem State.writeAudit_keeps (s : State) (o d : Nat) : Keeps s (State.writeAudit s o d) := by
  unfold State.writeAudit
  extract_lets
  split
  · grind -ring -linarith -lia -ac -order [keeps_iff]
  split
  · grind -ring -linarith -lia -ac -order [keeps_iff]
  split
  · grind -ring -linarith -lia -ac -order [keeps_iff]
  split
  · grind -ring -linarith -lia -ac -order [keeps_iff]
  split
  · grind -ring -linarith -lia -ac -order [keeps_iff]
  split
  · grind -ring -linarith -lia -ac -order [keeps_iff]
  split
  · grind -ring -linarith -lia -ac -order [keeps_iff]
  refine arrayWrite_keeps (fun _ => by grind -ring -linarith -lia -ac -order [keeps_iff]) ?_
  refine arrayWrite_keeps (fun _ => by grind -ring -linarith -lia -ac -order [keeps_iff]) ?_
  refine arrayWrite_keeps (fun _ => by grind -ring -linarith -lia -ac -order [keeps_iff]) ?_
  exact Keeps.refl s

grind_pattern State.writeAudit_keeps => State.writeAudit s o d

theorem State.writeRing_keeps (s : State) (n o d : Nat) : Keeps s (State.writeRing s n o d) := by
  grind -ring -linarith -lia -ac -order [State.writeRing, keeps_iff]

grind_pattern State.writeRing_keeps => State.writeRing s n o d

theorem State.writeDoorbell_keeps (s : State) (n d : Nat) : Keeps s (State.writeDoorbell s n d) := by
  grind -ring -linarith -lia -ac -order [State.writeDoorbell, keeps_iff]

grind_pattern State.writeDoorbell_keeps => State.writeDoorbell s n d

theorem State.writeHearth_keeps (s : State) (h o d : Nat) : Keeps s (State.writeHearth s h o d) := by
  grind -ring -linarith -lia -ac -order [State.writeHearth, keeps_iff]

grind_pattern State.writeHearth_keeps => State.writeHearth s h o d

theorem State.writeTransom_keeps (s : State) (o d : Nat) : Keeps s (State.writeTransom s o d) := by
  grind -ring -linarith -lia -ac -order [State.writeTransom, keeps_iff]

grind_pattern State.writeTransom_keeps => State.writeTransom s o d

theorem State.forgetErrors_keeps (s : State) : Keeps s (State.forgetErrors s) := by
  grind -ring -linarith -lia -ac -order [State.forgetErrors, keeps_iff]

grind_pattern State.forgetErrors_keeps => State.forgetErrors s

theorem State.enableErrors_keeps (s : State) : Keeps s (State.enableErrors s) := by
  grind -ring -linarith -lia -ac -order [State.enableErrors, keeps_iff]

grind_pattern State.enableErrors_keeps => State.enableErrors s

theorem State.writeErrCtl_keeps (s : State) (d : Nat) : Keeps s (State.writeErrCtl s d) := by
  grind -ring -linarith -lia -ac -order [State.writeErrCtl, keeps_iff]

grind_pattern State.writeErrCtl_keeps => State.writeErrCtl s d

theorem State.writeErrors_keeps (s : State) (o d : Nat) : Keeps s (State.writeErrors s o d) := by
  grind -ring -linarith -lia -ac -order [State.writeErrors, keeps_iff]

grind_pattern State.writeErrors_keeps => State.writeErrors s o d

theorem State.allow_keeps (s : State) (ok : Bool) (f : Seal → Seal) (k : ∀ v, (f v).lcFuse = v.lcFuse) : Keeps s (State.allow s ok f) := by
  grind -ring -linarith -lia -ac -order [State.allow, keeps_iff]

grind_pattern State.allow_keeps => State.allow s ok f

theorem State.writeSealCtl_keeps (s : State) (d : Nat) : Keeps s (State.writeSealCtl s d) := by
  grind -ring -linarith -lia -ac -order [State.writeSealCtl, keeps_iff]

grind_pattern State.writeSealCtl_keeps => State.writeSealCtl s d

theorem State.writeSeal_keeps (s : State) (o d : Nat) : Keeps s (State.writeSeal s o d) := by
  unfold State.writeSeal
  extract_lets v
  refine Keeps.ite ?_ (Keeps.refl s)
  refine Keeps.ite (Keeps.ite (State.lcGo_keeps ..) (State.allow_keeps _ _ _ fun _ => rfl)) ?_
  refine Keeps.ite (State.allow_keeps _ _ _ fun _ => rfl) ?_
  refine Keeps.ite (State.writeSealCtl_keeps ..) ?_
  refine Keeps.ite ⟨rfl, rfl, fun _ h => h, id, id⟩ ?_
  refine Keeps.ite (State.writePolicy_keeps ..) ?_
  refine Keeps.ite (Keeps.ite (State.keyGo_keeps ..) (State.allow_keeps _ _ _ fun _ => rfl)) ?_
  refine Keeps.ite (State.allow_keeps _ _ _ fun _ => rfl) ?_
  refine Keeps.ite (Keeps.ite (State.attGo_keeps ..) (State.allow_keeps _ _ _ fun _ => rfl)) ?_
  exact arrayWrite_keeps (fun _ => State.allow_keeps _ _ _ fun _ => rfl) (Keeps.refl s)

grind_pattern State.writeSeal_keeps => State.writeSeal s o d

theorem State.writeMirror_keeps (s : State) (o : Nat) (w : W64) : Keeps s (State.writeMirror s o w) := by
  unfold State.writeMirror
  refine arrayWrite_keeps (fun _ => by grind -ring -linarith -lia -ac -order [keeps_iff]) ?_
  exact Keeps.refl s

grind_pattern State.writeMirror_keeps => State.writeMirror s o w

theorem State.writeReg_keeps (s : State) (o d : Nat) : Keeps s (State.writeReg s o d) := by
  unfold State.writeReg
  refine Keeps.ite (Keeps.refl s) ?_
  refine Keeps.ite (State.writeBlock_keeps ..) ?_
  refine Keeps.ite (State.writePower_keeps ..) ?_
  refine Keeps.ite (State.writeAudit_keeps ..) ?_
  refine Keeps.ite (State.writeRing_keeps ..) ?_
  refine Keeps.ite (State.writeDoorbell_keeps ..) ?_
  refine Keeps.ite (Keeps.ite (State.writeHearth_keeps ..) (Keeps.refl s)) ?_
  refine Keeps.ite (State.writeTransom_keeps ..) ?_
  refine Keeps.ite (State.writeErrors_keeps ..) ?_
  refine Keeps.ite (State.writeSeal_keeps ..) ?_
  exact Keeps.ite (State.writeMirror_keeps ..) (Keeps.refl s)

grind_pattern State.writeReg_keeps => State.writeReg s o d

theorem State.popEvent_keeps (s : State) : Keeps s s.popEvent.2 := by
  grind -ring -linarith -lia -ac -order [State.popEvent, keeps_iff]

grind_pattern State.popEvent_keeps => s.popEvent

theorem State.sashRead_keeps (s : State) (o : Nat) : Keeps s (s.sashRead o).2 := by
  grind -ring -linarith -lia -ac -order [State.sashRead, keeps_iff]

grind_pattern State.sashRead_keeps => s.sashRead o

theorem State.respond_keeps (s : State) (error : Bool) (data : W64) : Keeps s (State.respond s error data) := by
  grind -ring -linarith -lia -ac -order [State.respond, keeps_iff]

grind_pattern State.respond_keeps => State.respond s error data

theorem State.access_keeps (s : State) (write : Bool) (o d : Nat) : Keeps s (State.access s write o d) := by
  grind -ring -linarith -lia -ac -order [State.access, keeps_iff]

grind_pattern State.access_keeps => State.access s write o d

theorem State.stallAccess_keeps (s : State) (a : StalledAccess) : Keeps s (State.stallAccess s a) := by
  grind -ring -linarith -lia -ac -order [State.stallAccess, keeps_iff]

grind_pattern State.stallAccess_keeps => State.stallAccess s a

theorem State.badAccess_keeps (s : State) (write : Bool) (off : BitVec 20) (d : W64) : Keeps s (State.badAccess s write off d) := by
  grind -ring -linarith -lia -ac -order [State.badAccess, keeps_iff]

grind_pattern State.badAccess_keeps => State.badAccess s write off d

theorem State.sashAccess_keeps (s : State) (write : Bool) (off : BitVec 20) (d : W64) : Keeps s (State.sashAccess s write off d) := by
  grind -ring -linarith -lia -ac -order [State.sashAccess, keeps_iff]

grind_pattern State.sashAccess_keeps => State.sashAccess s write off d

theorem State.sashWrite_keeps (s : State) (off : Nat) (d : Nat) : Keeps s (State.sashWrite s off d) := by
  grind -ring -linarith -lia -ac -order [State.sashWrite, keeps_iff]

grind_pattern State.sashWrite_keeps => State.sashWrite s off d

theorem State.completeStalled_keeps (s : State) : Keeps s (State.completeStalled s) := by
  grind -ring -linarith -lia -ac -order [State.completeStalled, keeps_iff]

grind_pattern State.completeStalled_keeps => State.completeStalled s

theorem State.patchRead_keeps (s : State) (reason : BitVec 4) : Keeps s (State.patchRead s reason) := by
  grind -ring -linarith -lia -ac -order [State.patchRead, keeps_iff]

grind_pattern State.patchRead_keeps => State.patchRead s reason

/-! ### Alarms -/

theorem blow_keeps (bits : List Nat) (f : BitVec 4) (b : Nat) (h : f.getLsbD b = true) : (blow f bits).getLsbD b = true := by
  induction bits generalizing f with
  | nil => exact h
  | cons c bits ih => exact ih _ (by simp [h])

theorem Seal.blowFirst_keeps (v : Seal) (k b : Nat) (h : v.lcFuse.getLsbD b = true) : (v.blowFirst k).lcFuse.getLsbD b = true :=
  blow_keeps _ _ _ h

theorem State.cutFuses_keeps (s : State) : Keeps s (State.cutFuses s) := by
  grind -ring -linarith -lia -ac -order [State.cutFuses, keeps_iff, Seal.blowFirst_keeps]

grind_pattern State.cutFuses_keeps => State.cutFuses s

theorem State.punish_keeps (s : State) (p : Policy) : Keeps s (State.punish s p) := by
  unfold State.punish
  extract_lets t
  have k : Keeps s t := by grind (splits := 20) (ematch := 15) (gen := 15) -ring -linarith -lia -ac -order [keeps_iff]
  clear_value t
  have full : ∀ b < 4, (15#4).getLsbD b = true := by decide
  exact Keeps.ite ⟨k.1, k.2, fun b h => full b (BitVec.lt_of_getLsbD h), k.4, k.5⟩ k

grind_pattern State.punish_keeps => State.punish s p

theorem State.wipeMemories_keeps (s : State) : Keeps s (State.wipeMemories s) := ⟨rfl, rfl, fun _ h => h, id, fun _ => rfl⟩

grind_pattern State.wipeMemories_keeps => State.wipeMemories s

theorem State.startWipe_keeps (s : State) (kind : BitVec 3) : Keeps s (State.startWipe s kind) := by
  grind -ring -linarith -lia -ac -order [State.startWipe, keeps_iff]

grind_pattern State.startWipe_keeps => State.startWipe s kind

theorem State.endWipe_keeps (s : State) : Keeps s (State.endWipe s) := by
  grind -ring -linarith -lia -ac -order [State.endWipe, keeps_iff]

grind_pattern State.endWipe_keeps => State.endWipe s

theorem State.abortExchanges_keeps (s : State) : Keeps s (State.abortExchanges s) := by
  grind -ring -linarith -lia -ac -order [State.abortExchanges, keeps_iff]

grind_pattern State.abortExchanges_keeps => State.abortExchanges s

theorem State.dropWork_keeps (s : State) : Keeps s (State.dropWork s) := by
  grind -ring -linarith -lia -ac -order [State.dropWork, keeps_iff]

grind_pattern State.dropWork_keeps => State.dropWork s

theorem State.abortRing_keeps (s : State) (n : Nat) : Keeps s (State.abortRing s n) := by
  grind -ring -linarith -lia -ac -order [State.abortRing, keeps_iff]

grind_pattern State.abortRing_keeps => State.abortRing s n

theorem State.spoilOutputs_keeps (s : State) : Keeps s (State.spoilOutputs s) := by
  grind -ring -linarith -lia -ac -order [State.spoilOutputs, keeps_iff]

grind_pattern State.spoilOutputs_keeps => State.spoilOutputs s

theorem State.ringsOff_keeps (s : State) : Keeps s (State.ringsOff s) := by
  grind -ring -linarith -lia -ac -order [State.ringsOff, keeps_iff]

grind_pattern State.ringsOff_keeps => State.ringsOff s

theorem State.haltWork_keeps (s : State) : Keeps s (State.haltWork s) := by
  grind -ring -linarith -lia -ac -order [State.haltWork, keeps_iff]

grind_pattern State.haltWork_keeps => State.haltWork s

theorem State.noteAlarm_keeps (s : State) (i : Nat) : Keeps s (State.noteAlarm s i) := by
  grind -ring -linarith -lia -ac -order [State.noteAlarm, keeps_iff]

grind_pattern State.noteAlarm_keeps => State.noteAlarm s i

theorem State.alarmEvent_keeps (s : State) (i : Nat) (p : Policy) : Keeps s (State.alarmEvent s i p) := by
  grind -ring -linarith -lia -ac -order [State.alarmEvent, keeps_iff]

grind_pattern State.alarmEvent_keeps => State.alarmEvent s i p

theorem State.enforce_keeps (s : State) (p : Policy) : Keeps s (State.enforce s p) := by
  grind -ring -linarith -lia -ac -order [State.enforce, keeps_iff]

grind_pattern State.enforce_keeps => State.enforce s p

/-! ### Resets -/

theorem State.resetRails_keeps (s : State) (k : ResetKind) (before : BlockState) : Keeps s (State.resetRails s k before) := by
  unfold State.resetRails
  split <;> grind -ring -linarith -lia -ac -order [keeps_iff]

grind_pattern State.resetRails_keeps => State.resetRails s k before

theorem State.resetEmber_keeps (s : State) (k : ResetKind) : Keeps s (State.resetEmber s k) := by
  grind -ring -linarith -lia -ac -order [State.resetEmber, keeps_iff]

grind_pattern State.resetEmber_keeps => State.resetEmber s k

theorem State.startReset_keeps (s : State) (k : ResetKind) (cause : BitVec 3) : Keeps s (State.startReset s k cause) := by
  unfold State.startReset
  extract_lets -lift before t0 t u src w
  have k1 : Keeps s t0 := State.resetEmber_keeps ..
  have k2 : Keeps s t := ⟨k1.1, k1.2, fun _ h => h, fun h => k1.4 h, fun _ => rfl⟩
  have k3 : Keeps t u := (State.resetRails_keeps ..).trans (State.startWipe_keeps ..)
  have k4 : Keeps u w := ⟨rfl, rfl, fun _ h => h, id, id⟩
  clear_value t u w
  exact ((k2.trans k3).trans k4).trans ((Keeps.foldl (fun y v => State.raiseHearths_keeps ..) _ _).trans (State.completeStalled_keeps ..))

grind_pattern State.startReset_keeps => State.startReset s k cause

theorem State.unpowered_keeps (s : State) : Keeps s (State.unpowered s) := ⟨rfl, rfl, fun _ h => h, id, fun _ => rfl⟩

grind_pattern State.unpowered_keeps => State.unpowered s

theorem State.completeReset_keeps (s : State) (selftestFail entropyFail : Bool) (credits : List (BitVec 13 × BitVec 13)) : Keeps s (State.completeReset s selftestFail entropyFail credits) := by
  grind -ring -linarith -lia -ac -order [State.completeReset, keeps_iff]

grind_pattern State.completeReset_keeps => State.completeReset s selftestFail entropyFail credits

theorem State.completeAlarm_keeps (s : State) : Keeps s (State.completeAlarm s) := by
  grind -ring -linarith -lia -ac -order [State.completeAlarm, keeps_iff]

grind_pattern State.completeAlarm_keeps => State.completeAlarm s

theorem State.resume_keeps (s : State) (credits : List (BitVec 13 × BitVec 13)) (warn : W8) : Keeps s (State.resume s credits warn) := by
  grind -ring -linarith -lia -ac -order [State.resume, keeps_iff]

grind_pattern State.resume_keeps => State.resume s credits warn

/-! ### The test port -/

theorem State.capture_keeps (s : State) (d : DataRegister) : Keeps s (s.capture d).2 := by
  cases d <;> exact ⟨rfl, rfl, fun _ h => h, id, id⟩

grind_pattern State.capture_keeps => s.capture d

theorem State.loadTest_keeps (s : State) (code : W8) : Keeps s (State.loadTest s code) := by
  unfold State.loadTest
  refine Keeps.ite ?_ (Keeps.refl s)
  extract_lets -lift c d
  have k := State.capture_keeps s d
  exact ⟨k.1, k.2, k.3, k.4, k.5⟩

grind_pattern State.loadTest_keeps => State.loadTest s code

theorem State.loadCells_keeps (s : State) : Keeps s (State.loadCells s) := by
  grind -ring -linarith -lia -ac -order [State.loadCells, keeps_iff]

grind_pattern State.loadCells_keeps => State.loadCells s

theorem State.setWrapper_keeps (s : State) (h : Nat) (w : Wrapper) : Keeps s (State.setWrapper s h w) := by
  grind -ring -linarith -lia -ac -order [State.setWrapper, keeps_iff]

grind_pattern State.setWrapper_keeps => State.setWrapper s h w

theorem State.loadWrappers_keeps (s : State) (d : DataRegister) (f : Nat → Wrapper → Wrapper) : Keeps s (State.loadWrappers s d f) := by
  grind -ring -linarith -lia -ac -order [State.loadWrappers, keeps_iff]

grind_pattern State.loadWrappers_keeps => State.loadWrappers s d f

theorem State.driveTrst_keeps (s : State) (high : Bool) : Keeps s (State.driveTrst s high) := by
  grind -ring -linarith -lia -ac -order [State.driveTrst, keeps_iff]

grind_pattern State.driveTrst_keeps => State.driveTrst s high

/-! ### The management port -/

theorem State.mgmtAnswer_keeps (s : State) (acked : Bool) (data : List W8) : Keeps s (State.mgmtAnswer s acked data) := by
  grind -ring -linarith -lia -ac -order [State.mgmtAnswer, keeps_iff]

grind_pattern State.mgmtAnswer_keeps => State.mgmtAnswer s acked data

theorem State.mgmtWake_keeps (s : State) (bytes : Nat) : Keeps s (State.mgmtWake s bytes) := by
  grind -ring -linarith -lia -ac -order [State.mgmtWake, keeps_iff]

grind_pattern State.mgmtWake_keeps => State.mgmtWake s bytes

theorem State.mgmtPut_keeps (s : State) (bytes : List W8) : Keeps s (State.mgmtPut s bytes) := by
  grind -ring -linarith -lia -ac -order [State.mgmtPut, keeps_iff]

grind_pattern State.mgmtPut_keeps => State.mgmtPut s bytes

theorem State.mgmtGet_keeps (s : State) (ccc n : Nat) : Keeps s (State.mgmtGet s ccc n) := by
  grind -ring -linarith -lia -ac -order [State.mgmtGet, keeps_iff]

grind_pattern State.mgmtGet_keeps => State.mgmtGet s ccc n

/-! ### Memory ports -/

theorem State.freeCredit_keeps (s : State) (p : Nat) (r : Request) : Keeps s (State.freeCredit s p r) := by
  grind -ring -linarith -lia -ac -order [State.freeCredit, keeps_iff]

grind_pattern State.freeCredit_keeps => State.freeCredit s p r

theorem State.portError_keeps (s : State) (p : Nat) (r : Request) (severity cause status : Nat) (info : W64) : Keeps s (State.portError s p r severity cause status info) := by
  grind -ring -linarith -lia -ac -order [State.portError, keeps_iff]

grind_pattern State.portError_keeps => State.portError s p r severity cause status info

theorem State.requestLost_keeps (s : State) (p : Nat) (r : Request) (cause : Nat) (info : W64) : Keeps s (State.requestLost s p r cause info) := by
  grind -ring -linarith -lia -ac -order [State.requestLost, keeps_iff]

grind_pattern State.requestLost_keeps => State.requestLost s p r cause info

theorem State.readArrives_keeps (s : State) (r : Request) (data : List W8) (poison : BitVec 4) : Keeps s (State.readArrives s r data poison) := by
  grind -ring -linarith -lia -ac -order [State.readArrives, keeps_iff]

grind_pattern State.readArrives_keeps => State.readArrives s r data poison

theorem State.useRead_keeps (s : State) (p : Nat) (r : Request) (data : List W8) (poison : BitVec 4) : Keeps s (State.useRead s p r data poison) := by
  unfold State.useRead
  cases r.purpose with
  | descriptors c e => exact Keeps.ite (State.arriveDescriptors_keeps ..) (Keeps.ite (Keeps.refl s) (State.readFailed_keeps ..))
  | operand =>
    have k := State.readArrives_keeps s r data poison
    exact k.trans (Keeps.ite (State.sealRange_keeps ..) (Keeps.refl _))
  | reportData => exact (State.readArrives_keeps ..).trans (State.reportRead_keeps ..)
  | authorisation => exact (State.readArrives_keeps ..).trans (State.lcRead_keeps ..)
  | _ => exact Keeps.refl s

grind_pattern State.useRead_keeps => State.useRead s p r data poison

theorem State.loseRead_keeps (s : State) (p : Nat) (r : Request) (cause : Nat) (info : W64) : Keeps s (State.loseRead s p r cause info) := by
  grind -ring -linarith -lia -ac -order [State.loseRead, keeps_iff]

grind_pattern State.loseRead_keeps => State.loseRead s p r cause info

theorem State.repeatRead_keeps (s : State) (p : Nat) (r : Request) : Keeps s (State.repeatRead s p r) := by
  grind -ring -linarith -lia -ac -order [State.repeatRead, keeps_iff]

grind_pattern State.repeatRead_keeps => State.repeatRead s p r

theorem State.errorsOut_keeps (k : Nat) (s : State) : Keeps s (State.errorsOut k s) := by
  induction k generalizing s with
  | zero => exact Keeps.refl s
  | succ k ih => grind -ring -linarith -lia -ac -order [State.errorsOut, keeps_iff]

grind_pattern State.errorsOut_keeps => State.errorsOut k s

theorem State.errorWritten_keeps (s : State) (index : W32) : Keeps s (State.errorWritten s index) := by
  grind -ring -linarith -lia -ac -order [State.errorWritten, keeps_iff]

grind_pattern State.errorWritten_keeps => State.errorWritten s index

theorem State.useAck_keeps (s : State) (r : Request) : Keeps s (State.useAck s r) := by
  grind -ring -linarith -lia -ac -order [State.useAck, keeps_iff]

grind_pattern State.useAck_keeps => State.useAck s r

theorem State.loseWrite_keeps (s : State) (p : Nat) (r : Request) (err : W8) : Keeps s (State.loseWrite s p r err) := by
  unfold State.loseWrite
  extract_lets -lift info t
  have k : Keeps s t := State.spoilHost_keeps ..
  clear_value t
  refine k.trans ?_
  cases r.purpose with
  | output => exact State.requestLost_keeps ..
  | atomic o i w => exact State.requestLost_keeps ..
  | recordBody => exact State.recordFailed_keeps ..
  | phase => grind (splits := 20) (ematch := 15) (gen := 15) -ring -linarith -lia -ac -order [keeps_iff]
  | interrupt v => exact State.irqLost_keeps ..
  | errorRecord => exact State.errorWritten_keeps ..
  | recorder => exact State.portError_keeps ..
  | report => exact (State.portError_keeps ..).trans (State.reportFault_keeps ..)
  | _ => exact Keeps.refl t

grind_pattern State.loseWrite_keeps => State.loseWrite s p r err

end Sys2Proof.Machine
end

