-- ==== Sys2Proof/Laws/State.lean ====
section
/-! SUPPORT. The fields of a state after each basic update, and what a unit's state reads as after it. -/

namespace Sys2Proof.Machine

variable (s : State)

/-! ### setRing -/

@[simp] theorem State.setRing_cfg (n : Nat) (r : Ring) : (s.setRing n r).cfg = s.cfg := rfl
@[simp] theorem State.setRing_pending (n : Nat) (r : Ring) : (s.setRing n r).pending = s.pending := rfl
@[simp] theorem State.setRing_host (n : Nat) (r : Ring) : (s.setRing n r).host = s.host := rfl
@[simp] theorem State.setRing_hostPoison (n : Nat) (r : Ring) : (s.setRing n r).hostPoison = s.hostPoison := rfl
@[simp] theorem State.setRing_mantel (n : Nat) (r : Ring) : (s.setRing n r).mantel = s.mantel := rfl
@[simp] theorem State.setRing_mantelPoison (n : Nat) (r : Ring) : (s.setRing n r).mantelPoison = s.mantelPoison := rfl
@[simp] theorem State.setRing_mantelBad (n : Nat) (r : Ring) : (s.setRing n r).mantelBad = s.mantelBad := rfl
@[simp] theorem State.setRing_mantelSoft (n : Nat) (r : Ring) : (s.setRing n r).mantelSoft = s.mantelSoft := rfl
@[simp] theorem State.setRing_hearths (n : Nat) (r : Ring) : (s.setRing n r).hearths = s.hearths := rfl
@[simp] theorem State.setRing_ports (n : Nat) (r : Ring) : (s.setRing n r).ports = s.ports := rfl
@[simp] theorem State.setRing_blk (n : Nat) (r : Ring) : (s.setRing n r).blk = s.blk := rfl
@[simp] theorem State.setRing_pwr (n : Nat) (r : Ring) : (s.setRing n r).pwr = s.pwr := rfl
@[simp] theorem State.setRing_audit (n : Nat) (r : Ring) : (s.setRing n r).audit = s.audit := rfl
@[simp] theorem State.setRing_xch (n : Nat) (r : Ring) : (s.setRing n r).xch = s.xch := rfl
@[simp] theorem State.setRing_vault (n : Nat) (r : Ring) : (s.setRing n r).vault = s.vault := rfl
@[simp] theorem State.setRing_err (n : Nat) (r : Ring) : (s.setRing n r).err = s.err := rfl
@[simp] theorem State.setRing_maint (n : Nat) (r : Ring) : (s.setRing n r).maint = s.maint := rfl
@[simp] theorem State.setRing_sash (n : Nat) (r : Ring) : (s.setRing n r).sash = s.sash := rfl
@[simp] theorem State.setRing_mgmt (n : Nat) (r : Ring) : (s.setRing n r).mgmt = s.mgmt := rfl
@[simp] theorem State.setRing_jtag (n : Nat) (r : Ring) : (s.setRing n r).jtag = s.jtag := rfl
@[simp] theorem State.setRing_draws (n : Nat) (r : Ring) : (s.setRing n r).draws = s.draws := rfl

@[simp] theorem State.ring_setRing_self (n : Nat) (r : Ring) : (s.setRing n r).ring n = r := by
  simp [State.ring, State.setRing]

theorem State.ring_setRing (n : Nat) (r : Ring) (j : Nat) : (s.setRing n r).ring j = if j = n then r else s.ring j := by
  simp [State.ring, State.setRing, Tab.at_put]

@[simp] theorem State.hearth_setRing (n : Nat) (r : Ring) (j : Nat) : (s.setRing n r).hearth j = s.hearth j := rfl
@[simp] theorem State.port_setRing (n : Nat) (r : Ring) (j : Nat) : (s.setRing n r).port j = s.port j := rfl
@[simp] theorem State.stove_setRing (n : Nat) (r : Ring) (j : Nat) : (s.setRing n r).stove j = s.stove j := rfl

/-! ### setHearth -/

@[simp] theorem State.setHearth_cfg (h : Nat) (x : Hearth) : (s.setHearth h x).cfg = s.cfg := rfl
@[simp] theorem State.setHearth_pending (h : Nat) (x : Hearth) : (s.setHearth h x).pending = s.pending := rfl
@[simp] theorem State.setHearth_host (h : Nat) (x : Hearth) : (s.setHearth h x).host = s.host := rfl
@[simp] theorem State.setHearth_hostPoison (h : Nat) (x : Hearth) : (s.setHearth h x).hostPoison = s.hostPoison := rfl
@[simp] theorem State.setHearth_mantel (h : Nat) (x : Hearth) : (s.setHearth h x).mantel = s.mantel := rfl
@[simp] theorem State.setHearth_mantelPoison (h : Nat) (x : Hearth) : (s.setHearth h x).mantelPoison = s.mantelPoison := rfl
@[simp] theorem State.setHearth_mantelBad (h : Nat) (x : Hearth) : (s.setHearth h x).mantelBad = s.mantelBad := rfl
@[simp] theorem State.setHearth_mantelSoft (h : Nat) (x : Hearth) : (s.setHearth h x).mantelSoft = s.mantelSoft := rfl
@[simp] theorem State.setHearth_rings (h : Nat) (x : Hearth) : (s.setHearth h x).rings = s.rings := rfl
@[simp] theorem State.setHearth_ports (h : Nat) (x : Hearth) : (s.setHearth h x).ports = s.ports := rfl
@[simp] theorem State.setHearth_blk (h : Nat) (x : Hearth) : (s.setHearth h x).blk = s.blk := rfl
@[simp] theorem State.setHearth_pwr (h : Nat) (x : Hearth) : (s.setHearth h x).pwr = s.pwr := rfl
@[simp] theorem State.setHearth_audit (h : Nat) (x : Hearth) : (s.setHearth h x).audit = s.audit := rfl
@[simp] theorem State.setHearth_xch (h : Nat) (x : Hearth) : (s.setHearth h x).xch = s.xch := rfl
@[simp] theorem State.setHearth_vault (h : Nat) (x : Hearth) : (s.setHearth h x).vault = s.vault := rfl
@[simp] theorem State.setHearth_err (h : Nat) (x : Hearth) : (s.setHearth h x).err = s.err := rfl
@[simp] theorem State.setHearth_maint (h : Nat) (x : Hearth) : (s.setHearth h x).maint = s.maint := rfl
@[simp] theorem State.setHearth_sash (h : Nat) (x : Hearth) : (s.setHearth h x).sash = s.sash := rfl
@[simp] theorem State.setHearth_mgmt (h : Nat) (x : Hearth) : (s.setHearth h x).mgmt = s.mgmt := rfl
@[simp] theorem State.setHearth_jtag (h : Nat) (x : Hearth) : (s.setHearth h x).jtag = s.jtag := rfl
@[simp] theorem State.setHearth_draws (h : Nat) (x : Hearth) : (s.setHearth h x).draws = s.draws := rfl

@[simp] theorem State.hearth_setHearth_self (h : Nat) (x : Hearth) : (s.setHearth h x).hearth h = x := by
  simp [State.hearth, State.setHearth]

theorem State.hearth_setHearth (h : Nat) (x : Hearth) (j : Nat) : (s.setHearth h x).hearth j = if j = h then x else s.hearth j := by
  simp [State.hearth, State.setHearth, Tab.at_put]

@[simp] theorem State.ring_setHearth (h : Nat) (x : Hearth) (j : Nat) : (s.setHearth h x).ring j = s.ring j := rfl
@[simp] theorem State.port_setHearth (h : Nat) (x : Hearth) (j : Nat) : (s.setHearth h x).port j = s.port j := rfl
@[simp] theorem State.stove_setHearth (h : Nat) (x : Hearth) (j : Nat) : (s.setHearth h x).stove j = s.stove j := rfl

/-! ### setPort -/

@[simp] theorem State.setPort_cfg (p : Nat) (x : Port) : (s.setPort p x).cfg = s.cfg := rfl
@[simp] theorem State.setPort_pending (p : Nat) (x : Port) : (s.setPort p x).pending = s.pending := rfl
@[simp] theorem State.setPort_host (p : Nat) (x : Port) : (s.setPort p x).host = s.host := rfl
@[simp] theorem State.setPort_hostPoison (p : Nat) (x : Port) : (s.setPort p x).hostPoison = s.hostPoison := rfl
@[simp] theorem State.setPort_mantel (p : Nat) (x : Port) : (s.setPort p x).mantel = s.mantel := rfl
@[simp] theorem State.setPort_mantelPoison (p : Nat) (x : Port) : (s.setPort p x).mantelPoison = s.mantelPoison := rfl
@[simp] theorem State.setPort_mantelBad (p : Nat) (x : Port) : (s.setPort p x).mantelBad = s.mantelBad := rfl
@[simp] theorem State.setPort_mantelSoft (p : Nat) (x : Port) : (s.setPort p x).mantelSoft = s.mantelSoft := rfl
@[simp] theorem State.setPort_rings (p : Nat) (x : Port) : (s.setPort p x).rings = s.rings := rfl
@[simp] theorem State.setPort_hearths (p : Nat) (x : Port) : (s.setPort p x).hearths = s.hearths := rfl
@[simp] theorem State.setPort_blk (p : Nat) (x : Port) : (s.setPort p x).blk = s.blk := rfl
@[simp] theorem State.setPort_pwr (p : Nat) (x : Port) : (s.setPort p x).pwr = s.pwr := rfl
@[simp] theorem State.setPort_audit (p : Nat) (x : Port) : (s.setPort p x).audit = s.audit := rfl
@[simp] theorem State.setPort_xch (p : Nat) (x : Port) : (s.setPort p x).xch = s.xch := rfl
@[simp] theorem State.setPort_vault (p : Nat) (x : Port) : (s.setPort p x).vault = s.vault := rfl
@[simp] theorem State.setPort_err (p : Nat) (x : Port) : (s.setPort p x).err = s.err := rfl
@[simp] theorem State.setPort_maint (p : Nat) (x : Port) : (s.setPort p x).maint = s.maint := rfl
@[simp] theorem State.setPort_sash (p : Nat) (x : Port) : (s.setPort p x).sash = s.sash := rfl
@[simp] theorem State.setPort_mgmt (p : Nat) (x : Port) : (s.setPort p x).mgmt = s.mgmt := rfl
@[simp] theorem State.setPort_jtag (p : Nat) (x : Port) : (s.setPort p x).jtag = s.jtag := rfl
@[simp] theorem State.setPort_draws (p : Nat) (x : Port) : (s.setPort p x).draws = s.draws := rfl

@[simp] theorem State.port_setPort_self (p : Nat) (x : Port) : (s.setPort p x).port p = x := by
  simp [State.port, State.setPort]

theorem State.port_setPort (p : Nat) (x : Port) (j : Nat) : (s.setPort p x).port j = if j = p then x else s.port j := by
  simp [State.port, State.setPort, Tab.at_put]

@[simp] theorem State.ring_setPort (p : Nat) (x : Port) (j : Nat) : (s.setPort p x).ring j = s.ring j := rfl
@[simp] theorem State.hearth_setPort (p : Nat) (x : Port) (j : Nat) : (s.setPort p x).hearth j = s.hearth j := rfl
@[simp] theorem State.stove_setPort (p : Nat) (x : Port) (j : Nat) : (s.setPort p x).stove j = s.stove j := rfl

/-! ### setStove -/

@[simp] theorem State.setStove_cfg (v : Nat) (x : Stove) : (s.setStove v x).cfg = s.cfg := rfl
@[simp] theorem State.setStove_pending (v : Nat) (x : Stove) : (s.setStove v x).pending = s.pending := rfl
@[simp] theorem State.setStove_host (v : Nat) (x : Stove) : (s.setStove v x).host = s.host := rfl
@[simp] theorem State.setStove_hostPoison (v : Nat) (x : Stove) : (s.setStove v x).hostPoison = s.hostPoison := rfl
@[simp] theorem State.setStove_mantel (v : Nat) (x : Stove) : (s.setStove v x).mantel = s.mantel := rfl
@[simp] theorem State.setStove_mantelPoison (v : Nat) (x : Stove) : (s.setStove v x).mantelPoison = s.mantelPoison := rfl
@[simp] theorem State.setStove_mantelBad (v : Nat) (x : Stove) : (s.setStove v x).mantelBad = s.mantelBad := rfl
@[simp] theorem State.setStove_mantelSoft (v : Nat) (x : Stove) : (s.setStove v x).mantelSoft = s.mantelSoft := rfl
@[simp] theorem State.setStove_rings (v : Nat) (x : Stove) : (s.setStove v x).rings = s.rings := rfl
@[simp] theorem State.setStove_hearths (v : Nat) (x : Stove) : (s.setStove v x).hearths = s.hearths := rfl
@[simp] theorem State.setStove_ports (v : Nat) (x : Stove) : (s.setStove v x).ports = s.ports := rfl
@[simp] theorem State.setStove_blk (v : Nat) (x : Stove) : (s.setStove v x).blk = s.blk := rfl
@[simp] theorem State.setStove_audit (v : Nat) (x : Stove) : (s.setStove v x).audit = s.audit := rfl
@[simp] theorem State.setStove_xch (v : Nat) (x : Stove) : (s.setStove v x).xch = s.xch := rfl
@[simp] theorem State.setStove_vault (v : Nat) (x : Stove) : (s.setStove v x).vault = s.vault := rfl
@[simp] theorem State.setStove_err (v : Nat) (x : Stove) : (s.setStove v x).err = s.err := rfl
@[simp] theorem State.setStove_maint (v : Nat) (x : Stove) : (s.setStove v x).maint = s.maint := rfl
@[simp] theorem State.setStove_sash (v : Nat) (x : Stove) : (s.setStove v x).sash = s.sash := rfl
@[simp] theorem State.setStove_mgmt (v : Nat) (x : Stove) : (s.setStove v x).mgmt = s.mgmt := rfl
@[simp] theorem State.setStove_jtag (v : Nat) (x : Stove) : (s.setStove v x).jtag = s.jtag := rfl
@[simp] theorem State.setStove_draws (v : Nat) (x : Stove) : (s.setStove v x).draws = s.draws := rfl

@[simp] theorem State.stove_setStove_self (v : Nat) (x : Stove) : (s.setStove v x).stove v = x := by
  simp [State.stove, State.setStove]

theorem State.stove_setStove (v : Nat) (x : Stove) (j : Nat) : (s.setStove v x).stove j = if j = v then x else s.stove j := by
  simp [State.stove, State.setStove, Tab.at_put]

@[simp] theorem State.ring_setStove (v : Nat) (x : Stove) (j : Nat) : (s.setStove v x).ring j = s.ring j := rfl
@[simp] theorem State.hearth_setStove (v : Nat) (x : Stove) (j : Nat) : (s.setStove v x).hearth j = s.hearth j := rfl
@[simp] theorem State.port_setStove (v : Nat) (x : Stove) (j : Nat) : (s.setStove v x).port j = s.port j := rfl

/-! ### Free values -/

@[simp] theorem State.draw64_cfg : (s.draw64).2.cfg = s.cfg := rfl
@[simp] theorem State.draw64_pending : (s.draw64).2.pending = s.pending := rfl
@[simp] theorem State.draw64_host : (s.draw64).2.host = s.host := rfl
@[simp] theorem State.draw64_hostPoison : (s.draw64).2.hostPoison = s.hostPoison := rfl
@[simp] theorem State.draw64_mantel : (s.draw64).2.mantel = s.mantel := rfl
@[simp] theorem State.draw64_mantelPoison : (s.draw64).2.mantelPoison = s.mantelPoison := rfl
@[simp] theorem State.draw64_mantelBad : (s.draw64).2.mantelBad = s.mantelBad := rfl
@[simp] theorem State.draw64_mantelSoft : (s.draw64).2.mantelSoft = s.mantelSoft := rfl
@[simp] theorem State.draw64_rings : (s.draw64).2.rings = s.rings := rfl
@[simp] theorem State.draw64_hearths : (s.draw64).2.hearths = s.hearths := rfl
@[simp] theorem State.draw64_ports : (s.draw64).2.ports = s.ports := rfl
@[simp] theorem State.draw64_blk : (s.draw64).2.blk = s.blk := rfl
@[simp] theorem State.draw64_pwr : (s.draw64).2.pwr = s.pwr := rfl
@[simp] theorem State.draw64_audit : (s.draw64).2.audit = s.audit := rfl
@[simp] theorem State.draw64_xch : (s.draw64).2.xch = s.xch := rfl
@[simp] theorem State.draw64_vault : (s.draw64).2.vault = s.vault := rfl
@[simp] theorem State.draw64_err : (s.draw64).2.err = s.err := rfl
@[simp] theorem State.draw64_maint : (s.draw64).2.maint = s.maint := rfl
@[simp] theorem State.draw64_sash : (s.draw64).2.sash = s.sash := rfl
@[simp] theorem State.draw64_mgmt : (s.draw64).2.mgmt = s.mgmt := rfl
@[simp] theorem State.draw64_jtag : (s.draw64).2.jtag = s.jtag := rfl

@[simp] theorem State.drawBytes_cfg (n : Nat) : (s.drawBytes n).2.cfg = s.cfg := rfl
@[simp] theorem State.drawBytes_pending (n : Nat) : (s.drawBytes n).2.pending = s.pending := rfl
@[simp] theorem State.drawBytes_host (n : Nat) : (s.drawBytes n).2.host = s.host := rfl
@[simp] theorem State.drawBytes_hostPoison (n : Nat) : (s.drawBytes n).2.hostPoison = s.hostPoison := rfl
@[simp] theorem State.drawBytes_mantel (n : Nat) : (s.drawBytes n).2.mantel = s.mantel := rfl
@[simp] theorem State.drawBytes_mantelPoison (n : Nat) : (s.drawBytes n).2.mantelPoison = s.mantelPoison := rfl
@[simp] theorem State.drawBytes_mantelBad (n : Nat) : (s.drawBytes n).2.mantelBad = s.mantelBad := rfl
@[simp] theorem State.drawBytes_mantelSoft (n : Nat) : (s.drawBytes n).2.mantelSoft = s.mantelSoft := rfl
@[simp] theorem State.drawBytes_rings (n : Nat) : (s.drawBytes n).2.rings = s.rings := rfl
@[simp] theorem State.drawBytes_hearths (n : Nat) : (s.drawBytes n).2.hearths = s.hearths := rfl
@[simp] theorem State.drawBytes_ports (n : Nat) : (s.drawBytes n).2.ports = s.ports := rfl
@[simp] theorem State.drawBytes_blk (n : Nat) : (s.drawBytes n).2.blk = s.blk := rfl
@[simp] theorem State.drawBytes_pwr (n : Nat) : (s.drawBytes n).2.pwr = s.pwr := rfl
@[simp] theorem State.drawBytes_audit (n : Nat) : (s.drawBytes n).2.audit = s.audit := rfl
@[simp] theorem State.drawBytes_xch (n : Nat) : (s.drawBytes n).2.xch = s.xch := rfl
@[simp] theorem State.drawBytes_vault (n : Nat) : (s.drawBytes n).2.vault = s.vault := rfl
@[simp] theorem State.drawBytes_err (n : Nat) : (s.drawBytes n).2.err = s.err := rfl
@[simp] theorem State.drawBytes_maint (n : Nat) : (s.drawBytes n).2.maint = s.maint := rfl
@[simp] theorem State.drawBytes_sash (n : Nat) : (s.drawBytes n).2.sash = s.sash := rfl
@[simp] theorem State.drawBytes_mgmt (n : Nat) : (s.drawBytes n).2.mgmt = s.mgmt := rfl
@[simp] theorem State.drawBytes_jtag (n : Nat) : (s.drawBytes n).2.jtag = s.jtag := rfl

end Sys2Proof.Machine
end

