-- ==== Sys2Proof/Tests/Slice0.lean ====
section
/-! SUPPORT. The model's own tests: commands that are not well-formed are refused as such; and for each statement of Certificates/Slice0 that has
hypotheses, a state and operands that meet them, at a boundary of each clause, with what one step does there. Expected values come from the
tables and rules of spec/ that each test names. -/

namespace Sys2Proof.Tests

-- one theorem at a time: the kernel evaluates each of them
set_option Elab.async false

open Sys2Proof Sys2Proof.Machine

/-- The state that a command leaves. -/
def after (c : Instr) (s : State) : State := match exec c s with
  | .next t => t
  | _ => s

/-- Whether a command leaves the state as it is. -/
def idles (c : Instr) (s : State) : Bool := match exec c s with
  | .next t => decide (t = s)
  | _ => false

/-- A descriptor: its opcode, and values at byte offsets. -/
def desc (op : Nat) (fs : List (Nat × Nat)) : DescBits :=
  BitVec.ofNat 1024 (fs.foldl (fun n f => n + f.2 * 2 ^ (8 * f.1)) op)

/-- A running position 0 on hearth 0. -/
def job (op : Nat) (fs : List (Nat × Nat)) : Entry := { Entry.start 0#32 (desc op fs) with mask := 1#64, admitted := 1#64 }

/-- A ring in RUN with 64 slots, of class Draught. -/
def ring : Ring := { Ring.reset with state := .run, enable := true, cls := 2#2, log2Size := 6#5, sqBase := 0x10000#64, cqBase := 0x20000#64 }

/-- The block after reset with one entry on ring `n`. -/
def onRing (n : Nat) (e : Entry) : State := State.reset.setRing n { ring with entries := [e] }

/-- The block after reset with hearth 0 changed. -/
def withHearth (x : Hearth) (s : State) : State := s.setHearth 0 x

/-- Hearth, ring and port after a command. -/
def hearth0 (c : Instr) (s : State) : Hearth := (after c s).hearth 0

/-! ### Well-formedness: one ill-formed command for each check -/

def aPacket (type len : Nat) (payload : List W8) : Packet :=
  { type := BitVec.ofNat 8 type, combine := false, reverse := false, last := true, vc := 0#2, len := BitVec.ofNat 16 len, srcChip := 2#16,
    dstChip := 0#16, epoch := 0#16, xid := 7#16, expert := 0#16, pktIndex := 0#16, tokenSlot := 0#32, offset := 0#32, weight := 0#32,
    check := 0#32, payload := payload, poison := false }

theorem test_illFormed_offsets :
    ([.registerWrite 0x1004#20 0#64, .sashAccessError true 0x1008#20 0xFF#8, .sashWakeAccess false 0x1001#20 0#64] : List Instr).all
      (fun c => !c.wellFormed 64) = true := by decide +kernel

theorem test_illFormed_stoves :
    ([.vokAssert 6#3, .pstateFreqSwitch 6#3, .vokTimeout 7#3, .damperThrottle 6#3 0#16, .xchPacketSend 6#3, .xchCreditReturn 6#3 0#4 0#4 0#4] :
      List Instr).all (fun c => !c.wellFormed 48) = true := by decide +kernel

theorem test_illFormed_hearths :
    ([.chunkStep 48#6, .tileSwap 48#6, .tileLoad 48#6, .autoSpill 48#6, .tileDrainCommit 48#6, .stagePanelFetch 48#6, .chainPass 48#6,
      .sfuGrant 48#6, .shapeReload 48#6 false 0#10 0#2, .hearthIdleEntry 48#6, .hearthWakeDone 48#6, .tempHiChange 48#6 true,
      .maintSchedule 1#3 48#6, .maintStep 1#3 48#6 0#2, .maintActivityDone 1#3 48#6 true 0#8, .pswAck 57#7 true] : List Instr).all
      (fun c => !c.wellFormed 48) = true := by decide +kernel

theorem test_illFormed_ports :
    ([.orderedAddRelease 18#5, .memoryReadResponse 18#5 0#12 [] 0#32 0#4 0#8, .memoryWriteAck 18#5 0#12 0#8,
      .memoryReadResponse 0#5 0#12 (List.replicate 257 0#8) 0#32 0#4 0#8, .wakeDone ⟨List.replicate 19 (0#13, 0#13), 0#8⟩,
      .wipeDone 0#3 false false (List.replicate 19 (0#13, 0#13))] : List Instr).all (fun c => !c.wellFormed 48) = true := by decide +kernel

theorem test_illFormed_packets :
    ([.xchCountReceive 0#3 (aPacket 4 0 []), .xchReadyReceive 0#3 (aPacket 3 0 []), .xchRowReceive 0#3 (aPacket 3 0 []),
      .xchDoneReceive 0#3 (aPacket 4 0 []), .xchDwReceive 0#3 (aPacket 5 0 []), .xchStaleReceive 0#3 (aPacket 8 0 []),
      .xchAbortReceive 0#3 (aPacket 7 0 []), .xchCountReceive 6#3 (aPacket 3 0 []), .xchRowReceive 0#3 (aPacket 1 64 [])] : List Instr).all
      (fun c => !c.wellFormed 48) = true := by decide +kernel

theorem test_illFormed_values :
    ([.coldReset 1#8, .blockReset 1#8, .alarmTrip 5#4, .alarmTrip 7#4, .alarmConditionEnd 6#4, .maintSchedule 0#3 0#6, .maintSchedule 4#3 0#6,
      .maintStep 4#3 0#6 0#2, .maintActivityDone 7#3 0#6 true 0#8] : List Instr).all (fun c => !c.wellFormed 64) = true := by decide +kernel

theorem test_wellFormed :
    ([.registerWrite 0x1008#20 0#64, .sashAccessError true 0x1008#20 0x0F#8, .vokAssert 5#3, .chunkStep 47#6, .pswAck 56#7 true,
      .orderedAddRelease 17#5, .xchRowReceive 5#3 (aPacket 2 1 [0#8]), .coldReset 2#8, .alarmTrip 8#4, .maintActivityDone 6#3 0#6 true 0#8] :
      List Instr).all (fun c => c.wellFormed 48) = true := by decide +kernel

/-! ### The queue, the configuration and reset -/

/-- A block with two commands waiting. -/
def queued : State := { State.reset with pending := [.evtPop, .fatalHalt] }

theorem test_front_command_runs : step queued = exec .evtPop { queued with pending := [.fatalHalt] } := rfl

theorem test_idle_steps : step State.reset = .next State.reset ∧ State.reset.sound = true := by
  refine ⟨rfl, ?_⟩
  decide +kernel

/-- A stove, hearth, port and exchange port beyond IVR-48 are absent. -/
theorem test_absent_units_fault :
    (([.vokAssert 6#3, .tileSwap 48#6, .orderedAddRelease 18#5, .xchPacketSend 6#3] : List Instr).all fun c =>
      match exec c { State.reset with cfg := { BlockConfig.reference with hearths := 48 } } with
      | .fault .absentUnit => !commandPresent { BlockConfig.reference with hearths := 48 } c
      | _ => false) = true := by decide +kernel

/-- A fuse that is blown, before and after a step. -/
theorem test_blown_fuse_stays :
    let s := { State.reset with pending := [.powerOff], vault := { Seal.reset with lcFuse := 1#4 } }
    s.sound = true ∧ s.vault.lcFuse.getLsbD 0 = true ∧ (after .powerOff s).vault.lcFuse.getLsbD 0 = true := by decide +kernel

/-- CFG0 of IVR-48 with LANES = 128 (Table 12-13's example). -/
theorem test_cfg0_example :
    ({ State.reset with cfg := { BlockConfig.reference with hearths := 48, lanes := 128 } } : State).readReg 0x10 = 0x0011008006120630#64 := by
  decide +kernel

/-- The reading of ERR_FATAL through the mirror (Table 19-16): the eight bytes, least significant first. -/
theorem test_mirror_example :
    let s := { State.reset with
      err := { Errors.reset with fatalValid := true, fatalCause := 0x14#8, fatalType := 6#4, fatalUnit := 0#8, fatalStamp := 0x04A817C8#32 },
      mgmt := { Mgmt.reset with dynamic := some 0x52#7, offset := 0x58#16 } }
    (after (.mgmtRead 0x52#7) s).mgmt.data = [0x01#8, 0x14#8, 0x06#8, 0x00#8, 0xC8#8, 0x17#8, 0xA8#8, 0x04#8] := by decide +kernel

/-! ### Test and management ports -/

theorem test_idcode :
    State.reset.pwr.block ≠ .off ∧ State.reset.jtag.trst = false ∧ State.reset.cfg.hearths = 64 ∧ State.reset.vault.keyed = false ∧
      (after .idcode State.reset).jtag.capture = 0x31A40001#32 ∧ (after .extest State.reset).jtag.driving = true ∧
      (after .extest State.reset).jtag.dr = .boundary ∧ (after .ijtagAccess State.reset).jtag.attached = true ∧
      (after (.bypass ⟨0xFF#8, true⟩) State.reset).jtag.dr = .idcode := by decide +kernel

theorem test_keyed_parts_bypass :
    let s := { State.reset with vault := { Seal.reset with lcFuse := 3#4, lcShown := 3#4 } }
    s.vault.keyed = true ∧ s.jtag.trst = false ∧ (after .extest s).jtag.dr = .bypass ∧
      (after .extest s).jtag.driving = false ∧ (after .wrapperAccess s).jtag.attached = false ∧
      (after .samplePreload s).jtag.dr = .boundary ∧ (after (.bypass ⟨0x7F#8, false⟩) s).jtag.dr = .bypass := by decide +kernel

/-- The last hearth's wrapper takes a value, and that of a hearth without power does not. -/
theorem test_wrappers_load :
    let s := State.reset
    let off := s.shutHearth 63
    let w : Wrapper := { wir := [true], wby := true, wbr := [false, true], parallel := 5#64 }
    (s.hearth 63).power ≠ .shut ∧ Tab.at Wrapper.reset (s.setWrapper 63 w).jtag.wrappers 63 = w ∧
      (off.hearth 63).power = .shut ∧ (off.setWrapper 63 w).jtag.wrappers = [] := by decide +kernel

/-- The last scratch register, the last aligned offset, an offset of the copies, a misaligned one, and two byte counts that have no effect. -/
theorem test_mgmt_writes :
    let s := State.reset
    let a := s.mgmt.staticAddr
    let eight : List W8 := [1#8, 2#8, 0#8, 0#8, 0#8, 0#8, 0#8, 0#8]
    let scratch (bytes : List W8) (i : Nat) := Tab.at 0#64 (after (.mgmtWrite a bytes) s).mgmt.scratch i
    s.pwr.block ≠ .off ∧ s.mgmt.answers a = true ∧ s.asleep = false ∧ s.mgmt.answers (a + 1#7) = false ∧
      (after (.mgmtWrite a [0xFF#8, 0xF8#8]) s).mgmt.offset = 0xFFF8#16 ∧ scratch (1#8 :: 0x18#8 :: eight) 3 = 0x0201#64 ∧
      (after (.mgmtWrite a (0#8 :: 0xF8#8 :: eight)) s).mgmt.scratch = [] ∧ (after (.mgmtWrite a (1#8 :: 0x20#8 :: eight)) s).mgmt.scratch = [] ∧
      (after (.mgmtWrite a [1#8, 0x1C#8]) s).mgmt.offset = 0#16 ∧ (after (.mgmtWrite a (1#8 :: 0x1C#8 :: eight)) s).mgmt.scratch = [] ∧
      (after (.mgmtWrite a [1#8]) s).mgmt.offset = 0#16 ∧ (after (.mgmtWrite a (List.replicate 11 1#8)) s).mgmt.offset = 0#16 ∧
      (after (.mgmtWrite (a + 1#7) [1#8, 0#8]) s).mgmt.acked = false := by decide +kernel

/-- In Doze a transaction wakes the block with code 2, and a read returns 0xFF bytes. -/
theorem test_mgmt_wakes :
    let s := { State.reset with pwr := { Power.reset with block := .doze } }
    let a := s.mgmt.staticAddr
    s.mgmt.answers a = true ∧ s.asleep = true ∧ (after (.mgmtRead a) s).pwr.lastWake = 2#3 ∧
      (after (.mgmtRead a) s).mgmt.data = List.replicate 8 0xFF#8 ∧ (after (.mgmtWrite a [1#8, 0#8]) s).pwr.block = .waking := by decide +kernel

theorem test_ccc :
    let t := { State.reset with mgmt := { Mgmt.reset with dynamic := some 9#7 } }
    State.reset.asleep = false ∧ (after (.entdaa 0x52#7) State.reset).mgmt.dynamic = some 0x52#7 ∧
      (after (.setdasa 0x51#7) State.reset).mgmt.dynamic = some 0x51#7 ∧ (after (.entdaa 0x52#7) t).mgmt.dynamic = some 9#7 ∧
      (after .rstdaa t).mgmt.dynamic = none ∧ (after .getpid t).mgmt.data.length = 6 ∧ (after .getbcr t).mgmt.data.length = 1 ∧
      (after .getdcr t).mgmt.data.length = 1 ∧ (after .getstatus t).mgmt.data.length = 2 ∧
      (after .getstatus State.reset).mgmt.acked = false := by decide +kernel


/-! ### Registers, rings, events (chapters 12, 15, 19) -/

theorem test_register_codes :
    let s := { State.reset with blk := { State.reset.blk with blkEvent := 0x1FF#9 } }
    (s.pwr.block = .run ∧ s.vault.resetting = false ∧ s.vault.busy = false) ∧ s.cfg.valid = true ∧ s.cfg.hasSeal = true ∧
      (0x4050, 0xFFFFFFFF#64) ∈ s.plainRegisters ∧ (0x1000, 0x1FF#64, 0x7F070) ∈ clearRegisters s.cfg ∧
      (after (.registerWrite 0x4050#20 0xFFFFFFFFFFFFFFFF#64) s).readReg 0x4050 = 0xFFFFFFFF#64 ∧
      (after (.registerWrite 0x1000#20 1#64) s).readReg 0x1000 = 0x1FE#64 ∧ (after (.registerWrite 0x1000#20 1#64) s).readReg 0x7F070 = 0x1FE#64 ∧
      (after (.registerWrite 0x1008#20 1#64) s).blk = s.blk ∧ (after (.registerWrite 0xFFFF8#20 1#64) s) = s.answered := by decide +kernel

/-- The last offset below the first ring's page that no table lists. -/
theorem test_no_field_there : ¬Writable BlockConfig.reference 0x7FF8 := by
  have hs : BlockConfig.reference.stoves = 8 := by decide
  have hn : BlockConfig.reference.hearths = 64 := by decide
  rw [Writable, hs, hn]
  rintro (h | ⟨m, hm, h | h | h⟩ | ⟨v, hv, h⟩ | ⟨w, hw, h⟩ | ⟨n, hn, h | h | ⟨r, hr, h⟩⟩ | ⟨h, hh, h'⟩ | ⟨-, h⟩ | ⟨-, h | ⟨w, hw, h⟩⟩ | ⟨i, hi, h⟩) <;>
    first | omega | simp at h

theorem test_conditional_fields :
    let w (o : Nat) (d : W64) (s : State) : State := after (.registerWrite (BitVec.ofNat 20 o) d) s
    (w 0x2000 7#64 State.reset).pwr.mode = 0#2 ∧ (w 0x2000 7#64 State.reset).pwr.dozeHearth = true ∧ (w 0x2000 2#64 State.reset).pwr.mode = 2#2 ∧
      ((w 0x2FC00 3#64 State.reset).hearth 63).idleState = (State.reset.hearth 63).idleState ∧
      ((w 0x2FC00 0x50002#64 State.reset).hearth 63).idleState = 2#2 ∧ ((w 0x2FC00 0x50002#64 State.reset).hearth 63).idleDelay = 5#16 ∧
      (w 0x4040 8#64 { State.reset with audit := { Audit.reset with recEnable := true } }).audit.recBase = 0#64 ∧
      (w 0x38000 8#64 { State.reset with err := { Errors.reset with enable := true } }).err.base = 0#64 ∧
      (0x500#64 : W64).setWidth 2 = State.reset.audit.role ∧ (w 0x4010 0x500#64 State.reset).audit.delay = 5#16 ∧
      (w 0x1028 4096#64 State.reset).blk.patchLen = 4096#13 ∧
      ((w 0x2238 0x100#64 (State.reset.setStove 7 { State.reset.stove 7 with fail := true })).stove 7).fail = false ∧
      ((w 0x9FC0 0x1000#64 State.reset).ring 127).sqBase = 0x1000#64 ∧
      ((w 0x9FC0 0x1000#64 (State.reset.setRing 127 ring)).ring 127).sqBase = 0x10000#64 ∧
      ((w 0x9FE8 0x108#64 (State.reset.setRing 127 { ring with fault := true, state := .stopped })).ring 127).state = .run ∧
      ((w 0x9FE8 0x108#64 (State.reset.setRing 127 { ring with fault := true, state := .stopped })).ring 127).fault = false := by
  decide +kernel

theorem test_bad_accesses :
    let stalled (n : Nat) : State := { State.reset with sash := { Sash.reset with
      stalled := List.replicate n { write := false, off := 0#20, data := 0#64, bad := false } } }
    State.reset.pwr.block ≠ .off ∧ (after (.sashAccessError true 0x1000#20 0x7F#8) State.reset).sash.error = true ∧
      (after (.sashAccessError true 0x1004#20 0xFF#8) State.reset).sash.error = true ∧
      (after (.sashAccessError true 0x1004#20 0xFF#8) (stalled 7)).sash.stalled.length = 8 ∧
      idles (.sashAccessError true 0x1004#20 0xFF#8) (stalled 8) = true := by decide +kernel

/-- The block in Doze, and in another state of its power. -/
def dozing : State := { State.reset with pwr := { Power.reset with block := .doze } }
def inBlock (b : BlockState) (s : State) : State := { s with pwr := { s.pwr with block := b } }

theorem test_sleeping_accesses :
    let access : StalledAccess := { write := true, off := 0xFFF8#20, data := 0#64, bad := false }
    let eight := { dozing with sash := { Sash.reset with stalled := List.replicate 8 access } }
    dozing.vault.resetting = false ∧ dozing.vault.busy = false ∧ dozing.sash.stalled = [] ∧
      (after (.sashWakeAccess false 0x2000#20 0#64) dozing).pwr.block = .doze ∧
      (after (.sashWakeAccess false 0x4008#20 0#64) dozing).pwr.block = .doze ∧
      (after (.sashWakeAccess false 0x7FFF8#20 0#64) dozing).pwr.block = .doze ∧
      (after (.sashWakeAccess false 0x80000#20 0#64) dozing).pwr.block = .waking ∧
      (after (.sashWakeAccess false 0x4010#20 0#64) dozing).pwr.lastWake = 3#3 ∧
      (after (.sashWakeAccess true 0xFFF8#20 0#64) dozing).sash.stalled = [access] ∧
      (after (.sashWakeAccess true 0xFFF8#20 0#64) (inBlock .entering dozing)).pwr.dueWake = some 3#3 ∧
      (after (.sashWakeAccess true 0xFFF8#20 0#64) (inBlock .waking dozing)).sash.stalled = [access] ∧
      idles (.sashWakeAccess true 0xFFF8#20 0#64) eight = true := by decide +kernel

/-- The end of a list that a predicate on offsets names. -/
theorem test_ember_offsets : EmberOffset 0x3FF8 ∧ EmberOffset 0x7F000 ∧ ¬EmberOffset 0x80000 ∧ ¬EmberOffset 0x4010 ∧ ¬EmberOffset 0x1FF8 := by
  unfold EmberOffset; omega

theorem test_accesses_in_a_reset :
    let s := { State.reset with vault := { Seal.reset with resetting := true } }
    s.pwr.block ≠ .off ∧ s.vault.resetting = true ∧ 0x1000 ∉ [0x4010, 0x4018, 0x4020, 0x38028, 0x40000] ∧
      after (.sashWakeAccess true 0x1010#20 7#64) s = s.answered ∧ (after (.sashWakeAccess false 0x0#20 0#64) s).sash.rdata = 0#64 := by
  decide +kernel

theorem test_commands_are_accesses :
    after (.vreqCodeWrite 7#3 0x70#8) State.reset = after (.registerWrite 0x2278#20 0x70#64) State.reset ∧
      after (.ringDisable 127#7 3#64) State.reset = after (.sashWakeAccess true 0x9FD0#20 2#64) State.reset ∧
      (Instr.vreqCodeWrite 7#3 0x70#8) ≠ .registerWrite 0x2278#20 0x70#64 := by decide +kernel

theorem test_sleeping_doorbells :
    ((after (.doorbellWrite 127#7 5#64) dozing).ring 127).held = some 5#32 ∧ (after (.doorbellWrite 1#7 5#64) dozing).pwr.block = .waking ∧
      (after (.doorbellWrite 1#7 5#64) dozing).pwr.lastWake = 1#3 ∧
      (after (.doorbellWrite 1#7 5#64) (inBlock .entering dozing)).pwr.dueWake = some 1#3 ∧
      (after (.doorbellWrite 1#7 5#64) (inBlock .waking dozing)).pwr.lastWake = dozing.pwr.lastWake ∧
      (after (.doorbellWrite 1#7 5#64) { dozing with pwr := { dozing.pwr with dbWake := false } }).pwr.block = .doze := by decide +kernel

theorem test_held_back_doorbells :
    let halted := { State.reset with vault := { Seal.reset with halted := true } }
    let replay := { State.reset with audit := { Audit.reset with recEnable := true, recMode := true } }
    let full := { State.reset with audit := { Audit.reset with recEnable := true, recHold := true, recKinds := 15#5, recLog2 := 10#5, recTail := 1024#32 } }
    after (.doorbellWrite 127#7 5#64) halted = halted.answered ∧ (after (.doorbellWrite 127#7 5#64) replay).blk.dbStray = 1#32 ∧
      full.audit.replaying = false ∧ full.audit.holds 1 = true ∧ ((after (.doorbellWrite 127#7 5#64) full).ring 127).withheld = [5#32] := by
  decide +kernel

/-- Ring 1 with HEAD 10, accepted TAIL 20 and 64 slots. -/
def ring1 (st : RingState) : State := State.reset.setRing 1 { ring with state := st, head := 10#32, tail := 20#32 }

/-- Table 12-3, a value at each boundary: d = 65, 64, 10, 9, and a stray one. -/
theorem test_doorbell_outcomes :
    let s := ring1 .run
    (s.audit.recEnable = false ∧ s.err.fatalHalted = false ∧ s.vault.halted = false ∧ (s.ring 1).withheld = []) ∧
      ((after (.doorbellWrite 1#7 75#64) s).ring 1).state = .fault ∧ ((after (.doorbellWrite 1#7 75#64) s).ring 1).tail = 20#32 ∧
      ((after (.doorbellWrite 1#7 74#64) s).ring 1).tail = 74#32 ∧ ((after (.doorbellWrite 1#7 21#64) s).ring 1).tail = 21#32 ∧
      ((after (.doorbellWrite 1#7 20#64) s).ring 1) = s.ring 1 ∧
      (after (.doorbellWrite 1#7 19#64) s).blk.dbBack = 1#32 ∧ (after (.doorbellWrite 1#7 20#64) s).blk.dbBack = 0#32 ∧
      ((ring1 .stopped).ring 1).state = .stopped ∧ ((after (.doorbellWrite 1#7 21#64) (ring1 .stopped)).ring 1).tail = 21#32 := by decide +kernel

theorem test_doorbell_stray :
    ([.off, .draining, .fault] : List RingState).all (fun st => (after (.doorbellWrite 1#7 21#64) (ring1 st)).blk.dbStray == 1#32) = true := by
  decide +kernel

/-- Causes 8 to 11 of an enable, and one that starts the ring. LOG2SIZE stands in bits 8:4 of RING_CFG's written word as Table 12-1 places it. -/
theorem test_ring_enable :
    let s := { State.reset with blk := { State.reset.blk with patchState := 2#3 } }
    let r (k : Nat) : Ring := { Ring.reset with log2Size := BitVec.ofNat 5 k, cls := 1#2 }
    enableCause State.reset 1 (r 6) = 8#4 ∧ enableCause s 1 (r 5) = 9#4 ∧ enableCause s 1 (r 17) = 9#4 ∧ enableCause s 1 (r 16) = 0#4 ∧
      enableCause s 1 { r 6 with sqBase := 0x800#64 } = 10#4 ∧ enableCause s 1 { r 6 with cqBase := 0x10000000000000#64 } = 10#4 ∧
      enableCause s 1 { r 6 with cls := 3#2 } = 11#4 ∧ enableCause s 0 { r 6 with cls := 3#2 } = 0#4 ∧
      ((after (.ringEnable 1#7 1#64) s).ring 1).state = .off ∧ ((after (.ringEnable 1#7 1#64) s).ring 1).cause = 9#4 ∧
      ((after (.ringEnable 0#7 0x61#64) s).ring 0).state = .run ∧ after (.ringEnable 1#7 1#64) (ring1 .run) = (ring1 .run).answered := by
  decide +kernel

theorem test_ring_disable :
    let f : Fetched := { pos := 11#32, desc := 0#1024 }
    let s := State.reset.setRing 1 { ring with fetched := [f] }
    ((after (.ringDisable 1#7 0#64) (ring1 .run)).ring 1).state = .off ∧ ((after (.ringDisable 1#7 0#64) s).ring 1).state = .draining ∧
      Entry.refused 11#32 0#1024 stAborted 1 ∈ ((after (.ringDisable 1#7 0#64) s).ring 1).entries ∧
      ((after (.ringDisable 1#7 0#64) (ring1 .fault)).ring 1).state = .off ∧
      ((after (.ringDisable 1#7 0#64) (ring1 .draining))) = (ring1 .draining).answered ∧
      ((after (.ringDisable 1#7 0x60#64) (ring1 .off)).ring 1).state = .off ∧
      ((after (.ringDisable 1#7 0#64) (onRing 1 (job 0x41 []))).ring 1).entries.map Entry.status = [0x0C#8] ∧
      ((after (.ringResume 1#7) (ring1 .stopped)).ring 1).state = .run ∧ ((after (.ringResume 1#7) (ring1 .run)).ring 1).state = .run := by
  decide +kernel

theorem test_event_pop :
    let s := { State.reset with blk := { State.reset.blk with events := [7#64, 8#64] } }
    (after .evtPop s).sash.rdata = 7#64 ∧ (after .evtPop s).blk.events = [8#64] ∧ (after .evtPop State.reset).sash.rdata = 0#64 := by
  decide +kernel

theorem test_irq_unmask :
    let s := { State.reset with blk := { State.reset.blk with
      irqMask := 0xFFFF#16, irqPend := 0x8001#16, irqAddr := [(15, 0x1000#64)], irqData := [(15, 0x41#64)] } }
    s.blk.irqPend &&& ~~~0x7FFF#16 = BitVec.ofNat 16 (2 ^ 15) ∧ s.portAwake 0 = true ∧ (s.port 0).waiting = [] ∧ (s.port 0).inflight = [] ∧
      3 ≤ (s.port 0).wrCredits.toNat ∧ (Tab.at 0#64 s.blk.irqAddr 15).toNat < 2 ^ 52 ∧
      s.blk.irqPend &&& ~~~0xFFFF#16 = 0#16 ∧ (after (.irqUnmask 0xFFFF#16) s).blk.irqPend = 0x8001#16 ∧
      (after (.irqUnmask 0x7FFF#16) s).blk.irqPend = 1#16 ∧ (after (.irqUnmask 0x7FFF#16) s).host.byte 0x1000 = 0x41#8 := by decide +kernel

theorem test_patch_go :
    let s (st : BitVec 3) : State := { State.reset with blk := { State.reset.blk with patchState := st, patchLen := 4096#13 } }
    (after (.patchGo 16#64) (s 0#3)).blk.patchState = 1#3 ∧ (after (.patchGo 16#64) (s 3#3)).blk.patchState = 1#3 ∧
      (after (.patchGo 16#64) (s 1#3)).blk.patchReason = 5#4 ∧ (after (.patchGo 16#64) (s 2#3)).blk.patchState = 2#3 ∧
      (s 1#3).portAwake 0 = true ∧ (s 1#3).portAwake 2 = true ∧
      (after (.patchVerifyDone 0#4 9#16 3#8 1#8) (s 1#3)).blk.patchState = 2#3 ∧
      (after (.patchVerifyDone 2#4 9#16 2#8 1#8) (s 1#3)).blk.patchMinor = 2#8 ∧
      (after (.patchVerifyDone 4#4 9#16 3#8 1#8) (s 1#3)).blk.patchReason = 4#4 ∧
      (after (.patchVerifyDone 1#4 9#16 3#8 1#8) (s 1#3)).blk.patchState = 3#3 := by decide +kernel

/-! ### Operating points, ISO_RELEASE, the cap -/

/-- Stove 7 with a clock, a code and a sequence. -/
def stove7 (x : Stove) : State := State.reset.setStove 7 x

/-- R318 at its two limits: Table 15-6 gives 0x64 for the reset clock. -/
theorem test_vreq_limits :
    ((after (.vreqCodeWrite 7#3 0x80#8) State.reset).stove 7).code = 0x80#8 ∧
      ((after (.vreqCodeWrite 7#3 0x81#8) State.reset).stove 7).code = (State.reset.stove 7).code ∧
      ((after (.vreqCodeWrite 7#3 0x81#8) State.reset).stove 7).refused = 1#16 ∧
      ((after (.vreqCodeWrite 7#3 (pstateCode (State.reset.stove 7).current.toNat)) State.reset).stove 7).refused = 0#16 ∧
      ((after (.vreqCodeWrite 7#3 (pstateCode (State.reset.stove 7).current.toNat - 1#8)) State.reset).stove 7).refused = 1#16 := by
  decide +kernel

theorem test_pstate_targets :
    let x := State.reset.stove 7
    ((after (.pstateTargetWrite 7#3 5#3) State.reset).stove 7) = x ∧
      ((after (.pstateTargetWrite 7#3 x.current) State.reset).stove 7).sequence = .idle ∧
      ((after (.pstateTargetWrite 7#3 4#3) State.reset).stove 7).sequence = .awaitSwitch 4#3 true ∧
      ((after (.pstateTargetWrite 7#3 0#3) State.reset).stove 7).sequence = .awaitVok 0#3 x.code ∧
      ((after (.pstateTargetWrite 7#3 4#3) (stove7 { x with sequence := .awaitVok 0#3 x.code })).stove 7).nextTarget = some 4#3 ∧
      ((after (.pstateTargetWrite 7#3 4#3) dozing).stove 7).nextTarget = some 4#3 := by decide +kernel

theorem test_pstate_steps :
    let x := State.reset.stove 7
    let up := stove7 { x with sequence := .awaitVok 0#3 0x50#8, code := 0x78#8 }
    let down := stove7 { x with sequence := .awaitSwitch 4#3 true }
    let next := stove7 { x with sequence := .awaitSwitch 4#3 true, nextTarget := some 0#3 }
    ((after (.vokAssert 7#3) up).stove 7).sequence = .awaitSwitch 0#3 false ∧ ((after (.vokAssert 7#3) State.reset).stove 7).vok = true ∧
      (after (.vokAssert 7#3) (stove7 { x with railOn := true })).pwr.pswReq.getLsbD 8 = true ∧
      ((after (.pstateFreqSwitch 7#3) next).stove 7).sequence = .awaitVok 0#3 (pstateCode 4) ∧
      ((after (.vokTimeout 7#3) (stove7 { up.stove 7 with nextTarget := some 4#3 })).stove 7).sequence = .awaitSwitch 4#3 true ∧
      ((after (.pstateFreqSwitch 7#3) down).stove 7).current = 4#3 ∧
      ((after (.pstateFreqSwitch 7#3) down).stove 7).code = pstateCode 4 ∧
      idles (.pstateFreqSwitch 7#3) { down with audit := { down.audit with count := 63#64 } } = true ∧
      ((after (.vokTimeout 7#3) up).stove 7).code = 0x50#8 ∧ ((after (.vokTimeout 7#3) up).stove 7).fail = true := by decide +kernel

theorem test_damper_and_iso :
    let s := stove7 { State.reset.stove 7 with cap := 100#10 }
    s.upkeep = true ∧ ((after (.damperThrottle 7#3 101#16) s).stove 7).throttleCount = 1#32 ∧
      (after (.damperThrottle 7#3 101#16) s).withheld 63 1#2 = true ∧ (after (.damperThrottle 7#3 101#16) s).withheld 63 0#2 = false ∧
      (after (.damperThrottle 7#3 100#16) s).withheld 63 1#2 = false := by decide +kernel

theorem test_iso_release :
    let s := { State.reset with cfg := { BlockConfig.reference with hearths := 32 } }
    s.cfg.hearths < 48 ∧ s.xch.unsent = [] ∧ s.domainUp 0 = true ∧ s.domainUp 4 = true ∧ (after (.isoRelease 0x1FF#9) s).pwr.isoStoves = 0x0F#8 ∧
      (after (.isoRelease 0x1FF#9) s).pwr.isoPool = true ∧ (after (.isoRelease 0x1FF#9) State.reset).pwr.isoStoves = 0#8 := by decide +kernel

theorem test_iso_release_waits_for_nothing (p : Nat) :
    (({ State.reset with cfg := { BlockConfig.reference with hearths := 32 } } : State).port p).waiting = [] := rfl

/-! ### The Seal -/

/-- The block in a life-cycle state. -/
def inState (fuse : BitVec 4) : State := { State.reset with vault := { Seal.reset with lcFuse := fuse, lcShown := fuse } }

theorem test_life_cycle :
    let fuse := (after (.sealLcGo 1#3) (inState 0#4))
    (inState 0#4).vault.lc = 0 ∧ (inState 15#4).vault.lc = 4 ∧ (inState 0#4).vault.deciding = false ∧
      (after (.sealLcGo 1#3) (inState 15#4)).vault.denied = 1#16 ∧ lcRefusal (inState 0#4) 4 = 0#4 ∧
      (after (.sealLcGo 4#3) (inState 0#4)).vault.busy = true ∧ (after (.sealLcGo 2#3) (inState 0#4)).vault.result = 1#4 ∧
      lcRefusal (inState 1#4) 2 = 4#4 ∧ (after (.sealLcGo 2#3) (inState 1#4)).vault.result = 4#4 ∧
      lcRefusal ((inState 0#4).setRing 127 ring) 4 = 2#4 ∧ (after (.sealLcGo 4#3) ((inState 0#4).setRing 127 ring)).vault.busy = false ∧
      lcRefusal (inState 3#4) 3 = 3#4 ∧
      lcRefusal { inState 3#4 with vault := { (inState 3#4).vault with entropyFail := true } } 3 = 5#4 ∧
      fuse.vault.blowing = true ∧ fuse.vault.goal = 1#3 ∧ (after .lifecycleFusesDone fuse).vault.lcFuse = 1#4 ∧
      (after .lifecycleFusesDone fuse).vault.rootBlank = false ∧ (after .lifecycleFusesDone fuse).vault.resetting = true ∧
      idles .lifecycleFusesDone (inState 0#4) = true := by decide +kernel

/-- A request in flight at M2 with 200 credits, and a block that awaits it. -/
def m2 (r : Request) (s : State) : State := s.setPort 2 { s.port 2 with inflight := [r] }

/-- From MISSION with slot 4 programmed, DIAGNOSE first reads the authorisation; one that is not genuine is refused with RESULT 3, and another GO
meanwhile is ignored. -/
theorem test_authorisation :
    let s := { inState 3#4 with vault := { (inState 3#4).vault with slotMask := 16#5, authAddr := 0x1000#64 } }
    let t := after (.sealLcGo 3#3) s
    let r := Request.mk' false 0x1000 256 [] 2#2 0 0#32 .authorisation
    let w := m2 r { s with vault := { s.vault with deciding := true, target := 3#3 } }
    lcRefusal s 3 = 0#4 ∧ s.vault.slotMask.getLsbD 4 = true ∧ s.vault.authAddr.toNat / 64 * 64 + 256 ≤ 2 ^ 52 ∧ t.vault.deciding = true ∧
      after (.sealLcGo 3#3) t = t.answered ∧
      w.clocked = true ∧ (w.port 2).waiting = [] ∧ lcRefusal w w.vault.target.toNat = 0#4 ∧ w.vault.resetting = false ∧
      (after (.memoryReadResponse 2#5 0#12 (List.replicate 256 0#8) (parityBits (List.replicate 256 0#8)) 0#4 0#8) w).vault.result = 3#4 ∧
      (after (.memoryReadResponse 2#5 0#12 (List.replicate 256 0#8) (parityBits (List.replicate 256 0#8)) 0#4 1#8) w).vault.deciding = false := by
  decide +kernel

theorem test_key_programming :
    let s := { inState 1#4 with vault := { (inState 1#4).vault with keyData := [(0, 5#64)] } }
    s.vault.lc = 1 ∧ s.vault.keyWord ≠ 0 ∧ (after (.keyCtlGo 4#3) s).vault.keyResult = 0#4 ∧
      (after (.keyCtlGo 4#3) s).vault.slotMask = 16#5 ∧ (after (.keyCtlGo 4#3) s).vault.keyIndex = 4#3 ∧
      (after (.keyCtlGo 4#3) (inState 1#4)).vault.keyResult = 3#4 ∧
      (after (.keyCtlGo 4#3) { s with vault := { s.vault with slotMask := 16#5 } }).vault.keyResult = 2#4 ∧
      (after (.keyCtlGo 5#3) s).vault.slotMask = 0#5 ∧ (after (.keyCtlGo 5#3) s).vault.keyData = [] ∧
      (inState 3#4).vault.lc ≠ 1 ∧ (after (.keyCtlGo 2#3) (inState 3#4)).vault.keyResult = 1#4 ∧
      (after (.keyCtlGo 2#3) (inState 3#4)).vault.keyIndex = 0#3 := by decide +kernel

theorem test_erase_and_lock :
    (after .eraseKeys (inState 3#4)).vault.keysErased = true ∧ (after .eraseKeys (inState 3#4)).vault.blocked = true ∧
      (after (.policyLock 7#64) (inState 1#4)).vault.policyFuse = 7#32 ∧ (after (.policyLock 7#64) (inState 0#4)).vault.policy = 7#32 ∧
      (after (.policyLock 7#64) (inState 0#4)).vault.denied = 1#16 ∧ (after (.policyLock 7#64) (inState 3#4)).vault.denied = 1#16 ∧
      (after (.policyLock 7#64) { inState 1#4 with vault := { (inState 1#4).vault with lockFuse := true } }).vault.denied = 1#16 := by
  decide +kernel

theorem test_seal_writes :
    let w (o : Nat) (d : W64) (s : State) : Seal := (after (.registerWrite (BitVec.ofNat 20 o) d) s).vault
    (w 0x40010 0x1000#64 (inState 0#4)).authAddr = 0x1000#64 ∧ (w 0x40010 0x1000#64 (inState 15#4)).denied = 1#16 ∧
      (w 0x40068 9#64 (inState 1#4)).keyData = [(5, 9#64)] ∧ (w 0x40068 9#64 (inState 3#4)).denied = 1#16 ∧
      (w 0x40070 4#64 (inState 1#4)).keyIndex = 4#3 ∧ (w 0x40080 0x1000#64 (inState 3#4)).attAddr = 0x1000#64 ∧
      (w 0x40088 2#64 (inState 3#4)).attPub = true ∧ (w 0x40088 2#64 (inState 0#4)).denied = 1#16 ∧ (w 0x40018 3#64 (inState 3#4)).keyRef = 3#2 ∧
      (w 0x40000 0x700#64 (inState 0#4)).target = 7#3 ∧ (w 0x40028 5#64 (inState 1#4)).policy = 5#32 ∧
      (w 0x40028 5#64 (inState 3#4)).denied = 1#16 := by decide +kernel

theorem test_attestation :
    let s := { inState 3#4 with vault := { (inState 3#4).vault with attest := true, attAddr := 0x1000#64 } }
    let t := after (.attCtlGo false) s
    s.vault.keyed = true ∧ attestRefusal s.vault = 0#4 ∧ (s.portUp 2 = true ∧ 3 ≤ (s.port 2).rdCredits.toNat ∧ 3 ≤ (s.port 2).wrCredits.toNat) ∧
      (s.port 2).waiting = [] ∧ (s.port 2).inflight = [] ∧ s.vault.attAddr.toNat % 256 = 0 ∧
      (after (.attCtlGo true) (inState 0#4)).vault.attResult = 1#4 ∧ (after (.attCtlGo true) (inState 0#4)).vault.attPub = false ∧
      (after (.attCtlGo false) (inState 3#4)).vault.attResult = 2#4 ∧ t.vault.attBusy = true ∧
      (t.port 2).inflight.map Request.addr = [0x1040] ∧ (after (.attCtlGo true) t).vault.attPub = true ∧
      (after (.attCtlGo false) { s with vault := { s.vault with entropyFail := true } }).vault.attResult = 3#4 ∧
      (after (.attCtlGo false) { s with vault := { s.vault with blocked := true } }).vault.attResult = 2#4 ∧
      (after .entropyHealthFail s).vault.entropyFail = true := by decide +kernel

/-- DATA arrives; keys erased meanwhile, an error, and the three ends of a report. -/
theorem test_reports_end :
    let s := { inState 3#4 with vault := { (inState 3#4).vault with attest := true, attBusy := true, attAddr := 0x1000#64 } }
    let r := Request.mk' false 0x1040 128 [] 2#2 0 0#32 .reportData
    let zeros : List W8 := List.replicate 128 0#8
    let reply (err : W8) (s : State) : State := after (.memoryReadResponse 2#5 0#12 zeros (parityBits zeros) 0#4 err) (m2 r s)
    s.vault.attSent = false ∧ s.vault.attFault = false ∧ s.vault.attPub = false ∧
      (reply 1#8 s).vault.attFault = true ∧ (reply 0#8 { s with vault := { s.vault with blocked := true } }).vault.attResult = 2#4 ∧
      idles (.attestReportDone true) (m2 r s) = true ∧ idles (.attestReportDone false) s = true ∧
      (after (.attestReportDone false) { s with vault := { s.vault with attFault := true } }).vault.attResult = 4#4 ∧
      (after (.attestReportDone true) s).vault.attResult = 4#4 ∧
      (after (.attestReportDone false) { s with vault := { s.vault with attSent := true } }).vault.attBusy = false := by decide +kernel

/-! ### The enables of the recorder and of the error ring -/

theorem test_recorder_enable :
    let go (l base : Nat) : Audit :=
      (after (.recorderEnable (BitVec.ofNat 64 (1 + 8 * l))) { State.reset with audit := { Audit.reset with recBase := BitVec.ofNat 64 base } }).audit
    (go 9 0).recRefused = true ∧ (go 10 0).recEnable = true ∧ (go 24 0).recEnable = true ∧ (go 25 0).recRefused = true ∧
      (go 10 2048).recRefused = true ∧ (go 10 (2 ^ 52 - 32768)).recEnable = true ∧ (go 10 (2 ^ 52 - 4096)).recEnable = false := by
  decide +kernel

theorem test_error_enable :
    let go (l base : Nat) : Errors :=
      (after (.errCtlEnable (BitVec.ofNat 64 (1 + 8 * l))) { State.reset with err := { Errors.reset with base := BitVec.ofNat 64 base } }).err
    (go 5 0).refused = true ∧ (go 6 0).enable = true ∧ (go 16 0).enable = true ∧ (go 17 0).refused = true ∧
      (go 6 2048).refused = true ∧ (go 6 (2 ^ 52 - 4096)).enable = true ∧ (go 7 (2 ^ 52 - 4096)).enable = false := by decide +kernel

/-! ### Resets, alarms, fatal events (chapters 15 to 18) -/

/-- The block with a stove's clock changed, a ring, a doorbell that Ember holds, and in sleep. -/
def worn : State :=
  { (State.reset.setRing 3 { ring with held := some 7#32 }).setStove 7 { State.reset.stove 7 with cap := 9#10, current := 4#3 } with
    mantel := [(5, 1#8)], audit := { Audit.reset with count := 640#64, role := 2#2, skew := 64#64, recEnable := true },
    err := { Errors.reset with fatalValid := true, fatalCause := 0x14#8, enable := true },
    vault := { Seal.reset with pend := 9#16, alarmCount := [(3, 2#32)] } }

theorem test_reset_pulses :
    let t := after (.coldReset 2#8) worn
    let u := after (.blockReset 2#8) worn
    idles (.coldReset 1#8) worn = true ∧ idles (.blockReset 1#8) worn = true ∧
      (worn.pwr.block ≠ .off ∧ worn.sash.stalled = [] ∧ worn.cfg.valid = true ∧ Tab.wf Ring.reset worn.rings = true ∧ worn.vault.blowing = false) ∧
      t.vault.resetting = true ∧ t.vault.resetCold = true ∧ t.vault.wipeKind = 1#3 ∧ t.pwr.pswReq = 0#73 ∧
      t.stove 7 = { Stove.reset with railOn := true, vok := false } ∧ t.err.fatalValid = false ∧ t.audit.count = 640#64 ∧
      t.audit.role = 0#2 ∧ t.vault.pend = 9#16 ∧
      u.vault.resetCold = false ∧ u.stove 7 = worn.stove 7 ∧ u.pwr.pswReq = worn.pwr.pswReq ∧ u.ring 3 = { Ring.reset with held := some 7#32 } ∧
      u.err.fatalCause = 0x14#8 ∧ u.err.enable = false ∧ u.audit.role = 2#2 ∧ u.audit.skew = 64#64 ∧ u.audit.recEnable = false ∧ u.mantel = [] ∧
      idles (.blockReset 2#8) { worn with vault := { Seal.reset with resetting := true, resetCold := true } } = true := by
  decide +kernel

/-- A hearth that is SHUT is asked for power by a block reset (Table 18-3), and a block that hibernates for its rails. -/
theorem test_block_resets_ask_for_power :
    let s := (State.reset.shutHearth 63)
    let a : StalledAccess := { write := true, off := 0x4050#20, data := 7#64, bad := false }
    s.pwr.pswReq.getLsbD 72 = false ∧ s.domainUp 8 = true ∧ (after (.blockReset 2#8) s).pwr.pswReq.getLsbD 72 = true ∧
      ((after (.blockReset 2#8) { State.reset with pwr := { Power.reset with block := .hibernate, pswReq := 0#73 } }).stove 0).vok = false ∧
      (after (.blockReset 2#8) { State.reset with sash := { Sash.reset with stalled := [a] } }).sash.stalled = [] := by decide +kernel

theorem test_power_cycle :
    let off := after .powerOff worn
    let on := after .powerOn off
    off.pwr.block = .off ∧ off.pwr.pswReq = 0#73 ∧ (off.stove 7).railOn = false ∧ off.audit.count = 0#64 ∧ off.vault.pend = 0#16 ∧
      on.vault.resetting = true ∧ on.pwr.pswAck = 0#73 ∧ (on.stove 7).railOn = true ∧ (on.stove 7).vok = false ∧
      idles .powerOn State.reset = true := by decide +kernel

/-- A wipe in progress. -/
def wiping : State := { State.reset with vault := { Seal.reset with wiping := true, wipeKind := 1#3, resetting := true } }

/-- The same under an alarm. -/
def alarmed : State :=
  { State.reset with vault := { Seal.reset with wiping := true, wipeKind := 3#3, handling := some 1#2 } }

theorem test_wipe_done :
    let fatal := { wiping with err := { Errors.reset with stopped := true, fatalCause := 0x15#8 } }
    let busy := alarmed.setRing 1 { ring with entries := [job 0x41 []] }
    let t := after (.wipeDone 0#3 true false [(5#13, 5000#13)]) wiping
    idles (.wipeDone 0#3 false false []) State.reset = true ∧ wiping.err.stopped = false ∧ idles (.wipeDone 0#3 false false []) fatal = true ∧
      (after (.wipeDone 1#3 false false []) wiping).err.fatalCause = 0x15#8 ∧ wiping.allUp = true ∧
      t.vault.resetting = false ∧ t.vault.selftestFail = true ∧ t.vault.wipeCause = 1#3 ∧ t.vault.wipeCount = 1#16 ∧
      (t.port 0).rdCredits = 16#16 ∧ (t.port 0).wrCredits = 4096#16 ∧ wiping.pwr.queuedAlarms = [] ∧
      { wiping with pwr := { wiping.pwr with pswAck := 0x1#73 } }.allUp = false ∧
      idles (.wipeDone 0#3 false false []) { wiping with pwr := { wiping.pwr with pswAck := 0x1#73 } } = true ∧
      alarmed.recordsOut = true ∧ (after (.wipeDone 0#3 false false []) alarmed).vault.halted = true ∧
      busy.recordsOut = false ∧ idles (.wipeDone 0#3 false false []) busy = true := by decide +kernel

theorem test_wipe_done_holds_nothing (n : Nat) : (wiping.ring n).held = none ∧ (wiping.ring n).withheld = [] := ⟨rfl, rfl⟩

/-- A block in MISSION whose policy for every source is `p`. -/
def policied (p : BitVec 2) : State :=
  { inState 3#4 with vault := { (inState 3#4).vault with
      attest := true, policy := nth 0#32 [0#32, 0x55555555#32, 0xAAAAAAAA#32, 0xFFFFFFFF#32] p.toNat } }

/-- Sources at the edges of Table 16-8's gap, every policy, in Run and in sleep, and during a blowing of fuses. -/
theorem test_alarm_policies :
    let asleep := inBlock .hibernate (policied 3#2)
    let t := after (.alarmTrip 0#4) (policied 3#2)
    idles (.alarmTrip 5#4) (policied 3#2) = true ∧ idles (.alarmTrip 7#4) (policied 3#2) = true ∧
      idles (.alarmTrip 4#4) (inBlock .off (policied 3#2)) = true ∧
      idles (.alarmTrip 4#4) { policied 3#2 with cfg := { BlockConfig.reference with hasSeal := false } } = true ∧
      (policied 0#2).vault.applied 8 = polLog ∧ (policied 3#2).vault.applied 0 = polScrap ∧
      (after (.alarmTrip 8#4) (policied 0#2)).vault.pend = 256#16 ∧ (after (.alarmTrip 8#4) (policied 0#2)).blk.blkEvent.getLsbD 6 = true ∧
      (after (.alarmTrip 8#4) (policied 0#2)).vault.attest = true ∧ (after (.alarmTrip 8#4) (policied 0#2)).vault.handling = none ∧
      (after (.alarmTrip 0#4) (policied 2#2)).vault.handling = some 2#2 ∧ (after (.alarmTrip 0#4) (policied 2#2)).vault.attest = false ∧
      (after (.alarmTrip 0#4) (policied 2#2)).vault.lcFuse = 3#4 ∧
      t.vault.lcFuse = 15#4 ∧ t.vault.handling = some 3#2 ∧ t.vault.wiping = true ∧ t.vault.wipeKind = 3#3 ∧
      (after (.alarmTrip 0#4) asleep).pwr.block = .waking ∧ (after (.alarmTrip 0#4) asleep).pwr.lastWake = 4#3 ∧
      (after (.alarmTrip 0#4) asleep).pwr.queuedAlarms = [(0, 3#2)] ∧
      (after (.alarmTrip 1#4) t).vault.handling = some 3#2 ∧
      (after (.alarmTrip 8#4) { policied 0#2 with vault := { (policied 0#2).vault with blowing := true, busy := true } }).vault.blowing = false := by
  decide +kernel

theorem test_alarm_ends :
    let due := (alarmed.setRing 1 { ring with entries := [job 0x41 []] }).setPort 2 { State.reset.port 2 with waiting := [
      Request.mk' true 0 64 [] 2#2 1 0#32 .recordBody, Request.mk' true 0 64 [] 2#2 1 0#32 (.interrupt 3)] }
    (due.vault.handling.isSome = true ∧ due.vault.wiping = true ∧ due.vault.resetting = false) ∧
      ((after .alarmRecordAbandon due).ring 1).state = .off ∧ ((after .alarmRecordAbandon due).ring 1).entries = [] ∧
      ((after .alarmRecordAbandon due).port 2).waiting = [] ∧ idles .alarmRecordAbandon wiping = true ∧
      (after (.alarmConditionEnd 15#4) { State.reset with vault := { Seal.reset with sense := 0x8001#16 } }).vault.sense = 1#16 := by
  decide +kernel

theorem test_fatal :
    let s := { State.reset with audit := { Audit.reset with count := 0xC00#64 } }
    let t := after (.fatalEvent 0x14#8 6#8 1#8 0#64) s
    s.err.stopped = false ∧ t.err.fatalStamp = 3#32 ∧ t.err.stopped = true ∧ idles (.fatalEvent 0x15#8 6#8 1#8 0#64) t = true ∧
      (after .fatalHalt t).err.fatalHalted = true ∧ (after .fatalHalt t).poolAwake = false ∧ idles .fatalHalt s = true := by decide +kernel

/-! ### Hearths, switches, sleep -/

theorem test_hearth_idle :
    let x := State.reset.hearth 63
    let s (p : HearthPower) (i : BitVec 2) : State := State.reset.setHearth 63 { x with power := p, idleState := i }
    State.reset.hearthWork 63 = false ∧ State.reset.hearthMaint 63 = false ∧ State.reset.upkeep = true ∧
      ((after (.hearthIdleEntry 63#6) (s .active 1#2)).hearth 63).power = .gated ∧
      ((after (.hearthIdleEntry 63#6) (s .active 2#2)).hearth 63).power = .gated ∧
      ((after (.hearthIdleEntry 63#6) (s .gated 2#2)).hearth 63).power = .retain ∧
      idles (.hearthIdleEntry 63#6) (s .gated 1#2) = true ∧ idles (.hearthIdleEntry 63#6) (s .retain 2#2) = true ∧
      idles (.hearthIdleEntry 63#6) (inBlock .doze (s .active 2#2)) = true ∧
      idles (.hearthIdleEntry 63#6) { s .active 2#2 with maint := { Maint.reset with running := [(1, 63)] } } = true ∧
      idles (.hearthIdleEntry 63#6) (s .active 0#2) = true := by decide +kernel

theorem test_hearth_wakes :
    let x := State.reset.hearth 63
    let s (p : HearthPower) (f : Bool) : State := State.reset.setHearth 63 { x with power := p, fromShut := f, store := [(0, 1#8)] }
    ((after (.hearthWakeDone 63#6) (s .waking false)).hearth 63).power = .active ∧
      ((after (.hearthWakeDone 63#6) (s .waking false)).hearth 63).store = [(0, 1#8)] ∧
      ((after (.hearthWakeDone 63#6) (s .wiping true)).hearth 63).store = [] ∧
      ((after (.hearthWakeDone 63#6) (s .wiping true)).hearth 63).wipeCount = 1#16 ∧
      idles (.hearthWakeDone 63#6) (s .waking true) = true ∧ idles (.hearthWakeDone 63#6) (s .shut true) = true := by decide +kernel

theorem test_switches :
    let s := State.reset.setHearth 63 { State.reset.hearth 63 with power := .waking, fromShut := true }
    let reset := { State.reset with pwr := { Power.reset with pswReq := 0x100#73, pswAck := 0#73 }, vault := { Seal.reset with resetting := true } }
    let wake := { State.reset.setHearth 63 { State.reset.hearth 63 with power := .shut } with
      pwr := { Power.reset with block := .waking, sleeping := .hibernate, wakeHearths := true, pswReq := 0x100#73, pswAck := 0#73 } }
    ((after (.pswAck 72#7 true) s).hearth 63).power = .wiping ∧ (after (.pswAck 72#7 false) s).pwr.pswAck.getLsbD 72 = false ∧
      ((after (.pswAck 71#7 true) s).hearth 63).power = .waking ∧ (after (.pswAck 0#7 true) reset).pwr.pswReq = reset.pwr.pswReq ∧
      reset.pwr.pswReq.getLsbD 8 = true ∧ (after (.pswAck 8#7 true) reset).pwr.pswReq.getLsbD 72 = true ∧
      (after (.pswAck 8#7 true) reset).hearths = [] ∧ (wake.hearth 63).offline = false ∧ wake.vault.handling = none ∧
      ((after (.pswAck 8#7 true) wake).hearth 63).power = .waking ∧ (after (.pswAck 8#7 true) wake).pwr.pswReq.getLsbD 72 = true := by
  decide +kernel

/-- The four sources of Table 15-4, and the states in which nothing wakes. -/
theorem test_wake_sources :
    let bell (s : State) : State := s.setRing 3 { Ring.reset with held := some 7#32 }
    let alarm (s : State) : State := { s with vault := { s.vault with handling := some 2#2 } }
    let warm := { State.reset.setHearth 63 { State.reset.hearth 63 with power := .retain } with
      pwr := { Power.reset with block := .doze, wakeHearths := true } }
    idles (.blockWake 2#3) State.reset = true ∧ idles (.blockWake 2#3) (inBlock .off dozing) = true ∧
      idles (.blockWake 2#3) (inBlock .waking dozing) = true ∧ (after (.blockWake 2#3) dozing).pwr.block = .waking ∧
      (after (.blockWake 2#3) dozing).pwr.wakeCount = 1#16 ∧ (after (.blockWake 3#3) (inBlock .hibernate dozing)).pwr.lastWake = 3#3 ∧
      ((after (.blockWake 3#3) (inBlock .hibernate dozing)).stove 7).railOn = true ∧
      ((after (.blockWake 3#3) (inBlock .hibernate dozing)).stove 7).vok = false ∧
      idles (.blockWake 1#3) dozing = true ∧ (after (.blockWake 1#3) (bell dozing)).pwr.lastWake = 1#3 ∧
      idles (.blockWake 1#3) (bell { dozing with pwr := { dozing.pwr with dbWake := false } }) = true ∧
      idles (.blockWake 4#3) dozing = true ∧ (after (.blockWake 4#3) (alarm dozing)).pwr.lastWake = 4#3 ∧
      (after (.blockWake 3#3) (inBlock .entering dozing)).pwr.dueWake = some 3#3 ∧ idles (.blockWake 5#3) dozing = true ∧
      ((after (.blockWake 2#3) dozing).hearth 63).power = (dozing.hearth 63).power ∧ ((after (.blockWake 2#3) warm).hearth 63).power = .waking := by
  decide +kernel

theorem test_wake_done :
    let s (from_ : BlockState) : State := { State.reset with pwr := { Power.reset with block := .waking, sleeping := from_, lastWake := 2#3 } }
    let alarm (from_ : BlockState) : State := { s from_ with vault := { Seal.reset with handling := some 2#2 } }
    let warm := (s .doze).setHearth 63 { State.reset.hearth 63 with power := .waking, fromShut := false }
    (s .doze).coreUp = true ∧ (s .doze).vault.handling = none ∧ (s .doze).sash.stalled = [] ∧ (s .doze).xch.warn = 0#8 ∧
      (after (.wakeDone ⟨[], 0#8⟩) (s .doze)).pwr.block = .run ∧ (after (.wakeDone ⟨[], 0#8⟩) (s .doze)).blk.blkEvent.getLsbD 4 = true ∧
      (after (.wakeDone ⟨[], 0#8⟩) (s .hibernate)).pwr.lastWake = 2#3 ∧
      idles (.wakeDone ⟨[], 0#8⟩) { s .doze with pwr := { (s .doze).pwr with pswAck := 1#73 } } = true ∧ idles (.wakeDone ⟨[], 0#8⟩) warm = true ∧
      idles (.wakeDone ⟨[], 0#8⟩) State.reset = true ∧
      (after (.wakeDone ⟨[], 0#8⟩) (alarm .doze)).vault.wiping = true ∧ (after (.wakeDone ⟨[], 0#8⟩) (alarm .hibernate)).pwr.block = .run := by
  decide +kernel

theorem test_wake_done_holds_no_doorbell (n : Nat) :
    let s : State := { State.reset with pwr := { Power.reset with block := .waking, sleeping := .doze, lastWake := 2#3 } }
    (s.ring n).held = none ∧ (s.ring n).withheld = [] := ⟨rfl, rfl⟩

theorem test_low_power_entry :
    let s (m : BitVec 2) (d : Bool) (w : Option (BitVec 3)) : State :=
      { State.reset.setRing 3 { ring with held := some 7#32 } with
        mantel := [(5, 1#8)], pwr := { Power.reset with block := .entering, mode := m, dozeHearth := d, dueWake := w } }
    ((s 1#2 false none).ring 0).entries = [] ∧ Tab.wf Ring.reset (s 2#2 false none).rings = true ∧ ((s 1#2 false none).hearth 63).fromShut = false ∧
      (after .lowPowerEnter (s 1#2 false none)).pwr.block = .doze ∧ ((after .lowPowerEnter (s 1#2 false none)).hearth 63).power = .retain ∧
      ((after .lowPowerEnter (s 1#2 true none)).hearth 63).power = .shut ∧ (after .lowPowerEnter (s 1#2 false (some 2#3))).pwr.lastWake = 2#3 ∧
      (after .lowPowerEnter (s 2#2 false none)).pwr.block = .hibernate ∧ ((after .lowPowerEnter (s 2#2 false none)).hearth 63).power = .shut ∧
      ((after .lowPowerEnter (s 2#2 false none)).stove 7).railOn = false ∧ (after .lowPowerEnter (s 2#2 false none)).mantel = [(5, 1#8)] ∧
      (after .lowPowerEnter (s 2#2 false none)).ring 3 = { Ring.reset with held := some 7#32 } ∧
      (after .lowPowerEnter (s 2#2 false (some 1#3))).pwr.block = .waking ∧
      idles .lowPowerEnter State.reset = true ∧ idles .lowPowerEnter ((s 1#2 false none).setRing 0 { ring with entries := [job 0x41 []] }) = true := by
  decide +kernel

/-! ### Maintenance -/

theorem test_maint_requests :
    let s := { State.reset with maint := { Maint.reset with mantelPeriod := 1#16, sramPeriod := 0#16 } }
    let t := after (.maintSchedule 2#3 63#6) s
    let bare := { s with cfg := { BlockConfig.reference with hasMantel := false } }
    (2, 63) ∈ t.maint.running ++ t.maint.queued ∧ (2, 63) ∈ t.maint.scheduled ∧
      idles (.maintSchedule 1#3 63#6) s = true ∧ idles (.maintSchedule 2#3 63#6) (inBlock .doze s) = true ∧
      idles (.maintSchedule 2#3 63#6) bare = true ∧ idles (.tempHiChange 63#6 true) bare = true ∧ idles (.tempHiChange 63#6 false) s = true ∧
      ((after (.tempHiChange 63#6 true) s).hearth 63).tempHi = true ∧
      (3, 63) ∈ (after (.tempHiChange 63#6 true) s).maint.running ++ (after (.tempHiChange 63#6 true) s).maint.queued := by decide +kernel

theorem test_maint_grants :
    let s (run queue : List (Nat × Nat)) : State := { State.reset with maint := { Maint.reset with running := run, queued := queue } }
    idles .maintGrant (s [] []) = true ∧ (s [] [(2, 5)]).maint.startable = some (2, 5) ∧
      (after .maintGrant (s [] [(2, 5)])).maint.running = [(2, 5)] ∧ idles .maintGrant (inBlock .hibernate (s [] [(2, 5)])) = true ∧
      (after .maintGrant ((s [] [(1, 5)]).setHearth 5 { State.reset.hearth 5 with power := .retain })).maint.running = [] ∧
      (s [(2, 5)] [(6, 5)]).maint.startable = some (6, 5) ∧ maintOverlap (6, 5) (2, 5) = true ∧
      (after .maintGrant (s [(2, 5)] [(6, 5)])).maint.queued = [(2, 5)] ∧
      (after .maintGrant (s [(2, 5)] [(6, 5)])).maint.abortCount = 1#16 := by decide +kernel

/-- The four findings of a line, in an SRAM's first memory, in its accumulator memory, and in the tier. -/
theorem test_scrub_steps :
    let s (a : Nat) (x : Hearth) : State := { State.reset.setHearth 63 x with maint := { Maint.reset with running := [(a, 63)] } }
    let x := State.reset.hearth 63
    let step (c : BitVec 2) (x : Hearth) : Hearth := (after (.maintStep 1#3 63#6 c) (s 1 x)).hearth 63
    (step 1#2 x).sramCe = 1#32 ∧ (step 2#2 x).sramUe = 1#16 ∧ (step 2#2 x).storePoison = [0] ∧ (step 2#2 x).sramPtr = 64 ∧
      (step 0#2 { x with storeSoft := [7] }).sramCe = 1#32 ∧ (step 0#2 { x with storeSoft := [7, 8] }).storeSoft = [8] ∧
      (step 0#2 { x with storeBad := [7] }).sramUe = 1#16 ∧ (step 3#2 { x with storeBad := [7] }).sramUe = 0#16 ∧
      (step 2#2 { x with sramPtr := 2 ^ 23 }).accBad = [0] ∧ (step 0#2 { x with sramPtr := 13 * 2 ^ 20 - 64 }).sramPtr = 0 ∧
      ((after (.maintStep 2#3 63#6 1#2) (s 2 x)).hearth 63).mantelCorrected = 1#16 ∧
      (after (.maintStep 2#3 63#6 2#2) (s 2 x)).mantelPoison = [2 ^ 28 * 63 / 64] ∧ idles (.maintStep 3#3 63#6 0#2) (s 3 x) = true ∧
      idles (.maintStep 2#3 63#6 0#2) (s 1 x) = true := by decide +kernel

theorem test_activity_ends :
    let e := { job 0x12 [] with pos := 4#32 }
    let s (a : Nat) : State := { State.reset.setRing 0 { ring with entries := [e] } with
      mantel := [(2 ^ 28 * 62, 2#8), (2 ^ 28 * 63, 1#8)], maint := { Maint.reset with running := [(a, 63)], waiting := [(4#32, a, 63)] } }
    let fin (a : Nat) (p : Bool) (u : W8) : State := after (.maintActivityDone (BitVec.ofNat 3 a) 63#6 p u) (s a)
    ((fin 1 true 0#8).hearth 63).scrubPasses = 1#16 ∧ ((fin 1 true 0#8).ring 0).entries.all (fun e => decide (e.stage = .finished)) = true ∧
      ((fin 4 false 9#8).hearth 63).bistResult = 2#2 ∧ ((fin 4 false 9#8).hearth 63).bistUnit = 9#8 ∧
      ((fin 4 true 0#8).hearth 63).power = .shut ∧ (fin 2 true 0#8).maint.running = [] ∧
      (fin 6 true 0#8).mantel = [(2 ^ 28 * 62, 2#8)] ∧ (fin 3 true 0#8).maint.running = [] ∧
      ((fin 5 true 0#8).hearth 63).store = [] ∧ idles (.maintActivityDone 5#3 63#6 true 0#8) (s 6) = true ∧
      idles (.maintActivityDone 4#3 63#6 true 0#8) ((s 4).setHearth 63 { State.reset.hearth 63 with power := .gated }) = true := by decide +kernel

/-! ### COUNT, synchronisation, recording (chapter 13) -/

theorem test_count_tick :
    let up := (State.reset.strike ⟨.mantel, 0#6, 5, true⟩).strike ⟨.store, 63#6, 9, false⟩
    State.reset.audit.slew = 0 ∧ (after .countTick State.reset).audit.count = State.reset.audit.count + 10#64 ∧
      (after .countTick dozing).audit.count = dozing.audit.count + 40#64 ∧ up.mantelBad = [5] ∧ (up.hearth 63).storeSoft = [9] ∧
      idles .countTick { State.reset with pwr := { Power.reset with block := .off } } = true := by decide +kernel

/-- A follower with a SKEW and pulses seen. -/
def follower (unset : Bool) (good : Nat) : State :=
  { State.reset with audit := { Audit.reset with role := 2#2, skewUnset := unset, goodPulses := good, count := 1000#64, delay := 0#16 } }

theorem test_sync :
    let p (c : W64) (s : State) : Audit := (after (.syncPulse ⟨c, 0#6⟩) s).audit
    (p 1033#64 (follower true 0)).skew = 64#64 ∧ (p 1031#64 (follower true 0)).skew = 0#64 ∧ (p 1031#64 (follower true 0)).residual = 31#32 ∧
      (p 1031#64 (follower true 3)).locked = false ∧ (p 1031#64 (follower true 0)).slew = 0 ∧
      (p 1016#64 (follower false 3)).locked = true ∧ (p 984#64 (follower false 3)).locked = true ∧ (p 1016#64 (follower false 3)).slew = 16 ∧
      (p 1017#64 (follower false 3)).locked = false ∧ (p 1017#64 (follower false 3)).goodPulses = 0 ∧
      (p 1256#64 (follower false 0)).lockLost = false ∧ (p 1257#64 (follower false 0)).lockLost = true ∧ (p 743#64 (follower false 0)).lockLost = true ∧
      (after (.syncPulse ⟨1040#64, 40#6⟩) (follower false 3)).audit.residual = 0#32 ∧
      (after .syncPulseMissed (follower false 0)).audit.lostCount = 1#16 ∧ idles .syncPulseMissed State.reset = true ∧
      idles (.syncPulse ⟨5#64, 0#6⟩) (inBlock .off State.reset) = true ∧
      (p 5#64 State.reset).pulses = State.reset.audit.pulses + 1#64 := by decide +kernel

/-- A change of ROLE, within a pulse of a leader. -/
theorem test_role_change :
    let s := { State.reset with audit := { Audit.reset with role := 1#2, syncOut := true, locked := true, goodPulses := 3 } }
    (0x502#64 : W64).setWidth 2 ≠ s.audit.role ∧ (after (.registerWrite 0x4010#20 0x502#64) s).audit =
      { s.audit with role := 2#2, delay := 5#16, locked := false, goodPulses := 0, skewUnset := true, syncOut := false,
                     slew := (after (.registerWrite 0x4010#20 0x502#64) s).audit.slew } := by decide +kernel

theorem test_sync_out :
    let s (c : W64) : State := { State.reset with audit := { Audit.reset with role := 1#2, count := c } }
    (after .syncOutPulse (s 0x10003F#64)).audit.syncOut = true ∧ idles .syncOutPulse (s 0x100040#64) = true ∧
      idles .syncOutPulse State.reset = true := by decide +kernel

/-- The recorder with a gap, and in replay. -/
def recording : State := { State.reset with audit := { Audit.reset with recEnable := true, recGap := 3#64, recLog2 := 10#5 } }
def replaying (kind : Nat) : State :=
  { State.reset with
    host := Memory.store [] 0 [BitVec.ofNat 8 kind, 127#8],
    xch := { Transom.reset with timeout := 1#32 },
    audit := { Audit.reset with recEnable := true, recMode := true, recLog2 := 10#5, recLimit := 1#32 } }

theorem test_recorder_gap :
    recording.issuing = true ∧ recording.audit.recMode = false ∧ recording.audit.recFull = false ∧ recording.portAwake 2 = true ∧
      (recording.port 2).waiting = [] ∧ (recording.port 2).inflight = [] ∧ 3 ≤ (recording.port 2).wrCredits.toNat ∧
      recording.audit.withheldRows = [] ∧ (recording.audit.recBase.toNat + 32 ≤ 2 ^ 52) ∧ idles .recorderGap State.reset = true ∧
      (after .recorderGap { recording with audit := { recording.audit with recGap := 0#64 } }).audit.recTail = 0#32 ∧
      (after .recorderGap recording).audit.recGap = 0#64 ∧ (after .recorderGap recording).host.byte 0 = 6#8 ∧
      (after .recorderGap recording).host.byte 16 = 3#8 := by decide +kernel

theorem test_recorder_gap_holds_no_doorbell (n : Nat) : (recording.ring n).held = none ∧ (recording.ring n).withheld = [] := ⟨rfl, rfl⟩

theorem test_replay :
    let halted (s : State) : State := { s with vault := { s.vault with halted := true } }
    (replaying 1).issuing = true ∧ (replaying 1).audit.replayLive = false ∧ fld (replaying 1).replayRecord 0 0 8 = 1 ∧
      fld (replaying 6).replayRecord 0 0 8 = 6 ∧ (replaying 1).xch.timeout ≠ 0#32 ∧
      (after .replayStep (replaying 1)).audit.recTail = 1#32 ∧ (after .replayStep (replaying 6)).audit.recTail = 1#32 ∧
      idles .replayStep { replaying 6 with audit := { (replaying 6).audit with recTail := 1#32 } } = true ∧ idles .replayStep (replaying 2) = true ∧
      (halted (replaying 1)).issuing = false ∧ idles .replayStep (halted (replaying 1)) = true ∧
      (after .replayDiverge (replaying 2)).audit.diverged = true ∧ (after .replayDiverge (replaying 2)).audit.replayLive = true := by decide +kernel

/-- A recorded pulse is acted on when the pulse that it names waits. -/
theorem test_replayed_pulse :
    let s := replaying 5
    let d := (s.audit.digest (leBytes 8 1)).toNat
    let r := { s with host := Memory.store [] 0 ([5#8, 0#8, 0#8, 0#8] ++ leBytes 4 0 ++ leBytes 8 0 ++ leBytes 8 1 ++ leBytes 8 d),
                      audit := { s.audit with replayWaiting := [.syncPulse ⟨9#64, 0#6⟩] } }
    fld r.replayRecord 0 0 8 = 5 ∧ fld r.replayRecord 16 0 64 = (r.audit.pulses + 1#64).toNat ∧
      fld r.replayRecord 24 0 64 = (r.audit.digest (leBytes 8 (r.audit.pulses + 1#64).toNat)).toNat ∧
      (after .replayStep r).audit.pulses = 1#64 ∧ (after .replayStep r).audit.replayWaiting = [] := by decide +kernel
/-! ### Descriptors of the fast path -/

theorem test_nop :
    State.running (onRing 2 (job 0x60 [])) 2 0#32 0x60 = some (job 0x60 []) ∧ (job 0x60 []).status = 0#8 ∧
      (after (.nop 2#7 0#32) (onRing 2 (job 0x60 []))).entry 2 0#32 = some { job 0x60 [] with stage := .finished, left := 0 } := by
  decide +kernel

/-- FENCE and an earlier position beside it. -/
def fenced (kind : Nat) : Entry := { job 0x40 [(16, kind)] with pos := 1#32, order := 1 }
def twoOn (n : Nat) (e : Entry) : State := State.reset.setRing n { ring with entries := [job 0x60 [], e] }

theorem test_fence :
    State.running (onRing 2 (fenced 0)) 2 1#32 0x40 = some (fenced 0) ∧ fld (fenced 0).desc.toNat 16 0 2 = 0 ∧
      (∀ f ∈ ((onRing 2 (fenced 0)).ring 2).entries, (fenced 0).order ≤ f.order) ∧
      (after (.fenceRing 2#7 1#32) (onRing 2 (fenced 0))).entry 2 1#32 = some { fenced 0 with stage := .finished, left := 0 } ∧
      State.running (twoOn 2 (fenced 0)) 2 1#32 0x40 = some (fenced 0) ∧
      (∃ f ∈ ((twoOn 2 (fenced 0)).ring 2).entries, f.order < (fenced 0).order) ∧
      idles (.fenceRing 2#7 1#32) (twoOn 2 (fenced 0)) = true ∧ (fenced 0).status = 0#8 ∧
      (twoOn 2 (fenced 0)).issueRing 2 = none := by decide +kernel

/-- EPOCH fences issued, fetched, and recorded, and an exchange that each holds or does not hold. -/
theorem test_fence_epoch :
    let f : Fetched := { pos := 0#32, desc := desc 0x40 [(16, 1)] }
    let x : Fetched := { pos := 0#32, desc := desc 0x20 [] }
    let other (s : State) : State := s.setRing 5 { ring with fetched := [x] }
    let issued := other (onRing 0 (fenced 1))
    let two := other (State.reset.setRing 0 { ring with entries := [{ fenced 1 with stage := .recorded }, { fenced 1 with pos := 2#32 }] })
    let fetched := other (State.reset.setRing 0 { ring with fetched := [f] })
    let recorded := other (onRing 0 { fenced 1 with stage := .recorded })
    State.running (onRing 0 (fenced 1)) 0 1#32 0x40 = some (fenced 1) ∧ fld (fenced 1).desc.toNat 16 0 2 = 1 ∧
      (after (.fenceEpoch 0#7 1#32) (onRing 0 (fenced 1))).entry 0 1#32 = some { fenced 1 with started := true } ∧
      issued.epochHeld = true ∧ two.epochHeld = true ∧ fetched.epochHeld = true ∧ recorded.epochHeld = false ∧
      descOpcode f.desc = 0x40 ∧ fld f.desc.toNat 16 0 2 = 1 ∧ descOpcode x.desc = 0x20 ∧ issued.issueRing 5 = none := by decide +kernel

/-- LAUNCH_AT for `v`, on a ring alone. -/
def launch (v : Nat) (started : Bool) : Entry := { job 0x41 [(24, v)] with started := started }

theorem test_launch_at :
    let s (c : W64) (b : Bool) : State :=
      let z := onRing 2 (launch 1000 b)
      { z with audit := { z.audit with count := c } }
    State.running (s 1000#64 false) 2 0#32 0x41 = some (launch 1000 false) ∧ fld (launch 1000 false).desc.toNat 24 0 64 = 1000 ∧
      (after (.launchAt 2#7 0#32) (s 1000#64 false)).entry 2 0#32 = some { launch 1000 false with stage := .finished, left := 0 } ∧
      (after (.launchAt 2#7 0#32) (s 999#64 false)).entry 2 0#32 = some (launch 1000 true) ∧
      ((s 1000#64 true).ring 2).entries = [launch 1000 true] ∧ descOpcode (launch 1000 true).desc = 0x41 ∧ (launch 1000 true).stage = .running ∧
      (s 1000#64 true).err.stopped = false ∧
      (s 999#64 false).issueRing 2 = none ∧ ((let z := onRing 2 (launch 1000 true)
        { z with audit := { z.audit with count := 990#64, skew := 10#64 } }).audit.skew = 10#64) ∧
      (after (.launchAt 2#7 0#32) (let z := onRing 2 { job 0x41 [(16, 1), (24, 1000)] with started := false }
        { z with audit := { z.audit with count := 990#64, skew := 10#64 } })).entry 2 0#32 =
          some { job 0x41 [(16, 1), (24, 1000)] with stage := .finished, left := 0 } ∧
      (after (.launchAtExpire 2#7) (s 1000#64 true)).entry 2 0#32 = some { launch 1000 true with stage := .finished, left := 0 } ∧
      idles (.launchAtExpire 2#7) (s 999#64 true) = true := by decide +kernel

/-- A session of the ring, and one SEAL_CLOSE to the Mantel. -/
def session : Session :=
  { nonce := 5#64, keyRef := 0#2, poly := 7#128, tagKey := 9#384, sums := [], lines := [], program := [], sflags := 0#8, windows := [] }
def close : Entry := { job 0x42 [(16, 1), (24, 4096)] with order := 1 }
def closing (v : Option Session) : State := State.reset.setRing 2 { ring with entries := [close], session := v, sessionLost := true }

theorem test_seal_close_waits :
    State.running (closing none) 2 0#32 0x42 = some close ∧ (∀ f ∈ ((closing none).ring 2).entries, close.order ≤ f.order) ∧
      (∃ f ∈ ((twoOn 2 { close with pos := 1#32 }).ring 2).entries, f.order < close.order) ∧
      idles (.sealClose 2#7 1#32) (twoOn 2 { close with pos := 1#32 }) = true ∧ close.status = 0#8 := by decide +kernel

theorem test_seal_close_refused :
    State.sealRefusal (closing none) 2 = 3 ∧
      ((after (.sealClose 2#7 0#32) (closing none)).entry 2 0#32).map (fun f => (f.status, f.detail)) = some (0x0E#8, 3#16) := by decide +kernel

theorem test_seal_close_open (v : Session) : ((closing (some v)).ring 2).session = some v := rfl

theorem test_seal_close_closes :
    let r : Ring := { ring with entries := [close], session := some session }
    let s : State := { State.reset with rings := [(2, r)], vault := { Seal.reset with lcShown := 3#4, slotMask := 1#5 } }
    State.running s 2 0#32 0x42 = some close ∧ s.sealRefusal 2 = 0 ∧ (s.ring 2).session = some session ∧ fld close.desc.toNat 16 0 2 = 1 ∧
      s.maint.running = [] ∧
      idles (.sealClose 2#7 0#32) { s with maint := { Maint.reset with running := [(6, 0)] } } = true ∧ fld close.desc.toNat 24 0 64 / 2 ^ 28 = 0 := by
  decide +kernel

/-- The conditions of a record to host memory. -/
theorem test_seal_close_to_host :
    let e : Entry := { job 0x42 [(16, 3), (24, 4096)] with order := 1 }
    let r : Ring := { ring with entries := [e], session := some session }
    let s : State := { State.reset with rings := [(2, r)], vault := { Seal.reset with lcShown := 3#4, slotMask := 1#5 } }
    State.running s 2 0#32 0x42 = some e ∧ s.sealRefusal 2 = 0 ∧ fld e.desc.toNat 16 0 2 = 3 ∧ s.portAwake 2 = true ∧ (s.port 2).waiting = [] ∧
      (s.port 2).inflight = [] ∧ 3 ≤ (s.port 2).wrCredits.toNat ∧ fld e.desc.toNat 24 0 64 % 256 ≤ 128 := by decide +kernel

/-- A ring whose position 64, of its second lap, has ended OK. -/
def ended : Entry := { job 0x60 [] with pos := 64#32, stage := .finished }

theorem test_record :
    let s := onRing 2 ended
    s.entry 2 64#32 = some ended ∧ ended.stage = .finished ∧ s.outstanding 2 64#32 = false ∧ s.err.stopped = false ∧ ended.status = 0#8 ∧
      ended.failed = false ∧ ended.sealRefusal = 0#16 ∧ ended.sealed = false ∧ descOpcode ended.desc ∉ [0x21, 0x22] ∧ descIrq ended.desc = false ∧
      Tab.wf Port.reset s.ports = true ∧ s.portAwake 0 = true ∧ (s.port 0).waiting = [] ∧ (s.port 0).inflight = [] ∧
      4 ≤ (s.port 0).wrCredits.toNat ∧ (s.ring 2).cqSlot 64#32 < 2 ^ 52 ∧ (s.ring 2).irqErr = false ∧ (s.ring 2).errStop = false ∧
      (let t := after (.completionRecordWrite 2#7 64#32) s
       t.host.byte (0x20000 + 5) = 0x60#8 ∧ t.host.byte (0x20000 + 12) = 64#8 ∧ t.host.byte (0x20000 + 28) = 0#8) ∧
      (after (.completionRecordWrite 2#7 0#32) (onRing 2 { ended with pos := 0#32 })).host.byte (0x20000 + 28) = 1#8 ∧
      ((after (.completionRecordWrite 2#7 64#32) (onRing 2 { ended with sealRefusal := 3#16 })).ring 2).lastStatus = 0x0E#8 ∧
      idles (.completionRecordWrite 2#7 0#32) (onRing 2 (job 0x60 [])) = true ∧
      idles (.completionRecordWrite 2#7 64#32) { s with err := { Errors.reset with stopped := true } } = true := by decide +kernel

/-- ERR_STOP. -/
theorem test_error_stop :
    let e := { ended with status := 2#8, detail := 7#16 }
    let s := State.reset.setRing 2 { ring with entries := [e], errStop := true }
    s.entry 2 64#32 = some e ∧ s.outstanding 2 64#32 = false ∧ (s.ring 2).cqSlot 64#32 < 2 ^ 52 ∧ e.outs = [] ∧ e.uses = Uses.none ∧
      ((after (.completionRecordWrite 2#7 64#32) s).ring 2).state = .stopped ∧ ((after (.completionRecordWrite 2#7 64#32) s).ring 2).lastDetail = 7#16 := by
  decide +kernel

/-- A ring with positions to fetch. -/
def fetching (at_ tail : W32) : State := State.reset.setRing 3 { ring with tail := tail, head := at_, fetchPos := at_, issuePos := at_ }

theorem test_fetch :
    let s := fetching 63#32 70#32
    s.issuing = true ∧ s.serve s.blk.fetchNextFlue s.blk.fetchNext (fun m => (s.ring m).fetchable) = some 3 ∧ (s.ring 3).burst = 1 ∧
      (let a := (s.ring 3).sqBase.toNat + 128 * (63 % 2 ^ (s.ring 3).log2Size.toNat)
       a % 128 = 0 ∧ a / 256 % 3 = 2 ∧ s.portAwake 2 = true ∧ (s.port 2).waiting = [] ∧ (s.port 2).inflight = [] ∧
         3 ≤ (s.port 2).rdCredits.toNat) ∧
      ((fetching 0#32 70#32).ring 3).burst = 8 ∧ (s.ring 3).sqBase.toNat + 128 * 2 ^ (s.ring 3).log2Size.toNat ≤ 2 ^ 52 ∧ s.classOf 3 = 2#2 ∧
      idles .descriptorFetch { s with err := { Errors.reset with stopped := true } } = true ∧
      ((after .descriptorFetch s).port 2).inflight.map (fun q => (q.addr, q.size, q.pos)) = [(0x10000 + 128 * 63, 128, 63#32)] := by
  decide +kernel

theorem test_no_fetch (n : Nat) : ((State.reset).ring n).fetchable = false ∧ State.reset.issueRing n = none := ⟨rfl, rfl⟩

/-- A ring whose next descriptor has been fetched. -/
def fetchedOn (d : DescBits) : State :=
  State.reset.setRing 3 { ring with head := 5#32, tail := 6#32, fetchPos := 6#32, issuePos := 5#32, fetched := [{ pos := 5#32, desc := d }] }

theorem test_issue :
    let s (d : DescBits) := fetchedOn d
    let ok (d : DescBits) : Prop := (s d).issuing = true ∧
      (s d).serve (s d).blk.decodeNextFlue (s d).blk.decodeNext (fun m => ((s d).issueRing m).isSome) = some 3 ∧
      ((s d).ring 3).state = .run ∧ ((s d).ring 3).fetched = [{ pos := 5#32, desc := d }] ∧ ((s d).ring 3).issuePos = 5#32 ∧
      ((s d).ring 3).entries = [] ∧ descSeal d = false
    (∀ e ∈ ((s (desc 0x60 [])).ring 0).entries, descOpcode e.desc ≠ 0x52) ∧ ok (desc 0x7F []) ∧ opcodeInfo (descOpcode (desc 0x7F [])) = none ∧ ok (desc 0x60 [(1, 2), (4, 5)]) ∧ descOpcode (desc 0x60 [(1, 2), (4, 5)]) = 0x60 ∧
      (s (desc 0x60 [(1, 2), (4, 5)])).headerVerdict 3 (desc 0x60 [(1, 2), (4, 5)]) = none ∧ bodyReserved (desc 0x60 [(1, 2), (4, 5)]).toNat [] = [] ∧
      ((after .descriptorIssue (s (desc 0x7F []))).ring 3).entries.map (fun e => (e.stage, e.status)) = [(.finished, 2#8)] ∧
      ((after .descriptorIssue (s (desc 0x60 [(1, 2), (4, 5)]))).ring 3).entries.map Entry.stage = [.running] := by decide +kernel

/-! ### Descriptors of the Admin ring -/

def adminAt (i : Nat) (e : Entry) (b : State) : State :=
  b.setRing 0 { ring with cls := 3#2, tail := 1#32, issuePos := 1#32, fetchPos := 1#32, entries := if i = 0 then [e] else [job 0x60 [], e] }

theorem test_wait :
    let s (m : BitVec 2) : State :=
      let z := adminAt 0 (job 0x50 []) State.reset
      { z with pwr := { z.pwr with mode := m } }
    let e1 := { job 0x50 [] with pos := 1#32, order := 1 }
    let z (m : BitVec 2) : State :=
      let z := adminAt 1 e1 State.reset
      { z with pwr := { z.pwr with mode := m } }
    State.running (s 1#2) 0 0#32 0x50 = some (job 0x50 []) ∧ (∀ f ∈ ((s 1#2).ring 0).entries, (job 0x50 []).order ≤ f.order) ∧
      (s 1#2).refuser 0#32 = 0 ∧ (after (.wait 0#7 0#32) (s 1#2)).pwr.block = .entering ∧ (s 0#2).pwr.mode = 0#2 ∧
      (s 1#2).outstanding 0 0#32 = false ∧ ((s 1#2).ring 0).cqSlot 0#32 < 2 ^ 52 ∧
      (after (.wait 0#7 0#32) (s 0#2)).entry 0 0#32 = some { job 0x50 [] with stage := .finished, left := 0 } ∧
      (∃ f ∈ ((z 1#2).ring 0).entries, f.order < e1.order) ∧ State.running (z 1#2) 0 1#32 0x50 = some e1 ∧
      idles (.wait 0#7 1#32) (z 1#2) = true ∧ ((after (.wait 0#7 1#32) (z 0#2)).entry 0 1#32).map Entry.stage = some .finished := by
  decide +kernel

theorem test_wait_refused :
    let z := adminAt 0 (job 0x50 []) State.reset
    let s : State := { z with pwr := { z.pwr with mode := 2#2 }, maint := { Maint.reset with running := [(2, 0)] } }
    s.pwr.mode ≠ 0#2 ∧ s.refuser 0#32 = 3 ∧ (job 0x50 []).status = 0#8 ∧
      (let t := after (.wait 0#7 0#32) s
       (t.entry 0 0#32).map (fun f => (f.status, f.detail)) = some (0x0D#8, 3#16) ∧ t.pwr.refuserCode = 3#8 ∧ t.pwr.block = .run) := by
  decide +kernel

/-- HEARTH_SET of hearth 1. -/
def hearthSet (op : Nat) (started : Bool) : Entry := { job 0x52 [(16, op), (24, 2)] with mask := 0#64, started := started }

theorem test_offline :
    let s := adminAt 0 (hearthSet 0 false) State.reset
    let z := s.setRing 5 { ring with cls := 1#2, hmask := 2#64 }
    State.running s 0 0#32 0x52 = some (hearthSet 0 false) ∧ BitVec.ofNat 64 (fld (hearthSet 0 false).desc.toNat 24 0 64) = 2#64 ∧
      fld (hearthSet 0 false).desc.toNat 16 0 2 = 0 ∧ s.pinningRing 2#64 = none ∧
      ((after (.hearthSetOffline 0#7 0#32) s).hearth 1).offline = true ∧ ((after (.hearthSetOffline 0#7 0#32) s).hearth 0).offline = false ∧
      State.running z 0 0#32 0x52 = some (hearthSet 0 false) ∧ z.pinningRing 2#64 = some 5 ∧
      ((after (.hearthSetOffline 0#7 0#32) z).entry 0 0#32).map (fun f => (f.status, f.detail)) = some (0x0D#8, 0x508#16) := by decide +kernel

theorem test_offline_settles :
    let s (x : Hearth) := (adminAt 0 (hearthSet 0 true) State.reset).setHearth 1 { x with offline := true }
    let busy := (s Hearth.reset).setRing 2 { ring with entries := [{ job 0x60 [] with mask := 2#64, work := [1] }] }
    let parked : Hearth := { Hearth.reset with tiles := [(3, { TileInfo.reset with state := .parked })] }
    let scrubbed := { s Hearth.reset with maint := { Maint.reset with running := [(1, 1)] } }
    State.running (s Hearth.reset) 0 0#32 0x52 = some (hearthSet 0 true) ∧ ((s Hearth.reset).ring 0).entries = [hearthSet 0 true] ∧
      (∀ h < 64, (2#64).getLsbD h = true → (s Hearth.reset).hearthWork h = false ∧ ((s Hearth.reset).hearth h).offlineRefusal = none) ∧
      ((after .hearthOfflineSettle (s Hearth.reset)).hearth 1).power = .shut ∧
      (after .hearthOfflineSettle (s Hearth.reset)).pwr.pswReq.getLsbD 10 = false ∧
      scrubbed.maint.running.count (1, 1) ≤ 1 ∧ (after .hearthOfflineSettle scrubbed).maint.running = [] ∧
      (∃ h < 64, (2#64).getLsbD h = true ∧ busy.hearthWork h = true) ∧ State.running busy 0 0#32 0x52 = some (hearthSet 0 true) ∧
      idles .hearthOfflineSettle busy = true ∧
      (∃ h < 64, (2#64).getLsbD h = true ∧ ((s parked).hearth h).offlineRefusal ≠ none) ∧
      ((after .hearthOfflineSettle (s parked)).hearth 1).offline = false ∧
      ((after .hearthOfflineSettle (s parked)).entry 0 0#32).map Entry.status = some 4#8 := by decide +kernel

theorem test_online :
    let s := (adminAt 0 (hearthSet 1 false) State.reset).setHearth 1 { Hearth.reset with offline := true, power := .shut }
    State.running s 0 0#32 0x52 = some (hearthSet 1 false) ∧ fld (hearthSet 1 false).desc.toNat 16 0 2 = 1 ∧ (s.hearth 1).offline = true ∧
      (s.hearth 1).power = .shut ∧ (s.hearth 0).offline = false ∧
      (after (.hearthSetOnline 0#7 0#32) s).pwr.pswReq.getLsbD 10 = true ∧ ((after (.hearthSetOnline 0#7 0#32) s).hearth 1).offline = false ∧
      ((after (.hearthSetOnline 0#7 0#32) (adminAt 0 (hearthSet 1 false) State.reset)).entry 0 0#32).map Entry.stage = some .finished := by
  decide +kernel

/-- MAINT on activity 2 of hearth 9. -/
def maint (op : Nat) : Entry := job 0x51 [(16, op), (17, 2), (18, 9)]

theorem test_maint :
    let s (op : Nat) (m : Maint) : State :=
      let z := adminAt 0 (maint op) State.reset
      { z with maint := m }
    let m : Maint := { Maint.reset with running := [(2, 9)], scheduled := [(2, 9)] }
    (∀ op < 4, State.running (s op Maint.reset) 0 0#32 0x51 = some (maint op) ∧ fld (maint op).desc.toNat 16 0 3 = op) ∧
      fld (maint 0).desc.toNat 17 0 3 = 2 ∧ fld (maint 0).desc.toNat 18 0 6 = 9 ∧ (maint 0).started = false ∧ maintRank 2 ≤ 3 ∧
      (after (.maintStart 0#7 0#32) (s 0 Maint.reset)).maint.waiting = [(0#32, 2, 9)] ∧
      (after (.maintCancel 0#7 0#32) (s 1 m)).maint.running = [] ∧ maintRank 6 = 4 ∧
      (let e := job 0x51 [(16, 1), (17, 6), (18, 9)]
       let z := adminAt 0 e State.reset
       (after (.maintCancel 0#7 0#32) { z with maint := { Maint.reset with running := [(6, 9)] } }).maint.running = [(6, 9)]) ∧
      (after (.pauseAuto 0#7 0#32) (s 2 { m with waiting := [(0#32, 2, 9)] })).maint.running = [(2, 9)] ∧ (after (.pauseAuto 0#7 0#32) (s 2 m)).maint.running = [] ∧
      (after (.resumeAuto 0#7 0#32) (s 3 { m with paused := true })).maint.paused = false := by decide +kernel

/-! ### Responses at the memory ports -/

/-- A request of position 0 of ring 2 in flight on port 4. -/
def asked (w : Bool) (p : Purpose) (again : Bool) : Request :=
  { write := w, tag := 7#12, addr := 4096, size := 4, bytes := [], poison := 0#4, shared := true, cls := 2#2, ordered := false, ticket := 0#32,
    ring := 2, pos := 0#32, purpose := p, repeated := again }
def inFlight (q : Request) (e : Entry) : State := (onRing 2 e).setPort 4 { Port.reset with inflight := [q] }

/-- Bytes 1, 2, 4 and 8 have the parity 1 (R368). -/
theorem test_parity : laneParity [7#8, 1#8] = false ∧ laneParity [7#8] = true ∧ parityBits [1#8, 0#8, 0#8, 0#8, 0#8, 0#8, 0#8, 0#8, 1#8, 2#8] = 1#32 := by
  decide +kernel

theorem test_read_response :
    let s (again : Bool) := inFlight (asked false .operand again) (job 0x60 [])
    let data : List W8 := [1#8, 2#8, 3#8, 5#8]
    let reply (parity : BitVec 32) (poison : BitVec 4) (err : W8) (s : State) : State :=
      after (.memoryReadResponse 4#5 7#12 data parity poison err) s
    (4#5).toNat < 3 * (s false).cfg.stoves ∧ (s false).clocked = true ∧ ((s false).port 4).waiting = [] ∧
      (∀ b : Bool, ((s b).port 4).inflight.find? (fun q => q.write == false && q.tag == 7#12) = some (asked false .operand b)) ∧
      (s false).sealing 2 0#32 = false ∧ (s false).exchange 2 0#32 = none ∧ data.length = 4 ∧ laneParity data = false ∧
      (reply 0#32 1#4 0#8 (s false)).host.byte 4099 = 5#8 ∧ (reply 0#32 1#4 0#8 (s false)).hostPoison = [64] ∧
      (reply 1#32 0#4 0#8 (s false)).err.corrected = 1#32 ∧
      ((reply 1#32 0#4 0#8 (s true)).entry 2 0#32).map (fun f => (f.status, f.detail)) = some (0x0A#8, 4#16) ∧
      ((reply 0#32 0#4 1#8 (s false)).entry 2 0#32).map Entry.status = some 0x0A#8 ∧
      idles (.memoryReadResponse 4#5 8#12 data 0#32 0#4 0#8) (s false) = true ∧
      idles (.memoryReadResponse 4#5 7#12 data 0#32 0#4 0#8) (inBlock .doze (s false)) = true := by decide +kernel

/-- One descriptor's read, alone and with an earlier one of its burst in flight. -/
theorem test_descriptor_arrives :
    let q := { asked false (.descriptors 1 0#32) false with size := 128 }
    let s := (State.reset.setRing 2 ring).setPort 4 { Port.reset with inflight := [q] }
    let data : List W8 := 0x60#8 :: List.replicate 127 0#8
    let reply (poison : BitVec 4) (err : W8) : State := after (.memoryReadResponse 4#5 7#12 data (parityBits data) poison err) s
    s.clocked = true ∧ (s.ring 2).state = .run ∧ (s.ring 2).failedRead = none ∧ (s.ring 2).fetched = [] ∧ s.readsBefore 2 0#32 0#32 = false ∧
      parityBits data = 0#32 ∧ ((reply 0#4 0#8).ring 2).fetched = [{ pos := 0#32, desc := 0x60#1024 }] ∧
      ((reply 1#4 0#8).ring 2).cause = 2#4 ∧ ((reply 0#4 1#8).ring 2).state = .fault := by decide +kernel

theorem test_write_ack :
    let s (p : Purpose) := inFlight (asked true p false) { job 0x60 [] with stage := .recorded }
    let w : Request := { asked true .output false with bytes := [1#8, 2#8] }
    (∀ p ∈ [Purpose.output, .phase, .atomic true true 5#32],
      ((s p).port 4).inflight.find? (fun q => q.write == true && q.tag == 7#12) = some (asked true p false)) ∧
      ((s .output).port 4).waiting = [] ∧ (s .output).exchange 2 0#32 = none ∧ (s .output).clocked = true ∧
      ((after (.memoryWriteAck 4#5 7#12 0#8) (s .output)).port 4).inflight = [] ∧
      ((after (.memoryWriteAck 4#5 7#12 2#8) (s .output)).entry 2 0#32).map Entry.status = some 0x0A#8 ∧
      ((after (.memoryWriteAck 4#5 7#12 2#8) (inFlight w (job 0x60 []))).entry 2 0#32).map Entry.detail = some 4#16 ∧
      (s .output).err.enable = false ∧ ((after (.memoryWriteAck 4#5 7#12 0#8) (s (.atomic true true 5#32))).port 4).inflight = [] ∧
      ((s .phase).ring 2).done = [] ∧ ((s .phase).ring 2).head = 0#32 ∧ ((after (.memoryWriteAck 4#5 7#12 0#8) (s .phase)).ring 2).head = 1#32 ∧
      ((s .phase).ring 2).enable = true ∧ ((after (.memoryWriteAck 4#5 7#12 1#8) (s .phase)).ring 2).cause = 3#4 ∧
      idles (.memoryWriteAck 4#5 8#12 0#8) (s .output) = true ∧ idles (.memoryWriteAck 4#5 7#12 0#8) (inBlock .hibernate (s .output)) = true := by
  decide +kernel

/-- The record of an error event is acknowledged. -/
theorem test_error_record_written :
    let w := ErrorEvent.plain 2 0x10 7 3 0#64
    let z := (inFlight { asked true .errorRecord false with ring := 200, pos := w.index } (job 0x60 []))
    let s : State := { z with err := { Errors.reset with enable := true, writing := [w] } }
    s.err.writing = [w] ∧ s.err.written = [] ∧ s.exchange 200 w.index = none ∧
      (after (.memoryWriteAck 4#5 7#12 0#8) s).err.tail = s.err.tail + 1#32 ∧
      (after (.memoryWriteAck 4#5 7#12 0#8) s).blk.blkEvent.getLsbD 3 = true := by decide +kernel

/-- An add of position 1 of a walk over hearths 0 and 1. -/
def add : OrderedAdd := { ring := 2, pos := 0#32, position := 1, addr := 4096, int := true, operand := 5#32, poisoned := false }

theorem test_ordered_adds :
    let e := { job 0x10 [(64, 512), (68, 1), (70, 1), (72, 1)] with mask := 3#64 }
    let s (a : OrderedAdd) (marks : List (Nat × W32 × Nat)) := (onRing 2 e).setPort 4 { Port.reset with adds := [a], marks := marks }
    let free := s add [(2, 0#32, 0)]
    let far := { add with addr := 2 ^ 52 }
    ((s add []).port 4).adds = [add] ∧ (¬ ∀ k ∈ (s add []).lowerOf add, (add.ring, add.pos, k) ∈ ((s add []).port 4).marks) ∧
      (∀ k ∈ free.lowerOf add, (add.ring, add.pos, k) ∈ (free.port 4).marks) ∧ add.position < 64 ∧ free.portAwake 4 = true ∧
      3 ≤ (free.port 4).wrCredits.toNat ∧ (free.port 4).waiting = [] ∧
      add.addr < 2 ^ 52 ∧ ((after (.orderedAddRelease 4#5) (s add [])).port 4).adds = [add] ∧
      ((after (.orderedAddRelease 4#5) free).port 4).inflight.map Request.addr = [4096] ∧
      ((after (.orderedAddRelease 4#5) free).port 4).inflight.map Request.ticket = [2#7 ++ 1#6 ++ 0#19] ∧
      (after (.orderedAddRelease 4#5) free).host.byte 4096 = 5#8 ∧
      (∀ k ∈ (s far [(2, 0#32, 0)]).lowerOf far, (far.ring, far.pos, k) ∈ ((s far [(2, 0#32, 0)]).port 4).marks) ∧
      ((after (.orderedAddRelease 4#5) (s far [(2, 0#32, 0)])).entry 2 0#32).map Entry.status = some 0x0A#8 := by decide +kernel

/-! ### The work of descriptors: MATMUL, DRAIN, the Grate (chapters 3 to 5) -/

/-- `State.readsSound` and `State.clear`, as what the kernel evaluates. -/
def sound (s : State) (rs : List Range) : Bool :=
  rs.all (fun r => !s.tainted r) && decide (unitsAmong s.bad rs = []) && decide (unitsAmong s.soft rs = [])

theorem sound_means {s : State} {rs : List Range} (h : sound s rs = true) : s.readsSound rs := by
  simp only [sound, Bool.and_eq_true, decide_eq_true_eq, List.all_eq_true, Bool.not_eq_true'] at h
  exact ⟨h.1.1, h.1.2, h.2⟩

def ready (s : State) (n : Nat) (e : Entry) (rs outs : List Range) : Bool :=
  decide (e.status = 0#8) && !e.sealed && (hostPieces rs).all (fun g => e.reads.contains g) && !s.reading n e.pos &&
    rs.all (fun r => !s.stalls r) && sound s rs && outs.all (fun r => !s.stalls r)

theorem ready_means {s : State} {n : Nat} {e : Entry} {rs outs : List Range} (h : ready s n e rs outs = true) :
    s.clear n e e.reads rs outs := by
  simp only [ready, Bool.and_eq_true, decide_eq_true_eq, List.all_eq_true, Bool.not_eq_true', List.contains_iff_mem] at h
  obtain ⟨⟨⟨⟨⟨⟨h1, h2⟩, h3⟩, h4⟩, h5⟩, h6⟩, h7⟩ := h
  exact ⟨h1, h2, h3, h4, h5, sound_means h6, h7⟩

/-- The block with one entry on ring 2 and hearth 0 as given. -/
def working (e : Entry) (x : Hearth) : State := (onRing 2 e).setHearth 0 x

/-- MATMUL of 8 by 8 elements, K 16, operands at 0 and 4096 of the store, that begins and ends. -/
def mmFields : List (Nat × Nat) := [(16, 3), (20, 8), (24, 8), (28, 16), (40, 64), (48, 1), (52, 4096), (60, 64), (68, 1), (88, 8192), (96, 64)]
def mm : Entry := job 0x01 mmFields

/-- The job of its one tile, with `k` elements done. -/
def mmJob (k : Nat) : TileJob :=
  { ring := 2, pos := 0#32, tile := 0, ti := 0, tj := 0, atile := 0, part := 0, parts := 1, kNext := k, kEnd := 16, load := false,
    preload := false, ends := true, order := 0, flue := false }

theorem test_matmul :
    let s := working mm Hearth.reset
    State.running s 2 0#32 0x01 = some mm ∧ mm.started = false ∧ (matmulOf mm.desc).begins = true ∧
      (let b := matmulOf mm.desc
       (b.working 1 (s.matmulItems b (s.workHearths mm))).length = 1) ∧
      ((after (.matmul 2#7 0#32) s).hearth 0).jobs = [mmJob 0] ∧ (((after (.matmul 2#7 0#32) s).hearth 0).tile 0).elements = 16 ∧
      (let e := { mm with started := true }
       State.running (working e Hearth.reset) 2 0#32 0x01 = some e ∧ idles (.matmul 2#7 0#32) (working e Hearth.reset) = true) := by
  decide +kernel

/-- DRAIN of one tile. -/
def dr : Entry := job 0x02 [(20, 8), (24, 8), (40, 64)]

theorem test_drain :
    let s := working dr Hearth.reset
    let tall := job 0x02 [(20, 16), (24, 8), (40, 64)]
    let far := job 0x02 [(20, 8), (24, 8), (40, 64), (46, 1)]
    let z := working dr { Hearth.reset with power := .gated }
    let w : State := { working far Hearth.reset with maint := { Maint.reset with running := [(6, 0)] } }
    let i : Item := { hearth := 0, tile := 0, part := 0, atile := 0 }
    let pass (e : Entry) := (drainOf e.desc).tilePass e [i] 0 0
    State.running s 2 0#32 0x02 = some dr ∧ (drainOf dr.desc).items (s.workHearths dr) = [i] ∧ s.serves 2 0 = true ∧
      (s.hearth 0).shadowUse.drains = false ∧ dr.status = 0#8 ∧ dr.pieces 0 = 0 ∧ (pass dr).blocks = 1 ∧ (pass tall).blocks = 2 ∧
      ((pass dr).writes 0).all (fun r => !s.stalls r) = true ∧ sound s ((pass dr).reads 0) = true ∧
      sound s [{ space := 2, hearth := 0, lo := 0, len := 4096 }] = true ∧ (tall.status = 0#8 ∧ far.status = 0#8) ∧
      ((after (.drain 2#7 0#32) s).entry 2 0#32).map Entry.stage = some .finished ∧
      ((after (.drain 2#7 0#32) (working tall Hearth.reset)).entry 2 0#32).map (fun e => e.pieces 0) = some 1 ∧
      z.serves 2 0 = false ∧ idles (.drain 2#7 0#32) z = true ∧
      (∃ r ∈ (pass far).writes 0, w.stalls r = true) ∧ idles (.drain 2#7 0#32) w = true ∧
      idles (.drain 2#7 0#32) (working dr { Hearth.reset with shadowUse := .draining (mmJob 0) }) = true ∧
      ((after (.drain 2#7 0#32) (working { dr with status := 0x0A#8 } Hearth.reset)).entry 2 0#32).map Entry.stage = some .finished := by
  decide +kernel

theorem test_tile_load :
    let j := { mmJob 0 with load := true }
    let x : Hearth := { Hearth.reset with jobs := [j], acc := [(0, 1#8)] }
    let p : Hearth := { Hearth.reset with jobs := [{ j with preload := true }] }
    let s := working mm x
    s.hearthRuns 0 = true ∧ x.jobs = [j] ∧ (x.tile 0).fresh = false ∧ x.shadowUse = .free ∧ x.liveJob = none ∧ s.grateHeld 0 = false ∧
      s.entry 2 0#32 = some mm ∧ mm.status = 0#8 ∧ sound s [tileRange 0 0] = true ∧
      sound (working mm p) (preloadReads 0 (matmulOf mm.desc) { j with preload := true }) = true ∧
      ((after (.tileLoad 0#6) s).hearth 0).shadowUse = .loaded j ∧ Hearth.reset.jobs = [] ∧
      idles (.tileLoad 0#6) (working mm Hearth.reset) = true ∧ idles (.tileLoad 0#6) (working mm { x with jobs := [mmJob 0] }) = true ∧
      idles (.tileLoad 0#6) (working mm { x with liveJob := some (mmJob 4) }) = true ∧
      ((after (.tileLoad 0#6) (working { mm with status := 0x0A#8 } x)).hearth 0).jobs = [] := by decide +kernel

theorem test_tile_swap :
    let j := mmJob 0
    let x (l : Option TileJob) (js : List TileJob) (u : ShadowUse) : Hearth :=
      { Hearth.reset with liveJob := l, jobs := js, shadowUse := u, shadow := [(0, 5#32)] }
    let y (h : Hearth) := (after (.tileSwap 0#6) (working mm h)).hearth 0
    let more := job 0x01 (mmFields.map fun f => if f.1 = 16 then (16, 2) else f)
    let k : TileJob := { mmJob 0 with pos := 1#32, load := true }
    let going : State := (State.reset.setRing 2 { ring with entries := [mm, { more with pos := 1#32 }] }).setHearth 0
      (x (some { mmJob 16 with ends := false }) [k] .free)
    let yields : Hearth := { x (some (mmJob 4)) [] .free with yielding := true, live := [(0, 5#32)] }
    let waiting := (working mm (x none [j] .free)).setRing 5 { ring with cls := 0#2, entries := [{ mm with work := [0] }] }
    (working mm (x none [j] (.loaded j))).hearthRuns 0 = true ∧ (y (x none [j] (.loaded j))).live = [(0, 5#32)] ∧
      (working mm (x none [j] .free)).grateHeld 0 = false ∧ waiting.grateHeld 0 = true ∧ (working mm (x none [j] .free)).entry 2 0#32 = some mm ∧
      (y (x none [j] .free)).liveJob = some j ∧ (y (x none [j] .free)).live = [] ∧ (mmJob 16).kNext = (mmJob 16).kEnd ∧
      (y (x (some (mmJob 16)) [] .free)).shadowUse = .draining (mmJob 16) ∧
      (matmulOf more.desc).begins = false ∧ ((after (.tileSwap 0#6) going).hearth 0).liveJob = some k ∧
      ((y yields).jobs = [{ mmJob 4 with load := true }] ∧ (y yields).shadow = [(0, 5#32)]) ∧
      ((after (.tileSwap 0#6) (working mm yields)).entry 2 0#32).map Entry.flags = some (BitVec.ofNat 16 fPreempted) ∧
      idles (.tileSwap 0#6) (working mm (x (some (mmJob 4)) [] .free)) = true ∧
      idles (.tileSwap 0#6) (working mm { x none [j] .free with spillDue := true }) = true ∧
      idles (.tileSwap 0#6) (working mm (x none [j] (.draining j))) = true ∧ Hearth.reset.spillDue = false := by decide +kernel

theorem test_chunk_step :
    let x (j : TileJob) : Hearth := { Hearth.reset with liveJob := some j, flueDue := true }
    let s := working mm (x (mmJob 0))
    let b := matmulOf mm.desc
    let long := job 0x01 (mmFields.map fun f => if f.1 = 28 then (28, 8192) else f)
    let at255 : Hearth := { x { mmJob 0 with kEnd := 8192 } with tiles := [(0, { TileInfo.reset with chunk := 255 })] }
    s.hearthRuns 0 = true ∧ (mmJob 0).kNext ≠ (mmJob 0).kEnd ∧ (x (mmJob 0)).spillDue = false ∧ (x (mmJob 0)).yielding = false ∧
      s.withheld 0 1#2 = false ∧ s.entry 2 0#32 = some mm ∧ mm.status = 0#8 ∧ (x (mmJob 0)).operandBytes b (mmJob 0) b.a = some [] ∧
      (x (mmJob 0)).operandBytes b (mmJob 0) b.b = some [] ∧
      sound s (b.chunkReads 0 (mmJob 0) (min (pairWidth b.a.fmt b.b.fmt) 16)) = true ∧
      ((after (.chunkStep 0#6) s).hearth 0).liveJob = some (mmJob 4) ∧ ((after (.chunkStep 0#6) s).hearth 0).yielding = false ∧
      ((after (.chunkStep 0#6) (working long at255)).hearth 0).yielding = true ∧
      idles (.chunkStep 0#6) (working mm Hearth.reset) = true ∧ idles (.chunkStep 0#6) (working mm (x (mmJob 16))) = true ∧
      idles (.chunkStep 0#6) (working mm { x (mmJob 0) with spillDue := true }) = true ∧
      ((after (.chunkStep 0#6) (working { mm with status := 0x0A#8 } (x (mmJob 0)))).hearth 0).liveJob = none := by
  decide +kernel

theorem test_auto_spill :
    let x (due : Bool) (u : ShadowUse) : Hearth :=
      { Hearth.reset with liveJob := some (mmJob 0), spillDue := due, shadowUse := u, live := [(0, 0x3F800000#32)] }
    let bad := after (.autoSpill 0#6) (working mm { x true .free with liveBad := true })
    (working mm (x true .free)).hearthRuns 0 = true ∧ (working mm (x true .free)).bankWiping (0 * 2 ^ 28) = false ∧
      (x true .free).liveJob = some (mmJob 0) ∧ (x true (.loaded (mmJob 0))).shadowUse.drains = false ∧ (x true .free).liveBad = false ∧
      idles (.autoSpill 0#6) (working mm (x false .free)) = true ∧ idles (.autoSpill 0#6) (working mm (x true (.draining (mmJob 16)))) = true ∧
      idles (.autoSpill 0#6) { working mm (x true .free) with maint := { Maint.reset with running := [(6, 0)] } } = true ∧
      (bad.entry 2 0#32).map (fun e => (e.status, e.detail)) = some (0x0A#8, 0x300#16) := by
  decide +kernel

theorem test_tile_drain_commit :
    let x (j : TileJob) : Hearth := { Hearth.reset with shadowUse := .draining j, shadow := [(0, 5#32)] }
    let s (k : Nat) := working mm (x (mmJob k))
    let more := { mmJob 16 with ends := false }
    let y (j : TileJob) := after (.tileDrainCommit 0#6) (working { mm with left := 2 } (x j))
    let bad := after (.tileDrainCommit 0#6) (working mm { x (mmJob 16) with shadowBad := true })
    let far := job 0x01 (mmFields ++ [(102, 1)])
    let wiping : State := { working far (x (mmJob 16)) with maint := { Maint.reset with running := [(6, 0)] } }
    (s 4).hearthRuns 0 = true ∧ (s 4).entry 2 0#32 = some mm ∧ (mmJob 4).kNext ≠ (mmJob 4).kEnd ∧ (s 4).drainStalls 0 (mmJob 4) mm = false ∧
      (s 16).drainStalls 0 (mmJob 16) mm = false ∧ (mmJob 16).ends = true ∧ (mmJob 16).kNext = (mmJob 16).kEnd ∧
      ((s 16).hearth 0).shadowUse = .draining (mmJob 16) ∧ ((y (mmJob 4)).hearth 0).acc.byte 0 = 5#8 ∧
      (((y (mmJob 4)).hearth 0).tile 0).state = .parked ∧ ((y more).entry 2 0#32).map Entry.left = some 1 ∧
      (bad.entry 2 0#32).map (fun e => (e.status, e.detail)) = some (0x0A#8, 0x300#16) ∧
      wiping.drainStalls 0 (mmJob 16) far = true ∧ idles (.tileDrainCommit 0#6) wiping = true ∧
      ((after (.tileDrainCommit 0#6) (working { mm with status := 0x0A#8 } (x (mmJob 4)))).hearth 0).shadowUse = .free ∧
      idles (.tileDrainCommit 0#6) (working mm Hearth.reset) = true := by
  decide +kernel

theorem test_tile_drain_idle (j : TileJob) : Hearth.reset.shadowUse ≠ .draining j := by intro h; cases h

/-! ### Panels and K splits -/

/-- The MATMUL with B streamed from the Mantel. -/
def mmStream : Entry := job 0x01 (mmFields ++ [(69, 1), (84, 4), (86, 8)])

theorem test_panel :
    let x : Hearth := { Hearth.reset with jobs := [mmJob 0] }
    let s := working mmStream x
    let b := matmulOf mmStream.desc
    let p : Panel := { ring := 2, pos := 0#32, id := b.panelOf (mmJob 0), half := 0, data := [] }
    s.hearthRuns 0 = true ∧ x.grateJobs = [mmJob 0] ∧ x.panels = [] ∧ s.entry 2 0#32 = some mmStream ∧ mmStream.sealed = false ∧
      b.streamed = some b.placedB ∧ (b.panelReads b.placedB (b.panelOf (mmJob 0))).all (fun r => !s.stalls r) = true ∧
      sound s (b.panelReads b.placedB (b.panelOf (mmJob 0))) = true ∧ b.stageBase = 16384 ∧ Hearth.reset.grateJobs = [] ∧
      idles (.stagePanelFetch 0#6) (working mmStream Hearth.reset) = true ∧ idles (.stagePanelFetch 0#6) (working mm x) = true ∧
      idles (.stagePanelFetch 0#6) (working mmStream { x with panels := [p] }) = true ∧
      idles (.stagePanelFetch 0#6) (working mmStream { x with panels := [{ p with id := 7 }, { p with id := 8, half := 1 }] }) = true := by
  decide +kernel

/-- A tile in two parts on hearths 0 and 1, with the parts that have arrived. -/
def ks (got : List (Nat × Nat)) : Entry :=
  { job 0x01 ([(9, 1)] ++ [(16, 3), (20, 8), (24, 8), (28, 64), (40, 256), (48, 1), (52, 32768), (60, 256), (68, 1), (88, 65536), (96, 64)]) with
    mask := 3#64, admitted := 3#64, started := true, arrived := got }

theorem test_k_split :
    let r (e : Entry) : Ring := { ring with cls := 1#2, hmask := 3#64, entries := [e] }
    let s (got : List (Nat × Nat)) := State.reset.setRing 2 (r (ks got))
    let b := matmulOf (ks []).desc
    let items (got : List (Nat × Nat)) := b.working 2 ((s got).matmulItems b ((s got).workHearths (ks got)))
    let i : Item := { hearth := 0, tile := 0, part := 0, atile := 0 }
    let k : Item := { hearth := 1, tile := 0, part := 1, atile := 0 }
    let pass := b.tilePass (ks []) [i, k] 0 0
    let both := s [(0, 0), (0, 1)]
    let away := both.setHearth 0 { Hearth.reset with power := .retain }
    State.running both 2 0#32 0x01 = some (ks [(0, 0), (0, 1)]) ∧ (ks []).started = true ∧ (ks []).status = 0#8 ∧
      b.parts ((s []).workHearths (ks [])).length = 2 ∧ items [(0, 0), (0, 1)] = [i, k] ∧
      both.hearthRuns 0 = true ∧ both.classOf 2 = 1#2 ∧ sound both [tileRange 0 0, tileRange 1 0] = true ∧
      (pass.writes 0).all (fun r => !both.stalls r) = true ∧ away.hearthRuns 0 = false ∧ idles (.kSplitCombine 2#7 0#32 0#32) away = true ∧
      (∃ i ∈ items [(0, 0)], i.tile = 0 ∧ (0, i.part) ∉ (ks [(0, 0)]).arrived) ∧
      idles (.kSplitCombine 2#7 0#32 0#32) (s [(0, 0)]) = true := by
  decide +kernel

/-! ### GROUP -/

def grp (op : Nat) (keep : Nat) : Entry := job 0x03 [(16, op + 16 * 5), (17, keep), (24, 1), (32, 4096)]

theorem test_group :
    ∀ op < 4,
      let e := grp op 1
      let s := working e Hearth.reset
      let z := working e { Hearth.reset with power := .waking }
      let b := groupOf e.desc
      let ps := b.places (s.hearthsOf e.mask)
      let may (s : State) (h : Nat) : Bool := s.hearthRuns h && !s.yields 2 h
      State.running s 2 0#32 0x03 = some e ∧ b.op = op ∧ b.gid = 5 ∧ ps = [(0, 4096)] ∧ (∀ q ∈ ps, may z q.1 = false) ∧
        e.nextPiece (ps.map fun q => (q.1, s.groupPieces b q.1)) (may s) = some (0, 0) ∧
        ready s 2 e (ps.flatMap fun q => s.groupReads b q.1 q.2) (ps.flatMap fun q => s.groupOuts b q.1 q.2) = true := by decide +kernel

/-- A group of two tiles moves in two pieces or more. -/
theorem test_group_pieces :
    let g : Group := { isOpen := true, tiles := 3#64, touched := true, bound := none, keep := false, cls := 2#2 }
    let s := working (grp 1 0) { Hearth.reset with groups := [(5, g)] }
    let b := groupOf (grp 1 0).desc
    1 < s.groupPieces b 0 ∧ ((after (.groupSpill 2#7 0#32) s).entry 2 0#32).map (fun e => e.pieces 0) = some 1 ∧
      s.resumeRefusal 2 b [(0, 4096)] = none ∧
      idles (.groupSpill 2#7 0#32) (working (grp 1 0) { Hearth.reset with groups := [(5, g)], power := .waking }) = true := by decide +kernel

theorem test_group_effects :
    let b := groupOf (grp 0 1).desc
    let g : Group := { isOpen := true, tiles := 1#64, touched := false, bound := none, keep := false, cls := 2#2 }
    let s := working (grp 1 0) { Hearth.reset with groups := [(5, g)] }
    b.keep = true ∧ s.sealing 2 0#32 = false ∧ s.mantelPoison = [] ∧ ((s.hearth 0).group 5).headerOnly = true ∧
      ((s.hearth 0).group 5).touched = false ∧ ((s.hearth 0).group 5).keep = false ∧ ((s.hearth 0).group 5).bound = none ∧
      groupTiles ((s.hearth 0).group 5).tiles = [0] ∧ ((s.spillGroup 2 0#32 b 0 4096).mantel.byte 4096) = 0x52#8 := by decide +kernel

/-! ### The lanes -/

/-- CHAIN of one stage without outputs over 3 by 2 elements; its stream record stands at 256. -/
def ch : Entry := job 0x10 [(16, 1), (17, 2), (20, 3), (24, 2), (40, 256)]

theorem test_chain :
    let s := working ch Hearth.reset
    let c := chainOf ch.desc
    State.running s 2 0#32 0x10 = some ch ∧ ch.started = false ∧ c.deal s.cfg.lanes (s.workHearths ch) = [(0, 0, 2)] ∧
      sound s ((c.deal s.cfg.lanes (s.workHearths ch)).map fun q => { space := 0, hearth := q.1, lo := c.streamOff, len := 256 }) = true ∧
      ((after (.chain 2#7 0#32) s).hearth 0).chains.map (fun r => (r.first, r.count, r.pass, r.passes)) = [(0, 2, 0, 2)] ∧
      (let e := { ch with started := true }
       State.running (working e Hearth.reset) 2 0#32 0x10 = some e ∧ idles (.chain 2#7 0#32) (working e Hearth.reset) = true) := by
  decide +kernel

/-- Its run, before its first pass. -/
def chRun : ChainRun := { ring := 2, pos := 0#32, first := 0, count := 2, pass := 0, passes := 2, record := 0, lines := [], marks := [], reads := [] }

theorem test_chain_pass :
    let x : Hearth := { Hearth.reset with chains := [chRun] }
    let e := { ch with started := true }
    let s := working e x
    let q := s.planPass 0 chRun e
    let flue := s.setRing 5 { ring with cls := 0#2, entries := [{ job 0x11 [] with work := [0] }] }
    s.hearthRuns 0 = true ∧ s.nextRun x.chains = some chRun ∧ s.withheld 0 (s.classOf 2) = false ∧ s.yields 2 0 = false ∧
      s.entry 2 0#32 = some e ∧ ready s 2 e q.reads q.outs = true ∧ s.addsStall 2 e 0 q.ctx q.run = false ∧
      q.run.adds = [] ∧ q.run.outs = [] ∧ q.run.leaves = [] ∧ chRun.pass + 1 ≠ chRun.passes ∧
      flue.nextRun x.chains = some chRun ∧ flue.yields 2 0 = true ∧ idles (.chainPass 0#6) flue = true ∧
      ((after (.chainPass 0#6) s).hearth 0).chains.map ChainRun.pass = [1] ∧ idles (.chainPass 0#6) (working e Hearth.reset) = true ∧
      ((after (.chainPass 0#6) (working { e with status := 0x0A#8 } x)).hearth 0).chains = [] := by
  decide +kernel

theorem test_sfu_grant :
    let s (q : List (Nat × Nat × Nat)) := working mm { Hearth.reset with sfuQueue := q }
    (s []).hearthRuns 0 = true ∧ ((after (.sfuGrant 0#6) (s [(0, 0, 7)])).hearth 0).sfuLast = 7 ∧
      ((after (.sfuGrant 0#6) (s [(0, 0, 7), (0, 1, 7)])).hearth 0).sfuQueue = [] ∧
      ((after (.sfuGrant 0#6) (s [(1, 0, 3), (1, 1, 4), (0, 2, 5)])).hearth 0).sfuQueue.length = 1 := by decide +kernel

/-! ### NORM, tables, COPY and FILL -/

/-- NORM `op` of one row of 4 elements of the store. -/
def nm (op : Nat) : Entry := job 0x11 [(16, op), (18, 1), (20, 1), (24, 4), (56, 64), (64, 4096), (72, 64), (100, 1), (104, 8192), (112, 12288)]

theorem test_norm :
    ∀ op < 6,
      let e := nm op
      let s := working e Hearth.reset
      let z := working e { Hearth.reset with power := .gated }
      let b := normOf e.desc
      let runs := deal (s.workHearths e) b.rows
      let row : NormRow := { h := 0, own := 0, m := 0 }
      let last := b.passes s.cfg.lanes 1 - 1
      State.running s 2 0#32 0x11 = some e ∧ b.op = op ∧ runs = [(0, 0, 1)] ∧ s.serves 2 0 = true ∧ (∀ q ∈ runs, z.serves 2 q.1 = false) ∧
        (b.rowsEnding s.cfg.lanes 1 last) = [0] ∧ e.status = 0#8 ∧
        e.nextPiece (runs.map fun q => (q.1, b.passes s.cfg.lanes q.2.2)) (fun h => s.serves 2 h) = some (0, 0) ∧
        ready s 2 e (b.rowReads row) (b.rowOuts row) = true := by decide +kernel

/-- With SRC in host memory, the inputs of a pass are requested first. -/
theorem test_norm_fetches :
    let e := { job 0x11 [(16, 0), (19, 12), (20, 1), (24, 4), (56, 64), (64, 4096), (72, 64)] with prog := [(0, 2)] }
    let s := working e Hearth.reset
    let b := normOf e.desc
    let row : NormRow := { h := 0, own := 0, m := 0 }
    let reads := ((b.rowsEnding s.cfg.lanes 1 2).map fun i => ({ h := 0, own := i, m := i } : NormRow)).flatMap b.rowReads
    State.running s 2 0#32 0x11 = some e ∧ e.status = 0#8 ∧ (b.rowOuts row).all (fun r => !s.stalls r) = true ∧
      (hostPieces reads).filter (fun g => !e.reads.contains g) ≠ [] ∧
      ((after (.softmax 2#7 0#32) s).entry 2 0#32).map Entry.started = some true ∧
      ((after (.softmax 2#7 0#32) s).entry 2 0#32).map Entry.stage = some .running := by decide +kernel

/-- A row none of whose reads is undefined. -/
theorem test_row_without_voids :
    let e := nm 0
    (working e Hearth.reset).rowVoid 2 0#32 (normOf e.desc) { h := 0, own := 0, m := 0 } = [] := by decide +kernel

theorem test_rows :
    let r := (softRow false 256 0#32 [none]).2.2
    (softRow false 256 0#32 [none, none]).1 = [0#32, 0#32] ∧ (f32 0x7FC00000#32).isNan = true ∧ r.isEmpty = true ∧ r.isNan = false ∧
      (mergeRecords [r]).2 = fRowEmpty ∧ (softRow false 256 0#32 [some 0x7FC00000#32]).2.2.isNan = true := by decide +kernel

/-- TABLE_LOAD of 64 entries and slot 1 into bank 1. -/
def tl : Entry := job 0x12 [(16, 1), (20, 2), (24, 64), (28, 64), (32, 4096), (40, 8192)]

theorem test_table_load :
    let s := working tl Hearth.reset
    let b := tableLoadOf tl.desc
    let hs := s.hearthsOf tl.mask
    let bad := working tl { Hearth.reset with store := Memory.store [] 8192 (List.replicate 64 0xFF#8) }
    State.running s 2 0#32 0x12 = some tl ∧ hs = [0] ∧ tl.prog = [] ∧ s.hearthRuns 0 = true ∧ s.tableHeld tl b.bank 0 = false ∧
      ready s 2 tl (b.reads hs) [] = true ∧ s.slotRecordBreaches b hs = [] ∧ b.slots = [1] ∧
      (descVerdict (bad.slotRecordBreaches b hs)).isSome = true ∧ ready bad 2 tl (b.reads hs) [] = true ∧
      ((after (.tableLoad 2#7 0#32) bad).entry 2 0#32).map Entry.status = some 1#8 ∧
      idles (.tableLoad 2#7 0#32) (working tl { Hearth.reset with power := .gated }) = true ∧
      ((after (.tableLoad 2#7 0#32) s).entry 2 0#32).map Entry.stage = some .finished := by decide +kernel

/-- A CHAIN that reads bank 1 of hearth 0, issued before. -/
def reader : Entry := { job 0x10 [(16, 1), (17, 2), (20, 3), (24, 2), (40, 256), (56, 0x52)] with pos := 7#32, banks := 1#64, started := true }

theorem test_table_swap :
    let e := job 0x13 [(16, 1)]
    let s := working e Hearth.reset
    State.running s 2 0#32 0x13 = some e ∧ (∀ p ∈ s.rings, ∀ f ∈ p.2.entries, f.order < e.order → ∀ h ∈ s.hearthsOf e.mask, f.swaps h = false) ∧
      tableSwapTo e.desc = true ∧ ((after (.tableSwap 2#7 0#32) s).hearth 0).active = true ∧
      ((after (.tableSwap 2#7 0#32) s).hearth 0).swapCount = 1#16 ∧
      ((after (.tableSwap 2#7 0#32) (working (job 0x13 []) Hearth.reset)).hearth 0).swapCount = 0#16 := by decide +kernel

/-- COPY and FILL of one row of 16 bytes with RAW, within the store. -/
def mv (op : Nat) : Entry :=
  job op ([(16, 2), (20, 1), (24, 16)] ++ if op = 0x31 then [(28, 0xAABBCCDD), (32, 4096), (40, 64)] else [(32, 8192), (40, 64), (52, 4096), (60, 64)])

theorem test_movers :
    ∀ op ∈ [0x30, 0x31],
      let e := mv op
      let s := working e Hearth.reset
      let z := working e { Hearth.reset with power := .gated }
      let b := if op = 0x30 then copyOf e.desc else fillOf e.desc
      let runs := b.deal (s.hearthsOf e.mask) (s.workHearths e)
      let spans := b.spans 1 0
      let reads := match b.src with
        | some p => spans.flatMap fun x => p.spanReads 0 0 x
        | none => []
      State.running s 2 0#32 op = some e ∧ runs = [(0, 0, 1)] ∧ s.serves 2 0 = true ∧ (∀ q ∈ runs, z.serves 2 q.1 = false) ∧ e.status = 0#8 ∧
        e.nextPiece (runs.map fun q => (q.1, b.pieces q.2.2)) (fun h => s.serves 2 h) = some (0, 0) ∧ b.void = [] ∧ e.prog = [] ∧
        ready s 2 e reads (spans.flatMap fun x => b.dst.spanReads 0 0 x) = true := by decide +kernel

/-- A COPY from host memory requests its piece first. -/
theorem test_copy_fetches :
    let e := job 0x30 [(16, 2), (50, 3), (20, 1), (24, 16), (32, 8192), (40, 64), (52, 4096), (60, 64)]
    let s := working e Hearth.reset
    let b := copyOf e.desc
    (b.src.map fun p => (hostPieces ((b.spans 1 0).flatMap fun x => p.spanReads 0 0 x)).isEmpty) = some false ∧
      ((after (.copy 2#7 0#32) s).entry 2 0#32).map Entry.stage = some .running ∧
      ((after (.copy 2#7 0#32) s).entry 2 0#32).map Entry.started = some true := by decide +kernel

theorem test_fill :
    let s := working (mv 0x31) Hearth.reset
    let b := fillOf (mv 0x31).desc
    b.dst.raw = true ∧ b.dst.space = 0 ∧ b.rows = 1 ∧ b.deal (s.hearthsOf (mv 0x31).mask) (s.workHearths (mv 0x31)) = [(0, 0, 1)] ∧
      (s.hearth 0).storePoison = [] ∧ b.elems = 4 ∧
      ((after (.fill 2#7 0#32) s).hearth 0).store.read 4092 24 =
        [0#8, 0#8, 0#8, 0#8] ++ (List.replicate 4 [0xDD#8, 0xCC#8, 0xBB#8, 0xAA#8]).flatten ++ [0#8, 0#8, 0#8, 0#8] := by decide +kernel

theorem test_copy :
    let s := working (mv 0x30) { Hearth.reset with store := Memory.store [] 8192 [1#8, 2#8, 3#8] }
    ((after (.copy 2#7 0#32) s).hearth 0).store.read 4096 4 = [1#8, 2#8, 3#8, 0#8] := by decide +kernel

theorem test_shape_tables_wait_and_reload :
    let e := { tl with pos := 1#32, order := 8 }
    let z : State := State.reset.setRing 2 { ring with entries := [{ reader with order := 7, holds := { Uses.none with tables := [(0, 1)] } }, e] }
    let r : ChainRun := { chRun with pos := 7#32 }
    let x : Hearth := { Hearth.reset with chains := [r], sources := [(1024, (0, 4096#64))] }
    let s := working reader x
    State.running z 2 1#32 0x12 = some e ∧ z.tableHeld e true 0 = true ∧ idles (.tableLoad 2#7 1#32) z = true ∧
      s.hearthRuns 0 = true ∧ s.lookupRun 0 true = some r ∧ s.entry 2 7#32 = some reader ∧ Tab.at noSource x.sources 1024 = (0, 4096#64) ∧
      sound s [{ space := 0, hearth := 0, lo := 4096, len := 512 }] = true ∧
      entriesOf (s.peek 0 0 4096 512) 64 = Tab.list 0#64 x.shapes 65536 64 ∧ reader.status = 0#8 ∧
      ((after (.shapeReload 0#6 true 0#10 0#2) s).hearth 0).reloadCount = 1#16 ∧
      ((after (.shapeReload 0#6 true 0#10 1#2) s).entry 2 7#32).map (fun f => (f.status, f.detail)) = some (0x0A#8, 0x400#16) ∧
      Tab.at noSource [] 1024 = noSource ∧
      idles (.shapeReload 0#6 true 0#10 0#2) (working reader Hearth.reset) = true ∧ 64 * 1023 < bankSize State.reset.cfg.shapeEntries := by decide +kernel

/-! ### The Transom (chapter 11) -/

/-- A configuration block at 4096 of the Mantel: chips 5 and 9, this chip 5, experts 0 and 1 on them. -/
def configBlock : Memory :=
  Memory.store (Memory.store (Memory.store [] 4096 (leBytes 2 0x4358 ++ leBytes 2 5 ++ leBytes 4 2 ++ leBytes 4 2)) 4160 (leBytes 2 5 ++ leBytes 2 9)) 4224
    (leBytes 4 0x80000005 ++ leBytes 4 0x80000009)

/-- The block with that configuration installed, and one entry on ring 2. -/
def joined (e : Entry) : State :=
  let s := onRing 2 e
  { s with mantel := configBlock, xch := { Transom.reset with self := 5#16, members := 2, cfgAddr := 4096#64, timeout := 1#32 } }

/-- The same with another Transom. -/
def joinedWith (e : Entry) (f : Transom → Transom) : State :=
  let s := joined e
  { s with xch := f s.xch }

/-- The block with a stopped Transom. -/
def halted (s : State) : State := { s with vault := { s.vault with halted := true } }

theorem test_configuration :
    (joined (job 0x60 [])).chips = [5, 9] ∧ (joined (job 0x60 [])).configBreaches 4096 = [] := by decide +kernel

/-- ROUTE_BUILD of 1 token with K 1: its entry names expert 0. -/
def rb : Entry := job 0x20 [(16, 1), (17, 1), (20, 1), (24, 8192), (32, 12288), (40, 16384)]

theorem test_route_build :
    let s := joined rb
    let b := routeOf rb.desc
    let c := s.installed
    let reads := [{ space := b.space, hearth := transomUnit, lo := b.inAddr, len := 8 }, { space := 1, hearth := 0, lo := c.addr, len := c.size }]
    let outs := [{ space := 1, hearth := 0, lo := b.rrAddr, len := 16 }, { space := 1, hearth := 0, lo := b.ctAddr, len := 64 + 4 * c.nexp }]
    State.running s 2 0#32 0x20 = some rb ∧ s.transomRuns = true ∧ s.mantelPoison = [] ∧ b.k * b.tokens = 1 ∧
      ready s 2 rb reads outs = true ∧ (halted s).transomRuns = false ∧ idles (.routeBuild 2#7 0#32) (halted s) = true ∧
      (after (.routeBuild 2#7 0#32) s).mantel.nat (16384 + 64) 4 = 1 := by decide +kernel

/-- With the entries in host memory, they are requested first. -/
theorem test_route_fetches :
    let e := job 0x20 [(16, 1), (17, 3), (20, 1), (24, 8192), (32, 12288), (40, 16384)]
    (routeOf e.desc).space = 3 ∧ ((after (.routeBuild 2#7 0#32) (joined e)).entry 2 0#32).map Entry.stage = some .running ∧
      ((after (.routeBuild 2#7 0#32) (joined e)).entry 2 0#32).map (fun f => f.reads.isEmpty) = some false := by decide +kernel

/-- FENCE KIND EPOCH on ring 0, with another entry on ring 2. -/
def fencing (e : Entry) (a : Nat) : State :=
  let s := (joined e).setRing 0 { ring with cls := 3#2, entries := [fenced 1] }
  { s with xch := { s.xch with nextCfg := BitVec.ofNat 64 a } }

theorem test_epoch :
    let s := fencing (job 0x60 []) 4096
    let z := fencing (job 0x60 []) 8192
    s.epochFence = some (fenced 1) ∧ s.entry 0 1#32 = some (fenced 1) ∧ s.cfg.hasTransom = true ∧ s.transomRuns = true ∧ s.exchangeBusy = false ∧
      s.configBreaches 4096 = [] ∧ sound s [{ space := 1, hearth := 0, lo := 4096, len := (s.configAt 4096).size }] = true ∧
      (joined rb).epochFence = none ∧ idles .epochInstall (joined rb) = true ∧ idles .epochInstall (halted s) = true ∧
      (after .epochInstall s).xch.epoch = 1#16 ∧ (fencing (job 0x21 []) 4096).exchangeBusy = true ∧
      idles .epochInstall (fencing (job 0x21 []) 4096) = true ∧ (descVerdict (z.configBreaches 8192)).isSome = true ∧
      ((after .epochInstall z).entry 0 1#32).map Entry.status = some 1#8 ∧ z.exchangeBusy = false := by decide +kernel

/-- An exchange descriptor of no tokens, XID 7, and REVERSE as given. -/
def xe (op : Nat) (rev : Bool) (started : Bool) : Entry :=
  { job op [(16, bitNat rev), (17, 2), (18, 7), (20, 0), (24, 1), (25, 1), (28, 64), (32, 12288), (40, 16384)] with started := started }

theorem test_exchange_commands :
    ∀ op ∈ [0x21, 0x22], ∀ rev : Bool, ∀ started : Bool,
      let e := xe op rev started
      let s := joined e
      let x := Exchange.start 2 e []
      let z := joinedWith e fun t => { t with exchanges := [x] }
      State.running s 2 0#32 op = some e ∧ (xchOf e.desc).reverse = rev ∧ s.transomRuns = true ∧ (halted s).transomRuns = false ∧
        e.started = started ∧ s.exchange 2 0#32 = none ∧ z.exchange 2 0#32 = some x ∧ z.transomRuns = true := by decide +kernel

theorem test_exchange_starts :
    let e := job 0x22 [(17, 2), (18, 7), (20, 1), (24, 1), (25, 1), (28, 64), (32, 12288), (40, 16384)]
    let s := joined e
    let b := xchOf e.desc
    let wiped : State := { s with maint := { Maint.reset with running := [(6, 0)] } }
    s.entry 2 0#32 = some e ∧ e.sealed = false ∧ b.returns = true ∧ (s.startReads b).all (fun r => !s.stalls r) = true ∧
      sound s (s.startReads b) = true ∧ s.xch.pendingArea = [] ∧ s.xch.received = [] ∧
      (∃ r ∈ s.startReads b, wiped.stalls r = true) ∧ wiped.startExchange 2 e = wiped ∧
      (s.startExchange 2 e).xch.exchanges.length = 1 := by decide +kernel

/-- A packet from chip 9 of the exchange with XID 7, with its CHECK. -/
def packet (type : Nat) (combine : Bool) (epoch : W16) : Packet :=
  let p : Packet :=
    { type := BitVec.ofNat 8 type, combine := combine, reverse := false, last := true, vc := 0#2, len := 0#16, srcChip := 9#16, dstChip := 5#16,
      epoch := epoch, xid := 7#16, expert := 0#16, pktIndex := 0#16, tokenSlot := 0#32, offset := 0#32, weight := 0#32, check := 0#32, payload := [],
      poison := false }
  { p with check := packetCrc p }

/-- The started exchange of a COMBINE, and the block that holds it. -/
def liveExchange : Exchange := Exchange.start 2 (xe 0x22 false true) []
def exchanging : State := joinedWith (xe 0x22 false true) fun x => { x with exchanges := [liveExchange] }

/-- Every type is received with credit of its channel, held by a replay, withheld by a full recorder, and ignored by a Transom that stands. -/
theorem test_packet_receive :
    ∀ t ∈ [1, 2, 3, 4, 5, 6, 7, 8],
      let p := packet t true 0#16
      let recorder : Audit := { Audit.reset with recEnable := true, recKinds := 31#5, recLog2 := 10#5 }
      let replay : State := { exchanging with audit := { recorder with recMode := true } }
      let full : State := { exchanging with audit := { recorder with recHold := true, recTail := 1024#32 } }
      let credit (s : State) := (Tab.at Credit.none (s.grantPort 7).xch.rxCredits 7).take p.vc.toNat (packetUnits p)
      let bare : State := { exchanging with pwr := { Power.reset with pswAck := 0#73 } }
      (7#3).toNat < exchanging.cfg.stoves ∧ exchanging.transomRuns = true ∧ exchanging.audit.holdsInput 2 = false ∧
        exchanging.audit.withheldRows = [] ∧ exchanging.audit.records 2 = false ∧ p.type.toNat = t ∧ (credit exchanging).isSome = true ∧
        replay.audit.holdsInput 2 = true ∧ replay.transomRuns = true ∧ (credit replay).isSome = true ∧ full.audit.holds 2 = true ∧
        full.audit.holdsInput 2 = false ∧ (credit full).isSome = true ∧ full.transomRuns = true ∧
        bare.xchAwake 7 = false ∧ credit bare = none ∧ bare.transomRuns = true ∧
        idles (.xchCountReceive 7#3 p) (halted exchanging) = true ∧ (t ≠ 3 → idles (.xchCountReceive 7#3 p) exchanging = true) := by
  decide +kernel

/-- Table 11-10 on a port with nothing in its buffer, at each WARN level and with the pending area full. -/
theorem test_port_credit :
    let s (w : W8) := joinedWith (job 0x60 []) fun x => { x with warn := w }
    let c (s : State) := Tab.at Credit.none (s.grantPort 7).xch.rxCredits 7
    (s 0#8).xchAwake 7 = true ∧ (s 0#8).buffered 7 = [] ∧ (s 0#8).xch.pendingFull = false ∧
      c (s 0#8) = { ctrl := 256, out := 14080, ret := 2048 } ∧ (s 1#8).xch.warnLevel = 1 ∧ c (s 1#8) = { ctrl := 256, out := 7040, ret := 2048 } ∧
      ({ s 0#8 with pwr := { Power.reset with pswAck := 0#73 } } : State).xchAwake 7 = false := by decide +kernel

/-- A failure of the exchange: ABORT goes to chip 9. -/
theorem test_failure :
    let t := exchanging.hardFail 2 0#32 stEpoch 9 2 9 true
    exchanging.exchange 2 0#32 = some liveExchange ∧ exchanging.entry 2 0#32 = some (xe 0x22 false true) ∧ (xe 0x22 false true).status = 0#8 ∧
      9 ∈ exchanging.chips ∧ exchanging.xch.self = 5#16 ∧ t.xch.txQueue.map (fun i => (i.pkt.type, i.pkt.dstChip)) = [(8#8, 9#16)] ∧
      t.exchange 2 0#32 = none ∧ t.xch.lastPeer = 9#16 ∧ (exchanging.hardFail 2 0#32 stEpoch 9 2 9 false).xch.txQueue = [] := by decide +kernel

/-- The issued COMBINE that has not started. -/
def unstartedCombine : State := joined (xe 0x22 false false)

theorem test_packet_of_another_epoch :
    let s := joined (job 0x60 [])
    let p := packet 5 true 3#16
    let t := s.receivePacket 7 p true
    let status (s : State) := ((s.receivePacket 7 p true).entry 2 0#32).map (fun f => (f.status, f.detail))
    p.epoch ≠ s.xch.epoch ∧ s.xch.exchanges = [] ∧ p.type.toNat ≠ pkStale ∧ t.xch.stale = 1#16 ∧
      s.unstarted 7#16 true false = none ∧
      t.xch.txQueue.map (fun i => (i.pkt.type, i.pkt.dstChip, i.pkt.epoch)) = [(7#8, 9#16, 0#16)] ∧
      (s.receivePacket 7 (packet 7 true 3#16) true).xch.txQueue = [] ∧
      exchanging.xch.exchanges.find? (fun x => !x.closed && x.owns p) = some liveExchange ∧ status exchanging = some (8#8, 9#16) ∧
      unstartedCombine.unstarted 7#16 true false = some (2, xe 0x22 false false) ∧ unstartedCombine.exchange 2 0#32 = none ∧
      unstartedCombine.xch.exchanges = [] ∧ status unstartedCombine = some (8#8, 9#16) := by decide +kernel

theorem test_packet_without_exchange :
    let owe : Nat × W16 × Bool × Bool × Nat := (4, 7#16, true, false, 9)
    let s := joinedWith (job 0x60 []) fun x => { x with owed := [owe] }
    let z := joinedWith (job 0x60 []) fun x => { x with exchanges := [{ liveExchange with closed := true }] }
    let p := packet 4 true 0#16
    let status (s : State) (t : Nat) : Option W8 := ((s.receivePacket 7 (packet t true 0#16) true).entry 2 0#32).map Entry.status
    p.epoch = s.xch.epoch ∧ s.xch.exchanges = [] ∧ owe ∈ s.xch.owed ∧ s.unstarted 7#16 true false = none ∧ packetCrc p = p.check ∧
      (s.receivePacket 7 p true).xch.owed = [] ∧ (s.receivePacket 7 p false).xch.owed = [owe] ∧
      (s.receivePacket 7 (packet 5 true 0#16) true).xch.pendingArea.map Prod.fst = [7] ∧
      z.unstarted 7#16 true false = none ∧ z.receivePacket 7 p true = z ∧
      status unstartedCombine 8 = some 0#8 ∧ (unstartedCombine.receivePacket 7 (packet 8 true 0#16) true).xch.lastCause = 5#8 ∧
      status unstartedCombine 7 = some 8#8 ∧
      (unstartedCombine.receivePacket 7 p true).xch.pendingArea.map Prod.fst = [7] ∧
      (unstartedCombine.receivePacket 7 (packet 7 true 0#16) false).xch.pendingArea.map Prod.fst = [7] := by decide +kernel

theorem test_packet_of_the_exchange :
    let p := packet 5 true 0#16
    let t (p : Packet) (sent : Bool) := exchanging.receivePacket 7 p sent
    let b := xchOf (xe 0x22 false true).desc
    let row := { packet 2 true 0#16 with len := 16#16, payload := List.replicate 16 7#8 }
    let damaged (p : Packet) : Packet := { p with check := ~~~p.check }
    let wiping : State := { exchanging with maint := { Maint.reset with running := [(6, 0)] } }
    exchanging.xch.exchanges.find? (fun x => !x.closed && x.owns p) = some liveExchange ∧ exchanging.entry 2 0#32 = some (xe 0x22 false true) ∧
      packetCrc p = p.check ∧ p.poison = false ∧ p.epoch = exchanging.xch.epoch ∧ exchanging.packetStalls 2 b p = false ∧
      exchanging.packetStalls 2 b row = false ∧ wiping.packetStalls 2 b row = true ∧
      (wiping.receivePacket 7 row true).xch.received.map Prod.fst = [7] ∧ packetCrc (damaged p) ≠ (damaged p).check ∧
      vitalPacket (damaged p) true = true ∧ vitalPacket (damaged row) true = false ∧ vitalPacket row false = false ∧
      ((t (damaged p) true).entry 2 0#32).map (fun f => (f.status, f.detail)) = some (BitVec.ofNat 8 stPoison, 0x207#16) ∧
      b.returns = true ∧ (xchOf (xe 0x21 false true).desc).allocates = true ∧
      (xchOf (xe 0x22 true true).desc).combine = true ∧ (xchOf (xe 0x22 true true).desc).reverse = true ∧
      (xchOf (xe 0x21 false true).desc).combine = false ∧ (xchOf (xe 0x21 false true).desc).reverse = false ∧
      ((exchanging.actOnPacket 2 0#32 b p true true).exchange 2 0#32).map (fun x => (x.heard, x.doneFrom)) = some ([9], [9]) := by
  decide +kernel

/-- A row's packets in the queue of port 0, and a message behind them. -/
def rowItem (port : Option Nat) : TxItem := { row := 1, port := port, pkt := { packet 2 true 0#16 with len := 128#16, payload := List.replicate 128 7#8 } }
def doneItem : TxItem := { row := 2, port := none, pkt := packet 5 true 0#16 }
def sending (q : List TxItem) (c : Credit) : State :=
  joinedWith (job 0x60 []) fun x => { x with txQueue := q, txCredits := Tab.put Credit.none [] 0 c }

theorem test_packet_send :
    let c : Credit := { ctrl := 5, out := 5, ret := 5 }
    let s := sending [rowItem none, rowItem none, doneItem] c
    let t := after (.xchPacketSend 0#3) s
    let dark : State := { s with pwr := { Power.reset with pswAck := 0#73 } }
    s.xchAwake 0 = true ∧ s.xch.txQueue.find? (fun i => s.maySend 0 i) = some (rowItem none) ∧ isRow (rowItem none).pkt = true ∧
      t.xch.txQueue = [rowItem (some 0), doneItem] ∧ (t.credit 0).ctrl + (t.credit 0).out + (t.credit 0).ret = 12 ∧
      Tab.at none t.xch.sent 0 = some (rowItem none).pkt ∧
      (Tab.at [] t.xch.sentLanes 0).map (fun l => (l.lane, l.sop, l.eop)) =
        [(0#2, true, false), (1#2, false, false), (2#2, false, false), (3#2, false, false), (0#2, false, true)] ∧
      (rowItem none).pkt.payload.length = (rowItem none).pkt.len.toNat ∧
      (∀ i ∈ (sending [doneItem] Credit.none).xch.txQueue, (sending [doneItem] Credit.none).maySend 0 i = false) ∧
      idles (.xchPacketSend 0#3) (sending [doneItem] Credit.none) = true ∧
      (sending [doneItem] c).xch.txQueue.find? (fun i => (sending [doneItem] c).maySend 0 i) = some doneItem ∧ isRow doneItem.pkt = false ∧
      dark.xchAwake 0 = false ∧ idles (.xchPacketSend 0#3) dark = true ∧ idles (.xchCreditReturn 0#3 1#4 2#4 3#4) dark = true ∧
      ((after (.xchCreditReturn 0#3 1#4 2#4 3#4) s).credit 0).ret = 8 := by decide +kernel

/-- A live set of one segment of pool 0 (expert 0 of 1 row), whose request waits. -/
def segment : Segment :=
  { base := 0#64, twinBase := 0#64, index := 0#24, twinIndex := 0#24, rows := 1, pool := 0#2, space := 1, granted := false, twinGranted := false }
def set : BufferSet :=
  { id := 4, xid := 7#16, epoch := 0#16, rowBytes := 64, tokens := 1, k := 1, twin := false, experts := [], segments := [segment], arrivals := [],
    releasePending := false }
def request : PoolRequest := { tag := 6#8, pool := 0#2, size := 64, owners := 1#3, set := 1, id := 4, segment := 0, twin := false }
def waiting (id : Nat) : State :=
  joinedWith (job 0x60 []) fun x => { x with requests := [request], sets := Tab.put none [] 1 (some { set with id := id }) }

theorem test_pool_grant :
    let s := waiting 4
    let replay : State := { s with audit := { Audit.reset with recEnable := true, recMode := true, recKinds := 31#5 } }
    let x := { liveExchange with order := 4 }
    let owned : State := { s with xch := { s.xch with exchanges := [x] } }
    let grant (base : BitVec 52) (s : State) := after (.poolGrant 6#8 0#2 3#24 base) s
    s.transomRuns = true ∧ s.poolAwake = true ∧ s.audit.holdsInput 3 = false ∧ s.audit.records 3 = false ∧
      (∀ r ∈ s.xch.requests, r.tag ≠ 5#8) ∧ idles (.poolGrant 5#8 0#2 3#24 0#52) s = true ∧
      idles (.poolGrant 6#8 0#2 3#24 0#52) (halted s) = true ∧ replay.audit.holdsInput 3 = true ∧ replay.transomRuns = true ∧
      replay.poolAwake = true ∧ (grant 0#52 replay).audit.replayWaiting = [.poolGrant 6#8 0#2 3#24 0#52] ∧
      s.xch.requests.find? (fun r => r.tag == 6#8) = some request ∧ s.xch.unsent = [] ∧ s.bufferSet 1 = some set ∧
      set.segments[0]? = some segment ∧ s.grantFits request 1 0#2 0 = true ∧ s.grantFits request 1 0#2 1 = false ∧ s.xch.exchanges = [] ∧
      ((grant 0#52 s).bufferSet 1).map (fun v => v.segments.map Segment.index) = some [3#24] ∧
      (grant 1#52 s).xch.releases = [(0#2, 3#24)] ∧ ((grant 1#52 s).bufferSet 1).map (fun v => v.segments.map Segment.granted) = some [false] ∧
      owned.xch.exchanges.find? (fun x => !x.closed && x.order == 4) = some x ∧
      (waiting 5).bufferSet 1 = some { set with id := 5 } ∧ (grant 0#52 (waiting 5)).xch.releases = [(0#2, 3#24)] := by decide +kernel

theorem test_pool_warn :
    let s := joined (job 0x60 [])
    let replay : State := { s with audit := { Audit.reset with recEnable := true, recMode := true, recKinds := 31#5 } }
    s.audit.holdsInput 4 = false ∧ s.audit.records 4 = false ∧ s.xch.exchanges = [] ∧ s.transomRuns = true ∧
      idles (.poolWarnChange 1#8) (halted s) = true ∧ replay.audit.holdsInput 4 = true ∧
      (after (.poolWarnChange 1#8) replay).audit.replayWaiting = [.poolWarnChange 1#8] ∧
      (after (.poolWarnChange 1#8) s).xch.warn1Count = 1#16 ∧ (after (.poolWarnChange 2#8) s).xch.warn2Count = 1#16 := by decide +kernel

theorem test_xch_timeout :
    let at' (c : W64) (s : State) : State := { s with audit := { s.audit with count := c } }
    let s (c : W64) : State := at' c exchanging
    let u (c : W64) : State := at' c unstartedCombine
    let find (s : State) := s.xch.exchanges.find? (fun x => !x.closed && x.xid == 7#16 && x.combine == true && x.reverse == false)
    let told (s : State) : State := { s with xch := { s.xch with exchanges := [{ liveExchange with heard := [9] }] } }
    let sent : State := { u 1000#64 with xch := { (u 1000#64).xch with pendingArea := [(0, packet 5 true 0#16, true)] } }
    let late (s : State) := ((after (.xchTimeout true false 7#16 9#16) s).entry 2 0#32).map (fun f => (f.status, f.detail))
    find exchanging = some liveExchange ∧ exchanging.exchange 2 0#32 = some liveExchange ∧
      exchanging.entry 2 0#32 = some (xe 0x22 false true) ∧ (xe 0x22 false true).status = 0#8 ∧ exchanging.transomRuns = true ∧
      idles (.xchTimeout true false 7#16 9#16) (s 999#64) = true ∧ (s 1000#64).xch.timeout ≠ 0#32 ∧ 9#16 ≠ (s 1000#64).xch.self ∧
      9 ∈ (s 1000#64).chips ∧ 9 ∉ liveExchange.heard ∧ late (s 1000#64) = some (0x0C#8, 3#16) ∧
      (after (.xchTimeout true false 7#16 9#16) (s 1000#64)).xch.lastPeer = 9#16 ∧
      idles (.xchTimeout true false 7#16 9#16) (told (s 1000#64)) = true ∧ idles (.xchTimeout true false 7#16 5#16) (s 1000#64) = true ∧
      find unstartedCombine = none ∧ unstartedCombine.unstarted 7#16 true false = some (2, xe 0x22 false false) ∧
      9 ∈ (u 1000#64).chips ∧ late (u 1000#64) = some (0x0C#8, 3#16) ∧ idles (.xchTimeout true false 7#16 9#16) (u 999#64) = true ∧
      idles (.xchTimeout true false 7#16 9#16) sent = true ∧ idles (.xchTimeout false false 7#16 9#16) (u 1000#64) = true := by decide +kernel

theorem test_bset_release :
    let e := job 0x22 [(26, 1)]
    let s : State := joinedWith e fun x => { x with sets := Tab.put none [] 1 (some { set with segments := [{ segment with granted := true }] }) }
    let z : State := s.setRing 2 ring
    s.pwr.block = .run ∧ s.vault.resetting = false ∧ s.vault.busy = false ∧ s.bufferSet 0 = none ∧
      (after (.xchBsetRelease 0#8) s).xch.badRelease = 1#16 ∧ s.setRead 1 = true ∧ (s.bufferSet 1).isSome = true ∧
      ((after (.xchBsetRelease 1#8) s).bufferSet 1).map BufferSet.releasePending = some true ∧ z.setRead 1 = false ∧
      (after (.xchBsetRelease 1#8) z).xch.releases = [(0#2, 0#24)] := by decide +kernel

end Sys2Proof.Tests
end

section
/-! SUPPORT. What a request, an error record, an interrupt message and a block event leave unchanged (R261 to R263, R348). -/

namespace Sys2Proof.Machine

/-- From `s` to `t` the block has only sent requests and raised events: host memory, the ports, the error ring and the registers of events
and interrupts may differ, and every bit of BLK_EVENT that was set still is. -/
structure Raises (s t : State) : Prop where
  frame : t = { s with
    host := t.host, hostPoison := t.hostPoison, ports := t.ports, err := t.err,
    blk := { s.blk with
      irqPend := t.blk.irqPend, blkEvent := t.blk.blkEvent, eventCount := t.blk.eventCount, events := t.blk.events,
      dropped := t.blk.dropped } }
  flags : ∀ b, s.blk.blkEvent.getLsbD b = true → t.blk.blkEvent.getLsbD b = true

namespace Raises

variable {s t u : State}

theorem refl (s : State) : Raises s s := ⟨rfl, fun _ hb => hb⟩

theorem trans (h : Raises s t) (k : Raises t u) : Raises s u :=
  ⟨k.frame.trans (by rw [h.frame]), fun b hb => k.flags b (h.flags b hb)⟩

theorem foldl {β : Type} {f : State → β → State} (h : ∀ s b, Raises s (f s b)) (l : List β) (s : State) : Raises s (l.foldl f s) :=
  List.foldlRecOn l f (refl s) fun t ht b _ => ht.trans (h t b)

theorem rings (h : Raises s t) : t.rings = s.rings := by rw [h.frame]
theorem ring (h : Raises s t) (n : Nat) : t.ring n = s.ring n := by rw [State.ring, h.rings, State.ring]
theorem mantel (h : Raises s t) : t.mantel = s.mantel := by rw [h.frame]
theorem hearths (h : Raises s t) : t.hearths = s.hearths := by rw [h.frame]
theorem dbStray (h : Raises s t) : t.blk.dbStray = s.blk.dbStray := by rw [h.frame]
theorem dbBack (h : Raises s t) : t.blk.dbBack = s.blk.dbBack := by rw [h.frame]

end Raises

/-! ### Requests -/

theorem State.setPort_raises (s : State) (p : Nat) (x : Port) : Raises s (s.setPort p x) := ⟨rfl, fun _ hb => hb⟩

theorem State.storeHost_raises (s : State) (a : Nat) (bytes : List W8) (poisoned : Bool) : Raises s (s.storeHost a bytes poisoned) :=
  ⟨rfl, fun _ hb => hb⟩

theorem State.performRequest_raises (s : State) (r : Request) : Raises s (s.performRequest r) := by
  unfold State.performRequest
  split
  · exact s.storeHost_raises ..
  · split
    · exact Raises.foldl (fun s w => s.storeHost_raises ..) _ s
    · exact Raises.refl s

theorem State.dispatchRequest_raises (s : State) (p : Nat) (r : Request) (shared : Bool) : Raises s (s.dispatchRequest p r shared) :=
  (s.setPort_raises p _).trans (State.performRequest_raises _ r)

theorem State.pumpList_raises (p : Nat) (rs : List Request) (s : State) : Raises s (State.pumpList p rs s) := by
  induction rs generalizing s with
  | nil => exact Raises.refl s
  | cons r rest ih =>
    rw [State.pumpList]
    split
    · exact ((s.setPort_raises p _).trans (State.dispatchRequest_raises ..)).trans (ih _)
    · exact ih s

theorem State.pump_raises (s : State) (p : Nat) : Raises s (s.pump p) := by
  unfold State.pump
  split
  · exact State.pumpList_raises ..
  · exact Raises.refl s

theorem State.request_raises (s : State) (p : Nat) (r : Request) : Raises s (s.request p r) :=
  (s.setPort_raises p _).trans (State.pump_raises _ p)

/-! ### Error records and interrupt messages -/

theorem Raises.setErr (s : State) (e : Errors) : Raises s { s with err := e } := ⟨rfl, fun _ hb => hb⟩

theorem State.logError_raises (s : State) (e : ErrorEvent) : Raises s (s.logError e) := by
  have hcount (c : Prop) [Decidable c] :
      Raises s (if c then { s with err := { s.err with corrected := satInc s.err.corrected } } else s) := by
    split
    · exact Raises.setErr s _
    · exact Raises.refl s
  unfold State.logError
  extract_lets e' _ s'
  have hs' : Raises s s' := hcount _
  split
  · exact hs'
  · split
    · exact (hs'.trans (Raises.setErr s' _)).trans (State.setPort_raises ..)
    · split
      · exact hs'.trans (Raises.setErr s' _)
      · exact (hs'.trans (Raises.setErr s' _)).trans (State.request_raises ..)

theorem State.message_raises (s : State) (v : Nat) (cls : BitVec 2) : Raises s (s.message v cls) := by
  unfold State.message
  split
  · exact ⟨rfl, fun _ hb => hb⟩
  · extract_lets a
    split
    · exact s.logError_raises _
    · exact s.request_raises ..

/-! ### Block events -/

theorem State.eventFlag_raises (s : State) (b : Nat) : Raises s (s.eventFlag b) := by
  unfold State.eventFlag
  extract_lets _ s'
  have hs' : Raises s s' := ⟨rfl, fun i hi => by simp [s', hi]⟩
  split
  · exact hs'.trans (s'.message_raises ..)
  · exact hs'

/-- Bit `b` of BLK_EVENT is set (R262). -/
theorem State.eventFlag_blkEvent (s : State) {b : Nat} (hb : b < 9) : (s.eventFlag b).blk.blkEvent.getLsbD b = true := by
  unfold State.eventFlag
  extract_lets _ s'
  have hs' : s'.blk.blkEvent.getLsbD b = true := by
    simp only [s', BitVec.getLsbD_or, BitVec.getLsbD_ofNat, hb, Nat.testBit_two_pow_self, decide_true, Bool.and_true, Bool.or_true]
  split
  · exact (s'.message_raises ..).flags b hs'
  · exact hs'

/-- After the flag, an event only queues its entry, or counts it as dropped and sets EVT_OVERFLOW. -/
theorem State.eventFlag_raises_event (s : State) (e : BlockEvent) (source detail : Nat) :
    Raises (s.eventFlag e.bit) (s.event e source detail) := by
  unfold State.event
  extract_lets s'
  split
  · exact ⟨rfl, fun _ hb => hb⟩
  · have hdropped : Raises s' { s' with blk := { s'.blk with dropped := satInc s'.blk.dropped } } := ⟨rfl, fun _ hb => hb⟩
    exact hdropped.trans (State.eventFlag_raises ..)

theorem State.event_raises (s : State) (e : BlockEvent) (source detail : Nat) : Raises s (s.event e source detail) :=
  (s.eventFlag_raises e.bit).trans (s.eventFlag_raises_event e source detail)

/-- An event sets its bit of BLK_EVENT (R262). -/
theorem State.event_blkEvent (s : State) (e : BlockEvent) (source detail : Nat) :
    (s.event e source detail).blk.blkEvent.getLsbD e.bit = true :=
  (s.eventFlag_raises_event e source detail).flags _ (s.eventFlag_blkEvent (by cases e <;> decide))

end Sys2Proof.Machine
end

section
/-! SUPPORT. A doorbell write, from the Sash port to Table 12-3 (R245). -/

namespace Sys2Proof.Machine

/-! ### The open Sash port -/

theorem State.gate_of_sashOpen {s : State} (h : s.sashOpen) (write : Bool) (o : Nat) : s.gate write o = .answer := by
  obtain ⟨hrun, hreset, hbusy⟩ := h
  simp [State.gate, hrun, hreset, hbusy]

theorem State.sashWrite_of_sashOpen {s : State} (h : s.sashOpen) {o d : Nat} (ho : o < 2 ^ 20) (haligned : o % 8 = 0) (hd : d < 2 ^ 64) :
    s.sashWrite o d = (s.writeReg o d).answered := by
  have hoff : (BitVec.ofNat 20 o).toNat = o := Nat.mod_eq_of_lt ho
  have hdata : (BitVec.ofNat 64 d).toNat = d := Nat.mod_eq_of_lt hd
  simp only [State.sashWrite, State.sashAccess, hoff, hdata, haligned, State.gate_of_sashOpen h]
  rfl

/-! ### From the port to the fast path -/

theorem State.writeReg_doorbellOffset (s : State) {n : Nat} (hn : n < 128) (d : Nat) :
    s.writeReg (doorbellOffset n) d = s.writeDoorbell n d := by
  have hring : (0x10000 + 8 * n - 0x10000) / 8 = n := by omega
  rw [State.writeReg, doorbellOffset, if_neg (by omega), if_neg (by omega), if_neg (by omega), if_neg (by omega), if_neg (by omega),
    if_pos (by omega), hring]

theorem exec_doorbellWrite_of_sashOpen {s : State} (h : s.sashOpen) (n : BitVec 7) (d : W64) :
    exec (.doorbellWrite n d) s = .next (s.doorbell n.toNat (d.setWidth 32)).answered := by
  have hn : n.toNat < 128 := n.isLt
  have hrun : s.pwr.block = .run := h.1
  have hwrite : s.writeDoorbell n.toNat d.toNat = s.doorbell n.toNat (d.setWidth 32) := by
    rw [State.writeDoorbell, if_pos hrun, BitVec.ofNat_toNat]
  calc exec (.doorbellWrite n d) s = .next (s.sashWrite (doorbellOffset n.toNat) d.toNat) := rfl
    _ = .next (s.writeReg (doorbellOffset n.toNat) d.toNat).answered := by
      rw [State.sashWrite_of_sashOpen h (by rw [doorbellOffset]; omega) (by rw [doorbellOffset]; omega) d.isLt]
    _ = .next (s.doorbell n.toNat (d.setWidth 32)).answered := by rw [State.writeReg_doorbellOffset s hn, hwrite]

theorem State.doorbell_of_plainDoorbells {s : State} {n : Nat} (h : s.plainDoorbells n) (t : W32) : s.doorbell n t = s.takeDoorbell n t := by
  obtain ⟨hrec, hfatal, hhalted, hwithheld⟩ := h
  simp [State.doorbell, Audit.replaying, Audit.holds, Audit.records, hrec, hfatal, hhalted, hwithheld]

theorem exec_plain_doorbellWrite {s : State} {n : BitVec 7} (h : s.sashOpen) (hplain : s.plainDoorbells n.toNat) (d : W64) :
    exec (.doorbellWrite n d) s = .next (s.takeDoorbell n.toNat (d.setWidth 32)).answered := by
  rw [exec_doorbellWrite_of_sashOpen h, State.doorbell_of_plainDoorbells hplain]

theorem State.recordInput_of_disabled {s : State} (h : s.audit.recEnable = false) (kind source : Nat) (data : W64) (bytes : List W8) :
    s.recordInput kind source data bytes = s := by
  simp [State.recordInput, Audit.records, h]

/-! ### The rows of Table 12-3 -/

theorem Ring.doorbell_stray {r : Ring} (h : r.state = .off ∨ r.state = .draining ∨ r.state = .fault) (t : W32) : r.doorbell t = .stray :=
  if_pos h

/-- A ring that runs or is stopped takes its doorbells. -/
theorem Ring.doorbell_of_live {r : Ring} (h : r.state = .run ∨ r.state = .stopped) (t : W32) :
    r.doorbell t = if 2 ^ r.log2Size.toNat < (t - r.head).toNat then .fault
      else if (t - r.head).toNat < (r.tail - r.head).toNat then .back
      else if t = r.tail then .same else .accepted := by
  have hlive : ¬(r.state = .off ∨ r.state = .draining ∨ r.state = .fault) := by
    rcases h with h | h <;> simp [h]
  rw [Ring.doorbell, if_neg hlive]

/-- Equal distances from HEAD are equal TAILs. -/
theorem eq_iff_sub_toNat_eq (t tail head : W32) : t = tail ↔ (t - head).toNat = (tail - head).toNat := by
  rw [BitVec.toNat_inj, BitVec.sub_left_inj]

/-- A stray doorbell is counted and flagged (R245). -/
theorem State.takeDoorbell_stray {s : State} {n : Nat}
    (h : (s.ring n).state = .off ∨ (s.ring n).state = .draining ∨ (s.ring n).state = .fault) (t : W32) :
    Raises { s with blk := { s.blk with dbStray := satInc s.blk.dbStray } } (s.takeDoorbell n t) ∧
    (s.takeDoorbell n t).blk.blkEvent.getLsbD 1 = true := by
  rw [State.takeDoorbell, Ring.doorbell_stray h]
  exact ⟨State.event_raises .., State.event_blkEvent _ .dbStray ..⟩

/-- A ring that runs or is stopped enters FAULT with its cause and keeps its TAIL (R243). -/
theorem State.ringFault_of_live {s : State} {n : Nat} (h : (s.ring n).state = .run ∨ (s.ring n).state = .stopped) (cause : Nat) :
    Raises (s.setRing n { (s.ring n).abortFetched 4 with
      state := .fault, fault := true, cause := BitVec.ofNat 4 cause, faultCount := satInc (s.ring n).faultCount }) (s.ringFault n cause) ∧
    (s.ringFault n cause).blk.blkEvent.getLsbD 0 = true := by
  have hlive : ¬((s.ring n).state = .fault ∨ (s.ring n).state = .off ∨ (s.ring n).state = .draining) := by
    rcases h with h | h <;> simp [h]
  rw [State.ringFault, if_neg hlive]
  exact ⟨State.event_raises .., State.event_blkEvent _ .ringFault ..⟩

/-! ### The obligation -/

/-- Settles O11: the write reaches `takeDoorbell`, which acts as the row of Table 12-3 that `Ring.doorbell` names; the two rows that raise an
event touch nothing beyond what `Raises` allows. -/
theorem doorbellsFollowTable12_3 : Obligations.DoorbellsFollowTable12_3 := by
  intro s n d hopen hplain
  simp only [exec_plain_doorbellWrite hopen hplain]
  refine ⟨fun hdead => ?stray, fun hlive => ⟨fun hfar => ?fault, fun hnear =>
    ⟨fun hback => ?back, fun hsame => ?same, fun hmore => ?accepted⟩⟩⟩
  case stray =>
    obtain ⟨hraises, hflag⟩ := State.takeDoorbell_stray hdead (d.setWidth 32)
    exact ⟨_, rfl, hraises.rings, hraises.dbStray, hflag, hraises.dbBack, hraises.mantel, hraises.hearths⟩
  case fault =>
    obtain ⟨hraises, hflag⟩ := State.ringFault_of_live hlive 1
    have hring (m : Nat) := (hraises.ring m).trans (State.ring_setRing ..)
    have hself := (hring n.toNat).trans (if_pos rfl)
    have hrow : s.takeDoorbell n.toNat (d.setWidth 32) = s.ringFault n.toNat 1 := by
      rw [State.takeDoorbell, Ring.doorbell_of_live hlive, if_pos hfar]
    rw [hrow]
    exact ⟨_, rfl, congrArg Ring.state hself, congrArg Ring.cause hself, (congrArg Ring.tail hself :), congrArg Ring.fault hself,
      congrArg Ring.faultCount hself, hflag, fun m hm => (hring m).trans (if_neg hm), hraises.mantel, hraises.hearths⟩
  case back => rw [State.takeDoorbell, Ring.doorbell_of_live hlive, if_neg hnear.not_gt, if_pos hback]
  case same =>
    rw [State.takeDoorbell, Ring.doorbell_of_live hlive, if_neg hnear.not_gt, if_neg hsame.not_lt,
      if_pos ((eq_iff_sub_toNat_eq ..).2 hsame)]
  case accepted =>
    have hne := mt (eq_iff_sub_toNat_eq (d.setWidth 32) (s.ring n.toNat).tail (s.ring n.toNat).head).1 hmore.ne'
    rw [State.takeDoorbell, Ring.doorbell_of_live hlive, if_neg hnear.not_gt, if_neg hmore.not_gt, if_neg hne]
    simp only [State.recordInput_of_disabled (s := s.setRing _ _) hplain.1]

end Sys2Proof.Machine
end

section
/-! SUPPORT. A write of REC_CTL with ENABLE = 1, from the Sash port to the refusal or the start of the recorder (R283). -/

namespace Sys2Proof.Machine

/-! ### The fields of REC_CTL -/

/-- The recorder's fields as a write of REC_CTL sets them while ENABLE is 0 (Table 13-9). -/
def Audit.takeRecCtl (a : Audit) (d : Nat) : Audit :=
  { a with recMode := flag d 0 1, recHold := flag d 0 2, recLog2 := BitVec.ofNat 5 (fld d 0 3 5), recKinds := BitVec.ofNat 5 (fld d 0 8 5) }

/-- LOG2 is bits 7:3 of the word, which setting ENABLE leaves as they are. -/
theorem Audit.takeRecCtl_log2 (a : Audit) (ctl : W64) : (a.takeRecCtl (ctl ||| 1#64).toNat).recLog2.toNat = ctl.toNat / 8 % 32 := by
  have hlog2 : fld (ctl ||| 1#64).toNat 0 3 5 = ctl.toNat / 8 % 32 := by
    rw [fld, BitVec.toNat_or, Nat.shiftRight_or_distrib, Nat.shiftRight_eq_div_pow]
    exact congrArg (· % 32) (Nat.or_zero _)
  rw [Audit.takeRecCtl, hlog2, BitVec.toNat_ofNat, Nat.mod_mod]

/-- The word of an enable has ENABLE set. -/
theorem flag_enable (ctl : W64) : flag (ctl ||| 1#64).toNat 0 0 = true := by
  simp [flag]

/-! ### The three cases of a refusal -/

/-- R283's cases: LOG2 out of its range, a base that is no multiple of 4 KiB, or a ring that reaches past 2^52. -/
def Audit.RefusesEnable (a : Audit) : Prop :=
  a.recLog2.toNat < 10 ∨ 24 < a.recLog2.toNat ∨ a.recBase.toNat % 4096 ≠ 0 ∨ 2 ^ 52 < a.recBase.toNat + 32 * 2 ^ a.recLog2.toNat

/-- An enable changes only the registers of the audit unit: refused, it leaves ENABLE at 0 and sets REFUSED; accepted, the reverse. -/
theorem State.enableRecorder_cases (s : State) :
    ∃ a : Audit, s.enableRecorder = { s with audit := a } ∧
      (s.audit.RefusesEnable → a.recEnable = false ∧ a.recRefused = true) ∧
      (¬s.audit.RefusesEnable → a.recEnable = true ∧ a.recRefused = false) := by
  by_cases h : s.audit.RefusesEnable
  case pos => exact ⟨_, if_pos h, fun _ => ⟨rfl, rfl⟩, absurd h⟩
  case neg => exact ⟨_, if_neg h, fun hrefuses => absurd hrefuses h, fun _ => ⟨rfl, rfl⟩⟩

/-! ### A disabled recorder -/

theorem Audit.replaying_of_disabled {a : Audit} (h : a.recEnable = false) : a.replaying = false := by
  simp [Audit.replaying, h]

theorem Audit.holds_of_disabled {a : Audit} (h : a.recEnable = false) (kind : Nat) : a.holds kind = false := by
  simp [Audit.holds, Audit.records, h]

theorem Audit.holdsInput_of_disabled {a : Audit} (h : a.recEnable = false) (kind : Nat) : a.holdsInput kind = false := by
  simp [Audit.holdsInput, Audit.replaying_of_disabled h]

/-! ### From the port to the recorder -/

theorem State.writeRecCtl_of_enable {s : State} (hidle : s.audit.recEnable = false) {d : Nat} (hd : flag d 0 0 = true) :
    s.writeRecCtl d = ({ s with audit := s.audit.takeRecCtl d } : State).enableRecorder := by
  simp only [State.writeRecCtl, hidle, hd, if_true]
  rfl

theorem exec_recorderEnable_of_sashOpen {s : State} (h : s.sashOpen) (hidle : s.audit.recEnable = false) (ctl : W64) :
    exec (.recorderEnable ctl) s =
      .next ({ s with audit := s.audit.takeRecCtl (ctl ||| 1#64).toNat } : State).enableRecorder.answered := by
  calc exec (.recorderEnable ctl) s = .next (s.sashWrite 0x4048 (ctl ||| 1#64).toNat) := rfl
    _ = .next (s.writeRecCtl (ctl ||| 1#64).toNat).answered := by
      rw [State.sashWrite_of_sashOpen h (by decide) (by decide) (ctl ||| 1#64).isLt]
      rfl
    _ = _ := by rw [State.writeRecCtl_of_enable hidle (flag_enable ctl)]

/-! ### The obligation -/

/-- Settles O19: the write reaches `enableRecorder` with LOG2 as the word gives it. A refusal leaves ENABLE at 0, and a disabled recorder
neither records an input nor holds one. -/
theorem recorderEnableFollowsR283 : Obligations.RecorderEnableFollowsR283 := by
  intro s ctl hopen hidle l base refused
  obtain ⟨a, hwritten, hrefuses, haccepts⟩ :=
    State.enableRecorder_cases { s with audit := s.audit.takeRecCtl (ctl ||| 1#64).toNat }
  have hcases : (s.audit.takeRecCtl (ctl ||| 1#64).toNat).RefusesEnable ↔ refused := by
    rw [Audit.RefusesEnable, Audit.takeRecCtl_log2]
    rfl
  have hexec := exec_recorderEnable_of_sashOpen hopen hidle ctl
  rw [hwritten] at hexec
  refine ⟨_, hexec, rfl, fun hrefused => ?refused, fun haccepted => haccepts (mt hcases.1 haccepted)⟩
  case refused =>
    obtain ⟨hdisabled, hflag⟩ := hrefuses (hcases.2 hrefused)
    exact ⟨hdisabled, hflag, Audit.replaying_of_disabled hdisabled, fun kind source data bytes =>
      ⟨Audit.holds_of_disabled hdisabled kind, Audit.holdsInput_of_disabled hdisabled kind,
        State.recordInput_of_disabled hdisabled kind source data bytes⟩⟩

end Sys2Proof.Machine
end

section
/-! SUPPORT. A direct write of VREQ_CODE_s, from the Sash port to its acceptance or refusal (R318). -/

namespace Sys2Proof.Machine

/-! ### Arrays of registers -/

/-- A write to the offset of an array's register acts on that register. -/
theorem arrayWrite_entry {base step n i : Nat} (hi : i < n) (hstep : 0 < step) (f : Nat → State) (other : State) :
    arrayWrite (base + step * i) base step n f other = f i := by
  have hslot : slotOf (base + step * i) base step n = some i := by
    simp [slotOf, Nat.mul_div_cancel_left i hstep, hi]
  rw [arrayWrite, hslot]

/-- A write past the end of an array goes on to what follows it. -/
theorem arrayWrite_past {o base step n : Nat} (ho : base + step * n ≤ o) (hstep : 0 < step) (f : Nat → State) (other : State) :
    arrayWrite o base step n f other = other := by
  have hpast : n ≤ (o - base) / step := (Nat.le_div_iff_mul_le hstep).2 (by rw [Nat.mul_comm]; omega)
  have hslot : slotOf o base step n = none := if_neg fun h => h.2.2.not_ge hpast
  rw [arrayWrite, hslot]

/-- Table 00-1 has at most 8 stoves. -/
theorem BlockConfig.stoves_le_of_valid {c : BlockConfig} (h : c.valid = true) : c.stoves ≤ 8 := by
  simp only [BlockConfig.valid, Bool.and_eq_true, List.contains_iff_mem, List.mem_cons, List.not_mem_nil, or_false] at h
  obtain ⟨⟨hhearths, -⟩, -⟩ := h
  rw [BlockConfig.stoves]
  omega

/-! ### From the port to the request -/

/-- The VREQ_CODE registers begin past the PSTATE registers of at most 8 stoves (Table 15-12). -/
theorem State.writeReg_vreqCode {s : State} (hvalid : s.cfg.valid = true) {v : Nat} (hv : v < s.cfg.stoves) (d : Nat) :
    s.writeReg (0x2240 + 8 * v) d = s.writeCode v (BitVec.ofNat 8 d) := by
  have hstoves := BlockConfig.stoves_le_of_valid hvalid
  calc s.writeReg (0x2240 + 8 * v) d = s.writePower (0x2240 + 8 * v) d := by
        rw [State.writeReg, if_neg (by omega), if_neg (by omega), if_pos (by omega)]
    _ = s.writeCode v (BitVec.ofNat 8 d) := by
        rw [State.writePower, if_neg (by omega), if_neg (by omega), if_neg (by omega), arrayWrite_past (by omega) (by decide),
          arrayWrite_entry hv (by decide)]

theorem exec_vreqCodeWrite_of_sashOpen {s : State} (h : s.sashOpen) (hvalid : s.cfg.valid = true) {v : BitVec 3}
    (hv : v.toNat < s.cfg.stoves) (c : W8) : exec (.vreqCodeWrite v c) s = .next (s.writeCode v.toNat c).answered := by
  calc exec (.vreqCodeWrite v c) s = .next (s.sashWrite (0x2240 + 8 * v.toNat) c.toNat) := rfl
    _ = .next (s.writeReg (0x2240 + 8 * v.toNat) c.toNat).answered := by
      rw [State.sashWrite_of_sashOpen h (by omega) (by omega) (by omega)]
    _ = .next (s.writeCode v.toNat c).answered := by rw [State.writeReg_vreqCode hvalid hv, BitVec.ofNat_toNat, BitVec.setWidth_eq]

/-! ### The obligation -/

theorem State.setStove_onlyStove (s : State) (v : Nat) (x : Stove) : OnlyStove s (s.setStove v x) v :=
  ⟨rfl, fun w hw => (s.stove_setStove v x w).trans (if_neg hw)⟩

/-- Settles O17: the write reaches `writeCode`, whose two branches each set the one stove. -/
theorem vreqWritesFollowR318 : Obligations.VreqWritesFollowR318 := by
  intro s v c hopen hvalid hv x accepted
  refine ⟨s.writeCode v.toNat c, exec_vreqCodeWrite_of_sashOpen hopen hvalid hv c, ?_⟩
  by_cases h : accepted
  case pos =>
    have hwrite : s.writeCode v.toNat c = s.setStove v.toNat { x with code := c } := if_pos h
    rw [hwrite]
    exact ⟨State.setStove_onlyStove .., fun _ => State.stove_setStove_self .., absurd h⟩
  case neg =>
    have hwrite : s.writeCode v.toNat c = s.setStove v.toNat { x with refused := satInc x.refused } := if_neg h
    rw [hwrite]
    exact ⟨State.setStove_onlyStove .., fun haccepted => absurd haccepted h, fun _ => State.stove_setStove_self ..⟩

end Sys2Proof.Machine
end

section
/-! SUPPORT. What every command keeps, and with it what every step keeps (R382, Table 16-3): the three statements about all commands. -/

namespace Sys2Proof.Machine

/-- A next state that the outcome gives has kept what `Keeps` names. -/
structure KeepsNext (s : State) (o : Host.Outcome State Fault Refusal) : Prop where
  keeps : ∀ t, o = .next t → Keeps s t

theorem keepsNext_iff (s : State) (o : Host.Outcome State Fault Refusal) : KeepsNext s o ↔ ∀ t, o = .next t → Keeps s t :=
  ⟨fun h => h.keeps, fun h => ⟨h⟩⟩

theorem KeepsNext.next {s t : State} (h : Keeps s t) : KeepsNext s (.next t) := ⟨fun _ ht => Host.Outcome.next.inj ht ▸ h⟩

theorem KeepsNext.fault (s : State) (f : Fault) : KeepsNext s (.fault f) := ⟨fun _ h => absurd h (by simp)⟩

/-- A command of a unit acts where the unit is present. -/
theorem KeepsNext.ofPresent {s t : State} {present : Prop} [Decidable present] (h : Keeps s t) :
    KeepsNext s (if present then .next t else .fault .absentUnit) := by
  split
  · exact .next h
  · exact .fault ..

/-- A command of a hearth acts where the hearth is present and runs. -/
theorem KeepsNext.ofHearth {s t : State} {h : BitVec 6} (k : Keeps s t) :
    KeepsNext s (if h.toNat < s.cfg.hearths then .next (if s.hearthRuns h.toNat then t else s) else .fault .absentUnit) :=
  .ofPresent (.ite k (.refl s))

/-- A descriptor's command acts while its position runs. -/
theorem KeepsNext.ofEntry {s : State} {o : Option Entry} {f : Entry → State} (k : ∀ e, Keeps s (f e)) :
    KeepsNext s (match o with | some e => .next (f e) | none => .next s) := by
  cases o with
  | none => exact .next (.refl s)
  | some e => exact .next (k e)

theorem execLifecycleFusesDone_keeps (s : State) : KeepsNext s (execLifecycleFusesDone s) := by
  unfold execLifecycleFusesDone
  extract_lets v
  split
  · have hblown : Keeps s { s with vault := v.blowFirst v.fuseSteps } := ⟨rfl, rfl, Seal.blowFirst_keeps v v.fuseSteps, id, id⟩
    exact .next (hblown.trans (State.startReset_keeps ..))
  · exact .next (.refl s)

theorem execPatchVerifyDone_keeps (reason : BitVec 4) (version : W16) (minor major : W8) (s : State) :
    KeepsNext s (execPatchVerifyDone reason version minor major s) := by
  grind -ring -linarith -lia -ac -order [execPatchVerifyDone, keepsNext_iff, keeps_iff]

theorem execVokAssert_keeps (stove : BitVec 3) (s : State) : KeepsNext s (execVokAssert stove s) := by
  grind -ring -linarith -lia -ac -order [execVokAssert, keepsNext_iff, keeps_iff]

theorem execPstateFreqSwitch_keeps (stove : BitVec 3) (s : State) : KeepsNext s (execPstateFreqSwitch stove s) := by
  grind -ring -linarith -lia -ac -order [execPstateFreqSwitch, keepsNext_iff, keeps_iff]

theorem execVokTimeout_keeps (stove : BitVec 3) (s : State) : KeepsNext s (execVokTimeout stove s) := by
  grind -ring -linarith -lia -ac -order [execVokTimeout, keepsNext_iff, keeps_iff]

theorem execDamperThrottle_keeps (stove : BitVec 3) (estimate : W16) (s : State) : KeepsNext s (execDamperThrottle stove estimate s) := by
  grind -ring -linarith -lia -ac -order [execDamperThrottle, keepsNext_iff, keeps_iff]

theorem execFenceEpoch_keeps (ring : BitVec 7) (pos : W32) (s : State) : KeepsNext s (execFenceEpoch ring pos s) := by
  grind -ring -linarith -lia -ac -order [execFenceEpoch, keepsNext_iff, keeps_iff]

theorem execLaunchAt_keeps (ring : BitVec 7) (pos : W32) (s : State) : KeepsNext s (execLaunchAt ring pos s) := by
  grind -ring -linarith -lia -ac -order [execLaunchAt, keepsNext_iff, keeps_iff]

theorem execWait_keeps (ring : BitVec 7) (pos : W32) (s : State) : KeepsNext s (execWait ring pos s) := by
  grind -ring -linarith -lia -ac -order [execWait, keepsNext_iff, keeps_iff]

theorem execLowPowerEnter_keeps (s : State) : KeepsNext s (execLowPowerEnter s) := by
  grind -ring -linarith -lia -ac -order [execLowPowerEnter, keepsNext_iff, keeps_iff]

theorem execHearthSetOffline_keeps (ring : BitVec 7) (pos : W32) (s : State) : KeepsNext s (execHearthSetOffline ring pos s) := by
  grind -ring -linarith -lia -ac -order [execHearthSetOffline, keepsNext_iff, keeps_iff]

theorem execHearthSetOnline_keeps (ring : BitVec 7) (pos : W32) (s : State) : KeepsNext s (execHearthSetOnline ring pos s) := by
  grind -ring -linarith -lia -ac -order [execHearthSetOnline, keepsNext_iff, keeps_iff]

theorem execMaintStart_keeps (ring : BitVec 7) (pos : W32) (s : State) : KeepsNext s (execMaintStart ring pos s) := by
  grind -ring -linarith -lia -ac -order [execMaintStart, keepsNext_iff, keeps_iff]

theorem execMaintCancel_keeps (ring : BitVec 7) (pos : W32) (s : State) : KeepsNext s (execMaintCancel ring pos s) := by
  grind -ring -linarith -lia -ac -order [execMaintCancel, keepsNext_iff, keeps_iff]

theorem execPauseAuto_keeps (ring : BitVec 7) (pos : W32) (s : State) : KeepsNext s (execPauseAuto ring pos s) := by
  grind -ring -linarith -lia -ac -order [execPauseAuto, keepsNext_iff, keeps_iff]

theorem execResumeAuto_keeps (ring : BitVec 7) (pos : W32) (s : State) : KeepsNext s (execResumeAuto ring pos s) := by
  grind -ring -linarith -lia -ac -order [execResumeAuto, keepsNext_iff, keeps_iff]

theorem execAutoSpill_keeps (hearth : BitVec 6) (s : State) : KeepsNext s (execAutoSpill hearth s) := by
  grind -ring -linarith -lia -ac -order [execAutoSpill, keepsNext_iff, keeps_iff]

theorem execXchPacketSend_keeps (port : BitVec 3) (s : State) : KeepsNext s (execXchPacketSend port s) := by
  grind -ring -linarith -lia -ac -order [execXchPacketSend, keepsNext_iff, keeps_iff]

theorem execPoolGrant_keeps (tag : W8) (pool : BitVec 2) (index : BitVec 24) (base : BitVec 52) (s : State) :
    KeepsNext s (execPoolGrant tag pool index base s) := by
  grind -ring -linarith -lia -ac -order [execPoolGrant, keepsNext_iff, keeps_iff]

theorem execXchCreditReturn_keeps (port : BitVec 3) (ctrl out ret : BitVec 4) (s : State) :
    KeepsNext s (execXchCreditReturn port ctrl out ret s) := by
  grind -ring -linarith -lia -ac -order [execXchCreditReturn, keepsNext_iff, keeps_iff]

theorem execXchTimeout_keeps (combine reverse : Bool) (xid peer : W16) (s : State) :
    KeepsNext s (execXchTimeout combine reverse xid peer s) := by
  grind -ring -linarith -lia -ac -order [execXchTimeout, keepsNext_iff, keeps_iff]

theorem execMemoryReadResponse_keeps (port : BitVec 5) (tag : BitVec 12) (data : List W8) (parity : BitVec 32) (poison : BitVec 4) (err : W8)
    (s : State) :
    KeepsNext s (execMemoryReadResponse port tag data parity poison err s) := by
  grind -ring -linarith -lia -ac -order [execMemoryReadResponse, keepsNext_iff, keeps_iff]

theorem execMemoryWriteAck_keeps (port : BitVec 5) (tag : BitVec 12) (err : W8) (s : State) :
    KeepsNext s (execMemoryWriteAck port tag err s) := by
  grind -ring -linarith -lia -ac -order [execMemoryWriteAck, keepsNext_iff, keeps_iff]

theorem execCompletionRecordWrite_keeps (ring : BitVec 7) (pos : W32) (s : State) :
    KeepsNext s (execCompletionRecordWrite ring pos s) := by
  grind -ring -linarith -lia -ac -order [execCompletionRecordWrite, keepsNext_iff, keeps_iff]

theorem execHearthIdleEntry_keeps (hearth : BitVec 6) (s : State) : KeepsNext s (execHearthIdleEntry hearth s) := by
  grind -ring -linarith -lia -ac -order [execHearthIdleEntry, keepsNext_iff, keeps_iff]

theorem execHearthWakeDone_keeps (hearth : BitVec 6) (s : State) : KeepsNext s (execHearthWakeDone hearth s) := by
  grind -ring -linarith -lia -ac -order [execHearthWakeDone, keepsNext_iff, keeps_iff]

theorem execBlockWake_keeps (source : BitVec 3) (s : State) : KeepsNext s (execBlockWake source s) := by
  grind -ring -linarith -lia -ac -order [execBlockWake, keepsNext_iff, keeps_iff]

theorem execPswAck_keeps (domain : BitVec 7) (level : Bool) (s : State) : KeepsNext s (execPswAck domain level s) := by
  grind -ring -linarith -lia -ac -order [execPswAck, keepsNext_iff, keeps_iff]

theorem execWakeDone_keeps (sample : WakeSample) (s : State) : KeepsNext s (execWakeDone sample s) := by
  grind -ring -linarith -lia -ac -order [execWakeDone, keepsNext_iff, keeps_iff]

theorem execMgmtWrite_keeps (addr : BitVec 7) (bytes : List W8) (s : State) : KeepsNext s (execMgmtWrite addr bytes s) := by
  grind -ring -linarith -lia -ac -order [execMgmtWrite, keepsNext_iff, keeps_iff]

theorem execMgmtRead_keeps (addr : BitVec 7) (s : State) : KeepsNext s (execMgmtRead addr s) := by
  grind -ring -linarith -lia -ac -order [execMgmtRead, keepsNext_iff, keeps_iff]

theorem execEntdaa_keeps (addr : BitVec 7) (s : State) : KeepsNext s (execEntdaa addr s) := by
  grind -ring -linarith -lia -ac -order [execEntdaa, keepsNext_iff, keeps_iff]

theorem execSetdasa_keeps (addr : BitVec 7) (s : State) : KeepsNext s (execSetdasa addr s) := by
  grind -ring -linarith -lia -ac -order [execSetdasa, keepsNext_iff, keeps_iff]

theorem execRstdaa_keeps (s : State) : KeepsNext s (execRstdaa s) := by
  grind -ring -linarith -lia -ac -order [execRstdaa, keepsNext_iff, keeps_iff]

theorem execPowerOn_keeps (s : State) : KeepsNext s (execPowerOn s) := by
  grind -ring -linarith -lia -ac -order [execPowerOn, keepsNext_iff, keeps_iff]

theorem execColdReset_keeps (periods : W8) (s : State) : KeepsNext s (execColdReset periods s) := by
  grind -ring -linarith -lia -ac -order [execColdReset, keepsNext_iff, keeps_iff]

theorem execBlockReset_keeps (periods : W8) (s : State) : KeepsNext s (execBlockReset periods s) := by
  grind -ring -linarith -lia -ac -order [execBlockReset, keepsNext_iff, keeps_iff]

theorem execWipeDone_keeps (failRow : BitVec 3) (selftestFail entropyFail : Bool) (credits : List (BitVec 13 × BitVec 13)) (s : State) :
    KeepsNext s (execWipeDone failRow selftestFail entropyFail credits s) := by
  grind -ring -linarith -lia -ac -order [execWipeDone, keepsNext_iff, keeps_iff]

theorem execAlarmTrip_keeps (source : BitVec 4) (s : State) : KeepsNext s (execAlarmTrip source s) := by
  grind -ring -linarith -lia -ac -order [execAlarmTrip, keepsNext_iff, keeps_iff]

theorem execSyncPulse_keeps (pulse : SyncPulse) (s : State) : KeepsNext s (execSyncPulse pulse s) := by
  grind -ring -linarith -lia -ac -order [execSyncPulse, keepsNext_iff, keeps_iff]

theorem execCountTick_keeps (s : State) : KeepsNext s (execCountTick s) := by
  grind -ring -linarith -lia -ac -order [execCountTick, keepsNext_iff, keeps_iff]

theorem execMaintSchedule_keeps (activity : BitVec 3) (target : BitVec 6) (s : State) :
    KeepsNext s (execMaintSchedule activity target s) := by
  grind -ring -linarith -lia -ac -order [execMaintSchedule, keepsNext_iff, keeps_iff]

theorem execTempHiChange_keeps (hearth : BitVec 6) (hi : Bool) (s : State) : KeepsNext s (execTempHiChange hearth hi s) := by
  grind -ring -linarith -lia -ac -order [execTempHiChange, keepsNext_iff, keeps_iff]

theorem execMaintGrant_keeps (s : State) : KeepsNext s (execMaintGrant s) := by
  grind -ring -linarith -lia -ac -order [execMaintGrant, keepsNext_iff, keeps_iff]

theorem execMaintStep_keeps (activity : BitVec 3) (target : BitVec 6) (outcome : BitVec 2) (s : State) :
    KeepsNext s (execMaintStep activity target outcome s) := by
  grind -ring -linarith -lia -ac -order [execMaintStep, keepsNext_iff, keeps_iff]

theorem execMaintActivityDone_keeps (activity : BitVec 3) (target : BitVec 6) (pass : Bool) (unit : W8) (s : State) :
    KeepsNext s (execMaintActivityDone activity target pass unit s) := by
  grind -ring -linarith -lia -ac -order [execMaintActivityDone, keepsNext_iff, keeps_iff]

theorem execAlarmRecordAbandon_keeps (s : State) : KeepsNext s (execAlarmRecordAbandon s) := by
  grind -ring -linarith -lia -ac -order [execAlarmRecordAbandon, keepsNext_iff, keeps_iff]

theorem exec_keeps (c : Instr) (s : State) : KeepsNext s (exec c s) :=
  match c with
  | .registerWrite .. => .next (State.sashAccess_keeps ..)
  | .sashAccessError .. => .next (.ite (State.badAccess_keeps ..) (.refl s))
  | .sashWakeAccess .. => .next (State.sashAccess_keeps ..)
  | .doorbellWrite .. => .next (State.sashWrite_keeps ..)
  | .ringEnable .. => .next (State.sashWrite_keeps ..)
  | .ringDisable .. => .next (State.sashWrite_keeps ..)
  | .ringResume .. => .next (State.sashWrite_keeps ..)
  | .evtPop => .next (State.sashAccess_keeps ..)
  | .irqUnmask .. => .next (State.sashWrite_keeps ..)
  | .patchGo .. => .next (State.sashWrite_keeps ..)
  | .patchVerifyDone .. => execPatchVerifyDone_keeps ..
  | .xchBsetRelease .. => .next (State.sashWrite_keeps ..)
  | .isoRelease .. => .next (State.sashWrite_keeps ..)
  | .pstateTargetWrite .. => .next (State.sashWrite_keeps ..)
  | .vreqCodeWrite .. => .next (State.sashWrite_keeps ..)
  | .vokAssert .. => execVokAssert_keeps ..
  | .pstateFreqSwitch .. => execPstateFreqSwitch_keeps ..
  | .vokTimeout .. => execVokTimeout_keeps ..
  | .damperThrottle .. => execDamperThrottle_keeps ..
  | .sealLcGo .. => .next (State.sashWrite_keeps ..)
  | .lifecycleFusesDone => execLifecycleFusesDone_keeps ..
  | .keyCtlGo .. => .next (State.sashWrite_keeps ..)
  | .eraseKeys => .next (State.sashWrite_keeps ..)
  | .policyLock .. => .next (State.sashWrite_keeps ..)
  | .attCtlGo .. => .next (State.sashWrite_keeps ..)
  | .attestReportDone .. => .next (State.attDone_keeps ..)
  | .recorderEnable .. => .next (State.sashWrite_keeps ..)
  | .errCtlEnable .. => .next (State.sashWrite_keeps ..)
  | .matmul .. => .ofEntry fun _ => .ite (.refl s) (State.dealMatmul_keeps ..)
  | .drain .. => .ofEntry fun _ => State.drain_keeps ..
  | .groupOpen .. => .next (State.groupWork_keeps (k := fun _ _ _ => .foldl (fun _ _ => State.openGroup_keeps ..) ..) ..)
  | .groupSpill .. => .next (State.groupWork_keeps (k := fun _ _ _ =>
      (Keeps.foldl (fun _ _ => State.spillGroup_keeps ..) ..).trans (State.raise_keeps ..)) ..)
  | .groupResume .. => .next (State.groupWork_keeps (k := fun _ _ _ => .foldl (fun _ _ => State.resumeGroup_keeps ..) ..) ..)
  | .groupClose .. => .next (State.groupWork_keeps (k := fun _ _ _ =>
      (Keeps.foldl (fun _ _ => State.closeGroup_keeps ..) ..).trans (State.raise_keeps ..)) ..)
  | .chain .. => .ofEntry fun _ => .ite (.refl s) (State.dealChain_keeps ..)
  | .softmax .. => .next (State.norm_keeps (k := fun _ _ _ _ _ => State.softmaxRow_keeps ..) ..)
  | .logsoftmax .. => .next (State.norm_keeps (k := fun _ _ _ _ _ => State.softmaxRow_keeps ..) ..)
  | .rmsnorm .. => .next (State.norm_keeps (k := fun _ _ _ _ _ => State.normaliseRow_keeps ..) ..)
  | .layernorm .. => .next (State.norm_keeps (k := fun _ _ _ _ _ => State.normaliseRow_keeps ..) ..)
  | .topkSoftmax .. => .next (State.norm_keeps (k := fun _ _ _ _ _ => State.topkRow_keeps ..) ..)
  | .merge .. => .next (State.norm_keeps (k := fun _ _ _ _ _ => State.mergeRow_keeps ..) ..)
  | .tableLoad .. => .ofEntry fun _ => State.tableLoad_keeps ..
  | .tableSwap .. => .ofEntry fun _ => State.tableSwap_keeps ..
  | .routeBuild .. => .ofEntry fun _ => State.routeBuild_keeps ..
  | .dispatch .. => .next (State.exchangeCommand_keeps ..)
  | .combine .. => .next (State.exchangeCommand_keeps ..)
  | .dispatchReverse .. => .next (State.exchangeCommand_keeps ..)
  | .combineReverse .. => .next (State.exchangeCommand_keeps ..)
  | .copy .. => .ofEntry fun _ => State.mover_keeps ..
  | .fill .. => .ofEntry fun _ => State.mover_keeps ..
  | .fenceRing .. => .ofEntry fun _ => .ite (State.finish_keeps ..) (.refl s)
  | .fenceEpoch .. => execFenceEpoch_keeps ..
  | .epochInstall => .next (State.epochInstall_keeps ..)
  | .launchAt .. => execLaunchAt_keeps ..
  | .launchAtExpire .. => .ofEntry fun _ => .ite (State.finish_keeps ..) (.refl s)
  | .sealClose .. => .ofEntry fun _ => State.sealClose_keeps ..
  | .wait .. => execWait_keeps ..
  | .lowPowerEnter => execLowPowerEnter_keeps ..
  | .hearthSetOffline .. => execHearthSetOffline_keeps ..
  | .hearthOfflineSettle => .next (.foldl (fun _ _ => .ite (State.settleOffline_keeps ..) (.refl _)) ..)
  | .hearthSetOnline .. => execHearthSetOnline_keeps ..
  | .maintStart .. => execMaintStart_keeps ..
  | .maintCancel .. => execMaintCancel_keeps ..
  | .pauseAuto .. => execPauseAuto_keeps ..
  | .resumeAuto .. => execResumeAuto_keeps ..
  | .nop .. => .ofEntry fun _ => State.finish_keeps ..
  | .descriptorFetch => .next (State.fetch_keeps ..)
  | .descriptorIssue => .next (State.issue_keeps ..)
  | .chunkStep .. => .ofHearth (State.chunk_keeps ..)
  | .tileSwap .. => .ofHearth (State.tileSwap_keeps ..)
  | .tileLoad .. => .ofHearth (State.tileLoad_keeps ..)
  | .autoSpill .. => execAutoSpill_keeps ..
  | .tileDrainCommit .. => .ofHearth (State.drainCommit_keeps ..)
  | .stagePanelFetch .. => .ofHearth (State.fetchPanel_keeps ..)
  | .kSplitCombine .. => .ofEntry fun _ => .ite (.refl s) (.ite (State.stopWork_keeps ..) (State.combine_keeps ..))
  | .chainPass .. => .ofHearth (State.chainPass_keeps ..)
  | .sfuGrant .. => .ofHearth (State.modHearth_keeps ..)
  | .shapeReload .. => .ofPresent (.ite (State.shapeReload_keeps ..) (.refl s))
  | .orderedAddRelease .. => .ofPresent (State.releaseAdds_keeps ..)
  | .xchPacketSend .. => execXchPacketSend_keeps ..
  | .xchCountReceive .. => .ofPresent (State.packetIn_keeps ..)
  | .poolGrant .. => execPoolGrant_keeps ..
  | .xchReadyReceive .. => .ofPresent (State.packetIn_keeps ..)
  | .xchRowReceive .. => .ofPresent (State.packetIn_keeps ..)
  | .xchDoneReceive .. => .ofPresent (State.packetIn_keeps ..)
  | .xchDwReceive .. => .ofPresent (State.packetIn_keeps ..)
  | .xchStaleReceive .. => .ofPresent (State.packetIn_keeps ..)
  | .xchAbortReceive .. => .ofPresent (State.packetIn_keeps ..)
  | .xchCreditReturn .. => execXchCreditReturn_keeps ..
  | .poolWarnChange .. => .next (State.warnIn_keeps ..)
  | .xchTimeout .. => execXchTimeout_keeps ..
  | .memoryReadResponse .. => execMemoryReadResponse_keeps ..
  | .memoryWriteAck .. => execMemoryWriteAck_keeps ..
  | .completionRecordWrite .. => execCompletionRecordWrite_keeps ..
  | .fatalEvent .. => .next (State.fatal_keeps ..)
  | .fatalHalt => .next (.ite ⟨rfl, rfl, fun _ h => h, id, id⟩ (.refl s))
  | .hearthIdleEntry .. => execHearthIdleEntry_keeps ..
  | .hearthWakeDone .. => execHearthWakeDone_keeps ..
  | .blockWake .. => execBlockWake_keeps ..
  | .pswAck .. => execPswAck_keeps ..
  | .wakeDone .. => execWakeDone_keeps ..
  | .mgmtWrite .. => execMgmtWrite_keeps ..
  | .mgmtRead .. => execMgmtRead_keeps ..
  | .entdaa .. => execEntdaa_keeps ..
  | .setdasa .. => execSetdasa_keeps ..
  | .rstdaa => execRstdaa_keeps ..
  | .getpid => .next (State.mgmtGet_keeps ..)
  | .getbcr => .next (State.mgmtGet_keeps ..)
  | .getdcr => .next (State.mgmtGet_keeps ..)
  | .getstatus => .next (State.mgmtGet_keeps ..)
  | .powerOn => execPowerOn_keeps ..
  | .powerOff => .next ((State.cutFuses_keeps ..).trans (State.unpowered_keeps ..))
  | .coldReset .. => execColdReset_keeps ..
  | .blockReset .. => execBlockReset_keeps ..
  | .wipeDone .. => execWipeDone_keeps ..
  | .entropyHealthFail => .next (.ite ⟨rfl, rfl, fun _ h => h, id, id⟩ (.refl s))
  | .alarmTrip .. => execAlarmTrip_keeps ..
  | .syncPulse .. => execSyncPulse_keeps ..
  | .syncPulseMissed => .next (.ite (.refl s) (State.loseLock_keeps ..))
  | .syncOutPulse => .next (.ite ⟨rfl, rfl, fun _ h => h, id, id⟩ (.refl s))
  | .countTick => execCountTick_keeps ..
  | .recorderGap => .next (.ite ((State.putGap_keeps ..).trans (State.takeWaiting_keeps ..)) (.refl s))
  | .replayStep => .next (State.replayStep_keeps ..)
  | .replayDiverge => .next (State.diverge_keeps ..)
  | .maintSchedule .. => execMaintSchedule_keeps ..
  | .tempHiChange .. => execTempHiChange_keeps ..
  | .maintGrant => execMaintGrant_keeps ..
  | .maintStep .. => execMaintStep_keeps ..
  | .maintActivityDone .. => execMaintActivityDone_keeps ..
  | .extest => .next ((State.loadTest_keeps ..).trans (State.loadCells_keeps ..))
  | .idcode => .next (State.loadTest_keeps ..)
  | .samplePreload => .next ((State.loadTest_keeps ..).trans (State.loadCells_keeps ..))
  | .clamp => .next (State.loadTest_keeps ..)
  | .ijtagAccess => .next ((State.loadTest_keeps ..).trans (State.loadWrappers_keeps ..))
  | .wrapperAccess => .next ((State.loadTest_keeps ..).trans (State.loadWrappers_keeps ..))
  | .bypass .. => .next ((State.driveTrst_keeps ..).trans (State.loadTest_keeps ..))
  | .alarmRecordAbandon => execAlarmRecordAbandon_keeps ..
  | .alarmConditionEnd .. => .next ⟨rfl, rfl, fun _ h => h, id, id⟩

theorem step_keeps {s t : State} (h : step s = .next t) : Keeps { s with pending := s.pending.tail } t := by
  unfold step at h
  split at h
  case h_1 hnone =>
    cases h
    exact ⟨rfl, hnone ▸ rfl, fun _ h => h, id, id⟩
  case h_2 c rest hsome => exact hsome ▸ (exec_keeps c _).keeps t h

/-! ### The obligations -/

/-- Settles O3. -/
theorem everyStepKeepsTheConfiguration : Obligations.EveryStepKeepsTheConfiguration := fun _ _ h =>
  ⟨(step_keeps h).cfg, (step_keeps h).pending⟩

/-- Settles O4: the configuration stays, the queue loses its first command, and the memories keep their form. -/
theorem everyStepKeepsSoundStates : Obligations.EveryStepKeepsSoundStates := by
  intro s t hs h
  obtain ⟨hcfg, hpending, -, hhost, hmantel⟩ := step_keeps h
  simp only [State.sound, State.wellQueued, Bool.and_eq_true, List.all_eq_true] at hs ⊢
  obtain ⟨⟨⟨hvalid, hqueue⟩, h1⟩, h2⟩ := hs
  rw [hcfg, hpending]
  exact ⟨⟨⟨hvalid, fun c hc => hqueue c (List.mem_of_mem_tail hc)⟩, hhost h1⟩, hmantel h2⟩

/-- Settles O5. -/
theorem blownFusesStayBlown : Obligations.BlownFusesStayBlown := fun _ _ b h => (step_keeps h).fuses b

end Sys2Proof.Machine
end

section
/-! SUPPORT. The step, which outcomes commands have, and the state after reset (R3, R6, log entries 1 and 130). -/

namespace Sys2Proof.Machine

/-- Settles O1. -/
theorem stepRunsTheFrontCommand : Obligations.StepRunsTheFrontCommand :=
  ⟨fun c rest s h => by rw [step, h], fun s h => by rw [step, h]⟩

/-! ### Next states and absent units -/

/-- The outcome is a next state where the command's units are present, and names an absent unit elsewhere. -/
def Answers (o : Result) (present : Bool) : Prop :=
  (present = true → ∃ t, o = .next t) ∧ (present = false → o = .fault .absentUnit)

theorem Answers.next (t : State) : Answers (.next t) true := ⟨fun _ => ⟨t, rfl⟩, nofun⟩

/-- A command of a unit checks first that the unit is present. -/
theorem Answers.ofUnit {o : Result} {present : Prop} [Decidable present] (h : Answers o true) :
    Answers (if present then o else .fault .absentUnit) (decide present) :=
  ⟨fun hp => (if_pos (of_decide_eq_true hp)).symm ▸ h.1 rfl, fun hp => if_neg (of_decide_eq_false hp)⟩

/-- The cases are the commands that only take effect, those that choose among effects, and the same two kinds for the commands of a unit. -/
theorem exec_answers (c : Instr) (s : State) : Answers (exec c s) (commandPresent s.cfg c) := by
  cases c with
  | registerWrite | sashAccessError | sashWakeAccess | doorbellWrite | ringEnable | ringDisable | ringResume | evtPop | irqUnmask
  | patchGo | xchBsetRelease | isoRelease | pstateTargetWrite | vreqCodeWrite | sealLcGo | keyCtlGo | eraseKeys | policyLock
  | attCtlGo | attestReportDone | recorderEnable | errCtlEnable | groupOpen | groupSpill | groupResume | groupClose | softmax
  | logsoftmax | rmsnorm | layernorm | topkSoftmax | merge | dispatch | combine | dispatchReverse | combineReverse | epochInstall
  | hearthOfflineSettle | descriptorFetch | descriptorIssue | poolWarnChange | fatalEvent | fatalHalt | mgmtWrite | mgmtRead | entdaa
  | setdasa | rstdaa | getpid | getbcr | getdcr | getstatus | powerOff | entropyHealthFail | syncPulseMissed | syncOutPulse
  | recorderGap | replayStep | replayDiverge | extest | idcode | samplePreload | clamp | ijtagAccess | wrapperAccess | bypass
  | alarmConditionEnd =>
    exact .next _
  | patchVerifyDone | lifecycleFusesDone | matmul | drain | chain | tableLoad | tableSwap | routeBuild | copy | fill | fenceRing
  | fenceEpoch | launchAt | launchAtExpire | sealClose | wait | lowPowerEnter | hearthSetOffline | hearthSetOnline | maintStart
  | maintCancel | pauseAuto | resumeAuto | nop | kSplitCombine | poolGrant | xchTimeout | completionRecordWrite | blockWake | wakeDone
  | powerOn | coldReset | blockReset | wipeDone | alarmTrip | syncPulse | countTick | maintGrant | maintStep | maintActivityDone
  | alarmRecordAbandon =>
    dsimp only [exec, commandPresent, execPatchVerifyDone, execLifecycleFusesDone, execMatmul, execDrain, execChain, execTableLoad, execTableSwap, execRouteBuild,
      execCopy, execFill, execFenceRing, execFenceEpoch, execLaunchAt, execLaunchAtExpire, execSealClose, execWait, execLowPowerEnter,
      execHearthSetOffline, execHearthSetOnline, execMaintStart, execMaintCancel, execPauseAuto, execResumeAuto, execNop,
      execKSplitCombine, execPoolGrant, execXchTimeout, execCompletionRecordWrite, execBlockWake, execWakeDone, execPowerOn,
      execColdReset, execBlockReset, execWipeDone, execAlarmTrip, execSyncPulse, execCountTick, execMaintGrant, execMaintStep,
      execMaintActivityDone, execAlarmRecordAbandon]
    repeat' split
    all_goals exact .next _
  | chunkStep | tileSwap | tileLoad | tileDrainCommit | stagePanelFetch | chainPass | sfuGrant | shapeReload | orderedAddRelease
  | xchCountReceive | xchReadyReceive | xchRowReceive | xchDoneReceive | xchDwReceive | xchStaleReceive | xchAbortReceive =>
    exact .ofUnit (.next _)
  | vokAssert | pstateFreqSwitch | vokTimeout | damperThrottle | autoSpill | xchPacketSend | xchCreditReturn | memoryReadResponse
  | memoryWriteAck | hearthIdleEntry | hearthWakeDone | pswAck | maintSchedule | tempHiChange =>
    simp only [exec, commandPresent, State.hasStove, State.hasHearth, State.portCount, decide_eq_true_eq, execVokAssert, execPstateFreqSwitch, execVokTimeout, execDamperThrottle, execAutoSpill, execXchPacketSend, execXchCreditReturn,
      execMemoryReadResponse, execMemoryWriteAck, execHearthIdleEntry, execHearthWakeDone, execPswAck, execMaintSchedule,
      execTempHiChange]
    refine .ofUnit ?_
    repeat' split
    all_goals exact .next _

/-- Settles O2. -/
theorem everyPresentCommandCompletes : Obligations.EveryPresentCommandCompletes := fun c s => exec_answers c s

/-! ### The state after reset -/

/-- Settles O6: the configuration after reset is one of Table 00-1, and the queue and the memories are empty. -/
theorem resetIsSound : Obligations.ResetIsSound := by
  have hvalid : State.reset.cfg.valid = true := by decide
  rw [Obligations.ResetIsSound, State.sound, hvalid]
  rfl

end Sys2Proof.Machine
end

section
/-! SUPPORT. Positions: what a change of one issued position does to its ring, and what else it leaves (R243, R255); and the commands that only
end a position or hold its ring: NOP, FENCE and LAUNCH_AT (R250, R251, R274). -/

namespace Sys2Proof.Machine

/-! ### Rings and positions -/

theorem State.ring_modRing (s : State) (n : Nat) (f : Ring → Ring) (m : Nat) :
    (s.modRing n f).ring m = if m = n then f (s.ring n) else s.ring m := s.ring_setRing n _ m

@[simp] theorem State.ring_modRing_self (s : State) (n : Nat) (f : Ring → Ring) : (s.modRing n f).ring n = f (s.ring n) :=
  s.ring_setRing_self n _

theorem State.ring_modRing_ne (s : State) {n m : Nat} (f : Ring → Ring) (h : m ≠ n) : (s.modRing n f).ring m = s.ring m :=
  (s.ring_modRing n f m).trans (if_neg h)

theorem State.ring_modEntry_ne (s : State) {n m : Nat} (pos : W32) (f : Entry → Entry) (h : m ≠ n) :
    (s.modEntry n pos f).ring m = s.ring m := s.ring_modRing_ne _ h

theorem State.ring_modEntry_self (s : State) (n : Nat) (pos : W32) (f : Entry → Entry) :
    (s.modEntry n pos f).ring n =
      { s.ring n with entries := (s.ring n).entries.map fun e => if e.pos = pos then f e else e } := s.ring_modRing_self n _

theorem State.entry_pos {s : State} {n : Nat} {pos : W32} {e : Entry} (h : s.entry n pos = some e) : e.pos = pos := by
  simpa using List.find?_some h

theorem State.mem_of_entry {s : State} {n : Nat} {pos : W32} {e : Entry} (h : s.entry n pos = some e) : e ∈ (s.ring n).entries :=
  List.mem_of_find?_eq_some h

/-- A change that keeps the position's number is read back where the position stands, and every other position as before. -/
theorem State.entry_modEntry (s : State) (n : Nat) (pos : W32) {f : Entry → Entry} (hf : ∀ e, e.pos = pos → (f e).pos = pos) (q : W32) :
    (s.modEntry n pos f).entry n q = (s.entry n q).map fun e => if e.pos = pos then f e else e := by
  have hkey : ((fun e : Entry => e.pos == q) ∘ fun e => if e.pos = pos then f e else e) = fun e => e.pos == q := by
    funext e
    by_cases h : e.pos = pos
    · rw [Function.comp_apply, if_pos h, hf e h, h]
    · rw [Function.comp_apply, if_neg h]
  rw [State.entry, s.ring_modEntry_self]
  exact (List.find?_map ..).trans (by rw [hkey]; rfl)

theorem State.entry_modEntry_self (s : State) (n : Nat) (pos : W32) {f : Entry → Entry} (hf : ∀ e, e.pos = pos → (f e).pos = pos) :
    (s.modEntry n pos f).entry n pos = (s.entry n pos).map f := by
  rw [s.entry_modEntry n pos hf]
  exact Option.map_congr fun e he => if_pos (State.entry_pos he)

theorem State.entry_modEntry_of_entry {s : State} {n : Nat} {pos : W32} {e : Entry} (he : s.entry n pos = some e) {f : Entry → Entry}
    (hf : ∀ e, e.pos = pos → (f e).pos = pos) : (s.modEntry n pos f).entry n pos = some (f e) := by
  rw [s.entry_modEntry_self n pos hf, he, Option.map_some]

theorem State.entry_modEntry_ne (s : State) (n : Nat) {pos q : W32} {f : Entry → Entry} (hf : ∀ e, e.pos = pos → (f e).pos = pos)
    (hq : q ≠ pos) : (s.modEntry n pos f).entry n q = s.entry n q := by
  rw [s.entry_modEntry n pos hf]
  exact (Option.map_congr fun e he => if_neg (State.entry_pos he ▸ hq)).trans Option.map_id'

theorem State.modEntry_onlyEntry (s : State) (n : Nat) (pos : W32) {f : Entry → Entry} (hf : ∀ e, e.pos = pos → (f e).pos = pos) :
    OnlyEntry s (s.modEntry n pos f) n pos :=
  ⟨rfl, fun _ hm => s.ring_modEntry_ne pos f hm, by rw [s.ring_modEntry_self], fun _ hq => s.entry_modEntry_ne n hf hq⟩

/-! ### A position that runs, and its end -/

theorem State.running_iff {s : State} {n : Nat} {pos : W32} {op : Nat} {e : Entry} : s.running n pos op = some e ↔
    s.entry n pos = some e ∧ e.stage = .running ∧ descOpcode e.desc = op ∧ s.err.stopped = false := by
  unfold State.running
  cases s.entry n pos with
  | none => simp
  | some f =>
    simp only [Option.ite_none_right_eq_some, Option.some.injEq]
    constructor
    · rintro ⟨h, rfl⟩
      exact ⟨rfl, h⟩
    · rintro ⟨rfl, h⟩
      exact ⟨h, rfl⟩

@[simp] theorem Entry.finished_pos (e : Entry) : e.finished.pos = e.pos := rfl

theorem Entry.finished_finished (e : Entry) : e.finished.finished = e.finished := by
  unfold Entry.finished
  split <;> simp_all

theorem State.entry_finish {s : State} {n : Nat} {pos : W32} {e : Entry} (he : s.entry n pos = some e) :
    (s.finish n pos).entry n pos = some e.finished := State.entry_modEntry_of_entry he fun _ h => h

/-- A command that only finishes a position ends its work (R258). -/
theorem endsWork_of_finish {c : Instr} {s : State} {n : Nat} {e : Entry} (he : s.entry n e.pos = some e)
    (hexec : exec c s = .next (s.finish n e.pos)) : EndsWork c n e s :=
  ⟨_, hexec, s.modEntry_onlyEntry n e.pos fun _ h => h, State.entry_finish he, rfl, rfl, rfl, rfl⟩

theorem State.behind_eq_false {s : State} {n : Nat} {e : Entry} :
    s.behind n e = false ↔ ∀ f ∈ (s.ring n).entries, e.order ≤ f.order := by
  simp [State.behind]

theorem State.behind_eq_true {s : State} {n : Nat} {e : Entry} :
    s.behind n e = true ↔ ∃ f ∈ (s.ring n).entries, f.order < e.order := by
  simp [State.behind]

/-- Settles O37. -/
theorem nopCompletesWithoutWork : Obligations.NopCompletesWithoutWork := by
  intro s n pos e hrun hok
  obtain ⟨hentry, -, -, -⟩ := State.running_iff.1 hrun
  obtain rfl := State.entry_pos hentry
  have hexec : exec (.nop n e.pos) s = .next (s.finish n.toNat e.pos) := by
    simp only [exec, execNop, hrun]
  exact ⟨endsWork_of_finish hentry hexec, _, _, hexec, State.entry_finish hentry, rfl, hok⟩

/-! ### What holds a ring -/

/-- A ring with a hold on its next descriptor issues nothing. -/
theorem State.issueRing_of_ringHeld {s : State} {n : Nat} (h : ∀ f rest, (s.ring n).fetched = f :: rest → s.ringHeld n f.desc = true) :
    s.issueRing n = none := by
  unfold State.issueRing
  dsimp only
  split
  · rfl
  · rename_i f rest hfetched
    rw [State.issueOf, if_pos (h f rest hfetched), ite_self]

theorem State.ringHeld_of_holdsLater {s : State} {n : Nat} {e : Entry} {desc : DescBits} (he : e ∈ (s.ring n).entries)
    (h : s.holdsLater desc e = true) : s.ringHeld n desc = true := by
  have hany : ((s.ring n).entries.any fun e => s.holdsLater desc e) = true := List.any_eq_true.2 ⟨e, he, h⟩
  simp [State.ringHeld, hany]

theorem epochFenceDesc_iff {d : DescBits} : epochFenceDesc d = true ↔ descOpcode d = 0x40 ∧ fld d.toNat 16 0 2 = 1 := by
  simp [epochFenceDesc]

theorem fenceRingHoldsItsRing : FenceRingHoldsItsRing := by
  intro s n pos e
  refine ⟨fun hrun hkind => ?_, fun he hop hkind hok => ?_⟩
  · obtain ⟨hentry, -, -, -⟩ := State.running_iff.1 hrun
    obtain rfl := State.entry_pos hentry
    refine ⟨fun hfirst => endsWork_of_finish hentry ?_, fun hwait => ?_⟩
    · simp [exec, execFenceRing, hrun, hkind, State.behind_eq_false.2 hfirst]
    · simp [exec, execFenceRing, hrun, hkind, State.behind_eq_true.2 hwait]
  · exact State.issueRing_of_ringHeld fun f _ _ => State.ringHeld_of_holdsLater he (by simp [State.holdsLater, hop, hkind, hok])

theorem fenceEpochHoldsExchanges : FenceEpochHoldsExchanges := by
  intro s
  refine ⟨fun pos e hrun hkind => ?start, ?issued, ?decoded, ?ended, fun n f rest hheld hfetched hop => ?holds⟩
  case start =>
    obtain ⟨hentry, -, -, -⟩ := State.running_iff.1 hrun
    exact ⟨s.modEntry 0 pos fun e => { e with started := true }, by simp [exec, execFenceEpoch, hrun, hkind],
      s.modEntry_onlyEntry 0 pos fun _ h => h, State.entry_modEntry_of_entry hentry fun _ h => h⟩
  case issued =>
    rintro ⟨e, he, hop, hkind, hstage, hstatus⟩
    have hany : ((s.ring 0).entries.any fun e =>
        epochFenceDesc e.desc && decide (e.stage ≠ .recorded) && decide (e.status ≠ BitVec.ofNat 8 stAborted)) = true :=
      List.any_eq_true.2 ⟨e, he, by simp [epochFenceDesc_iff, hop, hkind, hstage, stAborted, hstatus]⟩
    rw [State.epochHeld, hany, Bool.true_or]
  case decoded =>
    rintro ⟨f, rest, hfetched, hrun, hop, hkind⟩
    simp [State.epochHeld, hfetched, hrun, epochFenceDesc_iff.2 ⟨hop, hkind⟩]
  case ended =>
    intro hentries hfetched
    have hnone : ((s.ring 0).entries.any fun e =>
        epochFenceDesc e.desc && decide (e.stage ≠ .recorded) && decide (e.status ≠ BitVec.ofNat 8 stAborted)) = false := by
      refine List.any_eq_false.2 fun e he h => ?_
      simp only [Bool.and_eq_true, epochFenceDesc_iff, decide_eq_true_eq] at h
      obtain ⟨⟨⟨hop, hkind⟩, hstage⟩, -⟩ := h
      exact hstage (hentries e he hop hkind)
    rw [State.epochHeld, hnone, Bool.false_or]
    split
    · rename_i f rest heq
      have hop := hfetched f (heq ▸ List.mem_cons_self ..)
      simp [epochFenceDesc, hop]
    · rfl
  case holds =>
    refine State.issueRing_of_ringHeld fun g rest' hg => ?_
    obtain ⟨rfl, -⟩ := List.cons.inj (hfetched.symm.trans hg)
    have hexchange : isExchangeOp (descOpcode f.desc) = true := by
      simpa [isExchangeOp, or_assoc] using hop
    simp [State.ringHeld, hexchange, hheld]

/-! ### LAUNCH_AT -/

theorem launchValue_toNat (d : DescBits) : (launchValue d).toNat = fld d.toNat 24 0 64 := by
  rw [launchValue, BitVec.toNat_ofNat, fld, Nat.mod_mod]

theorem launchAtHoldsUntilItsCount : LaunchAtHoldsUntilItsCount := by
  intro s n pos e now
  have hnow : s.launchCount e.desc = now := rfl
  refine ⟨fun hrun => ?_, fun hrun hstarted hfind => ?_⟩
  · obtain ⟨hentry, hstage, hop, -⟩ := State.running_iff.1 hrun
    obtain rfl := State.entry_pos hentry
    refine ⟨fun hpassed => endsWork_of_finish hentry ?_, fun hahead => ?_, ?_⟩
    · simp only [exec, execLaunchAt, hrun, launchValue_toNat, hnow, if_pos hpassed]
    · exact ⟨s.modEntry n.toNat e.pos fun e => { e with started := true },
        by simp only [exec, execLaunchAt, hrun, launchValue_toNat, hnow, if_neg hahead.not_ge],
        s.modEntry_onlyEntry n.toNat e.pos fun _ h => h, State.entry_modEntry_of_entry hentry fun _ h => h⟩
    · exact State.issueRing_of_ringHeld fun f _ _ =>
        State.ringHeld_of_holdsLater (State.mem_of_entry hentry) (by simp [State.holdsLater, hop, hstage])
  · obtain ⟨hentry, -, -, hrunning⟩ := State.running_iff.1 hrun
    refine ⟨fun hpassed => endsWork_of_finish hentry ?_, fun hahead => ?_⟩
    · simp only [exec, execLaunchAtExpire, hfind, launchValue_toNat, hnow, if_pos (And.intro hpassed hrunning)]
    · simp only [exec, execLaunchAtExpire, hfind, launchValue_toNat, hnow, if_neg fun h : _ ∧ _ => hahead.not_ge h.1]

/-- Settles O38. -/
theorem fencesAndLaunchesWait : Obligations.FencesAndLaunchesWait :=
  ⟨fenceRingHoldsItsRing, fenceEpochHoldsExchanges, launchAtHoldsUntilItsCount⟩

end Sys2Proof.Machine
end

section
/-! SUPPORT. The issue of a ring's next descriptor: an opcode that Table 12-6 does not have, and a NOP (R248, R252, R259). -/

namespace Sys2Proof.Machine

/-! ### A mask of no hearths -/

theorem State.hearthsOf_zero (s : State) : s.hearthsOf 0#64 = [] := by
  simp [State.hearthsOf, bitsBelow]

theorem State.admitted_zero (s : State) : s.admitted 0#64 = 0#64 := by
  have hnone : ((List.range s.cfg.stoves).flatMap fun _ : Nat => ([] : List Nat)) = [] := List.flatMap_eq_nil_iff.2 fun _ _ => rfl
  simp [State.admitted, hnone, maskOf]

theorem State.settleOnline_of_noHearthSet {s : State} (h : ∀ e ∈ (s.ring 0).entries, descOpcode e.desc ≠ 0x52) : s.settleOnline = s := by
  unfold State.settleOnline
  refine List.foldlRecOn (motive := fun t => t = s) _ _ rfl fun t ht e he => ?_
  rw [if_neg fun hc => h e he hc.2.2.1, ht]

theorem State.meet_nil (s : State) (n : Nat) (pos : W32) : s.meet n pos [] = (s, false) := by
  simp [State.meet, State.detect, unitsAmong]

/-! ### An opcode that the ring refuses, and a NOP -/

theorem State.sealAtIssue_of_unsealed {s : State} {desc : DescBits} (h : descSeal desc = false) (n : Nat) (failed : Bool) :
    s.sealAtIssue n desc failed = (s, 0, false) := by
  simp [State.sealAtIssue, h]

theorem State.ringHeld_of_empty {s : State} {n : Nat} {desc : DescBits} (hnone : (s.ring n).entries = [])
    (hop : isExchangeOp (descOpcode desc) = false) : s.ringHeld n desc = false := by
  simp [State.ringHeld, hnone, hop]

theorem State.headerVerdict_of_unlisted {s : State} {n : Nat} {desc : DescBits} (h : opcodeInfo (descOpcode desc) = none) :
    s.headerVerdict n desc = some (stOpcode, 0) := by
  unfold State.headerVerdict
  simp only [h]

theorem isExchangeOp_of_unlisted {op : Nat} (h : opcodeInfo op = none) : isExchangeOp op = false := by
  refine Bool.eq_false_iff.2 fun hexchange => ?_
  simp only [isExchangeOp, Bool.or_eq_true, beq_iff_eq, or_assoc] at hexchange
  rcases hexchange with rfl | rfl | rfl <;> simp [opcodeInfo] at h

theorem State.issueOf_of_unlisted {s : State} {n : Nat} {f : Fetched} (hnone : (s.ring n).entries = []) (hseal : descSeal f.desc = false)
    (hop : opcodeInfo (descOpcode f.desc) = none) :
    s.issueOf n f = some (s.placeEntry n (Entry.refused f.pos f.desc stOpcode 0)) := by
  have hfree := State.ringHeld_of_empty hnone (isExchangeOp_of_unlisted hop)
  simp only [State.issueOf, hfree, State.headerVerdict_of_unlisted hop, State.issueRefused, State.sealAtIssue_of_unsealed hseal]
  rfl

/-- A NOP takes nothing with it: no hearth, no tile, group or slot, no record. -/
theorem State.plan_nop {s : State} {desc : DescBits} (hop : descOpcode desc = 0x60) (all hs : List Nat) : s.plan desc all hs = Plan.none := by
  rw [State.plan, hop]
  rfl

theorem State.checkWaits_none (s : State) (n : Nat) (desc : DescBits) : s.checkWaits n desc Plan.none = false := by
  simp [State.checkWaits, Plan.none, Uses.none, shares]

theorem State.tileWaits_none (s : State) (n : Nat) (desc : DescBits) : s.tileWaits n desc Uses.none = false := by
  simp [State.tileWaits, Uses.none, shares]

theorem State.bodyVerdict_nop {s : State} {desc : DescBits} (hop : descOpcode desc = 0x60) (hbody : bodyReserved desc.toNat [] = [])
    (n : Nat) (all hs : List Nat) (p : Plan) : s.bodyVerdict n desc all hs p = none := by
  simp [State.bodyVerdict, hop, descVerdict, hbody]

theorem State.lateVerdict_nop {s : State} {desc : DescBits} (hop : descOpcode desc = 0x60) (n : Nat) (all hs : List Nat) (p : Plan) :
    s.lateVerdict n desc all hs p = none := by
  simp [State.lateVerdict, State.flueLimit, hop]

theorem State.issueAccepted_none {s : State} {n : Nat} {f : Fetched} (hseal : descSeal f.desc = false)
    (hset : ∀ e ∈ ((s.placeEntry n (Entry.start f.pos f.desc)).ring 0).entries, descOpcode e.desc ≠ 0x52) :
    s.issueAccepted n f 0#64 0#64 Plan.none = s.placeEntry n (Entry.start f.pos f.desc) := by
  have hwake : (s.placeEntry n (Entry.start f.pos f.desc)).wakeMask 0#64 = s.placeEntry n (Entry.start f.pos f.desc) := by
    rw [State.wakeMask, State.hearthsOf_zero]
    exact State.settleOnline_of_noHearthSet hset
  have hmask : BitVec.ofNat 64 (maskOf Plan.none.hs) = 0#64 := rfl
  have hentry : ({ Entry.start f.pos f.desc with
      mask := 0#64, admitted := 0#64, records := Plan.none.records, uses := Plan.none.uses, holds := Plan.none.uses,
      work := Plan.none.hs, banks := 0#64, sealRefusal := BitVec.ofNat 16 0, sealed := false } : Entry) = Entry.start f.pos f.desc := rfl
  have hbank : (if Plan.none.bank = true then s.banksNow Plan.none.hs else 0#64) = 0#64 := rfl
  simp only [State.issueAccepted, State.sealAtIssue_of_unsealed hseal, hmask, hbank, hentry, hwake]
  simp only [Plan.none, List.foldl_nil, ite_self, State.meet_nil]
  rfl

/-- Placed in an empty ring, an entry stands there alone. -/
theorem State.ring_placeEntry (s : State) (n : Nat) (e : Entry) (m : Nat) : (s.placeEntry n e).ring m =
    if m = n then { s.ring n with
      fetched := (s.ring n).fetched.drop 1, issuePos := (s.ring n).issuePos + 1#32,
      entries := (s.ring n).entries ++ [{ e with order := s.blk.issued, issued := s.audit.count }] } else s.ring m :=
  State.ring_setRing ..

theorem State.issueOf_nop {s : State} {n : Nat} {f : Fetched} (hnone : (s.ring n).entries = []) (hseal : descSeal f.desc = false)
    (hop : descOpcode f.desc = 0x60) (hheader : s.headerVerdict n f.desc = none) (hbody : bodyReserved f.desc.toNat [] = [])
    (hset : ∀ e ∈ (s.ring 0).entries, descOpcode e.desc ≠ 0x52) :
    s.issueOf n f = some (s.placeEntry n (Entry.start f.pos f.desc)) := by
  have hfree := State.ringHeld_of_empty hnone (by rw [hop]; rfl)
  have hinfo : opcodeInfo (descOpcode f.desc) = some ([0, 1, 2, 3], false) := by rw [hop]; rfl
  have hset' : ∀ e ∈ ((s.placeEntry n (Entry.start f.pos f.desc)).ring 0).entries, descOpcode e.desc ≠ 0x52 := by
    intro e he
    rw [s.ring_placeEntry] at he
    split at he
    · simp only [hnone, List.nil_append, List.mem_singleton] at he
      subst he
      exact hop.trans_ne (by decide)
    · exact hset e he
  simp only [State.issueOf, hfree, hheader, hinfo, State.plan_nop hop, State.checkWaits_none, State.bodyVerdict_nop hop hbody,
    State.lateVerdict_nop hop, firstVerdict, Bool.false_and, Bool.false_eq_true, if_false, State.admitted_zero]
  rw [show Plan.none.uses = Uses.none from rfl, State.tileWaits_none, if_neg Bool.false_ne_true, State.issueAccepted_none hseal hset']

/-! ### The obligation -/

/-- The ring that the priority serves issues, and its level's pointer goes on to the ring after it. -/
theorem exec_descriptorIssue_of_serve {s u : State} {n : Nat} (hissuing : s.issuing = true)
    (hserve : s.serve s.blk.decodeNextFlue s.blk.decodeNext (fun m => (s.issueRing m).isSome) = some n) (hring : s.issueRing n = some u) :
    exec .descriptorIssue s = .next { u with blk := { u.blk with
      decodeNextFlue := if s.classOf n = 0#2 then (n + 1) % 128 else u.blk.decodeNextFlue,
      decodeNext := if s.classOf n = 0#2 ∨ n = 0 then u.blk.decodeNext else (n + 1) % 128 } } := by
  have hissue : exec .descriptorIssue s = .next s.issue := rfl
  simp only [hissue, State.issue, hissuing, hserve, hring, if_true]
  by_cases hflue : s.classOf n = 0#2
  · simp only [hflue, if_true, true_or]
  · by_cases hadmin : n = 0
    · simp only [hadmin, if_neg (hadmin ▸ hflue), if_true, or_true]
    · simp only [hflue, hadmin, if_false, or_self]

theorem State.issueRing_eq_issueOf {s : State} {n : Nat} {f : Fetched} {rest : List Fetched} (hrun : (s.ring n).state = .run)
    (hfetched : (s.ring n).fetched = f :: rest) (hpos : f.pos = (s.ring n).issuePos) : s.issueRing n = s.issueOf n f := by
  simp only [State.issueRing, hfetched, hrun, hpos, and_self, if_true]

theorem serve_of_none_ready (s : State) (flueNext next : Nat) {ready : Nat → Bool} (h : ∀ n, ready n = false) :
    s.serve flueNext next ready = none := by
  have hnone (l : List Nat) : l.find? (fun _ => false) = none := List.find?_eq_none.2 fun _ _ => Bool.false_ne_true
  simp [State.serve, h, hnone]

/-- Settles O42: what the ring issues is the entry placed at its position, for an unlisted opcode a refused one. -/
theorem issueTakesOnePosition : Obligations.IssueTakesOnePosition := by
  intro s
  refine ⟨?idle, fun n f rest hissuing hserve hrun hfetched hpos hnone hseal => ?issues⟩
  case idle =>
    have hissue : exec .descriptorIssue s = .next s.issue := rfl
    rintro (hissuing | hwait)
    · simp [hissue, State.issue, hissuing]
    · simp [hissue, State.issue, serve_of_none_ready s _ _ fun n => Option.isSome_eq_false_iff.2 (Option.isNone_iff_eq_none.2 (hwait n))]
  case issues =>
    intro issued
    have hplaced (e : Entry) (hissue : s.issueOf n f = some (s.placeEntry n e)) : issued e := by
      refine ⟨_, exec_descriptorIssue_of_serve hissuing hserve ((State.issueRing_eq_issueOf hrun hfetched hpos).trans hissue),
        ?_, rfl, fun m hm => (s.ring_placeEntry n e m).trans (if_neg hm), rfl⟩
      refine (s.ring_placeEntry n e n).trans ((if_pos rfl).trans ?_)
      rw [hfetched, hnone]
      rfl
    exact ⟨fun hop => hplaced _ (State.issueOf_of_unlisted hnone hseal hop),
      fun hop hheader hbody hset => hplaced _ (State.issueOf_nop hnone hseal hop hheader hbody hset)⟩

end Sys2Proof.Machine
end

section
/-! SUPPORT. Requests: what sending one leaves unchanged, and the request that a free port takes at once (R293 to R295). -/

namespace Sys2Proof.Machine

/-! ### A table written twice at a key -/

theorem Tab.drop_insert {α : Type} (k : Nat) (v : α) {t : Tab α} (h : ∀ p ∈ t, p.1 ≠ k) : Tab.drop (Tab.insert k v t) k = t := by
  induction t with
  | nil => simp [Tab.insert, Tab.drop]
  | cons q rest ih =>
    have hq : (q.1 != k) = true := bne_iff_ne.2 (h q (List.mem_cons_self ..))
    have hrest : rest.filter (fun p => p.1 != k) = rest :=
      List.filter_eq_self.2 fun p hp => bne_iff_ne.2 (h p (List.mem_cons_of_mem _ hp))
    have ih := ih fun p hp => h p (List.mem_cons_of_mem _ hp)
    rw [Tab.drop] at ih
    unfold Tab.insert
    split
    · simp [Tab.drop, hq, hrest]
    · simp [Tab.drop, hq, ih]

theorem Tab.drop_put {α : Type} [DecidableEq α] (d : α) (t : Tab α) (k : Nat) (v : α) :
    Tab.drop (Tab.put d t k v) k = Tab.drop t k := by
  unfold Tab.put
  split
  · simp [Tab.drop]
  · exact Tab.drop_insert k v fun p hp => bne_iff_ne.1 (List.mem_filter.1 hp).2

theorem Tab.put_put {α : Type} [DecidableEq α] (d : α) (t : Tab α) (k : Nat) (v w : α) :
    Tab.put d (Tab.put d t k v) k w = Tab.put d t k w := by
  rw [Tab.put, Tab.drop_put, Tab.put]

theorem State.setPort_setPort (s : State) (p : Nat) (x y : Port) : (s.setPort p x).setPort p y = s.setPort p y := by
  rw [State.setPort, State.setPort, State.setPort, Tab.put_put]

theorem State.setRing_setRing (s : State) (n : Nat) (q r : Ring) : (s.setRing n q).setRing n r = s.setRing n r := by
  rw [State.setRing, State.setRing, State.setRing, Tab.put_put]

theorem State.setHearth_setHearth (s : State) (h : Nat) (x y : Hearth) : (s.setHearth h x).setHearth h y = s.setHearth h y := by
  rw [State.setHearth, State.setHearth, State.setHearth, Tab.put_put]

/-! ### What a request leaves unchanged -/

/-- From `s` to `t` the block has only sent requests: host memory and the ports may differ. -/
def Sends (s t : State) : Prop := t = { s with host := t.host, hostPoison := t.hostPoison, ports := t.ports }

namespace Sends

variable {s t u : State}

theorem refl (s : State) : Sends s s := rfl

theorem trans (h : Sends s t) (k : Sends t u) : Sends s u := Eq.trans k (by rw [h])

theorem foldl {β : Type} {f : State → β → State} {l : List β} (h : ∀ s, ∀ b ∈ l, Sends s (f s b)) (s : State) : Sends s (l.foldl f s) :=
  List.foldlRecOn l f (refl s) fun t ht b hb => ht.trans (h t b hb)

theorem rings (h : Sends s t) : t.rings = s.rings := by rw [h]
theorem ring (h : Sends s t) (n : Nat) : t.ring n = s.ring n := by rw [State.ring, h.rings, State.ring]
theorem entry (h : Sends s t) (n : Nat) (pos : W32) : t.entry n pos = s.entry n pos := by rw [State.entry, h.ring, State.entry]
theorem classOf (h : Sends s t) (n : Nat) : t.classOf n = s.classOf n := by rw [State.classOf, h.ring, State.classOf]
theorem blk (h : Sends s t) : t.blk = s.blk := by rw [h]
theorem mantel (h : Sends s t) : t.mantel = s.mantel := by rw [h]
theorem hearths (h : Sends s t) : t.hearths = s.hearths := by rw [h]
theorem err (h : Sends s t) : t.err = s.err := by rw [h]
theorem pwr (h : Sends s t) : t.pwr = s.pwr := by rw [h]
theorem vault (h : Sends s t) : t.vault = s.vault := by rw [h]

end Sends

theorem State.setPort_sends (s : State) (p : Nat) (x : Port) : Sends s (s.setPort p x) := rfl

theorem State.storeHost_sends (s : State) (a : Nat) (bytes : List W8) (poisoned : Bool) : Sends s (s.storeHost a bytes poisoned) := rfl

theorem State.performRequest_sends (s : State) (r : Request) : Sends s (s.performRequest r) := by
  unfold State.performRequest
  split
  · exact s.storeHost_sends ..
  · split
    · exact Sends.foldl (fun s w _ => s.storeHost_sends ..) s
    · exact Sends.refl s

theorem State.dispatchRequest_sends (s : State) (p : Nat) (r : Request) (shared : Bool) : Sends s (s.dispatchRequest p r shared) :=
  (s.setPort_sends p _).trans (State.performRequest_sends _ r)

theorem State.pumpList_sends (p : Nat) (rs : List Request) (s : State) : Sends s (State.pumpList p rs s) := by
  induction rs generalizing s with
  | nil => exact Sends.refl s
  | cons r rest ih =>
    rw [State.pumpList]
    split
    · exact ((s.setPort_sends p _).trans (State.dispatchRequest_sends ..)).trans (ih _)
    · exact ih s

theorem State.pump_sends (s : State) (p : Nat) : Sends s (s.pump p) := by
  unfold State.pump
  split
  · exact State.pumpList_sends ..
  · exact Sends.refl s

theorem State.request_sends (s : State) (p : Nat) (r : Request) : Sends s (s.request p r) :=
  (s.setPort_sends p _).trans (State.pump_sends _ p)

/-! ### A free port -/

theorem State.portAwake_iff {s : State} {p : Nat} : s.portAwake p = true ↔ s.portUp p = true ∧ s.vault.halted = false := by
  simp [State.portAwake]

/-- The credit that a request finds at a port which fewer than a third of its credits, and one, occupy: there is one left for every class. -/
theorem Port.credit_isSome {x : Port} {write : Bool} {k : Nat} (hfew : x.inflight.length ≤ k) (hk : k ≤ 1)
    (hcredits : k + 3 ≤ (if write then x.wrCredits.toNat else x.rdCredits.toNat)) (cls : BitVec 2) : ∃ b, x.credit write cls = some b := by
  have hshared : ((x.inflight.filter fun r => r.write == write).filter fun r => r.shared).length ≤ k :=
    ((List.length_filter_le ..).trans (List.length_filter_le ..)).trans hfew
  unfold Port.credit
  extract_lets credits mine shared reserved
  split
  · exact ⟨_, rfl⟩
  · have hroom : shared < credits - flueReserve credits := by
      have : shared ≤ k := hshared
      have : k + 3 ≤ credits := hcredits
      rw [flueReserve]
      omega
    exact ⟨_, if_pos hroom⟩

/-- A request reaches a port that is awake, with no other waiting and a credit left: it leaves at once. -/
theorem State.request_of_free {s : State} {p : Nat} {r : Request} (hup : s.portUp p = true)
    (hhalted : s.vault.halted = false ∨ r.attests = true) (hwaiting : (s.port p).waiting = []) {shared : Bool}
    (hcredit : (s.port p).credit r.write r.cls = some shared) :
    s.request p r = (s.setPort p { s.port p with
      inflight := (s.port p).inflight ++ [{ r with tag := (s.port p).freeTag r.write, shared := shared }]
      nextTag := (s.port p).freeTag r.write + 1#12 }).performRequest r := by
  have hkept : (!s.vault.halted || r.attests) = true := by rcases hhalted with h | h <;> simp [h]
  have hwaits : ({ s.port p with waiting := (s.port p).waiting ++ [r] } : Port) = { s.port p with waiting := [r] } := by
    rw [hwaiting, List.nil_append]
  have hempty : ({ s.port p with waiting := [] } : Port) = s.port p := by rw [← hwaiting]
  let t := s.setPort p { s.port p with waiting := [r] }
  have hport : t.port p = { s.port p with waiting := [r] } := State.port_setPort_self ..
  have horder : (([r].filter fun q => q.cls == 0#2) ++ [r].filter fun q => q.cls != 0#2) = [r] := by
    by_cases hcls : r.cls = 0#2 <;> simp [hcls]
  have hlist : ((t.port p).waiting.filter fun q => !t.vault.halted || q.attests) = [r] := by
    rw [hport]
    exact List.filter_cons_of_pos (l := []) hkept
  have hsends : s.request p r = State.pumpList p [r] t := by
    rw [State.request, hwaits, State.pump, if_pos (show t.portUp p = true from hup), hlist]
    exact congrArg (State.pumpList p · t) horder
  have hcredit' : (t.port p).credit r.write r.cls = some shared := by rw [hport]; exact hcredit
  have hleaves : ({ t.port p with waiting := (t.port p).waiting.erase r } : Port) = s.port p := by
    rw [hport, ← hempty]
    simp
  rw [hsends, State.pumpList]
  simp only [hcredit', State.pumpList, hleaves]
  rw [State.dispatchRequest, State.port_setPort_self, State.setPort_setPort, State.setPort_setPort]

/-- A read changes no memory when it leaves. -/
theorem State.performRequest_read {s : State} {r : Request} (hread : r.write = false) (hpurpose : ∀ o i w, r.purpose ≠ .atomic o i w) :
    s.performRequest r = s := by
  unfold State.performRequest
  split
  · exact absurd ‹r.purpose = _› (hpurpose _ _ _)
  · rw [if_neg (by simp [hread])]

end Sys2Proof.Machine
end

section
/-! SUPPORT. DESCRIPTOR_FETCH: the ring that the priority serves and the reads of its burst (R252). -/

namespace Sys2Proof.Machine

/-! ### The priority -/

theorem mem_roundFrom {k n : Nat} (h : n < 128) : n ∈ roundFrom k := by
  refine List.mem_map.2 ⟨(n + 128 - k % 128) % 128, List.mem_range.2 (Nat.mod_lt _ (by decide)), ?_⟩
  omega

/-- A ready Flue ring is served before every other. -/
theorem State.serve_flue {s : State} {flueNext next n : Nat} {ready : Nat → Bool} (h : s.serve flueNext next ready = some n)
    {m : Nat} (hm : m < 128) (hflue : s.classOf m = 0#2) (hready : ready m = true) : s.classOf n = 0#2 := by
  unfold State.serve at h
  split at h
  · rename_i k hfind
    obtain rfl := Option.some.inj h
    have := List.find?_some hfind
    simp only [Bool.and_eq_true, decide_eq_true_eq] at this
    exact this.1
  · rename_i hnone
    have := List.find?_eq_none.1 hnone m (mem_roundFrom hm)
    simp [hflue, hready] at this

/-- A ready ring 0 is served before every ring but a Flue one. -/
theorem State.serve_admin {s : State} {flueNext next n : Nat} {ready : Nat → Bool} (h : s.serve flueNext next ready = some n)
    (hflue : s.classOf n ≠ 0#2) (hready : ready 0 = true) : n = 0 := by
  unfold State.serve at h
  split at h
  · rename_i k hfind
    obtain rfl := Option.some.inj h
    have := List.find?_some hfind
    simp [hflue] at this
  · rw [if_pos hready] at h
    exact (Option.some.inj h).symm

/-! ### The burst -/

theorem Ring.burst_le (r : Ring) : r.burst ≤ 8 ∧ r.burst ≤ (r.tail - r.fetchPos).toNat ∧
    r.fetchPos.toNat % 2 ^ r.log2Size.toNat + r.burst ≤ 2 ^ r.log2Size.toNat := by
  have hslot := Nat.mod_lt r.fetchPos.toNat (Nat.two_pow_pos r.log2Size.toNat)
  unfold Ring.burst
  dsimp only
  omega

theorem unitsOf_bounds {unit a n u : Nat} (h : u ∈ unitsOf unit a n) : a / unit ≤ u ∧ u ≤ (a + n - 1) / unit ∧ n ≠ 0 := by
  unfold unitsOf at h
  split at h
  · simp at h
  · obtain ⟨i, hi, rfl⟩ := List.mem_map.1 h
    have := List.mem_range.1 hi
    have : a / unit ≤ (a + n - 1) / unit := Nat.div_le_div_right (by omega)
    omega

/-- A piece of a range begins in it. -/
theorem granules_bounds {a n : Nat} {g : Nat × Nat} (h : g ∈ granules a n) : a ≤ g.1 ∧ g.1 < a + n := by
  obtain ⟨u, hu, rfl⟩ := List.mem_map.1 h
  obtain ⟨hlo, hhi, hn⟩ := unitsOf_bounds hu
  dsimp only
  omega

/-- A range within one granule is its own only piece. -/
theorem granules_single {a n : Nat} (hn : n ≠ 0) (hfits : a % 256 + n ≤ 256) : granules a n = [(a, n)] := by
  have hone : (a + n - 1) / 256 - a / 256 + 1 = 1 := by omega
  have hlo : max a (256 * (a / 256)) = a := by omega
  have hlen : min (a + n) (256 * (a / 256) + 256) - a = n := by omega
  simp [granules, unitsOf, hn, hone, hlo, hlen]

/-- The address of a ring's next slot to be fetched. -/
def Ring.burstAt (r : Ring) : Nat := r.sqBase.toNat + 128 * (r.fetchPos.toNat % 2 ^ r.log2Size.toNat)

/-- The slots of a ring lie below 2^52. -/
def Ring.Reachable (r : Ring) : Prop := r.sqBase.toNat + 128 * 2 ^ r.log2Size.toNat ≤ 2 ^ 52

/-- The ring with its next burst on its way. -/
def State.burstStart (s : State) (n : Nat) : State :=
  s.setRing n { s.ring n with fetchPos := (s.ring n).fetchPos + BitVec.ofNat 32 (s.ring n).burst }

/-- The read of one piece of a ring's burst. -/
def State.burstRead (s : State) (n : Nat) (r : Ring) (g : Nat × Nat) : Request :=
  Request.mk' false g.1 g.2 [] (s.classOf n) n (r.fetchPos + BitVec.ofNat 32 ((g.1 - r.burstAt) / 128))
    (.descriptors (g.2 / 128) (r.fetchPos + BitVec.ofNat 32 r.burst))

/-- No read of a burst is refused at its port where the slots are reachable (R294). -/
theorem State.fetchBurst_eq {s : State} {n : Nat} (hreach : (s.ring n).Reachable) : s.fetchBurst n =
    (granules (s.ring n).burstAt (128 * (s.ring n).burst)).foldl
      (fun t g => t.request (stokerReadPort g.1) (t.burstRead n (s.ring n) g)) (s.burstStart n) := by
  refine List.foldl_ext _ _ _ fun t g hg => if_neg ?_
  obtain ⟨-, -, hslots⟩ := (s.ring n).burst_le
  have hhi : g.1 < (s.ring n).burstAt + 128 * (s.ring n).burst := (granules_bounds hg).2
  unfold Ring.Reachable at hreach
  unfold Ring.burstAt at hhi
  omega

/-- With the burst, only its ring's fetch position changes, beside what sent requests do. -/
theorem State.fetchBurst_sends {s : State} {n : Nat} (hreach : (s.ring n).Reachable) : Sends (s.burstStart n) (s.fetchBurst n) := by
  rw [State.fetchBurst_eq hreach]
  exact Sends.foldl (fun t g _ => t.request_sends ..) _

/-- The read of a single slot leaves at once through a free port, and changes no memory. -/
theorem State.fetchBurst_single {s : State} {n p : Nat} (hreach : (s.ring n).Reachable) (hburst : (s.ring n).burst = 1)
    (haligned : (s.ring n).burstAt % 128 = 0) (hp : stokerReadPort (s.ring n).burstAt = p) (hawake : s.portAwake p = true)
    (hwaiting : (s.port p).waiting = []) (hinflight : (s.port p).inflight = []) (hcredits : 3 ≤ (s.port p).rdCredits.toNat) :
    (s.fetchBurst n).host = s.host ∧ ∃ q, ((s.fetchBurst n).port p).inflight = [q] ∧ q.write = false ∧
      q.addr = (s.ring n).burstAt ∧ q.size = 128 ∧ q.ring = n ∧ q.pos = (s.ring n).fetchPos := by
  obtain ⟨hup, hhalted⟩ := State.portAwake_iff.1 hawake
  let q := (s.burstStart n).burstRead n (s.ring n) ((s.ring n).burstAt, 128)
  have hone : s.fetchBurst n = (s.burstStart n).request p q := by
    rw [State.fetchBurst_eq hreach, hburst, granules_single (by decide) (by omega), List.foldl_cons, List.foldl_nil, hp]
  obtain ⟨shared, hcredit⟩ := Port.credit_isSome (x := s.port p) (write := false) (by rw [hinflight, List.length_nil])
    (by decide) (by simpa using hcredits) q.cls
  rw [State.request_of_free (s := s.burstStart n) hup (.inl hhalted) hwaiting hcredit, State.performRequest_read rfl (by intros; nofun)] at hone
  refine ⟨by rw [hone]; rfl, _, by rw [hone, State.port_setPort_self]; exact congrArg (· ++ _) hinflight, rfl, rfl, rfl, rfl, ?_⟩
  change (s.ring n).fetchPos + BitVec.ofNat 32 (((s.ring n).burstAt - (s.ring n).burstAt) / 128) = _
  simp

/-! ### The obligation -/

theorem exec_descriptorFetch_of_serve {s : State} {n : Nat} (hissuing : s.issuing = true)
    (hserve : s.serve s.blk.fetchNextFlue s.blk.fetchNext (fun m => (s.ring m).fetchable) = some n)
    (hclass : (s.fetchBurst n).classOf n = s.classOf n) :
    exec .descriptorFetch s = .next { s.fetchBurst n with blk := { (s.fetchBurst n).blk with
      fetchNextFlue := if s.classOf n = 0#2 then (n + 1) % 128 else (s.fetchBurst n).blk.fetchNextFlue,
      fetchNext := if s.classOf n = 0#2 ∨ n = 0 then (s.fetchBurst n).blk.fetchNext else (n + 1) % 128 } } := by
  have hfetch : exec .descriptorFetch s = .next s.fetch := rfl
  simp only [hfetch, State.fetch, hissuing, hserve, hclass, if_true]
  by_cases hflue : s.classOf n = 0#2
  · simp only [hflue, if_true, true_or]
  · by_cases hadmin : n = 0
    · simp only [hadmin, if_neg (hadmin ▸ hflue), if_true, or_true]
    · simp only [hflue, hadmin, if_false, or_self]

/-- Settles O41: the burst of the served ring only moves its fetch position on and sends reads. -/
theorem fetchesReadTheNextDescriptors : Obligations.FetchesReadTheNextDescriptors := by
  intro s
  refine ⟨?idle, fun n hissuing hserve hreach => ?fetches⟩
  case idle =>
    have hfetch : exec .descriptorFetch s = .next s.fetch := rfl
    rintro (hissuing | hnone)
    · simp [hfetch, State.fetch, hissuing]
    · simp [hfetch, State.fetch, serve_of_none_ready s _ _ hnone]
  case fetches =>
    intro r
    have hsends := State.fetchBurst_sends hreach
    have hring : (s.fetchBurst n).ring n = { r with fetchPos := r.fetchPos + BitVec.ofNat 32 r.burst } :=
      (hsends.ring n).trans (State.ring_setRing_self ..)
    have hother (m : Nat) (hm : m ≠ n) : (s.fetchBurst n).ring m = s.ring m :=
      (hsends.ring m).trans ((s.ring_setRing ..).trans (if_neg hm))
    have hclass : (s.fetchBurst n).classOf n = s.classOf n := by rw [State.classOf, hring, State.classOf]
    obtain ⟨hlength, htail, hslots⟩ := r.burst_le
    have hfetch := exec_descriptorFetch_of_serve hissuing hserve hclass
    have hsingle (hburst : r.burst = 1) (haligned : r.burstAt % 128 = 0) := State.fetchBurst_single hreach hburst haligned rfl
    generalize s.fetchBurst n = t at *
    refine ⟨?_, fun hflue => State.serve_admin hserve hflue, hlength, htail, hslots, _, hfetch, hring, hother, ?_, ?_, hsingle⟩
    · rintro ⟨m, hm, hflue, hready⟩
      exact State.serve_flue hserve hm hflue hready
    · rw [hsends]
      rfl
    · rw [hsends.blk]
      rfl

end Sys2Proof.Machine
end

section
/-! SUPPORT. Writes of RING_CFG and RING_STATUS in Run: the enable of a ring, its disable and RESUME (R242, R243). -/

namespace Sys2Proof.Machine

/-! ### Words that differ in bit 0 -/

/-- A field above bit 0 is a field of the word's upper part. -/
theorem fld_succ (v lo w : Nat) : fld v 0 (lo + 1) w = fld (v / 2) 0 lo w := by
  rw [fld, fld, Nat.mul_zero, Nat.zero_add, Nat.zero_add, Nat.add_comm, Nat.shiftRight_add, Nat.shiftRight_one]

theorem flag_succ (v b : Nat) : flag v 0 (b + 1) = flag (v / 2) 0 b := by
  rw [flag, flag, Nat.mul_zero, Nat.zero_add, Nat.zero_add, Nat.testBit_succ]

/-- Setting bit 0 leaves the bits above it. -/
theorem div_two_or_one (v : W64) : (v ||| 1#64).toNat / 2 = v.toNat / 2 := by
  rw [BitVec.toNat_or, ← Nat.shiftRight_one, ← Nat.shiftRight_one, Nat.shiftRight_or_distrib]
  exact Nat.or_zero _

/-- Clearing bit 0 leaves the bits above it. -/
theorem div_two_and_not_one (v : W64) : (v &&& ~~~1#64).toNat / 2 = v.toNat / 2 := by
  have hmask : (~~~1#64).toNat >>> 1 = 2 ^ 63 - 1 := by decide
  have hv := v.isLt
  rw [BitVec.toNat_and, ← Nat.shiftRight_one, ← Nat.shiftRight_one, Nat.shiftRight_and_distrib, hmask, Nat.and_two_pow_sub_one_eq_mod,
    Nat.shiftRight_one]
  omega

theorem flag_disable (v : W64) : flag (v &&& ~~~1#64).toNat 0 0 = false := by
  simp [flag]

/-- RING_CFG's fields other than ENABLE do not depend on ENABLE. -/
theorem Ring.setCfg_congr {r : Ring} {n v w : Nat} (h : v / 2 = w / 2) : r.setCfg n v = r.setCfg n w := by
  simp only [Ring.setCfg, fld_succ v 0, fld_succ v 2, fld_succ v 8, flag_succ v 7, flag_succ v 12, h, fld_succ w 0, fld_succ w 2,
    fld_succ w 8, flag_succ w 7, flag_succ w 12]

/-! ### From the port to the ring -/

theorem State.writeReg_ringOffset (s : State) {n o : Nat} (hn : n < 128) (ho : o < 0x40) (d : Nat) :
    s.writeReg (ringOffset n o) d = s.writeRing n o d := by
  have hring : (0x8000 + 0x40 * n + o - 0x8000) / 0x40 = n := by omega
  have hoff : (0x8000 + 0x40 * n + o) % 0x40 = o := by omega
  rw [State.writeReg, ringOffset, if_neg (by omega), if_neg (by omega), if_neg (by omega), if_neg (by omega), if_pos (by omega), hring, hoff]

theorem State.sashWrite_ring_of_sashOpen {s : State} (h : s.sashOpen) (n : BitVec 7) {o d : Nat} (ho : o < 0x40) (haligned : o % 8 = 0)
    (hd : d < 2 ^ 64) : s.sashWrite (ringOffset n.toNat o) d = (s.writeRing n.toNat o d).answered := by
  have hn : n.toNat < 128 := n.isLt
  rw [State.sashWrite_of_sashOpen h (by rw [ringOffset]; omega) (by rw [ringOffset]; omega) hd, State.writeReg_ringOffset s hn ho]

theorem exec_ringEnable_of_sashOpen {s : State} (h : s.sashOpen) (n : BitVec 7) (cfg : W64) :
    exec (.ringEnable n cfg) s = .next (s.writeRingCfg n.toNat (cfg ||| 1#64).toNat).answered :=
  congrArg Host.Outcome.next (State.sashWrite_ring_of_sashOpen h n (by decide) (by decide) (cfg ||| 1#64).isLt)

theorem exec_ringDisable_of_sashOpen {s : State} (h : s.sashOpen) (n : BitVec 7) (cfg : W64) :
    exec (.ringDisable n cfg) s = .next (s.writeRingCfg n.toNat (cfg &&& ~~~1#64).toNat).answered :=
  congrArg Host.Outcome.next (State.sashWrite_ring_of_sashOpen h n (by decide) (by decide) (cfg &&& ~~~1#64).isLt)

theorem exec_ringResume_of_sashOpen {s : State} (h : s.sashOpen) (n : BitVec 7) :
    exec (.ringResume n) s = .next ((s.setRing n.toNat (s.ring n.toNat)).ringResume n.toNat).answered := by
  have hfault : ({ s.ring n.toNat with fault := (s.ring n.toNat).fault && !flag 0x100 0 3 } : Ring) = s.ring n.toNat := by
    rw [show flag 0x100 0 3 = false by decide, Bool.not_false, Bool.and_true]
  calc exec (.ringResume n) s = .next (s.sashWrite (ringOffset n.toNat 0x28) 0x100) := rfl
    _ = .next (s.writeRing n.toNat 0x28 0x100).answered := by
      rw [State.sashWrite_ring_of_sashOpen h n (by decide) (by decide) (by decide)]
    _ = .next ((s.setRing n.toNat { s.ring n.toNat with fault := (s.ring n.toNat).fault && !flag 0x100 0 3 }).ringResume
        n.toNat).answered := rfl
    _ = _ := by rw [hfault]

/-! ### Enable -/

/-- The cause that R242 gives an enable is the one that the model refuses it with. -/
theorem State.enableRefusal_eq (s : State) (n : Nat) (r : Ring) :
    s.enableRefusal n r = if enableCause s n r = 0#4 then none else some (enableCause s n r).toNat := by
  unfold State.enableRefusal enableCause
  simp only [and_comm (a := r.cls = 3#2)]
  grind

theorem State.writeRingCfg_enable_off {s : State} {n : Nat} (hoff : (s.ring n).state = .off) (cfg : W64) :
    s.writeRingCfg n (cfg ||| 1#64).toNat = (s.setRing n ((s.ring n).setCfg n cfg.toNat)).ringEnable n := by
  rw [State.writeRingCfg, if_pos hoff, if_pos (flag_enable cfg), Ring.setCfg_congr (div_two_or_one cfg)]

@[simp] theorem State.answered_ring (s : State) (n : Nat) : s.answered.ring n = s.ring n := rfl

/-- A ring as an accepted enable starts it. -/
def Ring.started (r : Ring) : Ring :=
  { r with
    enable := true, state := .run, head := 0#32, tail := 0#32, fetchPos := 0#32, issuePos := 0#32, fetched := [], entries := [],
    done := [], lostRecords := [], accepts := [], session := none, sessionLost := false }

/-- Forgetting a ring's reads changes the ports and, of the rings, only the failed read of that one. -/
theorem State.forgetReads_frame (s : State) (n : Nat) :
    s.forgetReads n = { s with rings := (s.forgetReads n).rings, ports := (s.forgetReads n).ports } ∧
      ∀ m, m ≠ n → (s.forgetReads n).ring m = s.ring m :=
  ⟨rfl, fun _ hm => State.ring_modRing_ne _ _ hm⟩

theorem enableStartsOrRefusesARing : EnableStartsOrRefusesARing := by
  intro s n cfg hopen r
  rw [exec_ringEnable_of_sashOpen hopen]
  refine ⟨fun hon => ?_, fun hoff => ?_⟩
  · rw [State.writeRingCfg, if_neg hon, if_pos (flag_enable cfg)]
  · have hself : (s.setRing n.toNat r).ring n.toNat = r := s.ring_setRing_self ..
    have hother (m : Nat) (hm : m ≠ n.toNat) : (s.setRing n.toNat r).ring m = s.ring m := (s.ring_setRing ..).trans (if_neg hm)
    have hcause : enableCause (s.setRing n.toNat r) n.toNat r = enableCause s n.toNat r := rfl
    rw [State.writeRingCfg_enable_off hoff, State.ringEnable, hself, State.enableRefusal_eq, hcause]
    by_cases haccepted : enableCause s n.toNat r = 0#4
    case pos =>
      rw [if_pos haccepted]
      change ∃ t, Host.Outcome.next (((s.setRing n.toNat r).forgetReads n.toNat).setRing n.toNat r.started).answered = .next t ∧ _
      obtain ⟨hframe, hkept⟩ := State.forgetReads_frame (s.setRing n.toNat r) n.toNat
      generalize (s.setRing n.toNat r).forgetReads n.toNat = u at *
      refine ⟨_, rfl, fun m hm => ?_, absurd haccepted, fun _ => ?_⟩
      · exact ((State.ring_setRing ..).trans (if_neg hm)).trans ((hkept m hm).trans (hother m hm))
      · rw [State.answered_ring, State.ring_setRing_self]
        refine ⟨rfl, rfl, rfl, rfl, rfl, rfl, rfl, rfl, rfl, rfl, rfl, ?_⟩
        rw [hframe]
        rfl
    case neg =>
      simp only [haccepted, if_false, BitVec.ofNat_toNat, BitVec.setWidth_eq]
      exact ⟨_, rfl, fun m hm => ((State.ring_setRing ..).trans (if_neg hm)).trans (hother m hm),
        fun _ => ⟨State.ring_setRing_self .., rfl⟩, False.elim⟩

/-! ### Disable and RESUME -/

/-- What a disable leaves of a ring that is not OFF and does not drain already. -/
def Ring.disabled (r : Ring) : Ring :=
  Ring.settle (if r.state = .fault then { r with enable := false } else { r.abortFetched 1 with enable := false, state := .draining })

theorem State.ringDisable_of_live {s : State} {n : Nat}
    (h : (s.ring n).state = .run ∨ (s.ring n).state = .stopped ∨ (s.ring n).state = .fault) :
    s.ringDisable n = s.setRing n (s.ring n).disabled := by
  unfold State.ringDisable Ring.disabled
  rcases h with h | h | h <;> simp [h]

theorem Ring.settle_of_nonempty {r : Ring} (h : r.entries ≠ []) : r.settle = r := by
  rw [Ring.settle, if_neg (by simpa using h)]

/-- A ring settles without a change of its HEAD, its TAIL or its entries. -/
theorem Ring.settle_frame (r : Ring) :
    r.settle.head = r.head ∧ r.settle.tail = r.tail ∧ r.settle.entries = r.entries ∧ (r.enable = false → r.settle.enable = false) := by
  unfold Ring.settle
  split_ifs <;> simp_all

theorem Ring.settle_off {r : Ring} (hnone : r.entries = []) (hends : r.state = .draining ∨ (r.state = .fault ∧ r.enable = false)) :
    r.settle.state = .off := by
  rw [Ring.settle, if_pos (by simp [hnone]), if_pos hends]

theorem Ring.disabled_frame (r : Ring) : r.disabled.enable = false ∧ r.disabled.head = r.head ∧ r.disabled.tail = r.tail := by
  unfold Ring.disabled
  split
  all_goals
    obtain ⟨hhead, htail, -, henable⟩ := Ring.settle_frame _
    exact ⟨henable rfl, hhead, htail⟩

theorem Ring.disabled_of_idle {r : Ring} (hentries : r.entries = []) (hfetched : r.fetched = []) : r.disabled.state = .off := by
  unfold Ring.disabled
  split
  case isTrue hfault => exact Ring.settle_off hentries (.inr ⟨hfault, rfl⟩)
  case isFalse => exact Ring.settle_off (by simp [Ring.abortFetched, hentries, hfetched]) (.inl rfl)

/-- A ring that runs or is stopped, and has a position to complete, drains with its fetched descriptors and LAUNCH_AT aborted. -/
theorem Ring.disabled_of_busy {r : Ring} (hlive : r.state ≠ .fault) (hbusy : ¬(r.entries = [] ∧ r.fetched = [])) :
    r.disabled = { r.abortFetched 1 with enable := false, state := .draining } := by
  rw [Ring.disabled, if_neg hlive]
  refine Ring.settle_of_nonempty fun hnone => hbusy ?_
  simpa [Ring.abortFetched] using hnone

theorem disableDrainsAndResumeRuns : DisableDrainsAndResumeRuns := by
  intro s n cfg hopen r
  rw [exec_ringDisable_of_sashOpen hopen, exec_ringResume_of_sashOpen hopen]
  refine ⟨fun hlive => ?live, fun hdraining => ?draining, fun hoff => ?off, fun hstopped => ?stopped, fun hnot => ?other⟩
  case live =>
    have hon : (s.ring n.toNat).state ≠ .off := by rcases hlive with h | h | h <;> rw [h] <;> decide
    rw [State.writeRingCfg, if_neg hon, flag_disable, if_neg Bool.false_ne_true, State.ringDisable_of_live hlive]
    have hring : (s.setRing n.toNat r.disabled).answered.ring n.toNat = r.disabled := s.ring_setRing_self ..
    obtain ⟨henable, hhead, htail⟩ := r.disabled_frame
    refine ⟨_, rfl, rfl, fun m hm => (s.ring_setRing ..).trans (if_neg hm), ?_⟩
    rw [hring]
    refine ⟨henable, Ring.disabled_of_idle, fun hfault hbusy => ?_, hhead, htail⟩
    rw [Ring.disabled_of_busy hfault hbusy]
    refine ⟨rfl, rfl, fun f hf => List.mem_append_right _ (List.mem_map_of_mem hf), fun e he => ?_⟩
    have hmem : (if descOpcode e.desc = 0x41 ∧ e.stage = .running then
        { e with stage := .finished, status := BitVec.ofNat 8 stAborted, detail := BitVec.ofNat 16 1 } else e) ∈
        ({ r.abortFetched 1 with enable := false, state := .draining } : Ring).entries :=
      List.mem_append_left _ (List.mem_map_of_mem (f := fun e => if descOpcode e.desc = 0x41 ∧ e.stage = .running then
        { e with stage := .finished, status := BitVec.ofNat 8 stAborted, detail := BitVec.ofNat 16 1 } else e) he)
    split_ifs at hmem ⊢ <;> exact hmem
  case draining =>
    have hlive : (s.ring n.toNat).state = .draining := hdraining
    rw [State.writeRingCfg, if_neg (by rw [hlive]; decide), flag_disable, if_neg Bool.false_ne_true, State.ringDisable]
    simp only [hlive]
  case off => rw [State.writeRingCfg, if_pos hoff, flag_disable, if_neg Bool.false_ne_true, Ring.setCfg_congr (div_two_and_not_one cfg)]
  case stopped => rw [State.ringResume, State.ring_setRing_self, if_pos hstopped, State.setRing_setRing]
  case other =>
    rw [State.ringResume, State.ring_setRing_self, if_neg hnot]
    refine ⟨_, rfl, rfl, fun m => (s.ring_setRing ..).trans ?_⟩
    split
    · rename_i h
      rw [h]
    · rfl

/-- Settles O15. -/
theorem ringsStartDrainAndResume : Obligations.RingsStartDrainAndResume := ⟨enableStartsOrRefusesARing, disableDrainsAndResumeRuns⟩

end Sys2Proof.Machine
end

section
/-! SUPPORT. Writes of the Seal's registers in Run: key slots, the erasure of keys and the policy lock (R330, R331, R336, R340). -/

namespace Sys2Proof.Machine

/-! ### Tables changed value by value -/

/-- A value read from a changed table has what the default and every changed value have. -/
theorem Tab.at_remap_of_forall {α : Type} [DecidableEq α] {d : α} {t : Tab α} {f : α → α} {P : α → Prop} (hd : P d) (hf : ∀ x, P (f x))
    (k : Nat) : P (Tab.at d (Tab.remap d t f) k) := by
  induction t with
  | nil => exact hd
  | cons p rest ih =>
    simp only [Tab.remap, List.map_cons, List.filter_cons] at ih ⊢
    split
    · simp only [Tab.at]
      split
      · exact hf p.2
      · exact ih
    · exact ih

/-- In a canonical table every value is changed where it stands, when the change keeps the default. -/
theorem Tab.at_remap {α : Type} [DecidableEq α] {d : α} {t : Tab α} {f : α → α} (hd : f d = d) (hwf : Tab.wf d t = true) (k : Nat) :
    Tab.at d (Tab.remap d t f) k = f (Tab.at d t k) := by
  rw [Tab.wf_iff] at hwf
  obtain ⟨-, hsorted⟩ := hwf
  induction t with
  | nil => exact hd.symm
  | cons p rest ih =>
    obtain ⟨hp, hrest⟩ := List.pairwise_cons.1 hsorted
    have ih := ih hrest
    simp only [Tab.remap, List.map_cons, List.filter_cons] at ih ⊢
    by_cases hk : p.1 = k
    · have hlater : Tab.at d rest k = d := Tab.at_of_forall_ne fun q hq => by
        have := hp q hq
        omega
      simp only [Tab.at, if_pos hk]
      split
      · simp only [Tab.at, if_pos hk]
      · rename_i hdefault
        have hdefault : f p.2 = d := by simpa using hdefault
        rw [ih, hlater, hd, hdefault]
    · simp only [Tab.at, if_neg hk]
      split
      · simp only [Tab.at, if_neg hk, ih]
      · exact ih

/-! ### Sessions and keys -/

theorem State.endSessions_session (s : State) (n : Nat) : (s.endSessions.ring n).session = none :=
  Tab.at_remap_of_forall (t := s.rings) (d := Ring.reset) (P := fun r => Ring.session r = none)
    (f := fun r => { r with sessionLost := r.sessionLost || r.session.isSome, session := none }) rfl (fun _ => rfl) n

/-- Ending every session changes of each ring only its session and the mark that it was lost. -/
theorem State.endSessions_ring {s : State} (hwf : Tab.wf Ring.reset s.rings = true) (n : Nat) :
    s.endSessions.ring n =
      { s.ring n with session := none, sessionLost := (s.ring n).sessionLost || (s.ring n).session.isSome } :=
  Tab.at_remap (f := fun r : Ring => { r with sessionLost := r.sessionLost || r.session.isSome, session := none }) rfl hwf n

/-- The states of which every ring is as in `s.endSessions` have lost their sessions, and no more. -/
theorem ringsLoseSessions_of_rings {s t : State} (h : t.rings = s.endSessions.rings) :
    (∀ n, (t.ring n).session = none) ∧ RingsLoseSessions s t := by
  have hring (n : Nat) : t.ring n = s.endSessions.ring n := by rw [State.ring, h, State.ring]
  refine ⟨fun n => (congrArg Ring.session (hring n)).trans (s.endSessions_session n), fun hwf n => ?_⟩
  rw [hring n, State.endSessions_ring hwf]

/-! ### From the port to the Seal -/

theorem State.sashWrite_seal {s : State} (h : s.sashOpen) {o d : Nat} (hlo : 0x40000 ≤ o) (hhi : o < 0x41000) (haligned : o % 8 = 0)
    (hd : d < 2 ^ 64) : s.sashWrite o d = (s.writeSeal o d).answered := by
  rw [State.sashWrite_of_sashOpen h (by omega) haligned hd, State.writeReg, if_neg (by omega), if_neg (by omega), if_neg (by omega),
    if_neg (by omega), if_neg (by omega), if_neg (by omega), if_neg (by omega), if_neg (by omega), if_neg (by omega), if_pos ⟨hlo, hhi⟩]

/-- KEY_CTL with GO carries its INDEX. -/
theorem exec_keyCtlGo_of_sashOpen {s : State} (h : s.sashOpen) (hseal : s.cfg.hasSeal = true) (i : BitVec 3) :
    exec (.keyCtlGo i) s = .next (s.keyGo i).answered := by
  have hi := i.isLt
  have hgo : flag (i.toNat + place 0 63 1) 0 63 = true := by
    rw [flag, place, Nat.add_comm]
    exact Nat.testBit_two_pow_add_eq i.toNat 63 ▸ by simp [Nat.testBit_lt_two_pow (i := 63) (by omega : i.toNat < 2 ^ 63)]
  have hindex : BitVec.ofNat 3 (i.toNat + place 0 63 1) = i := BitVec.eq_of_toNat_eq (by simp [place]; omega)
  calc exec (.keyCtlGo i) s = .next (s.sashWrite 0x40070 (i.toNat + place 0 63 1)) := rfl
    _ = .next (s.writeSeal 0x40070 (i.toNat + place 0 63 1)).answered := by
      rw [State.sashWrite_seal h (by decide) (by decide) (by decide) (by simp [place]; omega)]
    _ = .next (s.keyGo i).answered := by simp [State.writeSeal, hseal, hgo, hindex]

/-- ERASE_KEYS keeps KEY_REF, and acts in every life-cycle state. -/
theorem exec_eraseKeys_of_sashOpen {s : State} (h : s.sashOpen) (hseal : s.cfg.hasSeal = true) :
    exec .eraseKeys s = .next s.eraseKeys.answered := by
  have hk := s.vault.keyRef.isLt
  have herase : flag (s.vault.keyRef.toNat + place 0 8 1) 0 8 = true := by
    rw [flag, place, Nat.add_comm]
    exact Nat.testBit_two_pow_add_eq s.vault.keyRef.toNat 8 ▸
      by simp [Nat.testBit_lt_two_pow (i := 8) (by omega : s.vault.keyRef.toNat < 2 ^ 8)]
  have href : BitVec.ofNat 2 (s.vault.keyRef.toNat + place 0 8 1) = s.vault.keyRef := BitVec.eq_of_toNat_eq (by simp [place]; omega)
  have hctl : s.writeSealCtl (s.vault.keyRef.toNat + place 0 8 1) = s.eraseKeys := by
    simp [State.writeSealCtl, herase, href]
  calc exec .eraseKeys s = .next (s.sashWrite 0x40018 (s.vault.keyRef.toNat + place 0 8 1)) := rfl
    _ = .next (s.writeSeal 0x40018 (s.vault.keyRef.toNat + place 0 8 1)).answered := by
      rw [State.sashWrite_seal h (by decide) (by decide) (by decide) (by simp [place]; omega)]
    _ = .next s.eraseKeys.answered := by simp [State.writeSeal, hseal, hctl]

/-- POLICY_LOCK is a write of SEAL_POLICY with LOCK set. -/
theorem exec_policyLock_of_sashOpen {s : State} (h : s.sashOpen) (hseal : s.cfg.hasSeal = true) (d : W64) :
    exec (.policyLock d) s = .next (s.writePolicy (d ||| (1#64 <<< 32))).answered := by
  calc exec (.policyLock d) s = .next (s.sashWrite 0x40028 (d ||| (1#64 <<< 32)).toNat) := rfl
    _ = .next (s.writeSeal 0x40028 (d ||| (1#64 <<< 32)).toNat).answered := by
      rw [State.sashWrite_seal h (by decide) (by decide) (by decide) (d ||| (1#64 <<< 32)).isLt]
    _ = _ := by simp only [State.writeSeal, hseal, BitVec.ofNat_toNat, BitVec.setWidth_eq]; rfl

/-- The Seal after an accepted key: slot `i` programmed, its bit set, KEY_DATA zero. -/
def Seal.programmed (v : Seal) (i : BitVec 3) : Seal :=
  { v with keyIndex := i, keyResult := 0#4, keyData := [], keySlots := Tab.put 0#384 v.keySlots i.toNat (BitVec.ofNat 384 v.keyWord),
           slotMask := v.slotMask ||| BitVec.ofNat 5 (2 ^ i.toNat) }

theorem Seal.programmed_keySlots (v : Seal) (i : BitVec 3) (j : Nat) :
    Tab.at 0#384 (v.programmed i).keySlots j = if j = i.toNat then BitVec.ofNat 384 v.keyWord else Tab.at 0#384 v.keySlots j := by
  rw [Seal.programmed, Tab.at_put]

theorem State.keyGo_of_accepted {s : State} {i : BitVec 3} (hlc : s.vault.lc = 1) (hindex : ¬4 < i.toNat)
    (hslot : ¬s.vault.slotMask.getLsbD i.toNat = true) (hzero : s.vault.keyWord ≠ 0) :
    s.keyGo i = { s with vault := s.vault.programmed i } := by
  rw [State.keyGo, if_neg (not_not.2 hlc), if_neg hindex, if_neg hslot, if_neg hzero, Seal.programmed]

/-! ### The obligation -/

theorem keyProgrammingFollowsR330 : KeyProgrammingFollowsR330 := by
  intro s i hopen hseal
  rw [exec_keyCtlGo_of_sashOpen hopen hseal]
  refine ⟨fun hlc => ?_, fun hlc => ⟨_, rfl, ?_⟩⟩
  · rw [State.keyGo, if_pos hlc]
    rfl
  · by_cases hindex : 4 < i.toNat
    · rw [State.keyGo, if_neg (not_not.2 hlc), if_pos hindex]
      exact ⟨rfl, rfl, rfl, rfl, rfl, fun _ => ⟨rfl, rfl⟩, fun h => absurd hindex (Nat.not_lt.2 h)⟩
    by_cases hslot : s.vault.slotMask.getLsbD i.toNat = true
    · rw [State.keyGo, if_neg (not_not.2 hlc), if_neg hindex, if_pos hslot]
      exact ⟨rfl, rfl, rfl, rfl, rfl, fun h => absurd h hindex,
        fun _ => ⟨fun _ => ⟨rfl, rfl, rfl⟩, fun h => absurd (hslot.symm.trans h) nofun⟩⟩
    by_cases hzero : s.vault.keyWord = 0
    · rw [State.keyGo, if_neg (not_not.2 hlc), if_neg hindex, if_neg hslot, if_pos hzero]
      exact ⟨rfl, rfl, rfl, rfl, rfl, fun h => absurd h hindex,
        fun _ => ⟨fun h => absurd h hslot, fun _ => ⟨fun _ => ⟨rfl, rfl, rfl⟩, fun h => absurd hzero h⟩⟩⟩
    · rw [State.keyGo_of_accepted hlc hindex hslot hzero]
      have hkept : (s.vault.programmed i).lcFuse = s.vault.lcFuse ∧ (s.vault.programmed i).denied = s.vault.denied := by
        simp only [Seal.programmed, and_self]
      exact ⟨rfl, rfl, rfl, hkept.1, hkept.2, fun h => absurd h hindex, fun _ => ⟨fun h => absurd h hslot, fun _ => ⟨fun h => absurd h hzero, fun _ =>
        ⟨rfl, rfl, s.vault.programmed_keySlots i⟩⟩⟩⟩

theorem eraseKeysAndPolicyLock : EraseKeysAndPolicyLock := by
  intro s hopen hseal
  refine ⟨⟨s.eraseKeys, exec_eraseKeys_of_sashOpen hopen hseal, rfl, rfl, ?_⟩, fun d => ?_⟩
  · obtain ⟨hended, hkept⟩ := ringsLoseSessions_of_rings (t := s.eraseKeys) rfl
    exact ⟨hended, hkept, rfl⟩
  · have hlock : (d ||| (1#64 <<< 32)).getLsbD 32 = true := by simp
    have hpolicy : (d ||| (1#64 <<< 32)).setWidth 32 = d.setWidth 32 := by
      ext j hj
      simp
    rw [exec_policyLock_of_sashOpen hopen hseal, State.writePolicy]
    refine ⟨fun hdenied => ?_, fun hopenLock hlc => ?_, fun hopenLock hlc => ?_⟩
    · have hrefused : (s.vault.lockFuse || !(s.vault.lc == 0 || s.vault.lc == 1)) = true := by
        rcases hdenied with h | h
        · rw [h, Bool.true_or]
        · simp only [Bool.or_eq_true, Bool.not_eq_true', Bool.or_eq_false_iff, beq_eq_false_iff_ne]
          omega
      rw [if_pos hrefused]
    · simp only [hopenLock, hlc, hlock, hpolicy]
      rfl
    · simp only [hopenLock, hlc, hlock, hpolicy]
      rfl

/-- Settles O24. -/
theorem keysAndPolicy : Obligations.KeysAndPolicy := ⟨keyProgrammingFollowsR330, eraseKeysAndPolicyLock⟩

end Sys2Proof.Machine
end

section
/-! SUPPORT. What the register map reads right after reset. -/

namespace Sys2Proof.Machine

theorem State.readReg_ring (s : State) {n o : Nat} (hn : n < 128) (ho : o < 0x40) :
    s.readReg (0x8000 + 0x40 * n + o) = BitVec.ofNat 64 (s.readRing n o) := by
  rw [State.readReg, if_neg (by omega), if_neg (by omega), if_neg (by omega), if_neg (by omega), if_pos (by omega)]
  congr 2 <;> omega

/-- A ring other than 0 reads as zeros after reset; ring 0 has its class. -/
theorem readReg_ring_reset {n o : Nat} (hpos : 0 < n) (hn : n < 128) (ho : o ∈ [0x00, 0x08, 0x10, 0x18, 0x20, 0x28, 0x30]) :
    State.reset.readReg (0x8000 + 0x40 * n + o) = 0#64 := by
  have hclass : State.reset.classOf n = 0#2 := if_neg (by omega)
  have hlt : o < 0x40 := (show ∀ o ∈ [0x00, 0x08, 0x10, 0x18, 0x20, 0x28, 0x30], o < 0x40 by decide) o ho
  rw [State.readReg_ring _ hn hlt, State.readRing, hclass, show State.reset.ring n = Ring.reset from rfl]
  revert o
  decide

/-- Settles O7. -/
theorem resetRegistersRead : Obligations.ResetRegistersRead :=
  ⟨by decide, by decide, by decide, fun _ _ hpos hn ho => readReg_ring_reset hpos hn ho⟩

end Sys2Proof.Machine
end

section
/-! SUPPORT. The test access port: what an instruction leaves in the port's registers, and what its scans load (R378, R379). -/

namespace Sys2Proof.Machine

/-! ### An instruction enters the register -/

/-- Capturing draws at most a free value. -/
theorem State.capture_state (s : State) (d : DataRegister) : (s.capture d).2 = { s with draws := (s.capture d).2.draws } := by
  cases d <;> rfl

/-- The port's registers after a code that acts as `c`. -/
def Jtag.loaded (j : Jtag) (code c : W8) (w : W32) : Jtag :=
  { j with ir := code, dr := testRegister c, driving := decide (c = 0x00#8 ∨ c = 0x03#8), capture := w,
           attached := decide (testRegister c = .network ∨ testRegister c = .wrapper) }

theorem State.testable_eq_true {s : State} (hoff : s.pwr.block ≠ .off) (htrst : s.jtag.trst = false) : s.testable = true := by
  simp [State.testable, hoff, htrst]

theorem State.loadTest_of_testable {s : State} (h : s.testable = true) (code : W8) :
    s.loadTest code = { s with
      jtag := s.jtag.loaded code (s.vault.testCode code) (s.capture (testRegister (s.vault.testCode code))).1,
      draws := (s.capture (testRegister (s.vault.testCode code))).2.draws } := by
  have hcapture := s.capture_state (testRegister (s.vault.testCode code))
  calc s.loadTest code
    _ = { (s.capture (testRegister (s.vault.testCode code))).2 with
          jtag := (s.capture (testRegister (s.vault.testCode code))).2.jtag.loaded code (s.vault.testCode code)
            (s.capture (testRegister (s.vault.testCode code))).1 } := by
      rw [State.loadTest, if_pos h]
      rfl
    _ = _ := by rw [hcapture]

theorem State.loadTest_of_untestable {s : State} (h : ¬s.testable = true) (code : W8) : s.loadTest code = s := by
  rw [State.loadTest, if_neg h]

@[simp] theorem State.loadTest_pwr (s : State) (code : W8) : (s.loadTest code).pwr = s.pwr := by
  by_cases h : s.testable = true
  · rw [State.loadTest_of_testable h]
  · rw [State.loadTest_of_untestable h]

@[simp] theorem State.loadTest_trst (s : State) (code : W8) : (s.loadTest code).jtag.trst = s.jtag.trst := by
  by_cases h : s.testable = true
  · rw [State.loadTest_of_testable h]
    rfl
  · rw [State.loadTest_of_untestable h]

@[simp] theorem State.testable_loadTest (s : State) (code : W8) : (s.loadTest code).testable = s.testable := by
  rw [State.testable, State.loadTest_pwr, State.loadTest_trst, State.testable]

/-- A code that acts as BYPASS selects BYPASS and leaves the cells and the wrappers. -/
theorem loadTest_bypass {s : State} (h : s.testable = true) {code : W8} (hact : s.vault.testCode code = 0xFF#8) :
    OnlyTestPort s (s.loadTest code) ∧ (s.loadTest code).jtag.ir = code ∧ (s.loadTest code).jtag.dr = .bypass ∧
      (s.loadTest code).jtag.capture = 0#32 ∧ (s.loadTest code).jtag.driving = false ∧ (s.loadTest code).jtag.attached = false ∧
      (s.loadTest code).jtag.boundary = s.jtag.boundary ∧ (s.loadTest code).jtag.wrappers = s.jtag.wrappers := by
  rw [State.loadTest_of_testable h, hact]
  exact ⟨rfl, rfl, rfl, rfl, rfl, rfl, rfl, rfl⟩

/-! ### The scans -/

/-- With the boundary register selected, its cells take what the scan leaves. -/
theorem State.loadCells_of_boundary {s : State} (h : s.testable = true) (hdr : s.jtag.dr = .boundary) :
    s.loadCells = { s with jtag := { s.jtag with boundary := Config.scannedCells s.draws }, draws := s.draws + 1 } := by
  simp [State.loadCells, h, hdr]

theorem State.loadCells_of_other {s : State} (hdr : s.jtag.dr ≠ .boundary) : s.loadCells = s := by
  simp [State.loadCells, hdr]

theorem State.loadWrappers_of_other {s : State} {d : DataRegister} (hdr : s.jtag.dr ≠ d) (f : Nat → Wrapper → Wrapper) : s.loadWrappers d f = s := by
  simp [State.loadWrappers, hdr]

/-- A powered hearth's wrapper takes the value, and no other wrapper changes. -/
theorem State.wrapper_setWrapper (s : State) (h j : Nat) (w : Wrapper) :
    (s.setWrapper h w).wrapper j = if j = h ∧ h < s.cfg.hearths ∧ (s.hearth h).power ≠ .shut then w else s.wrapper j := by
  rw [State.setWrapper]
  split
  · rename_i hpowered
    rw [State.wrapper, Tab.at_put]
    simp only [hpowered, and_true, ne_eq, not_false_eq_true]
    rfl
  · rename_i hpowered
    rw [if_neg fun hboth => hpowered hboth.2]

theorem State.setWrapper_state (s : State) (h : Nat) (w : Wrapper) :
    s.setWrapper h w = { s with jtag := { s.jtag with wrappers := (s.setWrapper h w).jtag.wrappers } } := by
  rw [State.setWrapper]
  split <;> rfl

/-- A scan of wrappers one hearth after another gives each its own value once. -/
theorem scanWrappers (f : Nat → Wrapper → Wrapper) (hs : List Nat) (hnodup : hs.Nodup) (s : State) :
    (hs.foldl (fun s h => s.setWrapper h (f h (s.wrapper h))) s) =
      { s with jtag := { s.jtag with wrappers := (hs.foldl (fun s h => s.setWrapper h (f h (s.wrapper h))) s).jtag.wrappers } } ∧
    ∀ h, (hs.foldl (fun s h => s.setWrapper h (f h (s.wrapper h))) s).wrapper h =
      if h ∈ hs ∧ h < s.cfg.hearths ∧ (s.hearth h).power ≠ .shut then f h (s.wrapper h) else s.wrapper h := by
  induction hs generalizing s with
  | nil => simp
  | cons k rest ih =>
    obtain ⟨hk, hrest⟩ := List.nodup_cons.1 hnodup
    have hset := s.setWrapper_state k (f k (s.wrapper k))
    have hwrapper := fun h => s.wrapper_setWrapper k h (f k (s.wrapper k))
    obtain ⟨hstate, hall⟩ := ih hrest (s.setWrapper k (f k (s.wrapper k)))
    rw [List.foldl_cons]
    generalize s.setWrapper k (f k (s.wrapper k)) = t at *
    refine ⟨?_, fun h => ?_⟩
    · rw [hstate, hset]
    · have hcfg : t.cfg = s.cfg := by rw [hset]
      have hhearth : t.hearth h = s.hearth h := by rw [hset]; rfl
      rw [hall h, hwrapper h, hcfg, hhearth]
      by_cases hkh : h = k
      · subst hkh
        simp [hk]
      · simp [hkh]

/-- With its register selected, a scan reaches every wrapper of a powered hearth. -/
theorem State.loadWrappers_of_selected {s : State} (h : s.testable = true) {d : DataRegister} (hdr : s.jtag.dr = d) (f : Nat → Wrapper → Wrapper) :
    OnlyTestPort s (s.loadWrappers d f) ∧ WrappersTake s f (s.loadWrappers d f).jtag ∧
      (s.loadWrappers d f).jtag = { s.jtag with wrappers := (s.loadWrappers d f).jtag.wrappers } := by
  obtain ⟨hstate, hall⟩ := scanWrappers f s.allHearths List.nodup_range s
  have hload : s.loadWrappers d f =
      { s.allHearths.foldl (fun s h => s.setWrapper h (f h (s.wrapper h))) s with draws := s.draws + 1 } := by
    simp [State.loadWrappers, h, hdr]
  rw [hload]
  generalize s.allHearths.foldl (fun s h => s.setWrapper h (f h (s.wrapper h))) s = t at *
  have hjtag : t.jtag = { s.jtag with wrappers := t.jtag.wrappers } := by rw [hstate]
  refine ⟨?_, ⟨?_, fun n => ?_⟩, hjtag⟩
  · unfold OnlyTestPort
    rw [hstate]
  · rw [hjtag]
  · have hn := hall n
    simp only [State.allHearths, List.mem_range, and_self_left] at hn
    exact hn

/-- After a code that selects the boundary register, the scan loads its cells. -/
theorem selectsBoundary {s : State} (h : s.testable = true) {code c : W8} (hact : s.vault.testCode code = c) (hdr : testRegister c = .boundary) :
    OnlyTestPort s (s.loadTest code).loadCells ∧ (s.loadTest code).loadCells.jtag.ir = code ∧
      (s.loadTest code).loadCells.jtag.dr = .boundary ∧ (s.loadTest code).loadCells.jtag.driving = decide (c = 0x00#8 ∨ c = 0x03#8) ∧
      (s.loadTest code).loadCells.jtag.attached = false ∧
      (∃ k, (s.loadTest code).loadCells.jtag.boundary = Config.scannedCells k) ∧
      (s.loadTest code).loadCells.jtag.wrappers = s.jtag.wrappers := by
  have htestable := s.testable_loadTest code
  rw [h] at htestable
  have hload := State.loadTest_of_testable h code
  simp only [hact, hdr] at hload
  have hselected : (s.loadTest code).jtag.dr = .boundary := by
    rw [hload]
    exact hdr
  rw [State.loadCells_of_boundary htestable hselected]
  generalize s.loadTest code = t at *
  rw [hload]
  exact ⟨rfl, rfl, hdr, rfl, by simp [Jtag.loaded, hdr], ⟨_, rfl⟩, rfl⟩

/-- After a code that selects the network or the wrappers' chain, the scan reaches every wrapper of a powered hearth. -/
theorem selectsWrappers {s : State} (h : s.testable = true) {code c : W8} {d : DataRegister} (hact : s.vault.testCode code = c)
    (hdr : testRegister c = d) (hd : d = .network ∨ d = .wrapper) (hquiet : ¬(c = 0x00#8 ∨ c = 0x03#8)) (f : Nat → Wrapper → Wrapper) :
    OnlyTestPort s ((s.loadTest code).loadWrappers d f) ∧ ((s.loadTest code).loadWrappers d f).jtag.ir = code ∧
      ((s.loadTest code).loadWrappers d f).jtag.dr = d ∧ ((s.loadTest code).loadWrappers d f).jtag.driving = false ∧
      ((s.loadTest code).loadWrappers d f).jtag.attached = true ∧ WrappersTake s f ((s.loadTest code).loadWrappers d f).jtag := by
  have htestable := s.testable_loadTest code
  rw [h] at htestable
  have hload := State.loadTest_of_testable h code
  rw [hact, hdr] at hload
  have hselected : (s.loadTest code).jtag.dr = d := by
    rw [hload]
    exact hdr
  obtain ⟨honly, ⟨hboundary, hwrappers⟩, hjtag⟩ := State.loadWrappers_of_selected htestable hselected f
  generalize (s.loadTest code).loadWrappers d f = u at *
  have hsame (n : Nat) : (s.loadTest code).wrapper n = s.wrapper n ∧ (s.loadTest code).hearth n = s.hearth n := by
    rw [hload]
    exact ⟨rfl, rfl⟩
  simp only [hsame] at hwrappers
  generalize s.loadTest code = t at *
  subst hload
  unfold OnlyTestPort at honly
  refine ⟨honly, ?_, hjtag ▸ hdr, ?_, ?_, hboundary, hwrappers⟩
  · rw [hjtag]
    rfl
  · rw [hjtag]
    exact decide_eq_false hquiet
  · rw [hjtag]
    exact decide_eq_true (hdr ▸ hd)

/-! ### Codes -/

/-- In PROVISIONED and MISSION the codes that reach pins or instruments act as BYPASS. -/
theorem Seal.testCode_of_keyed {v : Seal} (h : v.keyed = true) {code : W8} (hcode : code ∈ [0x00#8, 0x03#8, 0x10#8, 0x11#8]) :
    v.testCode code = 0xFF#8 := by
  rw [Seal.testCode, if_neg, if_neg (by simp [h])]
  revert code
  decide

theorem Seal.testCode_of_unkeyed {v : Seal} (h : v.keyed = false) {code : W8} (hcode : code ∈ [0x00#8, 0x03#8, 0x10#8, 0x11#8]) :
    v.testCode code = code := by
  simp only [List.mem_cons, List.not_mem_nil, or_false] at hcode
  rw [Seal.testCode]
  split
  · rfl
  · rw [if_pos ⟨hcode, h⟩]

theorem Seal.testCode_of_unlisted (v : Seal) {code : W8} (hcode : code ∉ [0x00#8, 0x01#8, 0x02#8, 0x03#8, 0x10#8, 0x11#8]) :
    v.testCode code = 0xFF#8 := by
  simp only [List.mem_cons, List.not_mem_nil, or_false, not_or] at hcode
  obtain ⟨h0, h1, h2, h3, h10, h11⟩ := hcode
  rw [Seal.testCode, if_neg (by simp [h1, h2]), if_neg (by simp [h0, h3, h10, h11])]

/-- IDCODE of IVR-64, field by field. -/
theorem regIdcode_of_64 {c : BlockConfig} (h : c.hearths = 64) :
    regIdcode c = 0x31A40000#32 ||| (c.jtagMfr.setWidth 32 <<< 1) ||| 1#32 := by
  have hmfr := c.jtagMfr.isLt
  apply BitVec.eq_of_toNat_eq
  have hfields : 2 ^ 12 * 0x31A40 + 2 ^ 1 * c.jtagMfr.toNat = 2 ^ 12 * 0x31A40 ||| 2 ^ 1 * c.jtagMfr.toNat :=
    Nat.two_pow_add_eq_or_of_lt (by omega) _
  have hone : 2 ^ 1 * (2 ^ 11 * 0x31A40 + c.jtagMfr.toNat) + 1 = 2 ^ 1 * (2 ^ 11 * 0x31A40 + c.jtagMfr.toNat) ||| 1 :=
    Nat.two_pow_add_eq_or_of_lt (by decide) _
  have hshift : (c.jtagMfr.setWidth 32 <<< 1).toNat = 2 ^ 1 * c.jtagMfr.toNat := by
    simp [Nat.shiftLeft_eq]
    omega
  simp only [regIdcode, BlockConfig.part, h, BitVec.toNat_or, hshift, BitVec.toNat_ofNat]
  rw [show 0x31A40000 % 2 ^ 32 = 2 ^ 12 * 0x31A40 from rfl, ← hfields,
    show 2 ^ 12 * 0x31A40 + 2 ^ 1 * c.jtagMfr.toNat = 2 ^ 1 * (2 ^ 11 * 0x31A40 + c.jtagMfr.toNat) by omega, Nat.mod_eq_of_lt (by decide : 1 < 2 ^ 32), ← hone]
  omega

/-! ### The obligation -/

/-- Settles O8. -/
theorem testInstructionsSelectTheirRegisters : Obligations.TestInstructionsSelectTheirRegisters := by
  intro s hoff htrst scanned
  have h := State.testable_eq_true hoff htrst
  refine ⟨?_, ?_, fun hkeyed => ⟨?_, ?_, ?_, ?_⟩, fun hkeyed => ⟨?_, ?_, ?_, ?_⟩, fun code hcode => ?_, fun code => ?_⟩
  · have hact : s.vault.testCode 0x01#8 = 0x01#8 := rfl
    refine ⟨_, rfl, ?_⟩
    rw [State.loadTest_of_testable h, hact]
    exact ⟨rfl, rfl, rfl, fun h64 => regIdcode_of_64 h64⟩
  · exact ⟨_, rfl, selectsBoundary h (c := 0x02#8) rfl rfl⟩
  · exact ⟨_, rfl, selectsBoundary h (Seal.testCode_of_unkeyed hkeyed (by decide)) rfl⟩
  · have hact := Seal.testCode_of_unkeyed hkeyed (code := 0x03#8) (by decide)
    refine ⟨_, rfl, ?_⟩
    rw [State.loadTest_of_testable h, hact]
    exact ⟨rfl, rfl, rfl, rfl, rfl, rfl, rfl, rfl⟩
  · have hact := Seal.testCode_of_unkeyed hkeyed (code := 0x10#8) (by decide)
    obtain ⟨honly, hir, hdr, hdriving, hattached, hscan⟩ := selectsWrappers h hact rfl (.inl rfl) (by decide)
      fun h w => { w with parallel := (Config.scannedPort (s.loadTest 0x10#8).draws h).getD w.parallel }
    exact ⟨_, rfl, honly, hir, hdr, hdriving, hattached, _, hscan⟩
  · have hact := Seal.testCode_of_unkeyed hkeyed (code := 0x11#8) (by decide)
    obtain ⟨honly, hir, hdr, hdriving, hattached, hscan⟩ := selectsWrappers h hact rfl (.inr rfl) (by decide)
      fun h w =>
        let q := Config.scannedWrapper (s.loadTest 0x11#8).draws h
        { w with wir := q.1, wby := q.2.1, wbr := q.2.2 }
    exact ⟨_, rfl, honly, hir, hdr, hdriving, hattached, _, hscan⟩
  · obtain ⟨honly, hir, hdr, hrest⟩ := loadTest_bypass h (Seal.testCode_of_keyed hkeyed (code := 0x00#8) (by decide))
    exact ⟨_, congrArg Host.Outcome.next (State.loadCells_of_other (by simp [hdr])), honly, hir, hdr, hrest⟩
  · exact ⟨_, rfl, loadTest_bypass h (Seal.testCode_of_keyed hkeyed (by decide))⟩
  · obtain ⟨honly, hir, hdr, hrest⟩ := loadTest_bypass h (Seal.testCode_of_keyed hkeyed (code := 0x10#8) (by decide))
    exact ⟨_, congrArg Host.Outcome.next (State.loadWrappers_of_other (by simp [hdr]) _), honly, hir, hdr, hrest⟩
  · obtain ⟨honly, hir, hdr, hrest⟩ := loadTest_bypass h (Seal.testCode_of_keyed hkeyed (code := 0x11#8) (by decide))
    exact ⟨_, congrArg Host.Outcome.next (State.loadWrappers_of_other (by simp [hdr]) _), honly, hir, hdr, hrest⟩
  · have hlow : (s.driveTrst false).testable = true := by simp [State.driveTrst, State.testable, hoff]
    have hdrive : s.driveTrst false = s := by
      rw [State.driveTrst, if_neg hoff, if_neg (by decide), ← htrst]
    refine ⟨_, congrArg (fun t => Host.Outcome.next (State.loadTest t code)) hdrive, loadTest_bypass h (s.vault.testCode_of_unlisted hcode)⟩
  · have hhigh : ¬(s.driveTrst true).testable = true := by simp [State.driveTrst, State.testable, hoff]
    refine ⟨_, congrArg Host.Outcome.next (State.loadTest_of_untestable hhigh code), ?_⟩
    rw [State.driveTrst, if_neg hoff, if_pos rfl]
    exact ⟨rfl, rfl, rfl, rfl, rfl⟩

end Sys2Proof.Machine
end

section
/-! SUPPORT. A wake of the block and of its hearths: what it leaves unchanged (R309, R313, R314). -/

namespace Sys2Proof.Machine

/-- Of `s`, at most the hearths and the requests of the power switches differ in `t`. -/
structure WakesHearths (s t : State) : Prop where
  only : t = { s with pwr := { s.pwr with pswReq := t.pwr.pswReq }, hearths := t.hearths }

theorem WakesHearths.refl (s : State) : WakesHearths s s := ⟨rfl⟩

theorem WakesHearths.trans {s t u : State} (hst : WakesHearths s t) (htu : WakesHearths t u) : WakesHearths s u := by
  obtain ⟨hst⟩ := hst
  obtain ⟨htu⟩ := htu
  rw [hst] at htu
  exact ⟨htu⟩

theorem WakesHearths.foldl {α : Type} {f : State → α → State} (hf : ∀ s a, WakesHearths s (f s a)) (xs : List α) (s : State) :
    WakesHearths s (xs.foldl f s) := by
  induction xs generalizing s with
  | nil => exact .refl s
  | cons x rest ih => exact (hf s x).trans (ih (f s x))

theorem WakesHearths.pwr {s t : State} (h : WakesHearths s t) : t.pwr = { s.pwr with pswReq := t.pwr.pswReq } := by
  rw [h.only]

theorem State.wakeHearth_wakes (s : State) (h : Nat) : WakesHearths s (s.wakeHearth h) := by
  rw [State.wakeHearth]
  cases (s.hearth h).power <;> exact ⟨rfl⟩

theorem State.wakeWithBlock_wakes (s : State) (hs : List Nat) : WakesHearths s (s.wakeWithBlock hs) := by
  rw [State.wakeWithBlock]
  split
  · refine WakesHearths.foldl (fun s h => ?_) hs s
    split
    · exact s.wakeHearth_wakes h
    · exact .refl s
  · exact .refl s

/-- In Doze and Hibernate a source starts the wake and is recorded (R314); WAKE_COUNT counts it there. -/
theorem State.startWake_of_asleep {s : State} (h : s.pwr.block = .doze ∨ s.pwr.block = .hibernate) (code : BitVec 3) :
    (s.startWake code).pwr.block = .waking ∧ (s.startWake code).pwr.lastWake = code ∧
      (s.startWake code).pwr.wakeCount = satInc s.pwr.wakeCount ∧
      s.startWake code = { s with pwr := (s.startWake code).pwr, hearths := (s.startWake code).hearths } := by
  rcases h with h | h
  · have hwakes := State.wakeWithBlock_wakes { s with pwr := { s.pwr with
      sleeping := .doze, block := .waking, lastWake := code, wakeCount := satInc s.pwr.wakeCount } } s.allHearths
    rw [State.startWake, h]
    dsimp only
    generalize State.wakeWithBlock _ _ = t at *
    rw [hwakes.pwr]
    exact ⟨rfl, rfl, rfl, by rw [hwakes.only]⟩
  · rw [State.startWake, h]
    exact ⟨rfl, rfl, rfl, rfl⟩

/-- While an entry is under way the first source is kept (R313). -/
theorem State.startWake_of_entering {s : State} (h : s.pwr.block = .entering) (code : BitVec 3) :
    s.startWake code = { s with pwr := { s.pwr with dueWake := some (s.pwr.dueWake.getD code) } } := by
  simp only [State.startWake, h]

/-- In Off, in Run and in a wake under way no source starts a wake. -/
theorem State.startWake_of_awake {s : State} (hdoze : s.pwr.block ≠ .doze) (hhibernate : s.pwr.block ≠ .hibernate)
    (hentering : s.pwr.block ≠ .entering) (code : BitVec 3) : s.startWake code = s := by
  rw [State.startWake]
  split <;> simp_all

end Sys2Proof.Machine
end

section
/-! SUPPORT. The management port: its transactions by the state of the block, and the common command codes (R315, R375, R386). -/

namespace Sys2Proof.Machine

/-! ### Bytes -/

theorem leBytes_length (n v : Nat) : (leBytes n v).length = n := by
  induction n generalizing v with
  | zero => rfl
  | succ n ih => rw [leBytes, List.length_cons, ih]

theorem leNat_leBytes (n v : Nat) : leNat (leBytes n v) = v % 256 ^ n := by
  induction n generalizing v with
  | zero => rw [leBytes, leNat, pow_zero, Nat.mod_one]
  | succ n ih =>
    rw [leBytes, leNat, ih, BitVec.toNat_ofNat, show 2 ^ 8 = 256 from rfl, pow_succ', Nat.mod_mul]

/-- A word of 8 bytes comes back from its bytes. -/
theorem ofNat_leNat_leBytes (w : W64) : BitVec.ofNat 64 (leNat (leBytes 8 w.toNat)) = w := by
  have hw := w.isLt
  apply BitVec.eq_of_toNat_eq
  rw [leNat_leBytes, BitVec.toNat_ofNat]
  omega

theorem ofNat_hi_lo (hi lo : W8) : BitVec.ofNat 16 (256 * hi.toNat + lo.toNat) = hi ++ lo := by
  have hlo := lo.isLt
  have hhi := hi.isLt
  apply BitVec.eq_of_toNat_eq
  have hor := Nat.two_pow_add_eq_or_of_lt (i := 8) hlo hi.toNat
  rw [BitVec.toNat_append, BitVec.toNat_ofNat, Nat.shiftLeft_eq, Nat.mul_comm hi.toNat, ← hor]
  omega

/-! ### Transactions -/

theorem execMgmtWrite_of_unanswered {s : State} {addr : BitVec 7} (hoff : s.pwr.block ≠ .off) (h : s.mgmt.answers addr = false)
    (bytes : List W8) : exec (.mgmtWrite addr bytes) s = .next (s.mgmtAnswer false []) := by
  rw [show exec (.mgmtWrite addr bytes) s = execMgmtWrite addr bytes s from rfl, execMgmtWrite, if_neg hoff, if_pos h]

theorem execMgmtRead_of_unanswered {s : State} {addr : BitVec 7} (hoff : s.pwr.block ≠ .off) (h : s.mgmt.answers addr = false) :
    exec (.mgmtRead addr) s = .next (s.mgmtAnswer false []) := by
  rw [show exec (.mgmtRead addr) s = execMgmtRead addr s from rfl, execMgmtRead, if_neg hoff, if_pos h]

/-- Awake, an answered write transaction acts on its bytes. -/
theorem execMgmtWrite_of_awake {s : State} {addr : BitVec 7} (hoff : s.pwr.block ≠ .off) (h : s.mgmt.answers addr = true)
    (hawake : s.asleep = false) (bytes : List W8) :
    exec (.mgmtWrite addr bytes) s = .next ((s.mgmtAnswer true []).mgmtPut bytes) := by
  rw [show exec (.mgmtWrite addr bytes) s = execMgmtWrite addr bytes s from rfl, execMgmtWrite, if_neg hoff, if_neg (by simp [h]),
    if_neg (by simp [hawake])]

/-- Bytes that hold no aligned offset, or are of another count, do nothing. -/
theorem State.mgmtPut_of_bad {s : State} {bytes : List W8}
    (h : (256 * (nth 0#8 bytes 0).toNat + (nth 0#8 bytes 1).toNat) % 8 ≠ 0 ∨ (bytes.length ≠ 2 ∧ bytes.length ≠ 10)) : s.mgmtPut bytes = s := by
  rw [State.mgmtPut]
  dsimp only
  by_cases haligned : (256 * (nth 0#8 bytes 0).toNat + (nth 0#8 bytes 1).toNat) % 8 ≠ 0
  · rw [if_pos haligned]
  · obtain ⟨h2, h10⟩ := h.resolve_left haligned
    rw [if_neg haligned, if_neg h2, if_neg h10]

theorem scratchKept_of_bad {s : State} {addr : BitVec 7} (hoff : s.pwr.block ≠ .off) (h : s.mgmt.answers addr = true)
    (hawake : s.asleep = false) {bytes : List W8}
    (hbad : (256 * (nth 0#8 bytes 0).toNat + (nth 0#8 bytes 1).toNat) % 8 ≠ 0 ∨ (bytes.length ≠ 2 ∧ bytes.length ≠ 10)) :
    ScratchKept addr bytes s s.mgmt.offset := by
  refine ⟨_, execMgmtWrite_of_awake hoff h hawake bytes, ?_⟩
  rw [State.mgmtPut_of_bad hbad]
  exact ⟨rfl, rfl, rfl, rfl, rfl⟩

/-- Two bytes set the offset. -/
theorem State.mgmtPut_offset (s : State) {hi lo : W8} (haligned : (256 * hi.toNat + lo.toNat) % 8 = 0) :
    s.mgmtPut [hi, lo] = { s with mgmt := { s.mgmt with offset := hi ++ lo } } := by
  have ho : 256 * (nth 0#8 [hi, lo] 0).toNat + (nth 0#8 [hi, lo] 1).toNat = 256 * hi.toNat + lo.toNat := rfl
  rw [State.mgmtPut]
  dsimp only
  rw [ho, if_neg (not_not.2 haligned), if_pos (by rfl), ofNat_hi_lo]

/-- Ten bytes set the offset, and write the mirror's entry there. -/
theorem State.mgmtPut_word (s : State) {hi lo : W8} (haligned : (256 * hi.toNat + lo.toNat) % 8 = 0) (w : W64) :
    s.mgmtPut (hi :: lo :: leBytes 8 w.toNat) =
      if 256 * hi.toNat + lo.toNat < 0x1000 then
        { s with mgmt := { s.mgmt with offset := hi ++ lo } }.writeMirror (256 * hi.toNat + lo.toNat) w
      else { s with mgmt := { s.mgmt with offset := hi ++ lo } } := by
  have ho : 256 * (nth 0#8 (hi :: lo :: leBytes 8 w.toNat) 0).toNat + (nth 0#8 (hi :: lo :: leBytes 8 w.toNat) 1).toNat =
    256 * hi.toNat + lo.toNat := rfl
  have hlength : (hi :: lo :: leBytes 8 w.toNat).length = 10 := by simp [leBytes_length]
  have hdata : BitVec.ofNat 64 (leNat ((hi :: lo :: leBytes 8 w.toNat).drop 2)) = w := ofNat_leNat_leBytes w
  rw [State.mgmtPut]
  dsimp only
  rw [ho, if_neg (not_not.2 haligned), hlength, if_neg (by decide), if_pos rfl, hdata, ofNat_hi_lo]

/-- At an offset of no scratch register the mirror takes no write. -/
theorem State.writeMirror_of_other {s : State} {o : Nat} (haligned : o % 8 = 0) (h : ∀ i < 4, o ≠ 0x100 + 8 * i) (w : W64) :
    s.writeMirror o w = s := by
  have hnone : slotOf o 0x100 8 4 = none := if_neg fun ⟨hlo, _, hlt⟩ => h ((o - 0x100) / 8) hlt (by omega)
  rw [State.writeMirror, arrayWrite, hnone]

theorem State.writeMirror_scratch (s : State) {i : Nat} (hi : i < 4) (w : W64) :
    s.writeMirror (0x100 + 8 * i) w = { s with mgmt := { s.mgmt with scratch := Tab.put 0#64 s.mgmt.scratch i w } } := by
  rw [State.writeMirror, arrayWrite_entry hi (by decide)]

/-- A word written at a scratch register's offset stands in that register. -/
theorem mgmtWrite_scratch {s : State} {addr : BitVec 7} (hoff : s.pwr.block ≠ .off) (h : s.mgmt.answers addr = true)
    (hawake : s.asleep = false) {i : Nat} (hi : i < 4) (w : W64) :
    ∃ t, exec (.mgmtWrite addr (1#8 :: BitVec.ofNat 8 (8 * i) :: leBytes 8 w.toNat)) s = .next t ∧ OnlyManagement s t ∧
      (∀ j, Tab.at 0#64 t.mgmt.scratch j = if j = i then w else Tab.at 0#64 s.mgmt.scratch j) ∧
      t.mgmt.dynamic = s.mgmt.dynamic ∧ t.mgmt.acked = true := by
  have ho : 256 * (1#8).toNat + (BitVec.ofNat 8 (8 * i)).toNat = 0x100 + 8 * i := by
    rw [BitVec.toNat_ofNat]
    simp
    omega
  refine ⟨_, execMgmtWrite_of_awake hoff h hawake _, ?_⟩
  rw [State.mgmtPut_word _ (by omega), ho, if_pos (by omega), State.writeMirror_scratch _ hi]
  exact ⟨rfl, fun j => Tab.at_put i j w, rfl, rfl⟩

/-- A word written at any other offset changes no scratch register. -/
theorem scratchKept_of_other {s : State} {addr : BitVec 7} (hoff : s.pwr.block ≠ .off) (h : s.mgmt.answers addr = true)
    (hawake : s.asleep = false) {hi lo : W8} (haligned : (256 * hi.toNat + lo.toNat) % 8 = 0)
    (hother : ∀ i < 4, 256 * hi.toNat + lo.toNat ≠ 0x100 + 8 * i) (w : W64) :
    ScratchKept addr (hi :: lo :: leBytes 8 w.toNat) s (hi ++ lo) := by
  refine ⟨_, execMgmtWrite_of_awake hoff h hawake _, ?_⟩
  rw [State.mgmtPut_word _ haligned, State.writeMirror_of_other haligned hother, ite_self]
  exact ⟨rfl, rfl, rfl, rfl, rfl⟩

/-- In sleep a transaction at the port's address is acknowledged and only wakes the block with code 2. -/
theorem State.mgmtWake_of_asleep {s : State} (h : s.asleep = true) (bytes : Nat) :
    (s.mgmtWake bytes).pwr.block = .waking ∧ (s.mgmtWake bytes).pwr.lastWake = 2#3 ∧
      (s.mgmtWake bytes).mgmt = { s.mgmt with acked := true, data := List.replicate bytes 0xFF#8 } ∧
      s.mgmtWake bytes = { s with pwr := (s.mgmtWake bytes).pwr, hearths := (s.mgmtWake bytes).hearths, mgmt := (s.mgmtWake bytes).mgmt } := by
  have hasleep : (s.mgmtAnswer true (List.replicate bytes 0xFF#8)).pwr.block = .doze ∨
      (s.mgmtAnswer true (List.replicate bytes 0xFF#8)).pwr.block = .hibernate := by
    simpa [State.asleep, State.mgmtAnswer] using h
  obtain ⟨hblock, hcode, -, hstate⟩ := State.startWake_of_asleep hasleep 2#3
  rw [State.mgmtWake]
  generalize State.startWake _ 2#3 = t at *
  rw [hstate]
  exact ⟨hblock, hcode, rfl, rfl⟩

/-! ### The obligations -/

/-- Settles O9. -/
theorem managementTransactionsReachTheMirror : Obligations.ManagementTransactionsReachTheMirror := by
  intro s addr hoff
  refine ⟨fun h bytes => ⟨execMgmtWrite_of_unanswered hoff h bytes, execMgmtRead_of_unanswered hoff h⟩, fun h hawake => ?_, fun h hasleep => ?_⟩
  · refine ⟨fun hi lo haligned => ⟨?_, scratchKept_of_other hoff h hawake haligned⟩, fun i w hi => mgmtWrite_scratch hoff h hawake hi w,
      fun hi lo rest hbad => scratchKept_of_bad hoff h hawake (.inl hbad),
      fun bytes h2 h10 => scratchKept_of_bad hoff h hawake (.inr ⟨h2, h10⟩), ?_⟩
    · refine ⟨_, execMgmtWrite_of_awake hoff h hawake _, ?_⟩
      rw [State.mgmtPut_offset _ haligned]
      exact ⟨rfl, rfl, rfl, rfl, rfl⟩
    · have hread : exec (.mgmtRead addr) s = .next (s.mgmtAnswer true (leBytes 8
          (if s.mgmt.offset.toNat < 0x1000 then (s.readReg (0x7F000 + s.mgmt.offset.toNat)).toNat else 0))) := by
        rw [show exec (.mgmtRead addr) s = execMgmtRead addr s from rfl, execMgmtRead, if_neg hoff, if_neg (by simp [h]),
          if_neg (by simp [hawake])]
      refine ⟨_, hread, rfl, rfl, fun hin => ?_, fun hout => ?_, rfl, rfl, rfl⟩
      · rw [if_pos hin]
        rfl
      · rw [if_neg (Nat.not_lt.2 hout)]
        rfl
  · have hput (bytes : List W8) : exec (.mgmtWrite addr bytes) s = .next (s.mgmtWake 0) := by
      rw [show exec (.mgmtWrite addr bytes) s = execMgmtWrite addr bytes s from rfl, execMgmtWrite, if_neg hoff, if_neg (by simp [h]),
        if_pos hasleep]
    have hread : exec (.mgmtRead addr) s = .next (s.mgmtWake 8) := by
      rw [show exec (.mgmtRead addr) s = execMgmtRead addr s from rfl, execMgmtRead, if_neg hoff, if_neg (by simp [h]), if_pos hasleep]
    intro c hc
    simp only [List.mem_cons, List.not_mem_nil, or_false] at hc
    rcases hc with rfl | rfl
    · obtain ⟨hblock, hcode, hmgmt, hstate⟩ := State.mgmtWake_of_asleep hasleep 8
      exact ⟨_, hread, hblock, hcode, by rw [hmgmt], by rw [hmgmt], by rw [hmgmt], fun _ => by rw [hmgmt], hstate⟩
    · obtain ⟨hblock, hcode, hmgmt, hstate⟩ := State.mgmtWake_of_asleep hasleep 0
      exact ⟨_, hput _, hblock, hcode, by rw [hmgmt], by rw [hmgmt], by rw [hmgmt], nofun, hstate⟩

theorem State.mgmtGet_of_awake {s : State} (hoff : s.pwr.block ≠ .off) (hawake : s.asleep = false) (hdynamic : s.mgmt.dynamic ≠ none)
    (ccc n : Nat) : s.mgmtGet ccc n = s.mgmtAnswer true ((List.range n).map fun i => Config.mgmtIdentity ccc i) := by
  rw [State.mgmtGet, if_neg hoff, if_neg hdynamic, if_neg (by simp [hawake])]

theorem State.mgmtGet_of_noAddress {s : State} (hoff : s.pwr.block ≠ .off) (hdynamic : s.mgmt.dynamic = none) (ccc n : Nat) :
    s.mgmtGet ccc n = s.mgmtAnswer false [] := by
  rw [State.mgmtGet, if_neg hoff, if_pos hdynamic]

/-- Awake, ENTDAA and SETDASA alike give an address to a block that has none. -/
theorem addressAssignment {s : State} (hoff : s.pwr.block ≠ .off) (hawake : s.asleep = false) (addr : BitVec 7) {c : Instr}
    (hc : c ∈ [Instr.entdaa addr, .setdasa addr]) :
    exec c s = .next (if s.mgmt.dynamic.isSome then s else { s with mgmt := { s.mgmt with dynamic := some addr } }.mgmtAnswer true []) := by
  simp only [List.mem_cons, List.not_mem_nil, or_false] at hc
  rcases hc with rfl | rfl
  · rw [show exec (.entdaa addr) s = execEntdaa addr s from rfl, execEntdaa]
    simp [hoff, hawake]
  · rw [show exec (.setdasa addr) s = execSetdasa addr s from rfl, execSetdasa]
    simp [hoff, hawake]

/-- Settles O10. -/
theorem commonCommandCodesActOnTheAddress : Obligations.CommonCommandCodesActOnTheAddress := by
  intro s hoff hawake
  refine ⟨fun addr c hc => ?_, ?_, fun p hp => ?_⟩
  · rw [addressAssignment hoff hawake addr hc]
    refine ⟨fun hsome => by rw [if_pos (Option.isSome_iff_ne_none.2 hsome)], fun hnone => ?_⟩
    rw [hnone]
    exact ⟨_, rfl, rfl, rfl, rfl, rfl, rfl⟩
  · have hexec : exec .rstdaa s = .next ({ s with mgmt := { s.mgmt with dynamic := none } }.mgmtAnswer true []) := by
      rw [show exec .rstdaa s = execRstdaa s from rfl, execRstdaa, if_neg (by simp [hoff, hawake])]
    exact ⟨_, hexec, rfl, rfl, rfl, rfl⟩
  · simp only [List.mem_cons, List.not_mem_nil, or_false] at hp
    have hexec : ∃ ccc, exec p.1 s = .next (s.mgmtGet ccc p.2) := by
      rcases hp with rfl | rfl | rfl | rfl <;> exact ⟨_, rfl⟩
    obtain ⟨ccc, hexec⟩ := hexec
    rw [hexec]
    refine ⟨fun hnone => by rw [State.mgmtGet_of_noAddress hoff hnone], fun hsome => ?_⟩
    rw [State.mgmtGet_of_awake hoff hawake hsome]
    exact ⟨_, rfl, rfl, rfl, by simp [State.mgmtAnswer], rfl, rfl, rfl⟩

end Sys2Proof.Machine
end

section
/-! SUPPORT. Writes that leave for host memory line by line, and reach it as one. -/

namespace Sys2Proof.Machine

/-! ### Adjacent splices -/

theorem Tab.ofList_append {α : Type} [DecidableEq α] (d : α) (a : Nat) (xs ys : List α) :
    Tab.ofList d a (xs ++ ys) = Tab.ofList d a xs ++ Tab.ofList d (a + xs.length) ys := by
  induction xs generalizing a with
  | nil => rfl
  | cons x rest ih =>
    rw [List.cons_append, Tab.ofList, Tab.ofList, ih, List.length_cons, Nat.add_right_comm, Nat.add_assoc]
    split <;> rfl

/-- A splice right behind another is one splice of both. -/
theorem Tab.splice_append {α : Type} [DecidableEq α] (d : α) (t : Tab α) (a : Nat) (xs ys : List α) :
    Tab.splice d (Tab.splice d t a xs) (a + xs.length) ys = Tab.splice d t a (xs ++ ys) := by
  have hlist {p : Nat × α} (hp : p ∈ Tab.ofList d a xs) : p.1 < a + xs.length := (Tab.mem_ofList hp).2.2
  have hbelow : (Tab.splice d t a xs).filter (fun p => decide (p.1 < a + xs.length)) =
      t.filter (fun p => decide (p.1 < a)) ++ Tab.ofList d a xs := by
    have hlater : t.filter (fun p => decide (p.1 < a + xs.length) && decide (a + xs.length ≤ p.1)) = [] :=
      List.filter_eq_nil_iff.2 fun p _ => by simp
    have hearlier : t.filter (fun p => decide (p.1 < a + xs.length) && decide (p.1 < a)) = t.filter (fun p => decide (p.1 < a)) :=
      List.filter_congr fun p _ => by simp; omega
    rw [Tab.splice, List.filter_append, List.filter_append, List.filter_filter, List.filter_filter, hlater, hearlier, List.append_nil,
      List.filter_eq_self.2 fun p hp => decide_eq_true (hlist hp)]
  have habove : (Tab.splice d t a xs).filter (fun p => decide (a + xs.length + ys.length ≤ p.1)) =
      t.filter (fun p => decide (a + xs.length + ys.length ≤ p.1)) := by
    have hearlier : t.filter (fun p => decide (a + xs.length + ys.length ≤ p.1) && decide (p.1 < a)) = [] :=
      List.filter_eq_nil_iff.2 fun p _ => by simp; omega
    have hlater : t.filter (fun p => decide (a + xs.length + ys.length ≤ p.1) && decide (a + xs.length ≤ p.1)) =
        t.filter (fun p => decide (a + xs.length + ys.length ≤ p.1)) :=
      List.filter_congr fun p _ => by simp; omega
    rw [Tab.splice, List.filter_append, List.filter_append, List.filter_filter, List.filter_filter, hlater, hearlier, List.nil_append,
      List.filter_eq_nil_iff.2 fun p hp => by have := hlist hp; simp; omega, List.nil_append]
  rw [Tab.splice, hbelow, habove, Tab.splice, Tab.ofList_append, List.length_append, Nat.add_assoc a]
  simp only [List.append_assoc]

theorem Memory.store_append (m : Memory) (a : Nat) (xs ys : List W8) : (m.store a xs).store (a + xs.length) ys = m.store a (xs ++ ys) :=
  Tab.splice_append ..

/-! ### Lines -/

/-- The piece of a write that lies in line `u`. -/
def linePiece (a : Nat) (bs : List W8) (u : Nat) : Nat × List W8 :=
  (max a (64 * u), (bs.drop (max a (64 * u) - a)).take (min (a + bs.length) (64 * u + 64) - max a (64 * u)))

theorem cutLines_eq (a : Nat) (bs : List W8) : cutLines (a, bs) = (unitsOf 64 a bs.length).map (linePiece a bs) := rfl

theorem linePiece_first (a : Nat) (bs : List W8) : linePiece a bs (a / 64) = (a, bs.take (64 * (a / 64 + 1) - a)) := by
  have hlo : max a (64 * (a / 64)) = a := by omega
  rw [linePiece, hlo, Nat.sub_self, List.drop_zero, Prod.mk.injEq, List.take_eq_take_iff]
  exact ⟨rfl, by omega⟩

theorem linePiece_later {a u : Nat} (bs : List W8) (hu : a < 64 * u) (hin : 64 * u < a + bs.length) :
    linePiece a bs u = (a + (bs.take (64 * u - a)).length, (bs.drop (64 * u - a)).take 64) := by
  have hlo : max a (64 * u) = 64 * u := by omega
  rw [linePiece, hlo, Prod.mk.injEq, List.take_eq_take_iff, List.length_take, List.length_drop]
  omega

/-- The pieces up to line `a / 64 + k` store what of the write lies below the next line. -/
theorem store_linePieces (m : Memory) (a : Nat) (bs : List W8) (k : Nat) (hk : 64 * (a / 64 + k) < a + bs.length) :
    (((List.range (k + 1)).map fun i => linePiece a bs (a / 64 + i)).foldl (fun m w => m.store w.1 w.2) m) =
      m.store a (bs.take (64 * (a / 64 + k + 1) - a)) := by
  induction k with
  | zero => simp [linePiece_first]
  | succ k ih =>
    have hsum : 64 * (a / 64 + (k + 1) + 1) - a = 64 * (a / 64 + (k + 1)) - a + 64 := by omega
    rw [List.range_succ, List.map_append, List.foldl_append, ih (by omega)]
    simp only [List.map_cons, List.map_nil, List.foldl_cons, List.foldl_nil]
    rw [linePiece_later bs (by omega) hk, hsum, List.take_add, ← Memory.store_append, Nat.add_assoc]

/-- What is cut at lines and stored piece by piece is stored whole. -/
theorem store_cutLines (m : Memory) (a : Nat) {bs : List W8} (h : bs ≠ []) :
    (cutLines (a, bs)).foldl (fun m w => m.store w.1 w.2) m = m.store a bs := by
  have hpos : 0 < bs.length := List.length_pos_iff.2 h
  rw [cutLines_eq, unitsOf, if_neg (by omega), List.map_map]
  refine (store_linePieces m a bs _ (by omega)).trans ?_
  rw [List.take_of_length_le (by omega)]

theorem foldl_storeHost_host (ws : List (Nat × List W8)) (f : Nat × List W8 → Bool) (s : State) :
    (ws.foldl (fun s w => s.storeHost w.1 w.2 (f w)) s).host = ws.foldl (fun m w => m.store w.1 w.2) s.host := by
  induction ws generalizing s with
  | nil => rfl
  | cons w rest ih => rw [List.foldl_cons, ih, List.foldl_cons]; rfl

/-- A write stands in host memory when it leaves. -/
theorem State.performRequest_host {s : State} {r : Request} (hwrite : r.write = true) (hpurpose : ∀ o i w, r.purpose ≠ .atomic o i w)
    (hbytes : r.bytes ≠ []) : (s.performRequest r).host = s.host.store r.addr r.bytes := by
  unfold State.performRequest
  split
  · exact absurd ‹r.purpose = _› (hpurpose _ _ _)
  · rw [if_pos hwrite, foldl_storeHost_host, store_cutLines _ _ hbytes]

end Sys2Proof.Machine
end

section
/-! SUPPORT. Registers of block control in Run: the event queue, the interrupt vectors and the patch (R254, R261, R263). -/

namespace Sys2Proof.Machine

theorem State.sashWrite_block {s : State} (h : s.sashOpen) {o d : Nat} (hlo : 0x1000 ≤ o) (hhi : o < 0x2000) (haligned : o % 8 = 0)
    (hd : d < 2 ^ 64) : s.sashWrite o d = (s.writeBlock o d).answered := by
  rw [State.sashWrite_of_sashOpen h (by omega) haligned hd, State.writeReg, if_neg (by omega), if_pos hhi]

/-! ### The event queue -/

theorem exec_evtPop_of_sashOpen {s : State} (h : s.sashOpen) : exec .evtPop s = .next (s.popEvent.2.respond false s.popEvent.1) := by
  have hgate : s.gate false 0x1008 = .answer := State.gate_of_sashOpen h false 0x1008
  rw [show exec .evtPop s = .next (s.sashAccess false 0x1008#20 0#64) from rfl, State.sashAccess, if_neg (by decide)]
  simp only [show (0x1008#20).toNat = 0x1008 from rfl, hgate]
  rfl

theorem eventPopTakesTheOldest : EventPopTakesTheOldest := by
  intro s hopen
  rw [exec_evtPop_of_sashOpen hopen]
  refine ⟨fun e rest h => ?_, fun h => ?_⟩
  · simp only [State.popEvent, h]
  · simp only [State.popEvent, h]

/-! ### Interrupt vectors -/

theorem exec_irqUnmask_of_sashOpen {s : State} (h : s.sashOpen) (mask : W16) :
    exec (.irqUnmask mask) s = .next (s.writeIrqMask mask).answered := by
  have hmask := mask.isLt
  calc exec (.irqUnmask mask) s = .next (s.sashWrite 0x1400 mask.toNat) := rfl
    _ = .next (s.writeBlock 0x1400 mask.toNat).answered := by
      rw [State.sashWrite_block h (by decide) (by decide) (by decide) (by omega)]
    _ = .next (s.writeIrqMask mask).answered := by simp [State.writeBlock]

theorem bitsBelow_zero (n : Nat) : bitsBelow n 0 = [] :=
  List.filter_eq_nil_iff.2 fun i _ => by simp

theorem filter_beq_range {n v : Nat} (hv : v < n) : ((List.range n).filter fun i => i == v) = [v] := by
  rw [List.filter_beq, List.count_range, if_pos hv]
  rfl

theorem bitsBelow_two_pow {n v : Nat} (hv : v < n) : bitsBelow n (2 ^ v) = [v] := by
  rw [bitsBelow, ← filter_beq_range hv]
  refine List.filter_congr fun i _ => ?_
  rw [Nat.testBit_two_pow]
  by_cases h : i = v
  · simp [h]
  · simp [h, Ne.symm h]

theorem getLsbD_of_and_not {a b : W16} {v : Nat} (h : (a &&& ~~~b).getLsbD v = true) : b.getLsbD v = false := by
  simp only [BitVec.getLsbD_and, BitVec.getLsbD_not, Bool.and_eq_true, Bool.not_eq_true'] at h
  exact h.2.2

/-- From `s` to `t` the block has sent requests and logged errors, and every register of block control stays. -/
structure Logs (s t : State) : Prop where
  frame : t = { s with host := t.host, hostPoison := t.hostPoison, ports := t.ports, err := t.err }

namespace Logs

variable {s t u : State}

theorem refl (s : State) : Logs s s := ⟨rfl⟩

theorem trans (h : Logs s t) (k : Logs t u) : Logs s u := ⟨k.frame.trans (by rw [h.frame])⟩

theorem of_sends (h : Sends s t) : Logs s t := ⟨Eq.trans h (by rw [h.err])⟩

theorem blk (h : Logs s t) : t.blk = s.blk := by rw [h.frame]
theorem mantel (h : Logs s t) : t.mantel = s.mantel := by rw [h.frame]
theorem rings (h : Logs s t) : t.rings = s.rings := by rw [h.frame]
theorem ring (h : Logs s t) (n : Nat) : t.ring n = s.ring n := by rw [State.ring, h.rings, State.ring]
theorem hearths (h : Logs s t) : t.hearths = s.hearths := by rw [h.frame]
theorem pwr (h : Logs s t) : t.pwr = s.pwr := by rw [h.frame]
theorem vault (h : Logs s t) : t.vault = s.vault := by rw [h.frame]

end Logs

theorem State.setErr_logs (s : State) (e : Errors) : Logs s { s with err := e } := ⟨rfl⟩

theorem State.logError_logs (s : State) (e : ErrorEvent) : Logs s (s.logError e) := by
  have hcount (c : Prop) [Decidable c] :
      Logs s (if c then { s with err := { s.err with corrected := satInc s.err.corrected } } else s) := by
    split
    · exact s.setErr_logs _
    · exact .refl s
  unfold State.logError
  extract_lets e' _ s'
  have hs' : Logs s s' := hcount _
  split
  · exact hs'
  · split
    · exact (hs'.trans (s'.setErr_logs _)).trans (.of_sends (State.setPort_sends ..))
    · split
      · exact hs'.trans (s'.setErr_logs _)
      · exact (hs'.trans (s'.setErr_logs _)).trans (.of_sends (State.request_sends ..))

/-- The message of a vector that is not masked leaves, or is logged as lost. -/
theorem State.message_logs {s : State} {v : Nat} (h : s.blk.irqMask.getLsbD v = false) (cls : BitVec 2) : Logs s (s.message v cls) := by
  rw [State.message, if_neg (by simp [h])]
  dsimp only
  split
  · exact s.logError_logs _
  · exact .of_sends (s.request_sends ..)

theorem messages_log {vs : List Nat} {s : State} (h : ∀ v ∈ vs, s.blk.irqMask.getLsbD v = false) (cls : BitVec 2) :
    Logs s (vs.foldl (fun s v => s.message v cls) s) := by
  induction vs generalizing s with
  | nil => exact .refl s
  | cons v rest ih =>
    have hfirst := State.message_logs (h v List.mem_cons_self) cls
    refine hfirst.trans (ih fun w hw => ?_)
    rw [hfirst.blk]
    exact h w (List.mem_cons_of_mem _ hw)

/-- The registers of the vectors under a write of MASK, before any message leaves. -/
def State.maskWritten (s : State) (mask : W16) : State :=
  { s with blk := { s.blk with irqMask := mask, irqPend := s.blk.irqPend &&& mask } }

theorem State.writeIrqMask_eq (s : State) (mask : W16) :
    s.writeIrqMask mask = (bitsBelow 16 (s.blk.irqPend &&& ~~~mask).toNat).foldl (fun s v => s.message v 3#2) (s.maskWritten mask) := rfl

theorem State.writeIrqMask_logs (s : State) (mask : W16) : Logs (s.maskWritten mask) (s.writeIrqMask mask) := by
  rw [State.writeIrqMask_eq]
  exact messages_log (fun v hv => getLsbD_of_and_not (List.mem_filter.1 hv).2) 3#2

/-- The message of an unmasked vector whose port has credit stands at its address when it leaves. -/
theorem State.message_of_free {s : State} {v : Nat} {cls : BitVec 2} (hmask : s.blk.irqMask.getLsbD v = false) (hawake : s.portAwake 0 = true)
    (hwaiting : (s.port 0).waiting = []) (hinflight : (s.port 0).inflight = []) (hcredits : 3 ≤ (s.port 0).wrCredits.toNat)
    (haddr : (Tab.at 0#64 s.blk.irqAddr v).toNat < 2 ^ 52) :
    Sends s (s.message v cls) ∧
      (s.message v cls).host = s.host.store (Tab.at 0#64 s.blk.irqAddr v).toNat (leBytes 8 (Tab.at 0#64 s.blk.irqData v).toNat) := by
  obtain ⟨hup, hhalted⟩ := State.portAwake_iff.1 hawake
  rw [State.message, if_neg (by simp [hmask])]
  dsimp only
  rw [if_neg (by omega)]
  refine ⟨State.request_sends .., ?_⟩
  obtain ⟨shared, hcredit⟩ := Port.credit_isSome (x := s.port 0) (write := true) (k := 0) (by simp [hinflight]) (by decide) hcredits cls
  rw [State.request_of_free hup (.inl hhalted) hwaiting hcredit, State.performRequest_host rfl (by simp [Request.mk']) (by simp [Request.mk', leBytes])]
  rfl

theorem unmaskingSendsAPendingMessage : UnmaskingSendsAPendingMessage := by
  intro s mask hopen
  rw [exec_irqUnmask_of_sashOpen hopen]
  refine ⟨fun hnone => ?_, ?_, fun v hv hone hawake hwaiting hinflight hcredits haddr => ?_⟩
  · have hsame : s.blk.irqPend &&& mask = s.blk.irqPend := by
      calc s.blk.irqPend &&& mask = (s.blk.irqPend &&& mask) ||| (s.blk.irqPend &&& ~~~mask) := by rw [hnone, BitVec.or_zero]
        _ = s.blk.irqPend := by
          ext i
          simp [← Bool.and_or_distrib_left]
    rw [State.writeIrqMask_eq, hnone, show (0#16).toNat = 0 from rfl, bitsBelow_zero, List.foldl_nil, State.maskWritten, hsame]
  · have hlogs := s.writeIrqMask_logs mask
    generalize s.writeIrqMask mask = t at *
    refine ⟨_, rfl, ?_, ?_, hlogs.mantel, hlogs.rings, hlogs.hearths⟩
    · exact congrArg Block.irqMask hlogs.blk
    · exact congrArg Block.irqPend hlogs.blk
  · have hbits : bitsBelow 16 (s.blk.irqPend &&& ~~~mask).toNat = [v] := by
      rw [hone, BitVec.toNat_ofNat, Nat.mod_eq_of_lt (Nat.pow_lt_pow_right (by decide) hv), bitsBelow_two_pow hv]
    have hmask : mask.getLsbD v = false := getLsbD_of_and_not (a := s.blk.irqPend) (by
      rw [hone, BitVec.getLsbD_ofNat, Nat.testBit_two_pow_self, decide_eq_true hv]
      rfl)
    obtain ⟨hsends, hhost⟩ := State.message_of_free (s := s.maskWritten mask) (cls := 3#2) hmask hawake hwaiting hinflight hcredits haddr
    rw [State.writeIrqMask_eq, hbits, List.foldl_cons, List.foldl_nil]
    generalize (s.maskWritten mask).message v 3#2 = t at *
    refine ⟨_, rfl, ?_, ?_, hhost, hsends.mantel, hsends.rings, hsends.hearths, ?_⟩
    · exact congrArg Block.irqMask hsends.blk
    · exact congrArg Block.irqPend hsends.blk
    · exact (congrArg Block.events hsends.blk :)

/-- Settles O16. -/
theorem eventsPopAndMessagesLeave : Obligations.EventsPopAndMessagesLeave := ⟨eventPopTakesTheOldest, unmaskingSendsAPendingMessage⟩

/-! ### The patch -/

theorem exec_patchGo_of_sashOpen {s : State} (h : s.sashOpen) (ctl : W64) :
    exec (.patchGo ctl) s = .next (State.patchGo { s with blk := { s.blk with patchLen := ctl.setWidth 13 } }).answered := by
  have hgo : flag (ctl ||| (1#64 <<< 63)).toNat 0 63 = true := by
    rw [flag, BitVec.testBit_toNat]
    simp
  have hlen : BitVec.ofNat 13 (ctl ||| (1#64 <<< 63)).toNat = ctl.setWidth 13 := by
    rw [BitVec.ofNat_toNat]
    ext i hi
    simp
  calc exec (.patchGo ctl) s = .next (s.sashWrite 0x1028 (ctl ||| (1#64 <<< 63)).toNat) := rfl
    _ = .next (s.writeBlock 0x1028 (ctl ||| (1#64 <<< 63)).toNat).answered := by
      rw [State.sashWrite_block h (by decide) (by decide) (by decide) (ctl ||| (1#64 <<< 63)).isLt]
    _ = _ := by
      generalize (ctl ||| (1#64 <<< 63)).toNat = d at *
      simp [State.writeBlock, hgo, hlen]

theorem goOfAPatch {s : State} (h : s.sashOpen) (ctl : W64) :
    ∃ t, exec (.patchGo ctl) s = .next t ∧ t.blk.patchLen = ctl.setWidth 13 ∧ t = { s with blk := t.blk, sash := t.sash } ∧
      ((s.blk.patchState = 0#3 ∨ s.blk.patchState = 3#3) → t.blk.patchState = 1#3) ∧
      (¬(s.blk.patchState = 0#3 ∨ s.blk.patchState = 3#3) → t.blk.patchState = s.blk.patchState ∧ t.blk.patchReason = 5#4) := by
  rw [exec_patchGo_of_sashOpen h, State.patchGo]
  dsimp only
  by_cases hstate : s.blk.patchState = 0#3 ∨ s.blk.patchState = 3#3
  · rw [if_pos hstate]
    exact ⟨_, rfl, rfl, rfl, fun _ => rfl, fun hn => absurd hstate hn⟩
  · rw [if_neg hstate]
    exact ⟨_, rfl, rfl, rfl, fun hn => absurd hn hstate, fun _ => ⟨rfl, rfl⟩⟩

/-- The record of a failed image read draws the line that failed, and no more. -/
theorem State.patchRead_logs (s : State) (reason : BitVec 4) : ∃ k, Logs { s with draws := k } (s.patchRead reason) := by
  rw [State.patchRead]
  split
  · exact ⟨s.draws + 1, State.logError_logs ..⟩
  · exact ⟨s.draws, .refl s⟩

/-- The registers of the patch after a verification with REASON `r`. -/
def Block.verified (b : Block) (r : BitVec 4) (version : W16) (minor major : W8) : Block :=
  { b with
    patchState := if r = 0#4 then 2#3 else 3#3, patchReason := r, patchVersion := if r = 0#4 then version else 0#16,
    patchMinor := if r = 0#4 ∨ r = 2#4 then minor else 0#8, patchMajor := if r = 0#4 ∨ r = 2#4 then major else 0#8,
    patchImage := if r = 0#4 then b.patchImage else [] }

/-- The end of a verification with a verdict sets the registers and BLK_EVENT.PATCH. -/
theorem exec_patchVerifyDone_of_verdict {s : State} {reason r : BitVec 4} {version : W16} {minor major : W8} (hrun : s.pwr.block = .run)
    (hstate : s.blk.patchState = 1#3) (h0 : s.portAwake 0 = true) (h2 : s.portAwake 2 = true)
    (hverdict : s.blk.verdict reason minor major = some r) :
    ∃ t, exec (.patchVerifyDone reason version minor major) s = .next t ∧
      t.blk.patchState = (s.blk.verified r version minor major).patchState ∧ t.blk.patchReason = r ∧
      t.blk.patchVersion = (s.blk.verified r version minor major).patchVersion ∧
      t.blk.patchMinor = (s.blk.verified r version minor major).patchMinor ∧
      t.blk.patchMajor = (s.blk.verified r version minor major).patchMajor ∧
      t.blk.blkEvent.getLsbD 2 = true ∧ t.mantel = s.mantel ∧ t.rings = s.rings ∧ t.hearths = s.hearths := by
  have hexec : exec (.patchVerifyDone reason version minor major) s =
      .next (({ s with blk := s.blk.verified r version minor major }.patchRead r).event .patch 0 0) := by
    rw [show exec (.patchVerifyDone reason version minor major) s = execPatchVerifyDone reason version minor major s from rfl,
      execPatchVerifyDone]
    simp only [hstate, hrun, h0, h2, hverdict, Block.verified, decide_eq_true_eq]
    rfl
  refine ⟨_, hexec, ?_⟩
  obtain ⟨k, hlogs⟩ := State.patchRead_logs { s with blk := s.blk.verified r version minor major } r
  generalize State.patchRead _ r = u at *
  have hraises := u.event_raises .patch 0 0
  have hevent := u.event_blkEvent .patch 0 0
  generalize u.event .patch 0 0 = t at *
  have hblk := congrArg State.blk hraises.frame
  simp only [hlogs.blk] at hblk
  refine ⟨?_, ?_, ?_, ?_, ?_, hevent, hraises.mantel.trans hlogs.mantel, hraises.rings.trans hlogs.rings, hraises.hearths.trans hlogs.hearths⟩ <;>
    rw [hblk]
  rfl

theorem Block.verdict_of_length {b : Block} (hpos : 0 < b.patchLen.toNat) (hle : b.patchLen.toNat ≤ 4096) (reason : BitVec 4) (minor major : W8) :
    b.verdict reason minor major =
      if reason = 1#4 ∨ reason = 4#4 then some reason
      else if minor ≠ 3#8 ∨ major ≠ 1#8 then some 2#4
      else if reason = 0#4 then some 0#4
      else none := by
  have hlen : ¬(b.patchLen = 0#13 ∨ 4096 < b.patchLen.toNat) := by
    rintro (h | h)
    · rw [h] at hpos
      exact absurd hpos (by decide)
    · omega
  rw [Block.verdict, if_neg hlen]

/-- Settles O12. -/
theorem patchGoVerifiesAnImage : Obligations.PatchGoVerifiesAnImage := by
  intro s hopen
  refine ⟨goOfAPatch hopen, fun version hstate h0 h2 hpos hle => ⟨?_, fun minor major hother => ?_, fun reason hreason => ?_⟩⟩
  · have hverdict : s.blk.verdict 0#4 3#8 1#8 = some 0#4 := Block.verdict_of_length hpos hle ..
    obtain ⟨t, ht, hpatch, hcause, hversion, -, -, hrest⟩ :=
      exec_patchVerifyDone_of_verdict (version := version) hopen.1 hstate h0 h2 hverdict
    exact ⟨t, ht, hpatch, hcause, hversion, hrest⟩
  · have hverdict : s.blk.verdict 2#4 minor major = some 2#4 := by
      rw [Block.verdict_of_length hpos hle, if_neg (by decide), if_pos (by tauto)]
    obtain ⟨t, ht, hpatch, hcause, -, hminor, hmajor, hrest⟩ :=
      exec_patchVerifyDone_of_verdict (version := version) hopen.1 hstate h0 h2 hverdict
    exact ⟨t, ht, hpatch, hcause, hminor, hmajor, hrest⟩
  · simp only [List.mem_cons, List.not_mem_nil, or_false] at hreason
    have hverdict : s.blk.verdict reason 3#8 1#8 = some reason := by
      rw [Block.verdict_of_length hpos hle, if_pos hreason]
    obtain ⟨t, ht, hpatch, hcause, -, -, -, hrest⟩ := exec_patchVerifyDone_of_verdict (version := version) hopen.1 hstate h0 h2 hverdict
    refine ⟨t, ht, hpatch.trans ?_, hcause, hrest⟩
    rcases hreason with rfl | rfl <;> rfl

end Sys2Proof.Machine
end

section
/-! SUPPORT. Accesses of the Sash port outside Run and in a reset, and doorbells that are held (R307, R313, R334, R367). -/

namespace Sys2Proof.Machine

/-! ### The gate -/

theorem emberAnswers_iff (o : Nat) : emberAnswers o = true ↔ EmberOffset o := by
  simp [emberAnswers, EmberOffset, or_assoc]

/-- What the port answers from the commit to Run: with no access stalled, what Ember answers, and a doorbell. -/
def State.AnswersAsleep (s : State) (write : Bool) (o : Nat) : Prop :=
  s.sash.stalled = [] ∧ (EmberOffset o ∨ (write = true ∧ 0x10000 ≤ o ∧ o < 0x10400))

section

variable {s : State} (hrun : s.pwr.block ≠ .run) (hoff : s.pwr.block ≠ .off) (hreset : s.vault.resetting = false)
  (hbusy : s.vault.busy = false)

include hrun hoff hreset hbusy

theorem State.gate_of_answersAsleep {write : Bool} {o : Nat} (h : s.AnswersAsleep write o) : s.gate write o = .answer := by
  obtain ⟨hnone, hember | ⟨hwrite, hlo, hhi⟩⟩ := h
  · simp [State.gate, hrun, hoff, hreset, hbusy, hnone, (emberAnswers_iff o).2 hember]
  · simp [State.gate, hrun, hoff, hreset, hbusy, hnone, hwrite, hlo, hhi]

theorem State.gate_of_not_answersAsleep {write : Bool} {o : Nat} (h : ¬s.AnswersAsleep write o) : s.gate write o = .stall := by
  by_cases hnone : s.sash.stalled = []
  · have hrest : ¬(EmberOffset o ∨ (write = true ∧ 0x10000 ≤ o ∧ o < 0x10400)) := fun hanswers => h ⟨hnone, hanswers⟩
    rw [not_or, ← emberAnswers_iff] at hrest
    obtain ⟨hember, hdoorbell⟩ := hrest
    have hdoorbell : (write && decide (0x10000 ≤ o) && decide (o < 0x10400)) = false := by
      rw [Bool.eq_false_iff]
      simpa [and_assoc] using hdoorbell
    simp only [State.gate, hrun, hoff, hreset, hbusy, hnone, hember, hdoorbell]
    rfl
  · simp [State.gate, hrun, hoff, hreset, hbusy, hnone]

end

/-- In a reset or a transition, what is answered is Ember's registers and SEAL_LC. -/
theorem State.gate_of_reset {s : State} (hoff : s.pwr.block ≠ .off) (hreset : s.vault.resetting = true ∨ s.vault.busy = true) (write : Bool)
    {o : Nat} (hember : ¬EmberOffset o) (hother : o ∉ [0x4010, 0x4018, 0x4020, 0x38028, 0x40000]) : s.gate write o = .zero := by
  have hunanswered : resetAnswers o = false := by
    simp only [List.mem_cons, List.not_mem_nil, or_false, not_or] at hother
    simp [resetAnswers, hother, Bool.eq_false_iff, emberAnswers_iff, hember]
  have hclosed : ((s.vault.resetting || s.vault.busy) && !resetAnswers o) = true := by simp [hunanswered, hreset]
  rw [State.gate, if_neg hoff, if_pos hclosed]

/-! ### Accesses -/

theorem exec_sashWakeAccess_answer {s : State} {write : Bool} {off : BitVec 20} (haligned : off.toNat % 8 = 0)
    (hgate : s.gate write off.toNat = .answer) (d : W64) : exec (.sashWakeAccess write off d) s = .next (s.access write off.toNat d.toNat) := by
  rw [show exec (.sashWakeAccess write off d) s = .next (s.sashAccess write off d) from rfl, State.sashAccess, if_neg (not_not.2 haligned)]
  simp only [hgate]

/-- An access waits behind those that stall. -/
def State.queueAccess (s : State) (a : StalledAccess) : State := { s with sash := { s.sash with stalled := s.sash.stalled ++ [a] } }

theorem exec_sashWakeAccess_stall {s : State} {write : Bool} {off : BitVec 20} (haligned : off.toNat % 8 = 0)
    (hgate : s.gate write off.toNat = .stall) (d : W64) :
    exec (.sashWakeAccess write off d) s = .next
      (if s.sash.stalled.length < 8 then
        (s.queueAccess { write := write, off := off, data := d, bad := false }).startWake 3#3
      else s) := by
  rw [show exec (.sashWakeAccess write off d) s = .next (s.sashAccess write off d) from rfl, State.sashAccess, if_neg (not_not.2 haligned)]
  simp only [hgate, State.stallAccess]
  split <;> rfl

theorem sleepingAccessesWakeOrAreAnswered : SleepingAccessesWakeOrAreAnswered := by
  intro s write off d hrun hoff hreset hbusy haligned queued
  have hanswer {w : Bool} := State.gate_of_answersAsleep hrun hoff hreset hbusy (write := w) (o := off.toNat)
  have hstalls := State.gate_of_not_answersAsleep hrun hoff hreset hbusy (write := write) (o := off.toNat)
  refine ⟨fun hnone hember => ⟨?_, ?_⟩, fun hfull => ?_, fun hroom hstall => ?_⟩
  · have hnot : off.toNat ≠ 0x1008 := by
      intro h
      rw [h, EmberOffset] at hember
      omega
    rw [exec_sashWakeAccess_answer haligned (hanswer ⟨hnone, .inl hember⟩), State.access, if_neg (by decide), State.sashRead,
      if_neg hnot]
  · rw [exec_sashWakeAccess_answer haligned (hanswer ⟨hnone, .inl hember⟩), State.access, if_pos rfl]
    rfl
  · have hsome : s.sash.stalled ≠ [] := by
      intro h
      rw [h] at hfull
      exact absurd hfull (by decide)
    rw [exec_sashWakeAccess_stall haligned (hstalls fun h => hsome h.1), if_neg (by omega)]
  · have hqueue : s.queueAccess { write := write, off := off, data := d, bad := false } = queued := rfl
    rw [exec_sashWakeAccess_stall haligned (hstalls (by unfold State.AnswersAsleep; tauto)), if_pos hroom, hqueue]
    refine ⟨fun hasleep => ?_, fun hentering => ?_, fun hwaking => ?_⟩
    · obtain ⟨hblock, hcode, hcount, hstate⟩ := State.startWake_of_asleep (s := queued) hasleep 3#3
      refine ⟨_, rfl, hblock, hcode, hcount, (congrArg State.sash hstate :), ?_⟩
      generalize State.startWake _ 3#3 = t at *
      rw [hstate]
    · rw [State.startWake_of_entering (s := queued) hentering]
    · rw [State.startWake_of_awake (s := queued) (by simp [queued, hwaking]) (by simp [queued, hwaking]) (by simp [queued, hwaking])]

theorem accessesInAResetReadZero : AccessesInAResetReadZero := by
  intro s write off d hoff hreset haligned hember hother
  rw [show exec (.sashWakeAccess write off d) s = .next (s.sashAccess write off d) from rfl, State.sashAccess, if_neg (not_not.2 haligned)]
  simp only [State.gate_of_reset hoff hreset write hember hother]

/-! ### Doorbells -/

/-- A ring with a TAIL that Ember holds. -/
def Ring.holding (r : Ring) (t : W32) : Ring := { r with held := some t }

theorem exec_doorbellWrite_of_transition {s : State} (hrun : s.pwr.block ≠ .run) (hoff : s.pwr.block ≠ .off)
    (hreset : s.vault.resetting = false) (hbusy : s.vault.busy = false) (hnone : s.sash.stalled = []) (n : BitVec 7) (d : W64) :
    exec (.doorbellWrite n d) s = .next (State.answered
      (if s.pwr.dbWake then (s.setRing n.toNat ((s.ring n.toNat).holding (d.setWidth 32))).startWake 1#3
       else s.setRing n.toNat ((s.ring n.toNat).holding (d.setWidth 32)))) := by
  have hn := n.isLt
  have hoffset : (BitVec.ofNat 20 (doorbellOffset n.toNat)).toNat = doorbellOffset n.toNat :=
    Nat.mod_eq_of_lt (by rw [doorbellOffset]; omega)
  have haligned : (BitVec.ofNat 20 (doorbellOffset n.toNat)).toNat % 8 = 0 := by
    rw [hoffset, doorbellOffset]
    omega
  have hgate : s.gate true (BitVec.ofNat 20 (doorbellOffset n.toNat)).toNat = .answer := by
    refine State.gate_of_answersAsleep hrun hoff hreset hbusy ⟨hnone, .inr ⟨rfl, ?_⟩⟩
    rw [hoffset, doorbellOffset]
    omega
  have hexec : exec (.doorbellWrite n d) s =
      exec (.sashWakeAccess true (BitVec.ofNat 20 (doorbellOffset n.toNat)) (BitVec.ofNat 64 d.toNat)) s := rfl
  rw [hexec, BitVec.ofNat_toNat, BitVec.setWidth_eq, exec_sashWakeAccess_answer haligned hgate, State.access, if_pos rfl, hoffset,
    State.writeReg_doorbellOffset s hn, State.writeDoorbell, if_neg hrun, BitVec.ofNat_toNat]
  rfl

theorem sleepingDoorbellsAreHeld : SleepingDoorbellsAreHeld := by
  intro s n d hrun hoff hreset hbusy hnone
  rw [exec_doorbellWrite_of_transition hrun hoff hreset hbusy hnone]
  have hself := s.ring_setRing_self n.toNat ((s.ring n.toNat).holding (d.setWidth 32))
  have hother (m : Nat) (hm : m ≠ n.toNat) := (s.ring_setRing n.toNat ((s.ring n.toNat).holding (d.setWidth 32)) m).trans (if_neg hm)
  have hheld : s.setRing n.toNat ((s.ring n.toNat).holding (d.setWidth 32)) =
    { s with rings := (s.setRing n.toNat ((s.ring n.toNat).holding (d.setWidth 32))).rings } := rfl
  generalize s.setRing n.toNat ((s.ring n.toNat).holding (d.setWidth 32)) = u at *
  have hpwr : u.pwr = s.pwr := by rw [hheld]
  have hhearths : u.hearths = s.hearths := by rw [hheld]
  by_cases hwake : s.pwr.dbWake = true
  · rw [if_pos hwake]
    by_cases hasleep : s.pwr.block = .doze ∨ s.pwr.block = .hibernate
    · obtain ⟨hblock, hcode, -, hstate⟩ := State.startWake_of_asleep (s := u) (hpwr ▸ hasleep) 1#3
      have hrings : (u.startWake 1#3).rings = u.rings := by rw [hstate]
      generalize u.startWake 1#3 = t at *
      have hring (m : Nat) : t.ring m = u.ring m := by rw [State.ring, hrings, State.ring]
      refine ⟨_, rfl, (hring _).trans hself, fun m hm => (hring m).trans (hother m hm), ?_, fun h => absurd (hwake.symm.trans h) nofun,
        fun _ _ => ⟨hblock, hcode⟩, fun _ h => ?_, fun h => ?_⟩
      · rw [hstate, hheld]
        rfl
      · rcases hasleep with h' | h' <;> exact absurd (h'.symm.trans h) nofun
      · rcases hasleep with h' | h' <;> exact absurd (h'.symm.trans h) nofun
    by_cases hentering : s.pwr.block = .entering
    · have hkept := State.startWake_of_entering (s := u) (hpwr ▸ hentering) 1#3
      refine ⟨_, rfl, ?_, fun m hm => ?_, ?_, fun h => absurd (hwake.symm.trans h) nofun, fun _ h => absurd h hasleep, fun _ _ => ?_,
        fun h => absurd (hentering.symm.trans h) nofun⟩ <;> rw [hkept]
      · exact hself
      · exact hother m hm
      · rw [hheld]
        rfl
      · rw [hpwr]
        rfl
    · rw [State.startWake_of_awake (by rw [hpwr]; tauto) (by rw [hpwr]; tauto) (by rw [hpwr]; exact hentering)]
      exact ⟨_, rfl, hself, hother, by rw [hheld]; rfl, fun _ => ⟨hpwr, hhearths⟩, fun _ h => absurd h hasleep,
        fun _ h => absurd h hentering, fun _ => ⟨hpwr, hhearths⟩⟩
  · rw [if_neg hwake]
    exact ⟨_, rfl, hself, hother, by rw [hheld]; rfl, fun _ => ⟨hpwr, hhearths⟩, fun h => absurd h hwake, fun h => absurd h hwake,
      fun _ => ⟨hpwr, hhearths⟩⟩

theorem heldBackDoorbells : HeldBackDoorbells := by
  intro s n d hopen
  rw [exec_doorbellWrite_of_sashOpen hopen]
  refine ⟨fun hhalted => ?_, fun hfatal halarm => ⟨fun hreplay => ?_, fun hreplay hheld => ?_⟩⟩
  · rw [State.doorbell, if_pos (by simpa using hhalted)]
  · rw [State.doorbell, if_neg (by simp [hfatal, halarm]), if_pos hreplay]
  · rw [State.doorbell, if_neg (by simp [hfatal, halarm]), if_neg (by simp [hreplay]), if_pos (by simpa using hheld)]
    rfl

/-! ### Commands that are accesses -/

/-- A command that writes a word at an offset is the access of that offset with that word. -/
theorem sashWrite_eq_access (s : State) {off o d : Nat} {w : W64} (ho : off = o) (hd : BitVec.ofNat 64 d = w) :
    Host.Outcome.next (s.sashWrite off d) = exec (.sashWakeAccess true (BitVec.ofNat 20 o) w) s := by
  rw [← ho, ← hd]
  rfl

theorem ofNat_toNat_self (w : W64) : BitVec.ofNat 64 w.toNat = w := by rw [BitVec.ofNat_toNat, BitVec.setWidth_eq]

/-- A short field alone in its word. -/
theorem ofNat_toNat_setWidth {k : Nat} (v : BitVec k) : BitVec.ofNat 64 v.toNat = v.setWidth 64 := BitVec.ofNat_toNat ..

/-- A field with a flag above it. -/
theorem ofNat_add_place {m f : Nat} (hm : m < 2 ^ f) : BitVec.ofNat 64 (m + place 0 f 1) = BitVec.ofNat 64 m ||| BitVec.ofNat 64 (2 ^ f) := by
  have hplace : place 0 f 1 = 2 ^ f * 1 := by rw [place, Nat.mul_zero, Nat.zero_add, Nat.shiftLeft_eq, Nat.mul_comm]
  rw [hplace, Nat.add_comm, Nat.two_pow_add_eq_or_of_lt hm, BitVec.ofNat_or, BitVec.or_comm, Nat.mul_one]

theorem registerCommandsAreAccesses : RegisterCommandsAreAccesses := by
  intro s off d n v p code set mask bits pub wr c hc
  simp only [registerCommands, List.cons_append, List.nil_append, List.mem_cons, List.not_mem_nil, or_false] at hc
  rcases hc with rfl | rfl | rfl | rfl | rfl | rfl | rfl | rfl | rfl | rfl | rfl | rfl | rfl | rfl | rfl | rfl | rfl | rfl | rfl
  · rfl
  · have hk := s.vault.keyRef.isLt
    exact sashWrite_eq_access s rfl ((ofNat_add_place (by omega)).trans (by rw [ofNat_toNat_setWidth]; rfl))
  · rfl
  · exact sashWrite_eq_access s rfl (ofNat_toNat_self d)
  · exact sashWrite_eq_access s (by rw [ringOffset]; omega) (ofNat_toNat_self _)
  · exact sashWrite_eq_access s (by rw [ringOffset]; omega) (ofNat_toNat_self _)
  · exact sashWrite_eq_access s (by rw [ringOffset]; omega) rfl
  · exact sashWrite_eq_access s rfl (ofNat_toNat_setWidth mask)
  · exact sashWrite_eq_access s rfl (ofNat_toNat_self _)
  · exact sashWrite_eq_access s rfl (ofNat_toNat_setWidth set)
  · exact sashWrite_eq_access s rfl (ofNat_toNat_setWidth bits)
  · exact sashWrite_eq_access s rfl (ofNat_toNat_setWidth p)
  · exact sashWrite_eq_access s rfl (ofNat_toNat_setWidth code)
  · have hv := v.isLt
    have htarget : BitVec.ofNat 64 (place 0 8 v.toNat) = v.setWidth 64 <<< 8 := by
      apply BitVec.eq_of_toNat_eq
      rw [BitVec.toNat_shiftLeft, BitVec.toNat_setWidth, BitVec.toNat_ofNat, place, Nat.mod_eq_of_lt (by omega : v.toNat < 2 ^ 64)]
    refine sashWrite_eq_access s rfl ((ofNat_add_place ?_).trans (by rw [htarget, BitVec.or_comm]; rfl))
    rw [place, Nat.shiftLeft_eq]
    omega
  · have hv := v.isLt
    exact sashWrite_eq_access s rfl ((ofNat_add_place (by omega)).trans (by rw [ofNat_toNat_setWidth, BitVec.or_comm]; rfl))
  · exact sashWrite_eq_access s rfl (ofNat_toNat_self _)
  · exact sashWrite_eq_access s rfl (by cases pub <;> rfl)
  · exact sashWrite_eq_access s rfl (ofNat_toNat_self _)
  · exact sashWrite_eq_access s rfl (ofNat_toNat_self _)

/-- Settles O14. -/
theorem sleepingAccessesWakeOrAreHeld : Obligations.SleepingAccessesWakeOrAreHeld :=
  ⟨sleepingAccessesWakeOrAreAnswered, sleepingDoorbellsAreHeld, heldBackDoorbells, accessesInAResetReadZero, registerCommandsAreAccesses⟩

end Sys2Proof.Machine
end

section
/-! SUPPORT. Operating points, the current cap and the release of ports (R316, R317, R319, R321, R364). -/

namespace Sys2Proof.Machine

/-! ### Bits -/

theorem getLsbD_ofNat_two_pow {w : Nat} (i j : Nat) (hj : j < w) : (BitVec.ofNat w (2 ^ i)).getLsbD j = decide (j = i) := by
  rw [BitVec.getLsbD_ofNat, Nat.testBit_two_pow, decide_eq_true hj, Bool.true_and]
  exact decide_eq_decide.2 eq_comm

/-- A bit that is set reads as set, and no other changes. -/
theorem getLsbD_setBit_true {w : Nat} (x : BitVec w) (i j : Nat) (hj : j < w) : (setBit x i true).getLsbD j = (x.getLsbD j || decide (j = i)) := by
  rw [setBit, if_pos rfl, BitVec.getLsbD_or, getLsbD_ofNat_two_pow i j hj]

theorem getLsbD_setBit_false {w : Nat} (x : BitVec w) (i j : Nat) (hj : j < w) :
    (setBit x i false).getLsbD j = (x.getLsbD j && !decide (j = i)) := by
  rw [setBit, if_neg (by decide), BitVec.getLsbD_and, BitVec.getLsbD_not, getLsbD_ofNat_two_pow i j hj, decide_eq_true hj, Bool.true_and]

theorem testBit_maskOf (xs : List Nat) (j : Nat) : (maskOf xs).testBit j = decide (j ∈ xs) := by
  have hfold (xs : List Nat) (m : Nat) : (xs.foldl (fun m i => m ||| 2 ^ i) m).testBit j = (m.testBit j || decide (j ∈ xs)) := by
    induction xs generalizing m with
    | nil => simp
    | cons x rest ih =>
      rw [List.foldl_cons, ih, Nat.testBit_or, Nat.testBit_two_pow, Bool.or_assoc]
      simp [eq_comm]
  rw [maskOf, hfold, Nat.zero_testBit, Bool.false_or]

/-! ### From the port -/

/-- A register of the power region takes its write in every state but Off, where no access stalls. -/
theorem State.sashWrite_power {s : State} (hoff : s.pwr.block ≠ .off) (hopen : s.pwr.block = .run ∨ s.sash.stalled = []) {o d : Nat}
    (hlo : 0x2000 ≤ o) (hhi : o < 0x4000) (haligned : o % 8 = 0) (hd : d < 2 ^ 64) : s.sashWrite o d = (s.writePower o d).answered := by
  have hember : emberAnswers o = true := by simp [emberAnswers, hlo, hhi]
  have hgate : s.gate true o = .answer := by
    rcases hopen with h | h
    · simp [State.gate, resetAnswers, hember, h]
    · simp [State.gate, resetAnswers, hember, h, hoff]
  have ho : (BitVec.ofNat 20 o).toNat = o := Nat.mod_eq_of_lt (by omega)
  have hdata : (BitVec.ofNat 64 d).toNat = d := Nat.mod_eq_of_lt hd
  have hreg : s.writeReg o d = s.writePower o d := by
    rw [State.writeReg, if_neg (by omega), if_neg (by omega), if_pos hhi]
  simp only [State.sashWrite, State.sashAccess, ho, hdata, haligned, hgate, State.access, hreg]
  rfl

/-! ### Sequences -/

/-- A stove without a sequence starts on its way to a PSTATE. -/
theorem Stove.startsToward (x : Stove) (p : BitVec 3) : StartsToward x (x.start p) p := by
  refine ⟨fun h => ?_, fun h => ?_, fun h => ?_⟩
  · rw [Stove.start, if_pos h]
  · have hne : p ≠ x.current := by
      rintro rfl
      omega
    rw [Stove.start, if_neg hne, if_pos h]
  · have hne : p ≠ x.current := by
      rintro rfl
      omega
    have hcode : (if x.code.toNat < (pstateCode p.toNat).toNat then pstateCode p.toNat else x.code) =
        BitVec.ofNat 8 (max x.code.toNat (pstateCode p.toNat).toNat) := by
      split
      · rw [max_eq_right (by omega), BitVec.ofNat_toNat, BitVec.setWidth_eq]
      · rw [max_eq_left (by omega), BitVec.ofNat_toNat, BitVec.setWidth_eq]
    rw [Stove.start, if_neg hne, if_neg (by omega), hcode]

theorem Stove.ended_of_none {x : Stove} (h : x.nextTarget = none) : x.ended = { x with sequence := .idle, nextTarget := none } := by
  simp only [Stove.ended, h]

theorem Stove.ended_of_some {x : Stove} {p : BitVec 3} (h : x.nextTarget = some p) :
    x.ended = Stove.start { x with sequence := .idle, nextTarget := none } p := by
  simp only [Stove.ended, h]

theorem hasStove_of_lt {s : State} {v : BitVec 3} (h : v.toNat < s.cfg.stoves) : s.hasStove v = true := decide_eq_true h

theorem State.stove_ended (s : State) (v : Nat) (x : Stove) :
    (x.nextTarget = none → (s.setStove v x.ended).stove v = { x with sequence := .idle, nextTarget := none }) ∧
      ∀ p, x.nextTarget = some p → StartsToward { x with sequence := .idle, nextTarget := none } ((s.setStove v x.ended).stove v) p := by
  rw [State.stove_setStove_self]
  refine ⟨Stove.ended_of_none, fun p h => ?_⟩
  rw [Stove.ended_of_some h]
  exact Stove.startsToward _ p

theorem frequencySwitchesOnMultiplesOf64 : FrequencySwitchesOnMultiplesOf64 := by
  intro s v g lower hv hsequence x switched
  rw [show exec (.pstateFreqSwitch v) s = execPstateFreqSwitch v s from rfl, execPstateFreqSwitch, if_pos (hasStove_of_lt hv)]
  simp only [hsequence]
  refine ⟨fun hmultiple => ?_, fun hbetween => if_neg hbetween⟩
  rw [if_pos hmultiple]
  exact ⟨_, rfl, s.setStove_onlyStove .., s.stove_ended v.toNat { x with current := g, code := if lower then pstateCode g.toNat else x.code }⟩

theorem vokTimeoutAbandonsTheRaise : VokTimeoutAbandonsTheRaise := by
  intro s v g old hv hsequence x abandoned
  rw [show exec (.vokTimeout v) s = execVokTimeout v s from rfl, execVokTimeout, if_pos (hasStove_of_lt hv)]
  simp only [hsequence]
  obtain ⟨hnone, hsome⟩ := s.stove_ended v.toNat { x with code := old, fail := true, failCount := satInc x.failCount }
  exact ⟨_, _, rfl, s.setStove_onlyStove .., hnone, hsome, rfl⟩

theorem State.writePower_pstate {s : State} {v : Nat} (hv : v < s.cfg.stoves) (p : BitVec 3) :
    s.writePower (0x2200 + 8 * v) p.toNat = s.writeTarget v p := by
  have hp := p.isLt
  have hfail : flag p.toNat 0 8 = false := by
    rw [flag]
    exact Nat.testBit_lt_two_pow (by omega)
  rw [State.writePower, if_neg (by omega), if_neg (by omega), if_neg (by omega), arrayWrite_entry hv (by decide), State.writePstate, hfail,
    if_neg (by decide), BitVec.ofNat_toNat, BitVec.setWidth_eq]

theorem targetWritesStartASequence : TargetWritesStartASequence := by
  intro s v p hvalid hv hoff hopen x
  have hstoves := BlockConfig.stoves_le_of_valid hvalid
  have hexec : exec (.pstateTargetWrite v p) s = .next (s.writeTarget v.toNat p).answered := by
    rw [← State.writePower_pstate hv, ← State.sashWrite_power hoff hopen (by omega) (by omega) (by omega) (by omega)]
    rfl
  rw [hexec]
  refine ⟨fun hbig => ?_, fun hp => ?_⟩
  · rw [State.writeTarget, if_pos hbig]
  by_cases hidle : x.sequence = .idle ∧ s.pwr.block = .run
  · have hstart : s.writeTarget v.toNat p = s.setStove v.toNat (({ x with target := p } : Stove).start p) := by
      rw [State.writeTarget, if_neg (by omega), if_pos hidle]
    rw [hstart]
    refine ⟨_, rfl, s.setStove_onlyStove .., fun h => by tauto, fun _ _ => ?_⟩
    rw [State.stove_setStove_self]
    exact Stove.startsToward _ p
  · have hwait : s.writeTarget v.toNat p = s.setStove v.toNat { x with target := p, nextTarget := some p } := by
      rw [State.writeTarget, if_neg (by omega), if_neg hidle]
    rw [hwait]
    exact ⟨_, rfl, s.setStove_onlyStove .., fun _ => State.stove_setStove_self .., fun hs hrun => absurd ⟨hs, hrun⟩ hidle⟩

/-! ### Rails -/

/-- From `s` to `t` only requests of power switches are raised. -/
structure RaisesPower (s t : State) : Prop where
  only : t = { s with pwr := { s.pwr with pswReq := t.pwr.pswReq } }
  kept : ∀ j < 73, s.pwr.pswReq.getLsbD j = true → t.pwr.pswReq.getLsbD j = true

theorem RaisesPower.refl (s : State) : RaisesPower s s := ⟨rfl, fun _ _ h => h⟩

theorem RaisesPower.trans {s t u : State} (h : RaisesPower s t) (k : RaisesPower t u) : RaisesPower s u :=
  ⟨k.only.trans (by rw [h.only]), fun j hj hs => k.kept j hj (h.kept j hj hs)⟩

theorem State.requestPower_on (s : State) (d : Nat) : RaisesPower s (s.requestPower d true) := by
  refine ⟨rfl, fun j hj h => ?_⟩
  rw [State.requestPower, getLsbD_setBit_true _ _ _ hj, h, Bool.true_or]

theorem State.raiseHearths_raises (s : State) (v : Nat) : RaisesPower s (s.raiseHearths v) := by
  rw [State.raiseHearths]
  split
  · refine List.foldlRecOn _ _ (RaisesPower.refl s) fun t ht h _ => ?_
    split
    · exact ht.trans (t.requestPower_on _)
    · exact ht
  · exact .refl s

/-- A stove whose VOK is sampled high. -/
def Stove.vokSampled (x : Stove) : Stove :=
  { x with
    vok := true,
    sequence := match x.sequence with
      | .awaitVok g _ => .awaitSwitch g false
      | q => q }

theorem Stove.vokSampled_of_raise {x : Stove} {g : BitVec 3} {old : W8} (h : x.sequence = .awaitVok g old) :
    x.vokSampled = { x with vok := true, sequence := .awaitSwitch g false } := by
  simp only [Stove.vokSampled, h]

theorem Stove.vokSampled_of_other {x : Stove} (h : ∀ g old, x.sequence ≠ .awaitVok g old) : x.vokSampled = { x with vok := true } := by
  rw [Stove.vokSampled]
  cases hseq : x.sequence with
  | awaitVok g old => exact absurd hseq (h g old)
  | _ => rfl

/-- The requests that the VOK of an asked-for stove raises: its own, and the core's with stove 0. -/
def State.raiseStove (s : State) (v : Nat) : State :=
  (if v = 0 then s.requestPower 0 true else s).requestPower (stoveDomain v) true

theorem State.raiseStove_raises (s : State) (v : Nat) : RaisesPower s (s.raiseStove v) := by
  rw [State.raiseStove]
  refine RaisesPower.trans ?_ (State.requestPower_on ..)
  split
  · exact s.requestPower_on 0
  · exact .refl s

theorem State.raiseStove_getLsbD (s : State) (v : Nat) {j : Nat} (hj : j < 73) : (s.raiseStove v).pwr.pswReq.getLsbD j =
    (s.pwr.pswReq.getLsbD j || decide (j = 1 + v) || decide (v = 0 ∧ j = 0)) := by
  rw [State.raiseStove, State.requestPower, getLsbD_setBit_true _ _ _ hj, stoveDomain]
  split
  · rename_i hv
    rw [State.requestPower, getLsbD_setBit_true _ _ _ hj]
    simp [hv, Bool.or_right_comm]
  · rename_i hv
    simp [hv]

theorem exec_vokAssert_of_stove {s : State} {v : BitVec 3} (hv : v.toNat < s.cfg.stoves) :
    exec (.vokAssert v) s = .next
      (if (s.stove v.toNat).railOn then ((s.setStove v.toNat (s.stove v.toNat).vokSampled).raiseStove v.toNat).raiseHearths v.toNat
       else s.setStove v.toNat (s.stove v.toNat).vokSampled) := by
  rw [show exec (.vokAssert v) s = execVokAssert v s from rfl, execVokAssert, if_pos (hasStove_of_lt hv)]
  dsimp only
  split <;> rfl

theorem vokLetsARaiseSwitch : VokLetsARaiseSwitch := by
  intro s v hv x
  have hbit : 1 + v.toNat < 73 := by omega
  rw [exec_vokAssert_of_stove hv]
  have hsampled := s.stove_setStove v.toNat x.vokSampled
  by_cases hrail : x.railOn = true
  · rw [if_pos hrail]
    have hraises := (State.raiseStove_raises (s.setStove v.toNat x.vokSampled) v.toNat).trans (State.raiseHearths_raises _ v.toNat)
    have hreq : (((s.setStove v.toNat x.vokSampled).raiseStove v.toNat).raiseHearths v.toNat).pwr.pswReq.getLsbD (1 + v.toNat) = true :=
      (State.raiseHearths_raises _ v.toNat).kept _ hbit (by rw [State.raiseStove_getLsbD _ _ hbit]; simp)
    have hquiet (hreset : s.vault.resetting = false) : ((s.setStove v.toNat x.vokSampled).raiseStove v.toNat).raiseHearths v.toNat =
        (s.setStove v.toNat x.vokSampled).raiseStove v.toNat := by
      have hkept : ((s.setStove v.toNat x.vokSampled).raiseStove v.toNat).vault = s.vault := by
        rw [(State.raiseStove_raises (s.setStove v.toNat x.vokSampled) v.toNat).only]
        rfl
      rw [State.raiseHearths, hkept, hreset, Bool.false_and, if_neg (by decide)]
    have hone := fun j hj => State.raiseStove_getLsbD (s.setStove v.toNat x.vokSampled) v.toNat (j := j) hj
    refine ⟨_, rfl, ?_⟩
    generalize ((s.setStove v.toNat x.vokSampled).raiseStove v.toNat).raiseHearths v.toNat = t at *
    have hstove (w : Nat) : t.stove w = (s.setStove v.toNat x.vokSampled).stove w := by
      rw [hraises.only]
      rfl
    refine ⟨by rw [hraises.only]; rfl, fun w hw => ?_, fun g old h => ?_, fun h => ?_, fun h => absurd (hrail.symm.trans h) nofun,
      fun _ => ⟨hreq, fun hreset j hj => ?_⟩⟩
    · rw [hstove, hsampled, if_neg hw]
    · rw [hstove, hsampled, if_pos rfl, Stove.vokSampled_of_raise h]
    · rw [hstove, hsampled, if_pos rfl, Stove.vokSampled_of_other h]
    · rw [hquiet hreset]
      exact hone j hj
  · rw [if_neg hrail]
    refine ⟨_, rfl, rfl, fun w hw => ?_, fun g old h => ?_, fun h => ?_, fun _ => rfl, fun h => absurd h hrail⟩
    · rw [hsampled, if_neg hw]
    · rw [hsampled, if_pos rfl, Stove.vokSampled_of_raise h]
    · rw [hsampled, if_pos rfl, Stove.vokSampled_of_other h]

/-- Settles O21. -/
theorem operatingPointSequences : Obligations.OperatingPointSequences :=
  ⟨targetWritesStartASequence, vokLetsARaiseSwitch, frequencySwitchesOnMultiplesOf64, vokTimeoutAbandonsTheRaise⟩

theorem damperWithholdsAllButFlue : DamperWithholdsAllButFlue := by
  intro s v estimate hv hupkeep
  rw [show exec (.damperThrottle v estimate) s = execDamperThrottle v estimate s from rfl, execDamperThrottle, if_pos (hasStove_of_lt hv)]
  dsimp only
  rw [if_neg (by simp [hupkeep])]
  by_cases habove : (s.stove v.toNat).cap ≠ 0#10 ∧ (s.stove v.toNat).cap.toNat < estimate.toNat
  · rw [if_pos habove]
    refine ⟨_, rfl, s.setStove_onlyStove .., ?_, fun h cls hh => ?_⟩
    · rw [State.stove_setStove_self, if_pos habove]
    · rw [State.withheld, hh, State.stove_setStove_self]
      simp [habove]
  · rw [if_neg habove]
    refine ⟨_, rfl, s.setStove_onlyStove .., ?_, fun h cls hh => ?_⟩
    · rw [State.stove_setStove_self, if_neg habove]
    · rw [State.withheld, hh, State.stove_setStove_self]
      simp only [Bool.and_false, Bool.false_eq_true, false_iff]
      tauto

/-! ### The release of ports -/

/-- With nothing waiting, a port has nothing to send. -/
theorem State.pump_of_idle {s : State} {p : Nat} (h : (s.port p).waiting = []) : s.pump p = s := by
  rw [State.pump]
  split
  · simp only [h, List.filter_nil, List.append_nil, State.pumpList]
  · rfl

/-- From `s` to `t` only requests to the pool manager have left, and receive credit has been granted. -/
structure Grants (s t : State) : Prop where
  only : t = { s with xch := { s.xch with
    unsent := t.xch.unsent, requests := t.xch.requests, nextTag := t.xch.nextTag, rxCredits := t.xch.rxCredits } }

theorem Grants.refl (s : State) : Grants s s := ⟨rfl⟩

theorem Grants.trans {s t u : State} (h : Grants s t) (k : Grants t u) : Grants s u := ⟨k.only.trans (by rw [h.only])⟩

theorem State.sendRequests_grants (k : Nat) (s : State) : Grants s (State.sendRequests k s) := by
  induction k generalizing s with
  | zero => exact .refl s
  | succ k ih =>
    rw [State.sendRequests]
    split
    · exact .refl s
    · split
      · exact Grants.trans ⟨rfl⟩ (ih _)
      · exact .refl s

theorem State.sendRequests_of_none {s : State} (h : s.xch.unsent = []) (k : Nat) : State.sendRequests k s = s := by
  cases k with
  | zero => rfl
  | succ k => simp only [State.sendRequests, h]

theorem State.regrant_credits (s : State) : s.regrant = { s with xch := { s.xch with rxCredits := s.regrant.xch.rxCredits } } := by
  refine List.foldlRecOn (motive := fun t : State => t = { s with xch := { s.xch with rxCredits := t.xch.rxCredits } }) _ _ rfl fun t ht p _ => ?_
  rw [State.grantPort]
  dsimp only
  rw [ht]

theorem State.regrant_grants (s : State) : Grants s s.regrant := by
  refine ⟨?_⟩
  have h := s.regrant_credits
  generalize s.regrant = t at *
  rw [h]

/-- The stoves whose ports a write of ISO_RELEASE releases. -/
def State.releasedStoves (s : State) (d : Nat) : List Nat := (bitsBelow 8 d).filter fun v => decide (v < s.cfg.stoves) && s.domainUp (stoveDomain v)

/-- The bits of released ports after a write of ISO_RELEASE. -/
def State.isoWritten (s : State) (d : Nat) : State :=
  { s with pwr := { s.pwr with
    isoStoves := s.pwr.isoStoves ||| BitVec.ofNat 8 (maskOf (s.releasedStoves d)),
    isoPool := s.pwr.isoPool || (flag d 0 8 && s.domainUp 0) } }

theorem State.isoRelease_of_small {s : State} (hsmall : s.cfg.hearths < 48) (hoff : s.pwr.block ≠ .off) (hhibernate : s.pwr.block ≠ .hibernate)
    (d : Nat) : s.isoRelease d =
      (((s.releasedStoves d).flatMap fun v => [3 * v, 3 * v + 1, 3 * v + 2]).foldl (fun s p => s.pump p) (s.isoWritten d)).pumpRequests.regrant :=
  if_pos ⟨hsmall, hoff, hhibernate⟩

theorem isoWritten_stove (s : State) (bits : BitVec 9) {v : Nat} (hv : v < 8) :
    (s.isoWritten bits.toNat).pwr.isoStoves.getLsbD v =
      (s.pwr.isoStoves.getLsbD v || (bits.getLsbD v && decide (v < s.cfg.stoves) && s.domainUp (1 + v))) := by
  have hmember : decide (v ∈ s.releasedStoves bits.toNat) = (bits.getLsbD v && decide (v < s.cfg.stoves) && s.domainUp (1 + v)) := by
    rw [State.releasedStoves, bitsBelow, List.filter_filter]
    simp [hv, stoveDomain, BitVec.testBit_toNat, Bool.and_comm, Bool.and_assoc]
  have hbit : (BitVec.ofNat 8 (maskOf (s.releasedStoves bits.toNat))).getLsbD v = (maskOf (s.releasedStoves bits.toNat)).testBit v := by
    rw [BitVec.getLsbD_ofNat, decide_eq_true hv, Bool.true_and]
  rw [← hmember, ← testBit_maskOf, ← hbit]
  exact BitVec.getLsbD_or

theorem exec_isoRelease {s : State} (hoff : s.pwr.block ≠ .off) (hopen : s.pwr.block = .run ∨ s.sash.stalled = []) (bits : BitVec 9) :
    exec (.isoRelease bits) s = .next (s.isoRelease bits.toNat).answered := by
  have hbits := bits.isLt
  calc exec (.isoRelease bits) s = .next (s.sashWrite 0x2020 bits.toNat) := rfl
    _ = .next (s.writePower 0x2020 bits.toNat).answered := by
      rw [State.sashWrite_power hoff hopen (by decide) (by decide) (by decide) (by omega)]
    _ = .next (s.isoRelease bits.toNat).answered := rfl

theorem isoReleaseFreesPortsOfPoweredDomains : IsoReleaseFreesPortsOfPoweredDomains := by
  intro s bits hoff hhibernate hopen
  rw [exec_isoRelease hoff hopen]
  refine ⟨fun hlarge => ?_, fun hsmall => ?_⟩
  · rw [State.isoRelease, if_neg (by omega)]
  rw [State.isoRelease_of_small hsmall hoff hhibernate]
  have hpool : (s.isoWritten bits.toNat).pwr.isoPool = (s.pwr.isoPool || (bits.getLsbD 8 && s.domainUp 0)) := rfl
  have hstoves := fun v (hv : v < 8) => isoWritten_stove s bits hv
  have hwritten : s.isoWritten bits.toNat = { s with pwr := { s.pwr with
      isoStoves := (s.isoWritten bits.toNat).pwr.isoStoves, isoPool := (s.isoWritten bits.toNat).pwr.isoPool } } := rfl
  have hidle (hports : ∀ p, (s.port p).waiting = []) (ps : List Nat) :
      ps.foldl (fun s p => s.pump p) (s.isoWritten bits.toNat) = s.isoWritten bits.toNat := by
    induction ps with
    | nil => rfl
    | cons p rest ih => rw [List.foldl_cons, State.pump_of_idle (s := s.isoWritten bits.toNat) (hports p), ih]
  have hidle := fun hports => hidle hports ((s.releasedStoves bits.toNat).flatMap fun v => [3 * v, 3 * v + 1, 3 * v + 2])
  have hsends : Sends (s.isoWritten bits.toNat) (((s.releasedStoves bits.toNat).flatMap fun v => [3 * v, 3 * v + 1, 3 * v + 2]).foldl
      (fun s p => s.pump p) (s.isoWritten bits.toNat)) := Sends.foldl (fun s p _ => s.pump_sends p) _
  generalize s.isoWritten bits.toNat = u at *
  generalize List.foldl (fun s p => s.pump p) u _ = w at *
  have hgrants := (State.sendRequests_grants 256 w).trans w.pumpRequests.regrant_grants
  have hnone (h : s.xch.unsent = []) : w.pumpRequests = w := by
    refine State.sendRequests_of_none ?_ 256
    rw [hsends, hwritten, h]
  have hcredits := w.pumpRequests.regrant_credits
  generalize w.pumpRequests.regrant = t at *
  have hpwr : t.pwr = u.pwr := by rw [hgrants.only, hsends]
  refine ⟨t, rfl, fun v hv => ?_, ?_, ?_, ?_, ?_, ?_, fun hports hunsent => ?_⟩
  · rw [hpwr, hstoves v hv]
  · rw [hpwr, hpool]
  · rw [hpwr, hwritten]
  · rw [hgrants.only, hsends, hwritten]
  · rw [hgrants.only, hsends, hwritten]
  · rw [hgrants.only, hsends, hwritten]
  · rw [hcredits, hnone hunsent, hidle hports, hwritten]

/-- Settles O22. -/
theorem capAndIsoRelease : Obligations.CapAndIsoRelease := ⟨damperWithholdsAllButFlue, isoReleaseFreesPortsOfPoweredDomains⟩

end Sys2Proof.Machine
end

section
/-! SUPPORT. A write of ERR_CTL with ENABLE = 1, from the Sash port to the refusal or the start of the error ring (R358). -/

namespace Sys2Proof.Machine

/-- The fields of the error ring as a write of ERR_CTL sets them while ENABLE is 0. -/
def Errors.takeErrCtl (e : Errors) (d : Nat) : Errors := { e with logCorrected := flag d 0 1, log2 := BitVec.ofNat 5 (fld d 0 3 5) }

theorem Errors.takeErrCtl_log2 (e : Errors) (ctl : W64) : (e.takeErrCtl (ctl ||| 1#64).toNat).log2.toNat = ctl.toNat / 8 % 32 := by
  have hlog2 : fld (ctl ||| 1#64).toNat 0 3 5 = ctl.toNat / 8 % 32 := by
    rw [fld, BitVec.toNat_or, Nat.shiftRight_or_distrib, Nat.shiftRight_eq_div_pow]
    exact congrArg (· % 32) (Nat.or_zero _)
  rw [Errors.takeErrCtl, hlog2, BitVec.toNat_ofNat, Nat.mod_mod]

theorem Errors.takeErrCtl_logCorrected (e : Errors) (ctl : W64) : (e.takeErrCtl (ctl ||| 1#64).toNat).logCorrected = ctl.getLsbD 1 := by
  rw [Errors.takeErrCtl, flag, BitVec.testBit_toNat]
  simp

/-- R358's cases: LOG2 out of its range, a base that is no multiple of 4 KiB, or a ring that reaches past 2^52. -/
def Errors.RefusesEnable (e : Errors) : Prop :=
  e.log2.toNat < 6 ∨ 16 < e.log2.toNat ∨ e.base.toNat % 4096 ≠ 0 ∨ 2 ^ 52 < e.base.toNat + 64 * 2 ^ e.log2.toNat

theorem State.enableErrors_refused {s : State} (h : s.err.RefusesEnable) :
    s.enableErrors = { s with err := { s.err with enable := false, refused := true } } := if_pos h

theorem State.enableErrors_accepted {s : State} (h : ¬s.err.RefusesEnable) :
    s.enableErrors = { s.forgetErrors with err := { s.forgetErrors.err with
      enable := true, refused := false, head := 0#32, tail := 0#32, index := 0#32 } } := if_neg h

theorem exec_errCtlEnable_of_sashOpen {s : State} (h : s.sashOpen) (ctl : W64) :
    exec (.errCtlEnable ctl) s = .next (s.writeErrCtl (ctl ||| 1#64).toNat).answered := by
  calc exec (.errCtlEnable ctl) s = .next (s.sashWrite 0x38008 (ctl ||| 1#64).toNat) := rfl
    _ = _ := by
      rw [State.sashWrite_of_sashOpen h (by decide) (by decide) (ctl ||| 1#64).isLt]
      rfl

/-- With no record being written and the ring disabled, an event that is not counted as corrected is lost. -/
theorem State.logError_of_disabled {s : State} (henable : s.err.enable = false) (hwriting : s.err.writing = []) {e : ErrorEvent}
    (he : e.severity ≠ 1#8) : s.logError e = { s with err := { s.err with lost := satInc s.err.lost } } := by
  simp [State.logError, State.mergeTarget, henable, hwriting, he]

/-- Settles O20. -/
theorem errorEnableFollowsR358 : Obligations.ErrorEnableFollowsR358 := by
  intro s ctl hopen l base refused
  rw [exec_errCtlEnable_of_sashOpen hopen]
  refine ⟨fun henabled => ?_, fun hidle => ?_⟩
  · have hsame : s.writeErrCtl (ctl ||| 1#64).toNat = { s with err := { s.err with enable := true } } := by
      rw [State.writeErrCtl, if_pos henabled, flag_enable]
    rw [hsame, ← henabled]
  have hwrite : s.writeErrCtl (ctl ||| 1#64).toNat = State.enableErrors { s with err := s.err.takeErrCtl (ctl ||| 1#64).toNat } := by
    rw [State.writeErrCtl, if_neg (by simp [hidle])]
    exact if_pos (flag_enable ctl)
  have hlog2 := s.err.takeErrCtl_log2 ctl
  have hlog := s.err.takeErrCtl_logCorrected ctl
  have hcases : (s.err.takeErrCtl (ctl ||| 1#64).toNat).RefusesEnable ↔ refused := by
    rw [Errors.RefusesEnable, hlog2]
    rfl
  rw [hwrite]
  by_cases hrefused : refused
  · rw [State.enableErrors_refused (hcases.2 hrefused)]
    refine ⟨_, rfl, rfl, rfl, rfl, rfl, rfl, rfl, rfl, rfl, rfl, hlog, hlog2, fun _ => ⟨rfl, rfl, fun hwriting e he => ?_⟩,
      fun h => absurd hrefused h⟩
    refine State.logError_of_disabled ?_ ?_ he
    · rfl
    · exact hwriting
  · rw [State.enableErrors_accepted (mt hcases.1 hrefused)]
    exact ⟨_, rfl, rfl, rfl, rfl, rfl, rfl, rfl, rfl, rfl, rfl, hlog, hlog2, fun h => absurd h hrefused, fun _ => ⟨rfl, rfl, rfl, rfl, rfl⟩⟩

end Sys2Proof.Machine
end

section
/-! SUPPORT. Attestation: GO, the reading of DATA, the report and its RESULT (R327, R344). -/

namespace Sys2Proof.Machine

/-! ### Lengths -/

theorem beBytes_length (n v : Nat) : (beBytes n v).length = n := by rw [beBytes, List.length_reverse, leBytes_length]

theorem shaStep_length (h : List W64) (kw : W64 × W64) : (shaStep h kw).length = h.length := by
  unfold shaStep
  split <;> rfl

theorem shaBlock_length (h block : List W64) : (shaBlock h block).length = h.length := by
  have hsteps (kws : List (W64 × W64)) (g : List W64) : (kws.foldl shaStep g).length = g.length := by
    induction kws generalizing g with
    | nil => rfl
    | cons kw rest ih => rw [List.foldl_cons, ih, shaStep_length]
  rw [shaBlock, List.length_zipWith, hsteps, min_self]

theorem flatMap_length_const {α β : Type} {f : α → List β} {k : Nat} (hf : ∀ a, (f a).length = k) (xs : List α) :
    (xs.flatMap f).length = xs.length * k := by
  induction xs with
  | nil => simp
  | cons x rest ih => rw [List.flatMap_cons, List.length_append, hf, ih, List.length_cons, Nat.succ_mul, Nat.add_comm]

/-- A SHA-384 digest has 48 bytes. -/
theorem sha384_length (msg : List W8) : (sha384 msg).length = 48 := by
  have hblocks (bs : List (List W8)) (g : List W64) :
      (bs.foldl (fun h b => shaBlock h ((chunksOf 8 16 b).map fun w => BitVec.ofNat 64 (beNat w))) g).length = g.length := by
    induction bs generalizing g with
    | nil => rfl
    | cons b rest ih => rw [List.foldl_cons, ih, shaBlock_length]
  unfold sha384
  extract_lets n pad m blocks h
  have hh : h.length = 8 := hblocks blocks shaInit
  rw [flatMap_length_const (fun w : W64 => beBytes_length 8 w.toNat), List.length_take, hh]
  rfl

/-- A signature has 96 bytes. -/
theorem ecdsaSign_length (d k : Nat) (msg : List W8) : (ecdsaSign d k msg).length = 96 := by
  unfold ecdsaSign
  extract_lets z
  split
  · exact List.length_replicate
  · extract_lets r s
    rw [List.length_append, beBytes_length, beBytes_length]

theorem Memory.read_length (m : Memory) (a n : Nat) : (m.read a n).length = n := by
  rw [Memory.read, Tab.list, List.length_map, List.length_range]

/-- A report with its signature has 256 bytes. -/
theorem State.attestReport_length (s : State) {data : List W8} (h : data.length = 48) (k : Nat) : (s.attestReport data k).length = 256 := by
  unfold State.attestReport
  extract_lets v total body
  have hpatch : (if s.blk.patchState = 2#3 then sha384 s.blk.patchImage else List.replicate 48 0#8).length = 48 := by
    split
    · exact sha384_length _
    · exact List.length_replicate
  have hbody : body.length = 160 := by
    simp only [body, List.length_append, leBytes_length, sha384_length, hpatch, h]
  rw [List.length_append, hbody, ecdsaSign_length]

/-! ### Requests of the Seal at a free port -/

theorem State.sealRefused_logs (s : State) (a : Nat) : Logs { s with draws := s.draws + 1 } (s.sealRefused a) := by
  unfold State.sealRefused State.draw64
  exact State.logError_logs ..

/-- What a request does to memory when it leaves changes no port. -/
theorem State.performRequest_ports (s : State) (r : Request) : (s.performRequest r).ports = s.ports := by
  unfold State.performRequest
  split
  · rfl
  · split
    · exact List.foldlRecOn (motive := fun t : State => t.ports = s.ports) _ _ rfl fun _ ht _ _ => ht
    · rfl

section

variable {s : State} {a : Nat} (hup : s.portUp 2 = true) (hwaiting : (s.port 2).waiting = []) (hinflight : (s.port 2).inflight = [])

include hup hwaiting hinflight

/-- A read of the Seal within one granule is one request, which leaves at once. -/
theorem State.sealRead_of_free {n : Nat} (hn : n ≠ 0) (hfits : a % 256 + n ≤ 256) (hend : a + n ≤ 2 ^ 52)
    (hcredits : 3 ≤ (s.port 2).rdCredits.toNat) (lost : State → State) :
    ∃ x : Port, ∃ q : Request, s.sealRead a n .reportData lost = s.setPort 2 x ∧ x.inflight = [q] ∧ q.write = false ∧ q.addr = a ∧ q.size = n ∧
      q.cls = 2#2 ∧ q.purpose = .reportData := by
  obtain ⟨shared, hcredit⟩ := Port.credit_isSome (x := s.port 2) (write := false) (k := 0) (by simp [hinflight]) (by decide)
    (by simpa using hcredits) 2#2
  have hone : s.sealRead a n .reportData lost = s.request 2 (Request.mk' false a n [] 2#2 0 0#32 .reportData) := by
    rw [State.sealRead, if_neg (by omega), granules_single hn hfits, List.foldl_cons, List.foldl_nil]
  rw [hone, State.request_of_free hup (.inr rfl) hwaiting hcredit, State.performRequest_read rfl (by intros; nofun)]
  exact ⟨_, _, rfl, by rw [hinflight]; rfl, rfl, rfl, rfl, rfl, rfl⟩

/-- A write of the Seal within one granule stands in host memory at once. -/
theorem State.sealWrite_of_free {bytes : List W8} (hbytes : bytes ≠ []) (hfits : a % 256 + bytes.length ≤ 256) (hend : a + bytes.length ≤ 2 ^ 52)
    (hcredits : 3 ≤ (s.port 2).wrCredits.toNat) : Sends s (s.sealWrite a bytes) ∧ (s.sealWrite a bytes).host = s.host.store a bytes ∧
      ((s.sealWrite a bytes).port 2).waiting = [] := by
  have hn : bytes.length ≠ 0 := (List.length_pos_iff.2 hbytes).ne'
  obtain ⟨shared, hcredit⟩ := Port.credit_isSome (x := s.port 2) (write := true) (k := 0) (by simp [hinflight]) (by decide)
    (by simpa using hcredits) 2#2
  have hone : s.sealWrite a bytes = s.request 2 (Request.mk' true a bytes.length bytes 2#2 0 0#32 .report) := by
    rw [State.sealWrite, if_neg (by omega), granules_single hn hfits, List.foldl_cons, List.foldl_nil]
    simp
  rw [hone]
  refine ⟨State.request_sends .., ?_⟩
  rw [State.request_of_free hup (.inr rfl) hwaiting hcredit, State.performRequest_host rfl (by intros; nofun) hbytes]
  refine ⟨rfl, ?_⟩
  rw [State.port, State.performRequest_ports]
  exact (congrArg Port.waiting (State.port_setPort_self ..)).trans hwaiting

end

/-! ### GO -/

theorem Seal.attRefusal_eq (v : Seal) : BitVec.ofNat 4 v.attRefusal = attestRefusal v ∧ (v.attRefusal = 0 ↔ attestRefusal v = 0#4) := by
  rw [Seal.attRefusal, attestRefusal]
  by_cases hblocked : v.blocked = true
  · simp [hblocked]
  · by_cases htest : v.selftestFail = true ∨ v.entropyFail = true
    · simp [hblocked, htest]
    · by_cases hattest : v.attest = true
      · simp [hblocked, htest, hattest]
      · simp [hblocked, htest, hattest]

theorem exec_attCtlGo_of_sashOpen {s : State} (h : s.sashOpen) (hseal : s.cfg.hasSeal = true) (pub : Bool) :
    exec (.attCtlGo pub) s = .next (s.attGo pub).answered := by
  have hgo : flag (1 + place 0 1 (bitNat pub)) 0 0 = true := by cases pub <;> rfl
  have hpub : flag (1 + place 0 1 (bitNat pub)) 0 1 = pub := by cases pub <;> rfl
  calc exec (.attCtlGo pub) s = .next (s.sashWrite 0x40088 (1 + place 0 1 (bitNat pub))) := rfl
    _ = .next (s.writeSeal 0x40088 (1 + place 0 1 (bitNat pub))).answered := by
      rw [State.sashWrite_seal h (by decide) (by decide) (by decide) (by cases pub <;> decide)]
    _ = .next (s.attGo pub).answered := by
      generalize 1 + place 0 1 (bitNat pub) = d at *
      simp [State.writeSeal, hseal, hgo, hpub]

/-- The Seal of a report whose DATA is being read. -/
def Seal.attStarted (v : Seal) (pub : Bool) : Seal := { v with attPub := pub, attBusy := true, attSent := false, attFault := false }

/-- A read of the Seal sends requests, or finds its address out of range and logs it. -/
theorem State.sealRead_reportData (s : State) (a n : Nat) :
    ∃ k f, Logs { s with draws := k, vault := { s.vault with attFault := f } } (s.sealRead a n .reportData fun s => s.reportFault) := by
  rw [State.sealRead]
  split
  · have hrefused : Logs { s with draws := s.draws + 1 } (s.sealRefused a) := s.sealRefused_logs a
    rw [State.reportFault]
    generalize s.sealRefused a = t at *
    have ht := hrefused.frame
    split
    · exact ⟨s.draws + 1, true, ⟨by rw [ht]⟩⟩
    · exact ⟨s.draws + 1, s.vault.attFault, ⟨by rw [ht]⟩⟩
  · refine ⟨s.draws, s.vault.attFault, ?_⟩
    exact .of_sends (Sends.foldl (fun s g _ => s.request_sends ..) s)

theorem attestationStarts : AttestationStarts := by
  intro s pub hseal hopen
  rw [exec_attCtlGo_of_sashOpen hopen hseal]
  obtain ⟨hcode, hzero⟩ := s.vault.attRefusal_eq
  refine ⟨fun hkeyed => ?_, fun hkeyed => ⟨fun hbusy => ?_, fun hbusy => ⟨fun hrefused => ?_, fun hfree => ?_⟩⟩⟩
  · rw [State.attGo, if_pos (by simp [hkeyed])]
    rfl
  · rw [State.attGo, if_neg (by simp [hkeyed]), if_pos hbusy]
  · rw [State.attGo, if_neg (by simp [hkeyed]), if_neg (by simp [hbusy]), if_pos (mt hzero.1 hrefused), hcode]
  · have hgo : s.attGo pub = State.sealRead { s with vault := s.vault.attStarted pub } (s.vault.attAddr.toNat / 64 * 64 + 64) 128 .reportData
        fun s => s.reportFault := by
      rw [State.attGo, if_neg (by simp [hkeyed]), if_neg (by simp [hbusy]), if_neg (not_not.2 (hzero.2 hfree))]
      rfl
    rw [hgo]
    obtain ⟨k, f, hlogs⟩ := State.sealRead_reportData { s with vault := s.vault.attStarted pub } (s.vault.attAddr.toNat / 64 * 64 + 64) 128
    refine ⟨_, rfl, ?_, ?_, ?_, ?_, ?_, hlogs.mantel, hlogs.rings, hlogs.hearths, fun ⟨hup, hread, _⟩ hinflight hwaiting haligned hlow => ?_⟩
    · exact (congrArg Seal.attPub hlogs.vault :)
    · exact (congrArg Seal.attBusy hlogs.vault :)
    · exact (congrArg Seal.attSent hlogs.vault :)
    · exact (congrArg Seal.attResult hlogs.vault :)
    · exact (congrArg Seal.lcFuse hlogs.vault :)
    · have haddr : s.vault.attAddr.toNat / 64 * 64 + 64 = s.vault.attAddr.toNat + 64 := by omega
      rw [haddr]
      obtain ⟨x, q, hsent, hx, hq⟩ := State.sealRead_of_free (s := { s with vault := s.vault.attStarted pub }) (a := s.vault.attAddr.toNat + 64)
        hup hwaiting hinflight (n := 128) (by decide) (by omega) (by omega) hread fun s => s.reportFault
      rw [hsent]
      exact ⟨rfl, q, (congrArg Port.inflight (State.port_setPort_self ..)).trans hx, hq⟩

/-! ### A response to the only request of a port -/

theorem parityFails_parityBits (data : List W8) : parityFails data (parityBits data) = false := by
  rw [parityFails, BitVec.xor_self, BitVec.zero_and]
  rfl

theorem Port.answered_of_only {x : Port} {r : Request} (h : x.inflight = [r]) : x.answered r.write r.tag = some r := by
  rw [Port.answered, h]
  simp

section

variable {s : State} {p : BitVec 5} {r : Request} (hport : p.toNat < s.portCount) (hinflight : (s.port p.toNat).inflight = [r])
  (hread : r.write = false) (hclocked : s.clocked = true)

include hport hinflight hread hclocked

theorem exec_memoryReadResponse_of_error {err : W8} (herr : err ≠ 0#8) (data : List W8) (parity : BitVec 32) (poison : BitVec 4) :
    exec (.memoryReadResponse p r.tag data parity poison err) s =
      .next (((s.freeCredit p.toNat r).loseRead p.toNat r 0x08 (err.setWidth 64)).pump p.toNat) := by
  rw [show exec (.memoryReadResponse p r.tag data parity poison err) s = execMemoryReadResponse p r.tag data parity poison err s from rfl,
    execMemoryReadResponse]
  simp only [if_pos hport, hread ▸ Port.answered_of_only hinflight, hclocked, if_pos herr]
  rfl

theorem exec_memoryReadResponse_of_intact {data : List W8} (hlength : data.length = r.size) (poison : BitVec 4) :
    exec (.memoryReadResponse p r.tag data (parityBits data) poison 0#8) s =
      .next (((s.freeCredit p.toNat r).useRead p.toNat r data poison).pump p.toNat) := by
  have hparity := parityFails_parityBits data
  rw [show exec (.memoryReadResponse p r.tag data (parityBits data) poison 0#8) s =
    execMemoryReadResponse p r.tag data (parityBits data) poison 0#8 s from rfl, execMemoryReadResponse]
  simp only [if_pos hport, hread ▸ Port.answered_of_only hinflight, hclocked, hlength, hparity, ne_eq, not_true_eq_false, if_false,
    Bool.true_eq_false, Bool.false_eq_true]

end

theorem State.freeCredit_sends (s : State) (p : Nat) (r : Request) : Sends s (s.freeCredit p r) := rfl

theorem State.freeCredit_of_only {s : State} {p : Nat} {r : Request} (h : (s.port p).inflight = [r]) :
    s.freeCredit p r = s.setPort p { s.port p with inflight := [] } := by
  rw [State.freeCredit, h]
  simp

/-! ### DATA and the report -/

theorem State.readArrives_sends (s : State) (r : Request) (data : List W8) (poison : BitVec 4) : Sends s (s.readArrives r data poison) :=
  Sends.foldl (fun s _ _ => s.storeHost_sends ..) s

theorem State.readArrives_ports (s : State) (r : Request) (data : List W8) (poison : BitVec 4) : (s.readArrives r data poison).ports = s.ports :=
  List.foldlRecOn (motive := fun t : State => t.ports = s.ports) _ _ rfl fun _ ht _ _ => ht

/-- Data of two lines stands in host memory as one range. -/
theorem State.readArrives_host {s : State} {r : Request} (hsize : r.size = 128) {data : List W8} (hdata : data.length = 128) (poison : BitVec 4) :
    (s.readArrives r data poison).host = s.host.store r.addr data := by
  have hlines : (s.readArrives r data poison).host =
      (s.host.store r.addr (data.take 64)).store (r.addr + (data.take 64).length) (data.drop 64) := by
    have hrest : (data.drop 64).take 64 = data.drop 64 := List.take_of_length_le (by rw [List.length_drop]; omega)
    have hfirst : (data.take 64).length = 64 := by rw [List.length_take]; omega
    rw [State.readArrives, hsize, hfirst, ← hrest]
    rfl
  rw [hlines, Memory.store_append, List.take_append_drop]

/-- A write of the Seal, refused or not, keeps PUB. -/
theorem State.sealWrite_attPub (s : State) (a : Nat) (bytes : List W8) : (s.sealWrite a bytes).vault.attPub = s.vault.attPub := by
  rw [State.sealWrite]
  split
  · have hkept : (s.sealRefused a).vault = s.vault := (s.sealRefused_logs a).vault
    rw [State.reportFault]
    split
    · rw [hkept]
    · rw [hkept]
  · rw [Sends.vault (Sends.foldl (fun s g _ => s.request_sends ..) s)]

/-- The Seal of a report that has been signed. -/
def Seal.attSigned (v : Seal) : Seal := { v with drbg := v.drbg + 1, attSent := true }

/-- With DATA read intact and nothing to refuse it, the report is signed and written. -/
theorem State.reportRead_signs {s : State} (hbusy : s.vault.attBusy = true) (hsent : s.vault.attSent = false) (hfault : s.vault.attFault = false)
    (hpub : s.vault.attPub = false) (hdone : s.reporting = false) (hfree : attestRefusal s.vault = 0#4) :
    ∃ k, 0 < k ∧ s.reportRead false = State.sealWrite { s with vault := s.vault.attSigned } (s.vault.attAddr.toNat / 64 * 64)
      (s.attestReport (s.host.read (s.vault.attAddr.toNat / 64 * 64 + 112) 48) k) := by
  have hzero : s.vault.attRefusal = 0 := s.vault.attRefusal_eq.2.2 hfree
  have hentropy : s.vault.entropyFail = false := by
    by_contra hfail
    rw [attestRefusal, Bool.not_eq_false] at *
    split at hfree
    · exact absurd hfree (by decide)
    · rw [if_pos (.inr hfail)] at hfree
      exact absurd hfree (by decide)
  refine ⟨(Config.drbgOutput s.vault.drbg).toNat % (p384Order - 1) + 1, Nat.succ_pos _, ?_⟩
  have hdrbg : s.drbg = (some (Config.drbgOutput s.vault.drbg), { s with vault := { s.vault with drbg := s.vault.drbg + 1 } }) := by
    rw [State.drbg, if_neg (by simp [hentropy])]
  unfold State.reportRead
  extract_lets u
  have hu : u = s := if_neg Bool.false_ne_true
  clear_value u
  subst hu
  rw [if_neg (by simp [hbusy, hdone, hsent]), if_neg (by simp [hfault]), if_neg (not_not.2 hzero), hdrbg]
  dsimp only
  exact if_neg (by rw [State.sealWrite_attPub]; simp [hpub])

theorem State.reporting_of_idle {s : State} (hinflight : (s.port 2).inflight = []) (hwaiting : (s.port 2).waiting = []) : s.reporting = false := by
  rw [State.reporting, hinflight, hwaiting]
  rfl

/-- A failed read of DATA is remembered, and leaves the buffer. -/
theorem State.loseRead_reportData {s : State} {r : Request} (hpurpose : r.purpose = .reportData) (hbusy : s.vault.attBusy = true)
    (info : W64) : Logs { s with vault := { s.vault with attFault := true } } (s.loseRead 2 r 0x08 info) := by
  have hlogs : Logs s (s.portError 2 r 3 0x08 0 info) := State.logError_logs ..
  have hlose : s.loseRead 2 r 0x08 info = { s.portError 2 r 3 0x08 0 info with vault := { s.vault with attFault := true } } := by
    rw [State.loseRead, hpurpose]
    dsimp only
    generalize s.portError 2 r 3 0x08 0 info = t at *
    rw [← hlogs.vault] at hbusy ⊢
    simp only [State.reportRead, State.reportFault, hbusy, if_true]
    split <;> rfl
  rw [hlose]
  generalize s.portError 2 r 3 0x08 0 info = t at *
  exact ⟨by rw [hlogs.frame]⟩

theorem reportsAreWritten : ReportsAreWritten := by
  rintro s r data err hbusy hsent hfault hpub ⟨hup, -, hcredits⟩ hstoves hinflight hwaiting haligned hlow hread hpurpose haddr hsize hlength
  have hclocked : s.clocked = true := by
    simp only [State.portUp, Bool.and_eq_true] at hup
    exact hup.1.1.1
  have hport : (2#5).toNat < s.portCount := by
    rw [State.portCount, show (2#5).toNat = 2 from rfl]
    omega
  have hfreed := State.freeCredit_of_only hinflight
  by_cases herr : err = 0#8
  · subst herr
    rw [exec_memoryReadResponse_of_intact hport hinflight hread hclocked (hlength.trans hsize.symm)]
    have huse (t : State) : t.useRead 2 r data 0#4 = (t.readArrives r data 0#4).reportRead false := by
      rw [State.useRead, hpurpose]
      rfl
    have hsends := (s.freeCredit_sends 2 r).trans (State.readArrives_sends (s.freeCredit 2 r) r data 0#4)
    have hhost : ((s.freeCredit 2 r).readArrives r data 0#4).host = s.host.store r.addr data :=
      State.readArrives_host (s := s.freeCredit 2 r) hsize hlength 0#4
    have hidle : (((s.freeCredit 2 r).readArrives r data 0#4).port 2).inflight = [] ∧
        (((s.freeCredit 2 r).readArrives r data 0#4).port 2).waiting = [] ∧
        3 ≤ (((s.freeCredit 2 r).readArrives r data 0#4).port 2).wrCredits.toNat := by
      rw [State.port, State.readArrives_ports, hfreed, ← State.port, State.port_setPort_self]
      exact ⟨rfl, hwaiting, hcredits⟩
    rw [show (2#5).toNat = 2 from rfl, huse]
    generalize (s.freeCredit 2 r).readArrives r data 0#4 = u at *
    obtain ⟨hnone, hnothing, hroom⟩ := hidle
    have hup' : u.portUp 2 = true := by rw [hsends]; exact hup
    have hvault := hsends.vault
    have hdone := State.reporting_of_idle hnone hnothing
    by_cases hfree : attestRefusal s.vault = 0#4
    · obtain ⟨k, hk, hsigns⟩ := State.reportRead_signs (s := u) (by rw [hvault, hbusy]) (by rw [hvault, hsent]) (by rw [hvault, hfault])
        (by rw [hvault, hpub]) hdone (by rw [hvault, hfree])
      have hat : s.vault.attAddr.toNat / 64 * 64 = s.vault.attAddr.toNat := by omega
      rw [hvault, hat] at hsigns
      have hlen := State.attestReport_length u (Memory.read_length u.host (s.vault.attAddr.toNat + 112) 48) k
      have hsame : u.attestReport (u.host.read (s.vault.attAddr.toNat + 112) 48) k =
          s.attestReport ((s.host.store r.addr data).read (s.vault.attAddr.toNat + 112) 48) k := by
        rw [hhost, hsends]
        rfl
      rw [hsame] at hsigns
      rw [hsame] at hlen
      generalize hreport : s.attestReport ((s.host.store r.addr data).read (s.vault.attAddr.toNat + 112) 48) k = report at *
      have hne : report ≠ [] := List.ne_nil_of_length_pos (by omega)
      obtain ⟨hwrites, hstored, hwaits⟩ := State.sealWrite_of_free (s := { u with vault := s.vault.attSigned }) (a := s.vault.attAddr.toNat)
        hup' hnothing hnone hne (by omega) (by omega) hroom
      rw [hsigns, State.pump_of_idle hwaits]
      generalize State.sealWrite _ _ report = w at *
      refine ⟨w, rfl, fun _ _ => ⟨?_, ?_, k, hk, ?_⟩, fun _ h => absurd hfree h, fun h => absurd rfl h, hwrites.mantel.trans hsends.mantel,
        hwrites.rings.trans hsends.rings, hwrites.hearths.trans hsends.hearths⟩
      · exact (congrArg Seal.attBusy hwrites.vault).trans hbusy
      · exact (congrArg Seal.attSent hwrites.vault :)
      · rw [hstored, hreport, List.take_of_length_le hlen.le]
        exact congrArg (Memory.store · _ report) hhost
    · have hends : u.reportRead false = u.attIdle (attestRefusal s.vault) := by
        have hne : s.vault.attRefusal ≠ 0 := mt s.vault.attRefusal_eq.2.1 hfree
        rw [State.reportRead]
        simp only [hvault, hbusy, hsent, hfault, hdone, hne, s.vault.attRefusal_eq.1, Bool.false_eq_true, Bool.true_eq_false, if_false, ne_eq,
          not_false_eq_true, if_true, or_self]
      have hpump : (u.attIdle (attestRefusal s.vault)).pump 2 = u.attIdle (attestRefusal s.vault) := State.pump_of_idle hnothing
      rw [hends, hpump]
      exact ⟨_, rfl, fun _ h => absurd h hfree, fun _ _ => ⟨rfl, rfl, hhost⟩, fun h => absurd rfl h, hsends.mantel, hsends.rings, hsends.hearths⟩
  · rw [exec_memoryReadResponse_of_error hport hinflight hread hclocked herr]
    have hlogs := (State.loseRead_reportData (s := s.freeCredit 2 r) hpurpose hbusy (err.setWidth 64)).trans
      (.of_sends (State.pump_sends _ 2))
    refine ⟨_, rfl, fun h => absurd h herr, fun h => absurd h herr, fun _ => ⟨?_, ?_, ?_⟩, hlogs.mantel, hlogs.rings, hlogs.hearths⟩
    · exact (congrArg Seal.attBusy hlogs.vault).trans hbusy
    · exact (congrArg Seal.attFault hlogs.vault :)
    · exact (congrArg Seal.attSent hlogs.vault).trans hsent

theorem State.reporting_iff (s : State) : s.reporting = true ↔
    ∃ q ∈ (s.port 2).inflight ++ (s.port 2).waiting, q.purpose = .reportData ∨ q.purpose = .report := by
  simp only [State.reporting, List.any_eq_true, Bool.or_eq_true, decide_eq_true_eq]

theorem reportsEnd : ReportsEnd := by
  intro s memError open' ends idle
  have hends : ends = .next (s.attDone memError) := rfl
  have hreporting := s.reporting_iff
  rw [hends]
  refine ⟨fun hopen => ?_, fun hbusy hall => ?_⟩
  · rw [State.attDone, if_pos (hopen.imp_right hreporting.2)]
  have hdone : ¬(s.vault.attBusy = false ∨ s.reporting = true) := by
    rw [hreporting, hbusy]
    rintro (h | ⟨q, hq, h⟩)
    · exact absurd h nofun
    · exact h.elim (hall q hq).1 (hall q hq).2
  rw [State.attDone, if_neg hdone]
  refine ⟨fun hfault => ?_, fun hfault hmem hsent => ?_, fun hfault hmem hsent => ?_⟩
  · rw [if_pos (by simpa using hfault)]
    rfl
  · rw [if_neg (by simp [hfault, hmem]), if_pos hsent]
    rfl
  · rw [if_neg (by simp [hfault, hmem]), if_neg (by simp [hsent])]

theorem healthFailuresStopTheDrbg : HealthFailuresStopTheDrbg := by
  intro s
  rw [show exec .entropyHealthFail s = execEntropyHealthFail s from rfl, execEntropyHealthFail]
  refine ⟨fun hseal => ⟨by rw [if_pos hseal], rfl⟩, fun hseal => by rw [if_neg (by simp [hseal])]⟩

/-- Settles O18. -/
theorem attestationFollowsR344 : Obligations.AttestationFollowsR344 :=
  ⟨attestationStarts, reportsAreWritten, reportsEnd, healthFailuresStopTheDrbg⟩

end Sys2Proof.Machine
end

section
/-! SUPPORT. Life-cycle transitions: GO, the authorisation, and the fuses (R333 to R335). -/

namespace Sys2Proof.Machine

/-! ### The refusals of Table 16-4 -/

theorem exec_sealLcGo_of_sashOpen {s : State} (h : s.sashOpen) (hseal : s.cfg.hasSeal = true) (g : BitVec 3) :
    exec (.sealLcGo g) s = .next (s.lcGo g).answered := by
  have hgo : flag (place 0 8 g.toNat + place 0 11 1) 0 11 = true := by
    revert g
    decide
  have htarget : BitVec.ofNat 3 (fld (place 0 8 g.toNat + place 0 11 1) 0 8 3) = g := by
    revert g
    decide
  have hlt : place 0 8 g.toNat + place 0 11 1 < 2 ^ 64 := by
    revert g
    decide
  calc exec (.sealLcGo g) s = .next (s.sashWrite 0x40000 (place 0 8 g.toNat + place 0 11 1)) := rfl
    _ = .next (s.writeSeal 0x40000 (place 0 8 g.toNat + place 0 11 1)).answered := by
      rw [State.sashWrite_seal h (by decide) (by decide) (by decide) hlt]
    _ = .next (s.lcGo g).answered := by
      generalize place 0 8 g.toNat + place 0 11 1 = d at *
      simp [State.writeSeal, hseal, hgo, htarget]

theorem Seal.lc_le (v : Seal) : v.lc ≤ 4 := by
  have h : ∀ f : BitVec 4, lcOfFuse f ≤ 4 := by decide
  exact h v.lcShown

/-- Table 16-4 over what it reads: the state, the target, a blank ROOT, an active ring, the lock, slot 4, and a stopped DRBG. -/
def refusalOf (l g : Nat) (root active lock slot entropy : Bool) : BitVec 4 :=
  if (l, g) ∉ [(0, 1), (1, 2), (1, 3), (2, 3), (0, 4), (1, 4), (2, 4), (3, 4)] ∨ (l = 0 ∧ g = 1 ∧ root = false) then 1#4
  else if active = true then 2#4
  else if l = 1 ∧ g = 2 ∧ lock = false then 4#4
  else if g = 3 ∧ (l = 2 ∨ slot = true) ∧ entropy = true then 5#4
  else if g = 3 ∧ l = 2 ∧ slot = false then 3#4
  else 0#4

/-- The model's RESULT over the same. -/
def resultOf (l g : Nat) (root active lock slot entropy : Bool) : Nat :=
  let known := (l == 0 && g == 1) || (l == 1 && g == 2) || ((l == 1 || l == 2) && g == 3) || (decide (l ≤ 3) && g == 4)
  if !known || (l == 0 && g == 1 && !root) then 1
  else if active then 2
  else if l == 1 && g == 2 && !lock then 4
  else if (g == 3 && (l == 2 || slot)) && entropy then 5
  else if (g == 3 && (l == 2 || slot)) && !slot then 3
  else 0

theorem resultOf_eq_refusalOf : ∀ l < 5, ∀ g < 8, ∀ root active lock slot entropy : Bool,
    BitVec.ofNat 4 (resultOf l g root active lock slot entropy) = refusalOf l g root active lock slot entropy ∧
      (resultOf l g root active lock slot entropy = 0 ↔ refusalOf l g root active lock slot entropy = 0#4) := by
  decide

theorem lcRefusal_eq_refusalOf (s : State) (g : Nat) : lcRefusal s g = refusalOf s.vault.lc g s.vault.rootBlank
    ((List.range 128).any fun n => decide ((s.ring n).state ≠ .off)) s.vault.lockFuse (s.vault.slotMask.getLsbD 4) s.vault.entropyFail := rfl

/-- In Run the model's RESULT is Table 16-4's refusal. -/
theorem lcResult_eq_lcRefusal {s : State} (hrun : s.pwr.block = .run) (hreset : s.vault.resetting = false) (g : BitVec 3) :
    BitVec.ofNat 4 (s.lcResult g.toNat) = lcRefusal s g.toNat ∧ (s.lcResult g.toNat = 0 ↔ lcRefusal s g.toNat = 0#4) := by
  have h := resultOf_eq_refusalOf s.vault.lc (Nat.lt_succ_of_le s.vault.lc_le) g.toNat g.isLt s.vault.rootBlank
    ((List.range 128).any fun n => decide ((s.ring n).state ≠ .off)) s.vault.lockFuse (s.vault.slotMask.getLsbD 4) s.vault.entropyFail
  have hresult : s.lcResult g.toNat = resultOf s.vault.lc g.toNat s.vault.rootBlank
      ((List.range 128).any fun n => decide ((s.ring n).state ≠ .off)) s.vault.lockFuse (s.vault.slotMask.getLsbD 4) s.vault.entropyFail := by
    simp only [State.lcResult, hrun, hreset, ne_eq, not_true_eq_false]
    rfl
  rw [hresult, lcRefusal_eq_refusalOf]
  exact h

/-- A transition that needs an authorisation and is not refused at once finds slot 4 programmed. -/
theorem needsAuth_iff {s : State} {g : BitVec 3}
    (hfree : lcRefusal s g.toNat = 0#4) : s.vault.needsAuth g.toNat = true ↔ g = 3#3 ∧ s.vault.slotMask.getLsbD 4 = true := by
  have hg : g.toNat = 3 ↔ g = 3#3 := ⟨fun h => BitVec.eq_of_toNat_eq h, fun h => by rw [h]; rfl⟩
  have hslot : g.toNat = 3 → s.vault.lc = 2 → s.vault.slotMask.getLsbD 4 = true := by
    have hall : ∀ root active lock slot entropy : Bool, refusalOf 2 3 root active lock slot entropy = 0#4 → slot = true := by decide
    intro h3 h2
    rw [lcRefusal_eq_refusalOf, h3, h2] at hfree
    exact hall _ _ _ _ _ hfree
  simp only [Seal.needsAuth, Bool.and_eq_true, Bool.or_eq_true, beq_iff_eq, hg]
  tauto

/-! ### The end of a GO -/

/-- A fresh nonce, where the DRBG gives one, is all that changes. -/
theorem State.freshNonce_cases (s : State) :
    s.freshNonce = { s with vault := { s.vault with nonce := s.freshNonce.vault.nonce, drbg := s.freshNonce.vault.drbg } } ∧
      (s.vault.entropyFail = false → s.freshNonce.vault.nonce = (Config.drbgOutput s.vault.drbg).setWidth 64) := by
  by_cases h : s.vault.entropyFail = true
  · have hdrbg : s.drbg = (none, s) := if_pos h
    have hsame : s.freshNonce = s := by rw [State.freshNonce, hdrbg]
    rw [hsame]
    exact ⟨rfl, fun hfail => absurd (h.symm.trans hfail) nofun⟩
  · have hdrbg : s.drbg = (some (Config.drbgOutput s.vault.drbg), { s with vault := { s.vault with drbg := s.vault.drbg + 1 } }) := if_neg h
    rw [State.freshNonce, hdrbg]
    exact ⟨rfl, fun _ => rfl⟩

theorem State.lcEnd_of_refused {s : State} {res : Nat} (h : res ≠ 0) :
    s.lcEnd res = State.freshNonce { s with vault := { s.vault with result := BitVec.ofNat 4 res, deciding := false } } := if_neg h

theorem State.lcEnd_of_accepted (s : State) :
    s.lcEnd 0 =
      let u := (State.freshNonce { s with vault := { s.vault with result := 0#4, deciding := false } }).zeroiseKeys
      { u with vault := { u.vault with busy := true, blowing := true, goal := u.vault.target } } := rfl

/-- The Seal of a transition that is accepted, but for its nonce. -/
def Seal.accepted (v : Seal) : Seal :=
  { v with result := 0#4, deciding := false, busy := true, blowing := true, goal := v.target, attest := false }

/-- An accepted GO: what it changes, and the nonce. -/
theorem State.lcEnd_accepts (s : State) :
    (∃ k n, s.lcEnd 0 = { s with
      rings := s.endSessions.rings, vault := { s.vault.accepted with nonce := n, drbg := k }, audit := { s.audit with recKey := none } } ∧
      (s.vault.entropyFail = false → n = (Config.drbgOutput s.vault.drbg).setWidth 64)) := by
  obtain ⟨hfresh, hnonce⟩ := State.freshNonce_cases { s with vault := { s.vault with result := 0#4, deciding := false } }
  rw [State.lcEnd_of_accepted]
  generalize State.freshNonce _ = u at *
  dsimp only
  refine ⟨u.vault.drbg, u.vault.nonce, ?_, hnonce⟩
  rw [hfresh]
  rfl

theorem State.lcEnd_refuses (s : State) {res : Nat} (h : res ≠ 0) :
    (∃ k n, s.lcEnd res = { s with vault := { s.vault with result := BitVec.ofNat 4 res, deciding := false, nonce := n, drbg := k } } ∧
      (s.vault.entropyFail = false → n = (Config.drbgOutput s.vault.drbg).setWidth 64)) := by
  obtain ⟨hfresh, hnonce⟩ := State.freshNonce_cases { s with vault := { s.vault with result := BitVec.ofNat 4 res, deciding := false } }
  rw [State.lcEnd_of_refused h]
  generalize State.freshNonce _ = u at *
  exact ⟨u.vault.drbg, u.vault.nonce, hfresh, hnonce⟩

theorem State.lcEnd_kept (s : State) (res : Nat) :
    (s.lcEnd res).vault.target = s.vault.target ∧ (s.lcEnd res).vault.lcFuse = s.vault.lcFuse := by
  by_cases h : res = 0
  · obtain ⟨k, n, hend, -⟩ := s.lcEnd_accepts
    rw [h, hend]
    exact ⟨rfl, rfl⟩
  · obtain ⟨k, n, hend, -⟩ := s.lcEnd_refuses h
    rw [hend]
    exact ⟨rfl, rfl⟩

theorem State.lcRead_kept (s : State) (intact : Bool) :
    (s.lcRead intact).vault.target = s.vault.target ∧ (s.lcRead intact).vault.lcFuse = s.vault.lcFuse := by
  rw [State.lcRead]
  split
  · exact ⟨rfl, rfl⟩
  · dsimp only
    split
    · exact s.lcEnd_kept _
    · exact s.forgetAuthorisation.lcEnd_kept _

/-- While the authorisation is read, the target and the fuses are kept; a range below 2^52 only sends its requests. -/
theorem State.sealRead_authorisation (s : State) (a : Nat) :
    (a + 256 ≤ 2 ^ 52 → Sends s (s.sealRead a 256 .authorisation fun s => s.lcRead false)) ∧
      (s.sealRead a 256 .authorisation fun s => s.lcRead false).vault.target = s.vault.target ∧
      (s.sealRead a 256 .authorisation fun s => s.lcRead false).vault.lcFuse = s.vault.lcFuse := by
  by_cases h : 2 ^ 52 < a + 256
  · have hkept : (s.sealRefused a).vault = s.vault := (s.sealRefused_logs a).vault
    obtain ⟨htarget, hfuse⟩ := (s.sealRefused a).lcRead_kept false
    rw [State.sealRead, if_pos h]
    exact ⟨fun hin => absurd h (Nat.not_lt.2 hin), htarget.trans (by rw [hkept]), hfuse.trans (by rw [hkept])⟩
  · have hsends : Sends s (s.sealRead a 256 .authorisation fun s => s.lcRead false) := by
      rw [State.sealRead, if_neg h]
      exact Sends.foldl (fun s g _ => s.request_sends ..) s
    exact ⟨fun _ => hsends, by rw [hsends.vault], by rw [hsends.vault]⟩

theorem transitionsFollowTable16_4 : TransitionsFollowTable16_4 := by
  intro s g hopen hseal
  obtain ⟨hrun, hreset, hbusy⟩ := hopen
  rw [exec_sealLcGo_of_sashOpen ⟨hrun, hreset, hbusy⟩ hseal]
  refine ⟨fun hscrapped => ?_, fun hlc hdeciding => ?_, fun hlc hdeciding => ?_⟩
  · rw [State.lcGo, if_pos hscrapped]
  · rw [State.lcGo, if_neg hlc, if_pos (by simp [hdeciding])]
  obtain ⟨hcode, hzero⟩ := lcResult_eq_lcRefusal hrun hreset g
  have hgo : s.lcGo g =
      if s.lcResult g.toNat = 0 ∧ s.vault.needsAuth g.toNat = true then
        State.sealRead { s with vault := { s.vault with target := g, deciding := true } } (s.vault.authAddr.toNat / 64 * 64) 256
          .authorisation fun s => s.lcRead false
      else State.lcEnd { s with vault := { s.vault with target := g } } (s.lcResult g.toNat) := by
    rw [State.lcGo, if_neg hlc, if_neg (by simp [hbusy, hdeciding])]
    rfl
  by_cases hrefused : lcRefusal s g.toNat ≠ 0#4
  · have hres := mt hzero.1 hrefused
    obtain ⟨k, n, hend, hnonce⟩ := State.lcEnd_refuses { s with vault := { s.vault with target := g } } hres
    rw [hgo, if_neg fun h => hres h.1, hend, hcode]
    exact ⟨_, rfl, rfl, rfl, fun _ => ⟨⟨rfl, rfl⟩, hnonce⟩, fun h => absurd h hrefused⟩
  rw [not_not] at hrefused
  have hres := hzero.2 hrefused
  by_cases hauth : g = 3#3 ∧ s.vault.slotMask.getLsbD 4 = true
  · rw [hgo, if_pos ⟨hres, (needsAuth_iff hrefused).2 hauth⟩]
    obtain ⟨hsends, htarget, hfuse⟩ := State.sealRead_authorisation { s with vault := { s.vault with target := g, deciding := true } }
      (s.vault.authAddr.toNat / 64 * 64)
    generalize State.sealRead _ _ 256 .authorisation _ = t at *
    refine ⟨_, rfl, htarget, hfuse, fun h => absurd hrefused h, fun _ => ⟨fun h => absurd hauth h, fun _ _ hin => ?_⟩⟩
    exact ⟨(hsends hin).vault, (hsends hin).mantel, (hsends hin).rings, (hsends hin).hearths⟩
  · rw [hgo, if_neg fun h => hauth ((needsAuth_iff hrefused).1 h.2), hres]
    obtain ⟨k, n, hend, hnonce⟩ := State.lcEnd_accepts { s with vault := { s.vault with target := g } }
    rw [hend]
    obtain ⟨hended, hkept⟩ := ringsLoseSessions_of_rings (s := s) (t := State.answered { s with
      rings := s.endSessions.rings, vault := { { s.vault with target := g }.accepted with nonce := n, drbg := k },
      audit := { s.audit with recKey := none } }) rfl
    exact ⟨_, rfl, rfl, rfl, fun h => absurd hrefused h,
      fun _ => ⟨fun _ => ⟨⟨rfl, rfl, hended, hkept⟩, hnonce⟩, fun hg hslot => absurd ⟨hg, hslot⟩ hauth⟩⟩

/-! ### The authorisation -/

/-- What data of a read leaves in host memory depends on host memory alone. -/
theorem State.readArrives_host_congr {s t : State} (h : s.host = t.host) (r : Request) (data : List W8) (poison : BitVec 4) :
    (s.readArrives r data poison).host = (t.readArrives r data poison).host := by
  unfold State.readArrives
  induction List.range (ceilDiv r.size 64) generalizing s t with
  | nil => exact h
  | cons k rest ih =>
    exact ih (congrArg (fun m : Memory => m.store (r.addr + 64 * k) ((data.drop (64 * k)).take 64)) h)

theorem State.authorised_congr {s t : State} (hhost : s.host = t.host) (hvault : s.vault = t.vault) (g : Nat) : s.authorised g = t.authorised g := by
  simp only [State.authorised, hhost, hvault]

theorem State.lcResult_congr {s t : State} (hvault : s.vault = t.vault) (hpwr : s.pwr = t.pwr) (hrings : s.rings = t.rings) (g : Nat) :
    s.lcResult g = t.lcResult g := by
  simp only [State.lcResult, State.ring, hvault, hpwr, hrings]
  rfl

/-- The last part of an authorisation that nothing else refuses, read intact: it decides between 0 and 3. -/
theorem State.lcRead_intact {s : State} (hdeciding : s.vault.deciding = true) (hlast : s.authorising = false)
    (hfree : s.lcResult s.vault.target.toNat = 0) : s.lcRead true = s.lcEnd (if s.authorised s.vault.target.toNat then 0 else 3) := by
  rw [State.lcRead, if_neg (by simp [hdeciding, hlast])]
  dsimp only
  rw [if_pos rfl, hfree, if_neg (by decide)]

/-- A part that could not be read refuses at once. -/
theorem State.lcRead_lost {s : State} (hdeciding : s.vault.deciding = true) (hfree : s.lcResult s.vault.target.toNat = 0) :
    s.lcRead false = s.forgetAuthorisation.lcEnd 3 := by
  rw [State.lcRead, if_neg (by simp [hdeciding])]
  dsimp only
  rw [if_neg (by decide), hfree, if_neg (by decide)]

theorem State.forgetAuthorisation_sends (s : State) : Sends s s.forgetAuthorisation := rfl

/-- What the end of a reading leaves: as `AuthorisationDecides` says it, of the state `u` before the ports send what waits. -/
structure Decided (s u : State) (ok : Prop) : Prop where
  accepted : ok → u.vault.busy = true ∧ u.vault.result = 0#4 ∧ u.vault.goal = s.vault.target ∧ u.vault.attest = false
  refused : ¬ok → u.vault.busy = s.vault.busy ∧ u.vault.result = 3#4 ∧ u.vault.attest = s.vault.attest
  deciding : u.vault.deciding = false
  lcFuse : u.vault.lcFuse = s.vault.lcFuse
  mantel : u.mantel = s.mantel
  hearths : u.hearths = s.hearths

theorem decided_lcEnd_zero {s u : State} {ok : Prop} (hok : ok) (hvault : u.vault = s.vault) (hmantel : u.mantel = s.mantel)
    (hhearths : u.hearths = s.hearths) : Decided s (u.lcEnd 0) ok := by
  obtain ⟨k, n, hend, -⟩ := u.lcEnd_accepts
  rw [hend]
  exact ⟨fun _ => ⟨rfl, rfl, (congrArg Seal.target hvault :), rfl⟩, fun h => absurd hok h, rfl, (congrArg Seal.lcFuse hvault :), hmantel, hhearths⟩

theorem decided_lcEnd_three {s u : State} {ok : Prop} (hok : ¬ok) (hvault : u.vault = s.vault) (hmantel : u.mantel = s.mantel)
    (hhearths : u.hearths = s.hearths) : Decided s (u.lcEnd 3) ok := by
  obtain ⟨k, n, hend, -⟩ := u.lcEnd_refuses (res := 3) (by decide)
  rw [hend]
  exact ⟨fun h => absurd h hok, fun _ => ⟨(congrArg Seal.busy hvault :), rfl, (congrArg Seal.attest hvault :)⟩, rfl, (congrArg Seal.lcFuse hvault :),
    hmantel, hhearths⟩

theorem Decided.of_sends {s u t : State} {ok : Prop} (h : Decided s u ok) (k : Sends u t) : Decided s t ok := by
  obtain ⟨haccepted, hrefused, hdeciding, hfuse, hmantel, hhearths⟩ := h
  rw [← k.vault] at haccepted hrefused hdeciding hfuse
  exact ⟨haccepted, hrefused, hdeciding, hfuse, k.mantel.trans hmantel, k.hearths.trans hhearths⟩

theorem authorisationDecides : AuthorisationDecides := by
  intro s r data poison err hclocked hdeciding hinflight hwaiting hread hpurpose hlength hfree hrun hreset hstoves
  have hport : (2#5).toNat < s.portCount := by
    rw [State.portCount, show (2#5).toNat = 2 from rfl]
    omega
  have hzero := (lcResult_eq_lcRefusal hrun hreset s.vault.target).2.2 hfree
  have hfreed := State.freeCredit_of_only hinflight
  suffices h : ∃ t, exec (.memoryReadResponse 2#5 r.tag data (parityBits data) poison err) s = .next t ∧
      Decided s t (err = 0#8 ∧ poison = 0#4 ∧ (s.readArrives r data poison).authorised s.vault.target.toNat = true) by
    obtain ⟨t, ht, hdecided⟩ := h
    exact ⟨t, ht, ⟨hdecided.accepted, hdecided.refused⟩, hdecided.deciding, hdecided.lcFuse, hdecided.mantel, hdecided.hearths⟩
  by_cases herr : err = 0#8
  · subst herr
    rw [exec_memoryReadResponse_of_intact hport hinflight hread hclocked hlength, show (2#5).toNat = 2 from rfl]
    refine ⟨_, rfl, Decided.of_sends ?_ (State.pump_sends _ 2)⟩
    have huse : (s.freeCredit 2 r).useRead 2 r data poison = ((s.freeCredit 2 r).readArrives r data poison).lcRead (decide (poison = 0#4)) := by
      rw [State.useRead, hpurpose]
    have hsends := (s.freeCredit_sends 2 r).trans (State.readArrives_sends (s.freeCredit 2 r) r data poison)
    have hhost := State.readArrives_host_congr (s := s.freeCredit 2 r) (t := s) rfl r data poison
    have hseen : (s.readArrives r data poison).vault = s.vault := (State.readArrives_sends s r data poison).vault
    have hlast : ((s.freeCredit 2 r).readArrives r data poison).authorising = false := by
      rw [State.authorising, State.port, State.readArrives_ports, hfreed, ← State.port, State.port_setPort_self]
      simp [hwaiting]
    rw [huse]
    generalize (s.freeCredit 2 r).readArrives r data poison = u at *
    have hvault := hsends.vault
    have hsame : u.authorised s.vault.target.toNat = (s.readArrives r data poison).authorised s.vault.target.toNat :=
      State.authorised_congr hhost (hvault.trans hseen.symm) _
    have hres : u.lcResult u.vault.target.toNat = 0 := by
      rw [hvault, State.lcResult_congr hvault hsends.pwr hsends.rings, hzero]
    have hdec : u.vault.deciding = true := by rw [hvault, hdeciding]
    rw [← hsame]
    by_cases hpoison : poison = 0#4
    · rw [decide_eq_true hpoison, State.lcRead_intact hdec hlast hres, hvault]
      by_cases hauth : u.authorised s.vault.target.toNat = true
      · rw [if_pos hauth]
        exact decided_lcEnd_zero ⟨rfl, hpoison, hauth⟩ hvault hsends.mantel hsends.hearths
      · rw [if_neg hauth]
        exact decided_lcEnd_three (fun h => hauth h.2.2) hvault hsends.mantel hsends.hearths
    · rw [decide_eq_false hpoison, State.lcRead_lost hdec hres]
      have hforget := u.forgetAuthorisation_sends
      exact decided_lcEnd_three (fun h => hpoison h.2.1) (hforget.vault.trans hvault) (hforget.mantel.trans hsends.mantel)
        (hforget.hearths.trans hsends.hearths)
  · rw [exec_memoryReadResponse_of_error hport hinflight hread hclocked herr, show (2#5).toNat = 2 from rfl]
    refine ⟨_, rfl, Decided.of_sends ?_ (State.pump_sends _ 2)⟩
    have hlogs : Logs s ((s.freeCredit 2 r).portError 2 r 3 0x08 0 (err.setWidth 64)) :=
      (Logs.of_sends (s.freeCredit_sends 2 r)).trans (State.logError_logs ..)
    have hlose : (s.freeCredit 2 r).loseRead 2 r 0x08 (err.setWidth 64) =
        ((s.freeCredit 2 r).portError 2 r 3 0x08 0 (err.setWidth 64)).lcRead false := by
      rw [State.loseRead, hpurpose]
    rw [hlose]
    generalize (s.freeCredit 2 r).portError 2 r 3 0x08 0 (err.setWidth 64) = u at *
    have hvault := hlogs.vault
    have hres : u.lcResult u.vault.target.toNat = 0 := by
      rw [hvault, State.lcResult_congr hvault hlogs.pwr hlogs.rings, hzero]
    have hforget := u.forgetAuthorisation_sends
    rw [State.lcRead_lost (by rw [hvault, hdeciding]) hres]
    exact decided_lcEnd_three (fun h => herr h.1) (hforget.vault.trans hvault) (hforget.mantel.trans hlogs.mantel)
      (hforget.hearths.trans hlogs.hearths)

end Sys2Proof.Machine
end

section
/-! SUPPORT. The start of a reset: what every kind leaves, and the fuses of a transition (R334, R361, R362, Tables 18-2 and 18-3). -/

namespace Sys2Proof.Machine

/-! ### Accesses that stall -/

theorem State.completeStalled_of_none {s : State} (h : s.sash.stalled = []) : s.completeStalled = s := by
  have hsame : ({ s with sash := { s.sash with stalled := [] } } : State) = s := by rw [← h]
  rw [State.completeStalled, h, List.foldl_nil, ← h]

/-! ### The state that a reset starts with -/

/-- The block at the start of a reset, before the hearths that may have power are asked for it. -/
def State.resetCore (s : State) (k : ResetKind) (cause : BitVec 3) : State :=
  let u := ({ s.resetEmber k with
    mantel := [], mantelPoison := [], mantelBad := [], mantelSoft := [],
    hearths := if k.all then [] else Tab.remap Hearth.reset s.hearths (Hearth.afterReset false),
    ports := [], blk := Block.reset, pwr := s.pwr.afterReset k, audit := s.audit.afterReset k.all, xch := Transom.reset,
    vault := s.vault.afterReset, err := s.err.afterReset k.all, maint := Maint.reset }.resetRails k s.pwr.block).startWipe cause
  { u with vault := { u.vault with resetting := true, resetCold := k.all } }

/-- Every stove that has power in a reset raises its hearths' requests. -/
def State.raiseAll (s : State) : State := (List.range s.cfg.stoves).foldl (fun s v => s.raiseHearths v) s

theorem State.startReset_eq (s : State) (k : ResetKind) (cause : BitVec 3) : s.startReset k cause = (s.resetCore k cause).raiseAll.completeStalled := by
  cases k <;> rfl

theorem State.raiseAll_raises (s : State) : RaisesPower s s.raiseAll :=
  List.foldlRecOn _ _ (RaisesPower.refl s) fun t ht v _ => ht.trans (t.raiseHearths_raises v)

/-- With no request standing, no hearth is asked for power. -/
theorem State.raiseAll_of_unasked {s : State} (h : s.pwr.pswReq = 0#73) : s.raiseAll = s := by
  refine List.foldlRecOn (motive := fun t => t = s) _ _ rfl fun t ht v _ => ?_
  have hdown : s.domainUp (stoveDomain v) = false := by simp [State.domainUp, h]
  rw [ht, State.raiseHearths, hdown, Bool.and_false, if_neg (by decide)]

/-- A reset of Ember meets no access that stalls. -/
theorem State.startReset_all {s : State} {k : ResetKind} (hk : k.all = true) (cause : BitVec 3) :
    s.startReset k cause = (s.resetCore k cause).raiseAll := by
  have hraises := (s.resetCore k cause).raiseAll_raises
  have hsash : (s.resetCore k cause).sash = Sash.reset := by
    cases k
    case block => exact absurd hk (by decide)
    all_goals rfl
  rw [State.startReset_eq, State.completeStalled_of_none]
  rw [hraises.only]
  exact congrArg Sash.stalled hsash

/-! ### The fuses of a transition -/

/-- Blown one after another, the missing fuses of a target leave its code over what was blown. -/
theorem blow_lcBits : ∀ f : BitVec 4, blow f (lcBits f 1) = f ||| 1#4 ∧ blow f (lcBits f 2) = f ||| 2#4 ∧ blow f (lcBits f 3) = f ||| 6#4 ∧
    blow f (lcBits f 4) = 15#4 := by
  decide

theorem Seal.blowFirst_all (v : Seal) : (v.blowFirst v.fuseSteps).lcFuse = blow v.lcFuse (lcBits v.lcFuse v.goal.toNat) := by
  rw [Seal.blowFirst, Seal.fuseSteps]
  dsimp only
  rw [Nat.add_sub_cancel_left, List.take_length]

theorem Seal.blowFirst_root {v : Seal} (h : v.goal = 1#3) : (v.blowFirst v.fuseSteps).rootBlank = false := by
  simp [Seal.blowFirst, Seal.fuseSteps, h, bitNat]

theorem fusesOfATransitionAreBlown : FusesOfATransitionAreBlown := by
  intro s
  rw [show exec .lifecycleFusesDone s = execLifecycleFusesDone s from rfl, execLifecycleFusesDone]
  refine ⟨fun hidle => by simp [hidle], fun hblowing => ?_⟩
  obtain ⟨h1, h2, h3, h4⟩ := blow_lcBits s.vault.lcFuse
  have hfuse := s.vault.blowFirst_all
  have hroot := fun h => s.vault.blowFirst_root h
  have hkept : (s.vault.blowFirst s.vault.fuseSteps).keySlots = s.vault.keySlots ∧ (s.vault.blowFirst s.vault.fuseSteps).slotMask = s.vault.slotMask :=
    ⟨rfl, rfl⟩
  rw [if_pos hblowing, State.startReset_all rfl]
  generalize s.vault.blowFirst s.vault.fuseSteps = v at *
  have hraises := State.raiseAll_raises (State.resetCore { s with vault := v } .transition 2#3)
  refine ⟨_, rfl, ?_⟩
  generalize State.raiseAll _ = t at *
  have hreq := hraises.kept
  rw [hraises.only]
  refine ⟨fun hg => ⟨?_, hroot hg⟩, fun hg => ?_, fun hg => ?_, fun hg => ?_, rfl, rfl, rfl, rfl, rfl, hkept.1, hkept.2, rfl, rfl, rfl, rfl, rfl, rfl,
    rfl, rfl, rfl, fun j hj => ?_, rfl⟩
  · exact hfuse.trans (hg ▸ h1)
  · exact hfuse.trans (hg ▸ h2)
  · exact hfuse.trans (hg ▸ h3)
  · exact hfuse.trans (hg ▸ h4)
  · exact hreq j (BitVec.lt_of_getLsbD hj) hj

/-- Settles O23. -/
theorem lifecycleTransitions : Obligations.LifecycleTransitions :=
  ⟨transitionsFollowTable16_4, authorisationDecides, fusesOfATransitionAreBlown⟩

end Sys2Proof.Machine
end

section
/-! SUPPORT. Cold resets, block resets, power-off and power-on (R306, R361, R362, R364). -/

namespace Sys2Proof.Machine

/-! ### Accesses that stalled meet the reset -/

/-- A block reset is in progress: the Seal says so, the block is on its way to Run, the Mantel is empty, and no access stalls. -/
structure InBlockReset (s : State) : Prop where
  resetting : s.vault.resetting = true
  warm : s.vault.resetCold = false
  run : s.pwr.block = .run
  mantel : s.mantel = []
  stalled : s.sash.stalled = []

/-- What a register write in a reset leaves as it is. -/
structure KeepsReset (s t : State) : Prop where
  resetting : t.vault.resetting = s.vault.resetting
  cold : t.vault.resetCold = s.vault.resetCold
  block : t.pwr.block = s.pwr.block
  mantel : t.mantel = s.mantel
  sash : t.sash = s.sash

theorem KeepsReset.refl (s : State) : KeepsReset s s := ⟨rfl, rfl, rfl, rfl, rfl⟩

theorem KeepsReset.trans {s t u : State} (h : KeepsReset s t) (k : KeepsReset t u) : KeepsReset s u :=
  ⟨k.resetting.trans h.resetting, k.cold.trans h.cold, k.block.trans h.block, k.mantel.trans h.mantel, k.sash.trans h.sash⟩

theorem KeepsReset.of_sends {s t : State} (h : Sends s t) : KeepsReset s t := ⟨by rw [h], by rw [h], by rw [h], by rw [h], by rw [h]⟩

theorem KeepsReset.of_grants {s t : State} (h : Grants s t) : KeepsReset s t :=
  ⟨by rw [h.only], by rw [h.only], by rw [h.only], by rw [h.only], by rw [h.only]⟩

theorem KeepsReset.inBlockReset {s t : State} (h : KeepsReset s t) (hs : InBlockReset s) : InBlockReset t :=
  ⟨h.resetting.trans hs.resetting, h.cold.trans hs.warm, h.block.trans hs.run, h.mantel.trans hs.mantel,
    (congrArg Sash.stalled h.sash).trans hs.stalled⟩

theorem arrayWrite_keepsReset {s other : State} {o base step n : Nat} {f : Nat → State} (hf : ∀ i, KeepsReset s (f i)) (hother : KeepsReset s other) :
    KeepsReset s (arrayWrite o base step n f other) := by
  rw [arrayWrite]
  split
  · exact hf _
  · exact hother

theorem State.setStove_keepsReset (s : State) (v : Nat) (x : Stove) : KeepsReset s (s.setStove v x) := ⟨rfl, rfl, rfl, rfl, rfl⟩

theorem State.writeTarget_keepsReset (s : State) (v : Nat) (p : BitVec 3) : KeepsReset s (s.writeTarget v p) := by
  rw [State.writeTarget]
  split
  · exact .refl s
  · split <;> exact s.setStove_keepsReset ..

theorem State.writePstate_keepsReset (s : State) (v d : Nat) : KeepsReset s (s.writePstate v d) := by
  rw [State.writePstate]
  refine KeepsReset.trans ?_ (State.writeTarget_keepsReset ..)
  split
  · exact s.setStove_keepsReset ..
  · exact .refl s

theorem State.writeCode_keepsReset (s : State) (v : Nat) (c : W8) : KeepsReset s (s.writeCode v c) := by
  rw [State.writeCode]
  split <;> exact s.setStove_keepsReset ..

theorem State.isoRelease_keepsReset (s : State) (d : Nat) : KeepsReset s (s.isoRelease d) := by
  by_cases h : s.cfg.hearths < 48 ∧ s.pwr.block ≠ .off ∧ s.pwr.block ≠ .hibernate
  · obtain ⟨hsmall, hoff, hhibernate⟩ := h
    rw [State.isoRelease_of_small hsmall hoff hhibernate]
    refine KeepsReset.trans ?_ (.of_grants (State.regrant_grants _))
    refine KeepsReset.trans ?_ (.of_grants (State.sendRequests_grants 256 _))
    refine KeepsReset.trans ?_ (.of_sends (Sends.foldl (fun s p _ => s.pump_sends p) _))
    exact ⟨rfl, rfl, rfl, rfl, rfl⟩
  · rw [State.isoRelease, if_neg h]
    exact .refl s

theorem State.writePower_keepsReset (s : State) (o d : Nat) : KeepsReset s (s.writePower o d) := by
  rw [State.writePower]
  dsimp only
  split
  · exact ⟨rfl, rfl, rfl, rfl, rfl⟩
  split
  · exact ⟨rfl, rfl, rfl, rfl, rfl⟩
  split
  · exact s.isoRelease_keepsReset d
  · exact arrayWrite_keepsReset (fun v => s.writePstate_keepsReset v d)
      (arrayWrite_keepsReset (fun v => s.writeCode_keepsReset v _) (arrayWrite_keepsReset (fun v => s.setStove_keepsReset v _) (.refl s)))

theorem State.writeMirror_keepsReset (s : State) (o : Nat) (w : W64) : KeepsReset s (s.writeMirror o w) :=
  arrayWrite_keepsReset (fun _ => ⟨rfl, rfl, rfl, rfl, rfl⟩) (.refl s)

/-- A GO in a reset is denied, ignored or refused. -/
theorem State.lcGo_keepsReset {s : State} (hreset : s.vault.resetting = true) (g : BitVec 3) : KeepsReset s (s.lcGo g) := by
  have hres : s.lcResult g.toNat ≠ 0 := by
    rw [State.lcResult]
    split
    · decide
    · rw [if_pos (by simp [hreset])]
      decide
  rw [State.lcGo]
  split
  · exact ⟨rfl, rfl, rfl, rfl, rfl⟩
  split
  · exact .refl s
  · dsimp only
    rw [if_neg fun h => hres h.1]
    obtain ⟨k, n, hend, -⟩ := State.lcEnd_refuses { s with vault := { s.vault with target := g } } hres
    rw [hend]
    exact ⟨rfl, rfl, rfl, rfl, rfl⟩

theorem State.writeSealLc_keepsReset {s : State} (hreset : s.vault.resetting = true) (d : Nat) : KeepsReset s (s.writeSeal 0x40000 d) := by
  have hallow (ok : Bool) (f : Seal → Seal) (hf : (f s.vault).resetting = s.vault.resetting ∧ (f s.vault).resetCold = s.vault.resetCold) :
      KeepsReset s (s.allow ok f) := by
    cases ok
    · exact ⟨rfl, rfl, rfl, rfl, rfl⟩
    · exact ⟨hf.1, hf.2, rfl, rfl, rfl⟩
  by_cases hseal : s.cfg.hasSeal = true
  · by_cases hgo : flag d 0 11 = true
    · have hwrite : s.writeSeal 0x40000 d = s.lcGo (BitVec.ofNat 3 (fld d 0 8 3)) := by
        rw [State.writeSeal, if_pos hseal, if_pos rfl, if_pos hgo]
      rw [hwrite]
      exact State.lcGo_keepsReset hreset _
    · have hwrite : s.writeSeal 0x40000 d = s.allow (s.vault.lc ≠ 4) fun v => { v with target := BitVec.ofNat 3 (fld d 0 8 3) } := by
        rw [State.writeSeal, if_pos hseal, if_pos rfl, if_neg hgo]
      rw [hwrite]
      exact hallow _ _ ⟨rfl, rfl⟩
  · rw [State.writeSeal, if_neg hseal]
    exact .refl s

/-- What is answered in a reset writes Ember's registers, the SYNC registers and SEAL_LC. -/
theorem State.writeReg_keepsReset {s : State} (hreset : s.vault.resetting = true) {o : Nat} (hanswers : resetAnswers o = true) (d : Nat) :
    KeepsReset s (s.writeReg o d) := by
  simp only [resetAnswers, emberAnswers, Bool.or_eq_true, Bool.and_eq_true, decide_eq_true_eq, beq_iff_eq] at hanswers
  rcases hanswers with (((((((hpower | rfl) | rfl) | hmirror) | rfl) | rfl) | rfl) | rfl) | rfl
  · rw [State.writeReg, if_neg (by omega), if_neg (by omega), if_pos hpower.2]
    exact s.writePower_keepsReset o d
  · exact ⟨rfl, rfl, rfl, rfl, rfl⟩
  · exact ⟨rfl, rfl, rfl, rfl, rfl⟩
  · rw [State.writeReg, if_neg (by omega), if_neg (by omega), if_neg (by omega), if_neg (by omega), if_neg (by omega), if_neg (by omega),
      if_neg (by omega), if_neg (by omega), if_neg (by omega), if_neg (by omega), if_pos hmirror]
    exact s.writeMirror_keepsReset _ _
  · exact ⟨rfl, rfl, rfl, rfl, rfl⟩
  · exact ⟨rfl, rfl, rfl, rfl, rfl⟩
  · exact ⟨rfl, rfl, rfl, rfl, rfl⟩
  · exact ⟨rfl, rfl, rfl, rfl, rfl⟩
  · exact State.writeSealLc_keepsReset hreset d

theorem State.respond_inBlockReset {s : State} (h : InBlockReset s) (error : Bool) (data : W64) : InBlockReset (s.respond error data) :=
  ⟨h.resetting, h.warm, h.run, h.mantel, h.stalled⟩

/-- An access that stalled completes in the reset. -/
theorem State.sashAccess_inBlockReset {s : State} (h : InBlockReset s) (write : Bool) (off : BitVec 20) (d : W64) :
    InBlockReset (s.sashAccess write off d) := by
  have hoff : s.pwr.block ≠ .off := by rw [h.run]; decide
  rw [State.sashAccess]
  split
  · rw [State.badAccess, if_neg hoff, if_pos (by rw [h.stalled]; rfl)]
    exact s.respond_inBlockReset h ..
  by_cases hanswers : resetAnswers off.toNat = true
  · have hgate : s.gate write off.toNat = .answer := by
      rw [State.gate, if_neg hoff, if_neg (by simp [hanswers]), if_pos h.run]
    rw [hgate]
    dsimp only
    rw [State.access]
    split
    · exact State.respond_inBlockReset ((State.writeReg_keepsReset h.resetting hanswers _).inBlockReset h) ..
    · have hread : s.sashRead off.toNat = (s.readReg off.toNat, s) := by
        refine if_neg fun hpop => ?_
        rw [hpop] at hanswers
        exact absurd hanswers (by decide)
      rw [hread]
      exact State.respond_inBlockReset h ..
  · have hgate : s.gate write off.toNat = .zero := by
      rw [State.gate, if_neg hoff, if_pos (by simp [hanswers, h.resetting])]
    rw [hgate]
    exact State.respond_inBlockReset h ..

theorem State.completeStalled_inBlockReset {s : State} (h : InBlockReset { s with sash := { s.sash with stalled := [] } }) :
    InBlockReset s.completeStalled := by
  refine List.foldlRecOn _ _ h fun t ht a _ => ?_
  split
  · exact t.respond_inBlockReset ht ..
  · exact t.sashAccess_inBlockReset ht ..

/-! ### Fuses that were being blown -/

/-- What cuts the programming of fuses short leaves the other fields of the Seal. -/
theorem State.cutFuses_frame (s : State) : ∃ k root fuse busy blowing goal,
    s.cutFuses = { s with draws := k, vault := { s.vault with
      rootBlank := root, lcFuse := fuse, busy := busy, blowing := blowing, goal := goal } } ∧ (s.vault.blowing = false → fuse = s.vault.lcFuse) := by
  by_cases h : s.vault.blowing = true
  · rw [State.cutFuses, if_pos h]
    exact ⟨_, _, _, _, _, _, rfl, fun hidle => absurd (h.symm.trans hidle) nofun⟩
  · rw [State.cutFuses, if_neg h]
    exact ⟨s.draws, s.vault.rootBlank, s.vault.lcFuse, s.vault.busy, s.vault.blowing, s.vault.goal, rfl, fun _ => rfl⟩

/-! ### Rails -/

theorem Tab.at_build {α : Type} [DecidableEq α] {d : α} {n : Nat} (f : Nat → α) {i : Nat} (hi : i < n) : Tab.at d (Tab.build d n f) i = f i := by
  have hlist := Tab.at_ofList (d := d) 0 ((List.range n).map f) i (by simpa using hi)
  rw [Nat.zero_add] at hlist
  rw [Tab.build, hlist]
  simp

theorem State.stove_railsOff (s : State) {v : Nat} (hv : v < s.cfg.stoves) : (s.railsOff.stove v).railOn = false := by
  rw [State.railsOff, State.stove]
  dsimp only
  rw [Tab.at_build _ hv]

/-! ### Cold resets and power -/

/-- After a cold reset or power-on no request stands, so no hearth is asked for power yet. -/
theorem State.startReset_unasked {s : State} {k : ResetKind} (hk : k = .cold ∨ k = .powerOn) (cause : BitVec 3) :
    s.startReset k cause = s.resetCore k cause := by
  have hreq : (s.resetCore k cause).pwr.pswReq = 0#73 := by rcases hk with rfl | rfl <;> rfl
  rw [State.startReset_all (by rcases hk with rfl | rfl <;> rfl), State.raiseAll_of_unasked hreq]

theorem State.resetCore_rails {s : State} {k : ResetKind} (hk : k = .cold ∨ k = .powerOn) (cause : BitVec 3) : RailsAskedFor s (s.resetCore k cause) := by
  rcases hk with rfl | rfl
  · exact ⟨rfl, fun v hv => Tab.at_build _ hv⟩
  · exact ⟨rfl, fun v hv => Tab.at_build _ hv⟩

/-! ### Block resets -/

/-- The request of a hearth's switch after every powered stove has raised its own. -/
theorem State.raiseHearths_getLsbD {s : State} (hreset : s.vault.resetting = true) (v : Nat) {j : Nat} (hj : j < 73) :
    (s.raiseHearths v).pwr.pswReq.getLsbD j =
      (s.pwr.pswReq.getLsbD j || (s.domainUp (1 + v) && decide (9 ≤ j ∧ j - 9 < s.cfg.hearths ∧ (j - 9) / 8 = v))) := by
  by_cases hup : s.domainUp (stoveDomain v) = true
  · have hlist (hs : List Nat) (t : State) (hcfg : t.cfg = s.cfg) :
        (hs.foldl (fun s h => if h < s.cfg.hearths then s.requestPower (hearthDomain h) true else s) t).pwr.pswReq.getLsbD j =
          (t.pwr.pswReq.getLsbD j || decide (9 ≤ j ∧ j - 9 < s.cfg.hearths ∧ j - 9 ∈ hs)) := by
      induction hs generalizing t with
      | nil => simp
      | cons h rest ih =>
        rw [List.foldl_cons]
        by_cases hin : h < t.cfg.hearths
        · rw [if_pos hin, ih (t.requestPower (hearthDomain h) true) hcfg, State.requestPower, getLsbD_setBit_true _ _ _ hj, Bool.or_assoc, ← Bool.decide_or]
          rw [hcfg] at hin
          congr 1
          refine decide_eq_decide.2 ?_
          simp only [hearthDomain, List.mem_cons]
          constructor
          · rintro (rfl | ⟨h1, h2, h3⟩)
            · exact ⟨by omega, by omega, .inl (by omega)⟩
            · exact ⟨h1, h2, .inr h3⟩
          · rintro ⟨h1, h2, h3 | h3⟩
            · exact .inl (by omega)
            · exact .inr ⟨h1, h2, h3⟩
        · rw [if_neg hin, ih _ hcfg]
          rw [hcfg] at hin
          congr 1
          refine decide_eq_decide.2 ?_
          simp only [List.mem_cons]
          constructor
          · exact fun ⟨h1, h2, h3⟩ => ⟨h1, h2, .inr h3⟩
          · rintro ⟨h1, h2, h3 | h3⟩
            · omega
            · exact ⟨h1, h2, h3⟩
    have hmember : j - 9 ∈ (List.range 8).map (fun i => 8 * v + i) ↔ (j - 9) / 8 = v := by
      simp only [List.mem_map, List.mem_range]
      constructor
      · rintro ⟨i, hi, h⟩
        omega
      · exact fun h => ⟨(j - 9) % 8, by omega, by omega⟩
    rw [State.raiseHearths, if_pos (by simp [hreset, hup]), hlist _ _ rfl, show s.domainUp (1 + v) = true from hup, Bool.true_and]
    simp only [hmember]
  · have hdown : s.domainUp (1 + v) = false := Bool.eq_false_iff.2 hup
    rw [State.raiseHearths, if_neg (by simp [hup]), hdown, Bool.false_and, Bool.or_false]

theorem State.raiseHearths_domainUp {s : State} (hreset : s.vault.resetting = true) (v : Nat) {d : Nat} (hd : d < 9) :
    (s.raiseHearths v).domainUp d = s.domainUp d := by
  have hack : (s.raiseHearths v).pwr.pswAck = s.pwr.pswAck := by rw [(s.raiseHearths_raises v).only]
  rw [State.domainUp, State.domainUp, hack, State.raiseHearths_getLsbD hreset v (by omega)]
  simp [show ¬9 ≤ d by omega]

/-- The requests of the core and of the stoves stay. -/
theorem State.raiseAll_low {s : State} (hreset : s.vault.resetting = true) {j : Nat} (hj : j < 9) :
    s.raiseAll.pwr.pswReq.getLsbD j = s.pwr.pswReq.getLsbD j := by
  have hlist (t : State) (ht : t.vault.resetting = true ∧ t.pwr.pswReq.getLsbD j = s.pwr.pswReq.getLsbD j) (v : Nat) :
      (t.raiseHearths v).vault.resetting = true ∧ (t.raiseHearths v).pwr.pswReq.getLsbD j = s.pwr.pswReq.getLsbD j := by
    refine ⟨by rw [(t.raiseHearths_raises v).only]; exact ht.1, ?_⟩
    rw [State.raiseHearths_getLsbD ht.1 v (by omega), ht.2]
    simp [show ¬9 ≤ j by omega]
  exact (List.foldlRecOn (motive := fun t => t.vault.resetting = true ∧ t.pwr.pswReq.getLsbD j = s.pwr.pswReq.getLsbD j) _ _ ⟨hreset, rfl⟩
    fun t ht v _ => hlist t ht v).2

theorem State.raiseAll_getLsbD {s : State} (hreset : s.vault.resetting = true) (hstoves : s.cfg.stoves ≤ 8) {j : Nat} (hj : j < 73) :
    s.raiseAll.pwr.pswReq.getLsbD j = (s.pwr.pswReq.getLsbD j ||
      decide (9 ≤ j ∧ j - 9 < s.cfg.hearths ∧ (j - 9) / 8 < s.cfg.stoves ∧ s.domainUp (1 + (j - 9) / 8) = true)) := by
  have hlist (vs : List Nat) (hvs : ∀ v ∈ vs, v < 8) (t : State) (hcfg : t.cfg = s.cfg) (ht : t.vault.resetting = true)
      (hup : ∀ d < 9, t.domainUp d = s.domainUp d) :
      (vs.foldl (fun s v => s.raiseHearths v) t).pwr.pswReq.getLsbD j = (t.pwr.pswReq.getLsbD j ||
        decide (9 ≤ j ∧ j - 9 < s.cfg.hearths ∧ (j - 9) / 8 ∈ vs ∧ s.domainUp (1 + (j - 9) / 8) = true)) := by
    induction vs generalizing t with
    | nil => simp
    | cons v rest ih =>
      have hv : v < 8 := hvs v (.head _)
      have honly := (t.raiseHearths_raises v).only
      rw [List.foldl_cons, ih (fun v hv => hvs v (.tail _ hv)) _ (by rw [honly]; exact hcfg) (by rw [honly]; exact ht)
        (fun d hd => (State.raiseHearths_domainUp ht v hd).trans (hup d hd)), State.raiseHearths_getLsbD ht v hj, hup _ (by omega), hcfg,
        Bool.or_assoc]
      congr 1
      rw [Bool.eq_iff_iff]
      simp only [Bool.or_eq_true, Bool.and_eq_true, decide_eq_true_eq, List.mem_cons]
      constructor
      · rintro (⟨hup, h1, h2, rfl⟩ | ⟨h1, h2, h3, hup⟩)
        · exact ⟨h1, h2, .inl rfl, hup⟩
        · exact ⟨h1, h2, .inr h3, hup⟩
      · rintro ⟨h1, h2, rfl | h3, hup⟩
        · exact .inl ⟨hup, h1, h2, rfl⟩
        · exact .inr ⟨h1, h2, h3, hup⟩
  rw [State.raiseAll, hlist _ (fun v hv => by have := List.mem_range.1 hv; omega) s rfl hreset fun _ _ => rfl]
  simp only [List.mem_range]

theorem State.resetCore_cold_started (s : State) : ResetStarted s (s.cutFuses.resetCore .cold 1#3) := by
  obtain ⟨k, root, fuse, busy, blowing, goal, hcut, hfuse⟩ := s.cutFuses_frame
  rw [hcut]
  exact ⟨rfl, rfl, rfl, rfl, rfl, rfl, rfl, rfl, rfl, rfl, rfl, rfl, rfl, rfl, rfl, rfl, rfl, hfuse, rfl, rfl, rfl, rfl⟩

theorem State.resetCore_block_started {s : State} (hstalled : s.sash.stalled = []) : ResetStarted s (s.cutFuses.resetCore .block 1#3) := by
  obtain ⟨k, root, fuse, busy, blowing, goal, hcut, hfuse⟩ := s.cutFuses_frame
  rw [hcut]
  by_cases hslept : s.pwr.block = .hibernate
  · simp only [State.resetCore, State.resetRails, hslept, if_true]
    exact ⟨rfl, rfl, rfl, rfl, rfl, rfl, rfl, rfl, rfl, rfl, rfl, rfl, rfl, rfl, rfl, rfl, rfl, hfuse, rfl, hstalled, rfl, rfl⟩
  · simp only [State.resetCore, State.resetRails, hslept, if_false]
    exact ⟨rfl, rfl, rfl, rfl, rfl, rfl, rfl, rfl, rfl, rfl, rfl, rfl, rfl, rfl, rfl, rfl, rfl, hfuse, rfl, hstalled, rfl, rfl⟩

/-- Only requests for the power of hearths are raised after that. -/
theorem ResetStarted.raised {s t u : State} (h : ResetStarted s t) (k : RaisesPower t u) : ResetStarted s u := by
  rw [ResetStarted, k.only]
  exact h

theorem State.resetCore_block_inBlockReset (s : State) :
    InBlockReset { s.cutFuses.resetCore .block 1#3 with sash := { (s.cutFuses.resetCore .block 1#3).sash with stalled := [] } } := by
  by_cases hslept : s.cutFuses.pwr.block = .hibernate
  · simp only [State.resetCore, State.resetRails, hslept, if_true]
    exact ⟨rfl, rfl, rfl, rfl, rfl⟩
  · simp only [State.resetCore, State.resetRails, hslept, if_false]
    exact ⟨rfl, rfl, rfl, rfl, rfl⟩

theorem InBlockReset.raised {t u : State} (h : InBlockReset { t with sash := { t.sash with stalled := [] } }) (k : RaisesPower t u) :
    InBlockReset { u with sash := { u.sash with stalled := [] } } := by
  rw [k.only]
  exact ⟨h.resetting, h.warm, h.run, h.mantel, h.stalled⟩

/-- What a block reset leaves of Ember, and what it asks for. -/
structure BlockResetAs (s t : State) : Prop where
  pwr : s.pwr.block ≠ .hibernate → t.pwr = { s.pwr with
    block := .run, sleeping := .run, committed := false, dueWake := none, pswReq := t.pwr.pswReq }
  req : t.pwr.pswReq = s.pwr.pswReq
  ack : t.pwr.pswAck = s.pwr.pswAck
  cfg : t.cfg = s.cfg
  resetting : t.vault.resetting = true
  rings : Tab.wf Ring.reset s.rings = true → ∀ n, t.ring n = { Ring.reset with held := (s.ring n).held }
  sash : t.sash = s.sash
  mgmt : t.mgmt = s.mgmt
  jtag : t.jtag = { s.jtag with wrappers := [] }
  err : t.err = s.err.afterReset false
  audit : t.audit = s.audit.afterReset false

theorem State.resetCore_block_as (s : State) : BlockResetAs s (s.cutFuses.resetCore .block 1#3) := by
  obtain ⟨k, root, fuse, busy, blowing, goal, hcut, -⟩ := s.cutFuses_frame
  rw [hcut]
  have hrings : Tab.wf Ring.reset s.rings = true →
      ∀ n, Tab.at Ring.reset (Tab.remap Ring.reset s.rings fun r => { Ring.reset with held := r.held }) n = { Ring.reset with held := (s.ring n).held } :=
    fun hwf n => Tab.at_remap (f := fun r : Ring => { Ring.reset with held := r.held }) rfl hwf n
  by_cases hslept : s.pwr.block = .hibernate
  · simp only [State.resetCore, State.resetRails, hslept, if_true]
    exact ⟨fun h => absurd hslept h, rfl, rfl, rfl, rfl, hrings, rfl, rfl, rfl, rfl, rfl⟩
  · simp only [State.resetCore, State.resetRails, hslept, if_false]
    exact ⟨fun _ => rfl, rfl, rfl, rfl, rfl, hrings, rfl, rfl, rfl, rfl, rfl⟩

/-- A configuration of Table 00-1 has eight hearths to a stove. -/
theorem BlockConfig.hearths_of_valid {c : BlockConfig} (h : c.valid = true) : c.hearths = 8 * c.stoves := by
  simp only [BlockConfig.valid, Bool.and_eq_true, List.contains_iff_mem, List.mem_cons, List.not_mem_nil, or_false] at h
  obtain ⟨⟨hhearths, -⟩, -⟩ := h
  rw [BlockConfig.stoves]
  omega

theorem BlockResetAs.ember {s t : State} (h : BlockResetAs s t) : EmberKept s t.raiseAll := by
  have hup (d : Nat) : t.domainUp d = s.domainUp d := by rw [State.domainUp, State.domainUp, h.req, h.ack]
  have hlow (j : Nat) (hj : j < 9) : t.raiseAll.pwr.pswReq.getLsbD j = s.pwr.pswReq.getLsbD j := by
    rw [State.raiseAll_low h.resetting hj, h.req]
  have hreq (hvalid : s.cfg.valid = true) (i : Nat) (hi : i < s.cfg.hearths) :
      t.raiseAll.pwr.pswReq.getLsbD (9 + i) = (s.pwr.pswReq.getLsbD (9 + i) || s.domainUp (1 + i / 8)) := by
    have hstoves := BlockConfig.stoves_le_of_valid hvalid
    have hhearths := BlockConfig.hearths_of_valid hvalid
    rw [State.raiseAll_getLsbD h.resetting (by rw [h.cfg]; exact hstoves) (by omega), h.req, h.cfg, hup, Nat.add_sub_cancel_left]
    simp [hi, show i / 8 < s.cfg.stoves by omega]
  have hraises := t.raiseAll_raises
  generalize t.raiseAll = u at *
  refine ⟨fun hslept => ?_, hreq, hlow, fun hwf n => ?_, ?_⟩
  · rw [hraises.only, h.pwr hslept]
  · rw [hraises.only]
    exact h.rings hwf n
  · rw [hraises.only]
    dsimp only
    rw [h.mgmt, h.jtag, h.err, h.audit]
    exact ⟨rfl, rfl, rfl, rfl, rfl, rfl, rfl, rfl, rfl, rfl⟩

theorem resetsStartWithTheWipe : ResetsStartWithTheWipe := by
  intro s periods hoff
  refine ⟨fun hshort => ⟨if_pos (.inl hshort), if_pos (.inl hshort)⟩, fun h1 h2 => if_pos (.inr (.inr ⟨h1, h2⟩)), fun hlong => ⟨?_, fun hfree => ?_⟩⟩
  · have hexec : exec (.coldReset periods) s = .next (s.cutFuses.startReset .cold 1#3) := if_neg (by rintro (h | h); exacts [by omega, hoff h])
    have hrails := State.resetCore_rails (s := s.cutFuses) (.inl rfl) 1#3
    obtain ⟨k, root, fuse, busy, blowing, goal, hcut, -⟩ := s.cutFuses_frame
    rw [hexec, State.startReset_unasked (.inl rfl)]
    refine ⟨_, rfl, s.resetCore_cold_started, ?_⟩
    rw [hcut] at hrails ⊢
    exact ⟨rfl, rfl, rfl, rfl, hrails, rfl, rfl, rfl, rfl⟩
  · have hexec : exec (.blockReset periods) s = .next (s.cutFuses.startReset .block 1#3) :=
      if_neg (by rintro (h | h | h); exacts [by omega, hoff h, hfree h])
    have hraises := (s.cutFuses.resetCore .block 1#3).raiseAll_raises
    have hreset := State.completeStalled_inBlockReset (s.resetCore_block_inBlockReset.raised hraises)
    rw [hexec, State.startReset_eq]
    refine ⟨_, rfl, hreset.resetting, hreset.warm, hreset.mantel, hreset.stalled, fun hstalled => ?_⟩
    have has := s.resetCore_block_as
    have hsash : (s.cutFuses.resetCore .block 1#3).raiseAll.sash = s.sash := by rw [hraises.only]; exact has.sash
    rw [State.completeStalled_of_none (by rw [hsash]; exact hstalled)]
    exact ⟨ResetStarted.raised (State.resetCore_block_started hstalled) hraises, hsash, has.ember⟩

theorem powerOffAndOnLoseTheCounts : PowerOffAndOnLoseTheCounts := by
  intro s
  refine ⟨?_, fun hoff => ?_, fun hon => if_neg hon⟩
  · obtain ⟨k, root, fuse, busy, blowing, goal, hcut, hfuse⟩ := s.cutFuses_frame
    refine ⟨_, rfl, rfl, rfl, fun v hv => ?_, ?_⟩
    · exact State.stove_railsOff _ (by rw [hcut]; exact hv)
    · rw [hcut]
      exact ⟨rfl, rfl, rfl, rfl, rfl, rfl, rfl, rfl, rfl, rfl, hfuse, rfl, rfl, rfl, rfl⟩
  · have hexec : exec .powerOn s = .next (s.unpowered.startReset .powerOn 1#3) := if_pos hoff
    rw [hexec, State.startReset_unasked (.inr rfl)]
    exact ⟨_, rfl, rfl, rfl, rfl, rfl, rfl, State.resetCore_rails (.inr rfl) _, rfl, rfl, rfl, rfl, rfl, rfl, rfl⟩

/-- Settles O32. -/
theorem resetsAndPowerCycles : Obligations.ResetsAndPowerCycles := ⟨resetsStartWithTheWipe, powerOffAndOnLoseTheCounts⟩

end Sys2Proof.Machine
end

section
/-! SUPPORT. Hearths that idle and wake, the power switches, and the sources of a wake (R308, R309, R311, R314, R376). -/

namespace Sys2Proof.Machine

/-! ### Positions of ring 0 that complete -/

/-- Of `s`, at most ring 0 differs in `t`. -/
structure EndsPositions (s t : State) : Prop where
  only : t = { s with rings := t.rings }
  others : ∀ n, n ≠ 0 → t.ring n = s.ring n

theorem EndsPositions.refl (s : State) : EndsPositions s s := ⟨rfl, fun _ _ => rfl⟩

theorem EndsPositions.trans {s t u : State} (h : EndsPositions s t) (k : EndsPositions t u) : EndsPositions s u :=
  ⟨k.only.trans (by rw [h.only]), fun n hn => (k.others n hn).trans (h.others n hn)⟩

theorem EndsPositions.hearth {s t : State} (h : EndsPositions s t) (k : Nat) : t.hearth k = s.hearth k := by rw [h.only]; rfl

theorem State.modEntry_endsPositions (s : State) (pos : W32) (f : Entry → Entry) : EndsPositions s (s.modEntry 0 pos f) :=
  ⟨rfl, fun _ hn => s.ring_modEntry_ne pos f hn⟩

theorem State.settleOnline_endsPositions (s : State) : EndsPositions s s.settleOnline :=
  List.foldlRecOn _ _ (EndsPositions.refl s) fun t ht e _ => by
    split
    · exact ht.trans (t.modEntry_endsPositions e.pos _)
    · exact ht

/-! ### Idle states -/

theorem hasHearth_of_lt {s : State} {h : BitVec 6} (hh : h.toNat < s.cfg.hearths) : s.hasHearth h = true := decide_eq_true hh

/-- Settles O27. -/
theorem hearthsIdleAndWake : Obligations.HearthsIdleAndWake := by
  intro s h hh
  dsimp only
  have hidle : exec (.hearthIdleEntry h) s = execHearthIdleEntry h s := rfl
  have hdone : exec (.hearthWakeDone h) s = execHearthWakeDone h s := rfl
  rw [execHearthIdleEntry, if_pos (hasHearth_of_lt hh)] at hidle
  rw [execHearthWakeDone, if_pos (hasHearth_of_lt hh)] at hdone
  dsimp only at hidle hdone
  rw [hidle, hdone]
  refine ⟨fun hstays => ?_, fun hwork hmaint hup => ?_, fun hwaking hshut => ?_, fun hwiping => ?_, fun hwiping hwaking => ?_⟩
  · rcases hstays with hwork | hmaint | hzero | hdown | ⟨hactive, hgated⟩
    · rw [hwork, Bool.or_true, Bool.true_or, if_pos rfl]
    · rw [hmaint, Bool.or_true, if_pos rfl]
    · simp [hzero]
    · rw [hdown, Bool.not_false, Bool.true_or, Bool.true_or, if_pos rfl]
    · simp [hactive, hgated]
  · rw [hwork, hmaint, hup, if_neg (by decide)]
    refine ⟨fun hactive hasks => if_pos ⟨hactive, hasks⟩, fun hgated hasks => ?_, fun hgated hasks => ?_⟩
    · rw [if_neg (by simp [hgated]), if_pos ⟨hgated, hasks⟩]
    · rw [if_neg (by simp [hgated]), if_neg (by simp [hasks])]
  · rw [if_pos ⟨hwaking, hshut⟩]
    have hends := State.settleOnline_endsPositions
      (s.setHearth h.toNat { s.hearth h.toNat with power := .active, wakeCount := satInc (s.hearth h.toNat).wakeCount })
    refine ⟨_, rfl, ?_, fun k hk => ?_, ?_, fun n hn => hends.others n hn⟩
    · rw [hends.hearth, State.hearth_setHearth_self]
    · rw [hends.hearth, State.hearth_setHearth, if_neg hk]
    · rw [hends.only]
      rfl
  · rw [if_neg (by simp [hwiping]), if_pos hwiping]
    have hends := State.settleOnline_endsPositions (s.setHearth h.toNat { (s.hearth h.toNat).wiped with
      power := .active, fromShut := false, wakeCount := satInc (s.hearth h.toNat).wakeCount, wipeCount := satInc (s.hearth h.toNat).wipeCount })
    have hself := hends.hearth h.toNat
    rw [State.hearth_setHearth_self] at hself
    refine ⟨_, rfl, ?_⟩
    rw [hself]
    refine ⟨rfl, rfl, rfl, rfl, rfl, rfl, rfl, rfl, fun k hk => ?_, ?_⟩
    · rw [hends.hearth, State.hearth_setHearth, if_neg hk]
    · rw [hends.only]
      rfl
  · rw [if_neg hwaking, if_neg hwiping]

/-! ### Wakes of hearths -/

/-- A hearth as the start of its wake leaves it; `on` says whether its domain has power. -/
def Hearth.woken (on : Bool) (x : Hearth) : Hearth :=
  match x.power with
  | .gated => { x with power := .active }
  | .retain => { x with power := .waking, fromShut := false }
  | .shut => { x with power := if on then .wiping else .waking, fromShut := true }
  | _ => x

theorem Hearth.woken_of_retain {x : Hearth} (h : x.power = .retain) (on : Bool) : (x.woken on).power = .waking := by rw [Hearth.woken, h]

theorem State.hearth_wakeHearth (s : State) (h : Nat) : (s.wakeHearth h).hearth h = (s.hearth h).woken (s.pwr.pswAck.getLsbD (hearthDomain h)) := by
  rw [State.wakeHearth, Hearth.woken]
  cases hp : (s.hearth h).power <;> dsimp only
  case gated | retain => exact State.hearth_setHearth_self ..
  case shut => exact State.hearth_setHearth_self ..

theorem State.hearth_wakeHearth_ne (s : State) {h k : Nat} (hk : k ≠ h) : (s.wakeHearth h).hearth k = s.hearth k := by
  rw [State.wakeHearth]
  cases (s.hearth h).power <;> dsimp only
  case gated | retain => rw [State.hearth_setHearth, if_neg hk]
  case shut => exact (State.hearth_setHearth ..).trans (if_neg hk)

/-- Requests that stand are kept. -/
theorem State.wakeHearth_requests (s : State) (h : Nat) {j : Nat} (hj : j < 73) (hreq : s.pwr.pswReq.getLsbD j = true) :
    (s.wakeHearth h).pwr.pswReq.getLsbD j = true := by
  rw [State.wakeHearth]
  cases (s.hearth h).power <;> dsimp only
  case shut => exact (State.requestPower_on _ _).kept j hj hreq
  all_goals exact hreq

/-- A hearth that waits for its wake from SHUT, with its power asked for. -/
def State.WakesFromShut (s : State) (h : Nat) : Prop :=
  ((s.hearth h).power = .waking ∨ (s.hearth h).power = .wiping) ∧ (s.hearth h).fromShut = true ∧ s.pwr.pswReq.getLsbD (9 + h) = true

theorem State.wakeHearth_wakesFromShut {s : State} {h : Nat} (hh : h < 64) (hshut : (s.hearth h).power = .shut) : (s.wakeHearth h).WakesFromShut h := by
  have hreq : (s.wakeHearth h).pwr.pswReq.getLsbD (9 + h) = true := by
    rw [State.wakeHearth, hshut]
    refine (getLsbD_setBit_true _ _ _ (by omega)).trans ?_
    simp [hearthDomain]
  rw [State.WakesFromShut, State.hearth_wakeHearth, Hearth.woken, hshut]
  dsimp only
  refine ⟨?_, rfl, hreq⟩
  split
  · exact .inr rfl
  · exact .inl rfl

theorem State.wakeHearth_keeps_wakesFromShut {s : State} {h : Nat} (hh : h < 64) (hs : s.WakesFromShut h) (k : Nat) : (s.wakeHearth k).WakesFromShut h := by
  obtain ⟨hpower, hfrom, hreq⟩ := hs
  have hsame : (s.wakeHearth k).hearth h = s.hearth h := by
    by_cases hk : h = k
    · subst hk
      rw [State.hearth_wakeHearth, Hearth.woken]
      rcases hpower with hp | hp <;> rw [hp]
    · exact s.hearth_wakeHearth_ne hk
  rw [State.WakesFromShut, hsame]
  exact ⟨hpower, hfrom, s.wakeHearth_requests k (by omega) hreq⟩

/-- What a step establishes at one element of a list, and every other step keeps, holds at the end. -/
theorem foldl_establishes {α : Type} {f : State → α → State} {P Q : State → Prop} {h : α} (hkeep : ∀ t k, P t → P (f t k))
    (hwait : ∀ t k, k ≠ h → Q t → Q (f t k)) (hdo : ∀ t, Q t → P (f t h)) {hs : List α} (hmem : h ∈ hs) {t : State} (ht : Q t) :
    P (hs.foldl f t) := by
  induction hs generalizing t with
  | nil => exact absurd hmem List.not_mem_nil
  | cons k rest ih =>
    rw [List.foldl_cons]
    by_cases hk : k = h
    · subst hk
      exact List.foldlRecOn _ _ (hdo t ht) fun u hu a _ => hkeep u a hu
    · exact ih ((List.mem_cons.1 hmem).resolve_left (Ne.symm hk)) (hwait t k hk ht)

/-- With WAKE_TARGET.HEARTHS = 1, the hearths of a list that are not OFFLINE are woken, one after another. -/
theorem State.wakeWithBlock_establishes {s : State} (hwakes : s.pwr.wakeHearths = true) {P : State → Prop} {h : Nat}
    (hkeep : ∀ t k, P t → P (t.wakeHearth k)) (hdo : ∀ t : State, t.hearth h = s.hearth h → P (t.wakeHearth h)) {hs : List Nat}
    (hmem : h ∈ hs) (hh : h < s.cfg.hearths) (hon : (s.hearth h).offline = false) : P (s.wakeWithBlock hs) := by
  rw [State.wakeWithBlock, if_pos hwakes]
  refine foldl_establishes (Q := fun t => t.cfg = s.cfg ∧ t.hearth h = s.hearth h) (h := h) (fun t k ht => ?_) (fun t k hk ht => ?_)
    (fun t ht => ?_) hmem ⟨rfl, rfl⟩
  · split
    · exact hkeep t k ht
    · exact ht
  · split
    · exact ⟨(congrArg State.cfg (t.wakeHearth_wakes k).only).trans ht.1, (t.hearth_wakeHearth_ne (Ne.symm hk)).trans ht.2⟩
    · exact ht
  · rw [if_pos ⟨by rw [ht.1]; exact hh, by rw [ht.2]; exact hon⟩]
    exact hdo t ht.2

theorem State.wakeWithBlock_requests (s : State) (hs : List Nat) {j : Nat} (hj : j < 73) (hreq : s.pwr.pswReq.getLsbD j = true) :
    (s.wakeWithBlock hs).pwr.pswReq.getLsbD j = true := by
  rw [State.wakeWithBlock]
  split
  · refine List.foldlRecOn (motive := fun t : State => t.pwr.pswReq.getLsbD j = true) _ _ hreq fun t ht h _ => ?_
    split
    · exact t.wakeHearth_requests h hj ht
    · exact ht
  · exact hreq

theorem sourcesWakeTheBlock : SourcesWakeTheBlock := by
  intro s source
  have hexec : exec (.blockWake source) s = execBlockWake source s := rfl
  rw [hexec, execBlockWake]
  refine ⟨fun hstays => ?_, fun hwakes hentering => ?_, fun hwakes hasleep => ?_⟩
  · split
    · next hwakes =>
      rcases hstays with hnot | hblock
      · exact absurd hwakes hnot
      · rw [State.startWake_of_awake (by rcases hblock with h | h | h <;> rw [h] <;> decide)
          (by rcases hblock with h | h | h <;> rw [h] <;> decide) (by rcases hblock with h | h | h <;> rw [h] <;> decide)]
    · rfl
  · rw [if_pos hwakes, State.startWake_of_entering hentering]
  · rw [if_pos hwakes]
    obtain ⟨hblock, hlast, hcount, honly⟩ := State.startWake_of_asleep hasleep source
    refine ⟨_, rfl, hblock, hlast, hcount, honly, fun hhib => ?_, fun hdoze hnot => ?_, fun hdoze hwake h hh hon hretain => ?_⟩
    · rw [State.startWake, hhib]
      refine ⟨rfl, fun v hv => ?_⟩
      dsimp only
      rw [State.railsOn, State.stove]
      dsimp only
      rw [Tab.at_build _ hv]
      exact ⟨rfl, rfl⟩
    · rw [State.startWake, hdoze]
      dsimp only
      rw [State.wakeWithBlock, if_neg (by simp [hnot])]
    · rw [State.startWake, hdoze]
      dsimp only
      refine State.wakeWithBlock_establishes (s := { s with pwr := { s.pwr with
        sleeping := .doze, block := .waking, lastWake := source, wakeCount := satInc s.pwr.wakeCount } }) (P := fun t => (t.hearth h).power = .waking) hwake (fun t k ht => ?_) (fun t ht => ?_)
        (List.mem_range.2 hh) hh hon
      · by_cases hk : h = k
        · subst hk
          rw [State.hearth_wakeHearth, Hearth.woken, ht]
          exact ht
        · rw [t.hearth_wakeHearth_ne hk]
          exact ht
      · rw [State.hearth_wakeHearth, ht]
        exact Hearth.woken_of_retain hretain _

/-! ### Power switches -/

theorem getLsbD_setBit {w : Nat} (x : BitVec w) (i : Nat) (b : Bool) {j : Nat} (hj : j < w) :
    (setBit x i b).getLsbD j = if j = i then b else x.getLsbD j := by
  cases b
  · rw [getLsbD_setBit_false _ _ _ hj]
    by_cases h : j = i <;> simp [h]
  · rw [getLsbD_setBit_true _ _ _ hj]
    by_cases h : j = i <;> simp [h]

/-- A switch's acknowledgement as it is sampled. -/
def State.acknowledged (s : State) (d : Nat) (level : Bool) : State := { s with pwr := { s.pwr with pswAck := setBit s.pwr.pswAck d level } }

/-- A stove's domain has its power: its hearths' requests rise, and their wakes start where they are due. -/
def State.stoveUp (s : State) (v : Nat) : State :=
  let s := s.raiseHearths v
  if s.pwr.block = .waking ∧ s.pwr.sleeping = .hibernate ∧ s.vault.handling = none then
    s.wakeWithBlock ((List.range 8).map fun i => 8 * v + i) else s

theorem State.stoveUp_wakes (s : State) (v : Nat) : WakesHearths s (s.stoveUp v) := by
  have hraises : WakesHearths s (s.raiseHearths v) := ⟨by rw [(s.raiseHearths_raises v).only]⟩
  rw [State.stoveUp]
  split
  · exact hraises.trans (State.wakeWithBlock_wakes ..)
  · exact hraises

theorem State.stoveUp_requests {s : State} {v h : Nat} (hreset : s.vault.resetting = true) (hup : s.domainUp (1 + v) = true) (hh : h < s.cfg.hearths)
    (hv : v < 8) (hof : h / 8 = v) : (s.stoveUp v).pwr.pswReq.getLsbD (9 + h) = true := by
  have hraised : (s.raiseHearths v).pwr.pswReq.getLsbD (9 + h) = true := by
    rw [State.raiseHearths_getLsbD hreset v (by omega), hup]
    simp [hh, hof]
  rw [State.stoveUp]
  split
  · exact State.wakeWithBlock_requests _ _ (by omega) hraised
  · exact hraised

theorem State.stoveUp_hearths {s : State} {v : Nat}
    (h : ¬(s.pwr.block = .waking ∧ s.pwr.sleeping = .hibernate ∧ s.vault.handling = none ∧ s.pwr.wakeHearths = true)) :
    (s.stoveUp v).hearths = s.hearths := by
  have honly := (s.raiseHearths_raises v).only
  rw [State.stoveUp]
  generalize s.raiseHearths v = t at *
  rw [honly]
  split
  · next hwake =>
    obtain ⟨hblock, hsleep, hnone⟩ := hwake
    rw [State.wakeWithBlock, if_neg fun hon => h ⟨hblock, hsleep, hnone, hon⟩]
  · rfl

theorem State.stoveUp_wakesFromShut {s : State} {v h : Nat} (hblock : s.pwr.block = .waking) (hsleep : s.pwr.sleeping = .hibernate)
    (hnone : s.vault.handling = none) (hwakes : s.pwr.wakeHearths = true) (hh : h < s.cfg.hearths) (hv : v < 8) (hof : h / 8 = v)
    (hon : (s.hearth h).offline = false) (hshut : (s.hearth h).power = .shut) : (s.stoveUp v).WakesFromShut h := by
  have honly := (s.raiseHearths_raises v).only
  have hhearth : (s.raiseHearths v).hearth h = s.hearth h := by rw [honly]; rfl
  rw [State.stoveUp]
  generalize s.raiseHearths v = t at *
  rw [if_pos (by rw [honly]; exact ⟨hblock, hsleep, hnone⟩)]
  refine State.wakeWithBlock_establishes (s := t) (h := h) (P := fun u => u.WakesFromShut h) (by rw [honly]; exact hwakes)
    (fun u k hu => State.wakeHearth_keeps_wakesFromShut (by omega) hu k)
    (fun u hu => State.wakeHearth_wakesFromShut (by omega) (by rw [hu, hhearth]; exact hshut)) ?_ (by rw [honly]; exact hh) (by rw [hhearth]; exact hon)
  exact List.mem_map.2 ⟨h % 8, List.mem_range.2 (Nat.mod_lt _ (by decide)), by omega⟩

theorem exec_pswAck {s : State} {d : BitVec 7} {level : Bool} (hd : d.toNat < 9 + s.cfg.hearths) :
    exec (.pswAck d level) s = .next (
      if 9 ≤ d.toNat ∧ level = true then (s.acknowledged d.toNat level).modHearth (d.toNat - 9) fun x =>
        if x.power = .waking ∧ x.fromShut = true then { x with power := .wiping } else x
      else if 1 ≤ d.toNat ∧ level = true then (s.acknowledged d.toNat level).stoveUp (d.toNat - 1)
      else s.acknowledged d.toNat level) := by
  have hexec : exec (.pswAck d level) s = execPswAck d level s := rfl
  rw [hexec, execPswAck, if_pos hd]
  by_cases hhearth : 9 ≤ d.toNat ∧ level = true
  · rw [if_pos hhearth, if_pos hhearth]
    rfl
  · rw [if_neg hhearth, if_neg hhearth]
    by_cases hstove : 1 ≤ d.toNat ∧ level = true
    · rw [if_pos hstove, if_pos hstove]
      rfl
    · rw [if_neg hstove, if_neg hstove]
      rfl

theorem switchesAcknowledge : SwitchesAcknowledge := by
  intro s d level hd
  have hack (j : Nat) (hj : j < 73) : (setBit s.pwr.pswAck d.toNat level).getLsbD j = if j = d.toNat then level else s.pwr.pswAck.getLsbD j :=
    getLsbD_setBit _ _ _ hj
  rw [exec_pswAck hd]
  refine ⟨_, rfl, ?_⟩
  by_cases hlevel : level = true
  · by_cases hhearth : 9 ≤ d.toNat
    · rw [if_pos ⟨hhearth, hlevel⟩]
      refine ⟨hack, rfl, ?_, fun _ => ⟨rfl, fun k => ?_⟩, fun _ h => absurd h (by omega)⟩
      · rintro (rfl | h)
        · exact absurd hhearth (by decide)
        · exact absurd (hlevel.symm.trans h) (by decide)
      · rw [State.modHearth, State.hearth_setHearth]
        by_cases hk : k = d.toNat - 9
        · have hiff : level = true ∧ d.toNat = 9 + k ∧ (s.hearth k).power = .waking ∧ (s.hearth k).fromShut = true ↔
              (s.hearth k).power = .waking ∧ (s.hearth k).fromShut = true :=
            ⟨fun h => ⟨h.2.2.1, h.2.2.2⟩, fun h => ⟨hlevel, by omega, h.1, h.2⟩⟩
          rw [if_pos hk, ← hk]
          exact (if_congr hiff rfl rfl).symm
        · rw [if_neg hk, if_neg (by omega)]
          rfl
    · rw [if_neg (by omega)]
      by_cases hstove : 1 ≤ d.toNat
      · rw [if_pos ⟨hstove, hlevel⟩]
        have hwakes := (s.acknowledged d.toNat level).stoveUp_wakes (d.toNat - 1)
        have hdomain (h : s.pwr.pswReq.getLsbD d.toNat = true) (hd9 : d.toNat < 9) :
            (s.acknowledged d.toNat level).domainUp (1 + (d.toNat - 1)) = true := by
          rw [show 1 + (d.toNat - 1) = d.toNat by omega]
          refine (congrArg₂ (· && ·) h (hack d.toNat (by omega))).trans ?_
          simp [hlevel]
        refine ⟨fun j hj => ?_, ?_, ?_, fun h => absurd h hhearth, fun _ hd9 _ => ⟨fun h hh hof hreset hreq => ?_, fun hnot => ?_,
          fun hblock hsleep hnone hwake h hh hof hon hshut => ?_⟩⟩
        · rw [hwakes.pwr]
          exact hack j hj
        · rw [hwakes.only]
          rfl
        · rintro (rfl | h)
          · exact absurd hstove (by decide)
          · exact absurd (hlevel.symm.trans h) (by decide)
        · exact State.stoveUp_requests hreset (hdomain hreq hd9) hh (by omega) hof
        · exact State.stoveUp_hearths hnot
        · exact State.stoveUp_wakesFromShut hblock hsleep hnone hwake hh (by omega) hof hon hshut
      · rw [if_neg fun h => hstove h.1]
        exact ⟨hack, rfl, fun _ => ⟨rfl, rfl⟩, fun h => absurd h hhearth, fun h => absurd h hstove⟩
  · rw [if_neg fun h => hlevel h.2, if_neg fun h => hlevel h.2]
    refine ⟨hack, rfl, fun _ => ⟨rfl, rfl⟩, fun _ => ⟨rfl, fun k => ?_⟩, fun _ _ h => absurd h hlevel⟩
    rw [if_neg fun h => hlevel h.1]
    rfl

/-- Settles O28. -/
theorem switchesAndWakeSources : Obligations.SwitchesAndWakeSources := ⟨switchesAcknowledge, sourcesWakeTheBlock⟩

end Sys2Proof.Machine
end

section
/-! SUPPORT. Fatal events (R350). -/

namespace Sys2Proof.Machine

/-- Of the error registers, an event that is logged changes only the ring's counts and the records that wait. -/
structure LogsErrors (e f : Errors) : Prop where
  only : f = { e with corrected := f.corrected, lost := f.lost, index := f.index, writing := f.writing }

theorem LogsErrors.refl (e : Errors) : LogsErrors e e := ⟨rfl⟩

theorem LogsErrors.trans {e f g : Errors} (h : LogsErrors e f) (k : LogsErrors f g) : LogsErrors e g := ⟨k.only.trans (by rw [h.only])⟩

theorem State.logError_err (s : State) (e : ErrorEvent) : LogsErrors s.err (s.logError e).err := by
  have hcount (c : Prop) [Decidable c] :
      LogsErrors s.err (if c then { s with err := { s.err with corrected := satInc s.err.corrected } } else s).err := by
    split
    · exact ⟨rfl⟩
    · exact .refl s.err
  unfold State.logError
  extract_lets e' _ s'
  have hs' : LogsErrors s.err s'.err := hcount _
  split
  · exact hs'
  · split
    · exact hs'.trans ⟨rfl⟩
    · split
      · exact hs'.trans ⟨rfl⟩
      · rw [(State.request_sends ..).err]
        exact hs'.trans ⟨rfl⟩

/-- Settles O26. -/
theorem fatalEventsStopTheBlock : Obligations.FatalEventsStopTheBlock := by
  intro s
  have hhalt : exec .fatalHalt s = .next (if s.err.stopped then { s with err := { s.err with fatalHalted := true } } else s) := rfl
  refine ⟨fun cause type unit info => ?_, fun hstopped => ?_, fun hrunning => ?_⟩
  · have hexec : exec (.fatalEvent cause type unit info) s = .next (s.fatal cause.toNat type.toNat unit.toNat info) := rfl
    rw [hexec, State.fatal]
    refine ⟨fun hstopped => by rw [if_pos hstopped], fun hrunning => ?_⟩
    rw [if_neg (by simp [hrunning])]
    have hlogs := State.logError_logs { s with err := { s.err with
      stopped := true, fatalValid := true, fatalCause := BitVec.ofNat 8 cause.toNat, fatalType := BitVec.ofNat 4 type.toNat,
      fatalUnit := BitVec.ofNat 8 unit.toNat, fatalStamp := s.stamp } } (ErrorEvent.plain 4 cause.toNat type.toNat unit.toNat info)
    have herr := State.logError_err { s with err := { s.err with
      stopped := true, fatalValid := true, fatalCause := BitVec.ofNat 8 cause.toNat, fatalType := BitVec.ofNat 4 type.toNat,
      fatalUnit := BitVec.ofNat 8 unit.toNat, fatalStamp := s.stamp } } (ErrorEvent.plain 4 cause.toNat type.toNat unit.toNat info)
    refine ⟨_, rfl, ?_⟩
    generalize State.logError _ _ = t at *
    have hstopped : t.err.stopped = true := by rw [herr.only]
    refine ⟨hstopped, by rw [herr.only], ?_, ?_, ?_, by rw [herr.only]; rfl, ?_, fun n pos op => ?_, fun x => ?_, ?_⟩
    · rw [herr.only]
      exact (BitVec.ofNat_toNat ..).trans (BitVec.setWidth_eq _)
    · rw [herr.only]
      exact BitVec.ofNat_toNat ..
    · rw [herr.only]
      exact (BitVec.ofNat_toNat ..).trans (BitVec.setWidth_eq _)
    · simp [State.issuing, hstopped]
    · rw [State.running]
      split <;> simp [hstopped]
    · simp [State.maintains, State.upkeep, hstopped]
    · rw [hlogs.frame]
  · rw [hhalt, if_pos hstopped]
    refine ⟨_, rfl, rfl, fun p => ?_, ?_, fun n tail => ?_⟩
    · simp [State.portAwake, State.portUp]
    · simp [State.poolAwake]
    · simp [State.doorbell]
  · rw [hhalt, if_neg (by simp [hrunning])]

end Sys2Proof.Machine
end

section
/-! SUPPORT. The doorbells that wait for Run, and the end of a wipe (R277, R338, R341, R369). -/

namespace Sys2Proof.Machine

/-! ### Inputs that are taken -/

/-- The credit that a port's memory controller grants. -/
def Port.grants (x : Port) : W16 × W16 := (x.rdCredits, x.wrCredits)

/-- From `s` to `t` the block has taken doorbells: requests, events, errors and records may have followed; the credit grants stay. -/
structure TakesInputs (s t : State) : Prop where
  only : t = { s with
    host := t.host, hostPoison := t.hostPoison, ports := t.ports, rings := t.rings, blk := t.blk, audit := t.audit, err := t.err }
  grants : ∀ p, (t.port p).grants = (s.port p).grants

namespace TakesInputs

variable {s t u : State}

theorem refl (s : State) : TakesInputs s s := ⟨rfl, fun _ => rfl⟩

theorem trans (h : TakesInputs s t) (k : TakesInputs t u) : TakesInputs s u :=
  ⟨k.only.trans (by rw [h.only]), fun p => (k.grants p).trans (h.grants p)⟩

theorem foldl {β : Type} {f : State → β → State} (h : ∀ s b, TakesInputs s (f s b)) (l : List β) (s : State) : TakesInputs s (l.foldl f s) :=
  List.foldlRecOn l f (refl s) fun t ht b _ => ht.trans (h t b)

theorem of_sends (h : Sends s t) (hgrants : ∀ p, (t.port p).grants = (s.port p).grants) : TakesInputs s t :=
  ⟨Eq.trans h (by rw [h.rings, h.blk, h.err, show t.audit = s.audit by rw [h]]), hgrants⟩

end TakesInputs

theorem State.setPort_takes {s : State} {p : Nat} {x : Port} (h : x.grants = (s.port p).grants) : TakesInputs s (s.setPort p x) := by
  refine .of_sends (s.setPort_sends p x) fun q => ?_
  rw [State.port_setPort]
  split
  · next hq => rw [h, hq]
  · rfl

theorem State.performRequest_takes (s : State) (r : Request) : TakesInputs s (s.performRequest r) :=
  .of_sends (s.performRequest_sends r) fun q => by rw [State.port, State.performRequest_ports, State.port]

theorem State.dispatchRequest_takes (s : State) (p : Nat) (r : Request) (shared : Bool) : TakesInputs s (s.dispatchRequest p r shared) := by
  rw [State.dispatchRequest]
  refine TakesInputs.trans ?_ (State.performRequest_takes _ r)
  exact State.setPort_takes rfl

theorem State.pumpList_takes (p : Nat) (rs : List Request) (s : State) : TakesInputs s (State.pumpList p rs s) := by
  induction rs generalizing s with
  | nil => exact .refl s
  | cons r rest ih =>
    rw [State.pumpList]
    split
    · refine TakesInputs.trans (TakesInputs.trans ?_ (State.dispatchRequest_takes ..)) (ih _)
      exact State.setPort_takes rfl
    · exact ih s

theorem State.pump_takes (s : State) (p : Nat) : TakesInputs s (s.pump p) := by
  rw [State.pump]
  split
  · exact State.pumpList_takes ..
  · exact .refl s

theorem State.request_takes (s : State) (p : Nat) (r : Request) : TakesInputs s (s.request p r) :=
  TakesInputs.trans (State.setPort_takes (x := { s.port p with waiting := (s.port p).waiting ++ [r] }) rfl) (State.pump_takes ..)

theorem State.logError_takes (s : State) (e : ErrorEvent) : TakesInputs s (s.logError e) := by
  have hcount (c : Prop) [Decidable c] :
      TakesInputs s (if c then { s with err := { s.err with corrected := satInc s.err.corrected } } else s) := by
    split
    · exact ⟨rfl, fun _ => rfl⟩
    · exact .refl s
  unfold State.logError
  extract_lets e' _ s'
  have hs' : TakesInputs s s' := hcount _
  have herr (e : Errors) : TakesInputs s' { s' with err := e } := ⟨rfl, fun _ => rfl⟩
  have hport (e : Errors) (x : Port) (hx : x.grants = (s'.port 2).grants) : TakesInputs s' ({ s' with err := e }.setPort 2 x) :=
    (herr e).trans (State.setPort_takes hx)
  split
  · exact hs'
  · split
    · exact hs'.trans (hport _ _ rfl)
    · split
      · exact hs'.trans (herr _)
      · exact (hs'.trans (herr _)).trans (State.request_takes ..)

theorem State.setBlk_takes (s : State) (b : Block) : TakesInputs s { s with blk := b } := ⟨rfl, fun _ => rfl⟩

theorem State.message_takes (s : State) (v : Nat) (cls : BitVec 2) : TakesInputs s (s.message v cls) := by
  rw [State.message]
  split
  · exact s.setBlk_takes _
  · dsimp only
    split
    · exact s.logError_takes _
    · exact s.request_takes ..

theorem State.eventFlag_takes (s : State) (b : Nat) : TakesInputs s (s.eventFlag b) := by
  have hflag (b' : Block) (c : Prop) [Decidable c] (v : Nat) :
      TakesInputs s (if c then ({ s with blk := b' } : State).message v 3#2 else { s with blk := b' }) := by
    split
    · exact (s.setBlk_takes b').trans (State.message_takes ..)
    · exact s.setBlk_takes b'
  exact hflag _ _ _

theorem State.event_takes (s : State) (e : BlockEvent) (source detail : Nat) : TakesInputs s (s.event e source detail) := by
  rw [State.event]
  refine (s.eventFlag_takes e.bit).trans ?_
  split
  · exact State.setBlk_takes ..
  · exact (State.setBlk_takes ..).trans (State.eventFlag_takes ..)

theorem State.setRing_takes (s : State) (n : Nat) (r : Ring) : TakesInputs s (s.setRing n r) := ⟨rfl, fun _ => rfl⟩

theorem State.ringFault_takes (s : State) (n cause : Nat) : TakesInputs s (s.ringFault n cause) := by
  rw [State.ringFault]
  dsimp only
  split
  · exact .refl s
  · exact (s.setRing_takes ..).trans (State.event_takes ..)

theorem State.setAudit_takes (s : State) (a : Audit) : TakesInputs s { s with audit := a } := ⟨rfl, fun _ => rfl⟩

theorem State.putRecord_takes (s : State) (kind source : Nat) (data digest : W64) : TakesInputs s (s.putRecord kind source data digest) :=
  (s.setAudit_takes _).trans (State.request_takes ..)

theorem State.putGap_takes (s : State) : TakesInputs s s.putGap := by
  rw [State.putGap]
  split
  · exact (s.setAudit_takes _).trans (State.putRecord_takes ..)
  · exact .refl s

theorem State.recordInput_takes (s : State) (kind source : Nat) (data : W64) (bytes : List W8) :
    TakesInputs s (s.recordInput kind source data bytes) := by
  rw [State.recordInput]
  split
  · dsimp only
    refine s.putGap_takes.trans ?_
    split
    · exact State.setAudit_takes ..
    · exact State.putRecord_takes ..
  · exact .refl s

theorem State.takeDoorbell_takes (s : State) (n : Nat) (t : W32) : TakesInputs s (s.takeDoorbell n t) := by
  rw [State.takeDoorbell]
  dsimp only
  split
  · exact (s.setBlk_takes _).trans (State.event_takes ..)
  · exact s.ringFault_takes n 1
  · exact s.setBlk_takes _
  · exact .refl s
  · exact (s.setRing_takes ..).trans (State.recordInput_takes ..)

theorem State.doorbell_takes (s : State) (n : Nat) (t : W32) : TakesInputs s (s.doorbell n t) := by
  rw [State.doorbell]
  split
  · exact .refl s
  split
  · exact s.setBlk_takes _
  split
  · exact s.setRing_takes ..
  · exact s.takeDoorbell_takes n t

theorem State.takeWithheld_takes (n k : Nat) (s : State) : TakesInputs s (State.takeWithheld n k s) := by
  induction k generalizing s with
  | zero => exact .refl s
  | succ k ih =>
    rw [State.takeWithheld]
    split
    · exact .refl s
    · split
      · exact .refl s
      · exact ((s.setRing_takes ..).trans (State.takeDoorbell_takes ..)).trans (ih _)

theorem State.takeHeld_takes (s : State) : TakesInputs s s.takeHeld :=
  TakesInputs.foldl (fun s n => by
    dsimp only
    refine (State.takeWithheld_takes n (s.ring n).withheld.length s).trans ?_
    split
    · exact (State.setRing_takes ..).trans (State.doorbell_takes ..)
    · exact .refl _) _ s

/-- With no doorbell held or withheld, none is taken. -/
theorem State.takeHeld_of_none {s : State} (h : ∀ n, (s.ring n).held = none ∧ (s.ring n).withheld = []) : s.takeHeld = s := by
  refine List.foldlRecOn (motive := fun t : State => t = s) _ _ rfl fun t ht n _ => ?_
  subst ht
  obtain ⟨hheld, hwithheld⟩ := h n
  simp only [hwithheld, List.length_nil, State.takeWithheld, hheld]

/-! ### Credits -/

theorem clampCredit_toNat (c : Nat) : (clampCredit c).toNat = min 4096 (max 16 c) := by
  rw [clampCredit, BitVec.toNat_ofNat]
  exact Nat.mod_eq_of_lt (by omega)

/-- A port's grant is sampled. -/
def State.grant (s : State) (c : (BitVec 13 × BitVec 13) × Nat) : State :=
  s.setPort c.2 { s.port c.2 with rdCredits := clampCredit c.1.1.toNat, wrCredits := clampCredit c.1.2.toNat }

theorem State.sampleCredits_sends (s : State) (credits : List (BitVec 13 × BitVec 13)) : Sends s (s.sampleCredits credits) :=
  Sends.foldl (fun s _ _ => s.setPort_sends ..) s

theorem State.port_grant (s : State) (c : (BitVec 13 × BitVec 13) × Nat) (p : Nat) :
    ((s.grant c).port p).grants = if p = c.2 then (clampCredit c.1.1.toNat, clampCredit c.1.2.toNat) else (s.port p).grants := by
  rw [State.grant, State.port_setPort]
  split <;> rfl

theorem State.sampleCredits_grants {s : State} {credits : List (BitVec 13 × BitVec 13)} {p : Nat} {c : BitVec 13 × BitVec 13}
    (hc : credits[p]? = some c) (hp : p < s.portCount) :
    ((s.sampleCredits credits).port p).grants = (clampCredit c.1.toNat, clampCredit c.2.toNat) := by
  have hlist (n : Nat) (xs : List (BitVec 13 × BitVec 13)) (k : Nat) (t : State) :
      ((((xs.zipIdx k).filter fun c => decide (c.2 < n)).foldl State.grant t).port p).grants =
        if p < k ∨ n ≤ p then (t.port p).grants else match xs[p - k]? with
          | some c => (clampCredit c.1.toNat, clampCredit c.2.toNat)
          | none => (t.port p).grants := by
    induction xs generalizing k t with
    | nil => simp
    | cons x rest ih =>
      have hstep (u : State) (hu : (u.port p).grants = if p = k ∧ k < n then (clampCredit x.1.toNat, clampCredit x.2.toNat) else (t.port p).grants) :
          ((((rest.zipIdx (k + 1)).filter fun c => decide (c.2 < n)).foldl State.grant u).port p).grants =
            if p < k ∨ n ≤ p then (t.port p).grants else match (x :: rest)[p - k]? with
              | some c => (clampCredit c.1.toNat, clampCredit c.2.toNat)
              | none => (t.port p).grants := by
        rw [ih (k + 1) u, hu]
        rcases Nat.lt_trichotomy p k with hlt | rfl | hgt
        · rw [if_pos (.inl (by omega)), if_neg (by omega), if_pos (.inl hlt)]
        · rw [if_pos (.inl (by omega)), Nat.sub_self]
          by_cases hn : p < n
          · rw [if_pos ⟨rfl, hn⟩, if_neg (by omega)]
            rfl
          · rw [if_neg (by omega), if_pos (.inr (by omega))]
        · rw [show p - k = p - (k + 1) + 1 by omega, List.getElem?_cons_succ, if_neg (by omega : ¬(p = k ∧ k < n)),
            if_congr (show p < k + 1 ∨ n ≤ p ↔ p < k ∨ n ≤ p by omega) rfl rfl]
      rw [List.zipIdx_cons, List.filter_cons]
      by_cases hk : k < n
      · rw [if_pos (by simpa using hk), List.foldl_cons]
        refine hstep _ ?_
        rw [State.port_grant]
        simp [hk]
      · rw [if_neg (by simpa using hk)]
        exact hstep _ (by simp [hk])
  exact (hlist s.portCount credits 0 s).trans (by simp [hp, hc])

/-! ### The end of a reset -/

/-- The Seal as a completed reset leaves it, with its nonce and the outputs that its DRBG has given. -/
def State.sealReset (s : State) (selftest entropy : Bool) (nonce : W64) (drbg : Nat) : Seal :=
  let v := s.endWipe.vault
  { v with
    resetting := false, resetCold := false, busy := false, handling := none, halted := s.vault.handling.isSome,
    selftestFail := s.cfg.hasSeal && selftest, entropyFail := s.cfg.hasSeal && entropy,
    attest := v.keyed && !(s.cfg.hasSeal && selftest) && !v.keysErased, nonce := nonce, drbg := drbg }

/-- What the block in Run again takes: the credits that its ports grant, the sequences and the alarms that waited. -/
def State.refreshed (s : State) (credits : List (BitVec 13 × BitVec 13)) : State := (s.sampleCredits credits).startTargets.releaseAlarms

/-- A fresh nonce: of the DRBG, or free while it gives none. -/
def State.resetNonce (s : State) : State :=
  match s.drbg with
  | (some w, s) => { s with vault := { s.vault with nonce := w.setWidth 64 } }
  | (none, s) => { s.draw64.2 with vault := { s.draw64.2.vault with nonce := s.draw64.1 } }

theorem State.resetNonce_frame (s : State) : ∃ k nonce drbg,
    s.resetNonce = { s with draws := k, vault := { s.vault with nonce := nonce, drbg := drbg } } := by
  rw [State.resetNonce, State.drbg]
  by_cases hfail : s.vault.entropyFail = true
  · rw [if_pos hfail]
    exact ⟨_, _, _, rfl⟩
  · rw [if_neg hfail]
    exact ⟨_, _, _, rfl⟩

theorem State.completeReset_eq (s : State) (selftest entropy : Bool) (credits : List (BitVec 13 × BitVec 13)) : ∃ k nonce drbg,
    s.completeReset selftest entropy credits =
      (State.refreshed { s with draws := k, vault := s.sealReset selftest entropy nonce drbg } credits).takeHeld.regrant := by
  obtain ⟨k, nonce, drbg, hnonce⟩ := State.resetNonce_frame { s with vault := s.sealReset selftest entropy s.vault.nonce s.vault.drbg }
  refine ⟨k, nonce, drbg, ?_⟩
  have hreset : s.completeReset selftest entropy credits =
      ((State.resetNonce { s with vault := s.sealReset selftest entropy s.vault.nonce s.vault.drbg }).refreshed credits).takeHeld.regrant := rfl
  rw [hreset, hnonce]
  rfl

theorem State.releaseAlarms_takes (s : State) : TakesInputs { s with pwr := { s.pwr with queuedAlarms := [] } } s.releaseAlarms :=
  TakesInputs.foldl (fun s _ => s.event_takes ..) _ _

theorem State.releaseAlarms_of_none {s : State} (h : s.pwr.queuedAlarms = []) : s.releaseAlarms = s := by
  rw [State.releaseAlarms, h]
  exact congrArg (fun q => ({ s with pwr := { s.pwr with queuedAlarms := q } } : State)) h.symm

theorem State.ringsOff_ring (s : State) (n : Nat) : (s.ringsOff.ring n).state = .off ∧ (s.ringsOff.ring n).entries = [] :=
  Tab.at_remap_of_forall (P := fun r : Ring => r.state = .off ∧ r.entries = []) ⟨rfl, rfl⟩ (fun _ => ⟨rfl, rfl⟩) n

theorem State.fatal_of_stopped {s : State} (h : s.err.stopped = true) (cause type unit : Nat) (info : W64) : s.fatal cause type unit info = s :=
  if_pos h

theorem State.refreshed_takes (s : State) (credits : List (BitVec 13 × BitVec 13)) : ∃ stoves,
    TakesInputs { s.sampleCredits credits with pwr := { s.pwr with stoves := stoves, queuedAlarms := [] } } (s.refreshed credits) := by
  have hpwr := (s.sampleCredits_sends credits).pwr
  have htakes := (s.sampleCredits credits).startTargets.releaseAlarms_takes
  rw [State.startTargets, hpwr] at htakes
  exact ⟨_, by rw [State.refreshed, State.startTargets, hpwr]; exact htakes⟩

theorem State.refreshed_grants {s : State} {credits : List (BitVec 13 × BitVec 13)} {p : Nat} {c : BitVec 13 × BitVec 13}
    (hc : credits[p]? = some c) (hp : p < s.portCount) : ((s.refreshed credits).port p).grants = (clampCredit c.1.toNat, clampCredit c.2.toNat) := by
  obtain ⟨stoves, htakes⟩ := s.refreshed_takes credits
  exact (htakes.grants p).trans (State.sampleCredits_grants hc hp)

theorem State.refreshed_of_none {s : State} (h : s.pwr.queuedAlarms = []) (credits : List (BitVec 13 × BitVec 13)) : ∃ stoves ports,
    s.refreshed credits = { s with ports := ports, pwr := { s.pwr with stoves := stoves } } := by
  have hsends := s.sampleCredits_sends credits
  have hhost : (s.sampleCredits credits).host = s.host ∧ (s.sampleCredits credits).hostPoison = s.hostPoison :=
    List.foldlRecOn (motive := fun t : State => t.host = s.host ∧ t.hostPoison = s.hostPoison) _ _ ⟨rfl, rfl⟩ fun t ht _ _ => ht
  have hnone : (s.sampleCredits credits).startTargets.pwr.queuedAlarms = [] := (congrArg Power.queuedAlarms hsends.pwr).trans h
  rw [State.refreshed, State.releaseAlarms_of_none hnone, State.startTargets]
  generalize s.sampleCredits credits = t at *
  obtain ⟨h1, h2⟩ := hhost
  rw [Sends, h1, h2] at hsends
  rw [hsends]
  exact ⟨_, _, rfl⟩

/-- The block in Run again, the doorbells that waited taken and receive credit granted. -/
structure EntersRun (s t : State) (credits : List (BitVec 13 × BitVec 13)) : Prop where
  vault : t.vault = s.vault
  mantel : t.mantel = s.mantel
  hearths : t.hearths = s.hearths
  grants : ∀ p c, credits[p]? = some c → p < 3 * s.cfg.stoves →
    (t.port p).rdCredits.toNat = min 4096 (max 16 c.1.toNat) ∧ (t.port p).wrCredits.toNat = min 4096 (max 16 c.2.toNat)
  quiet : (∀ n, (s.ring n).held = none ∧ (s.ring n).withheld = []) → s.pwr.queuedAlarms = [] → t.rings = s.rings ∧ t.blk = s.blk ∧
    t.audit = s.audit ∧ t.err = s.err ∧ t.host = s.host ∧ t.pwr = { s.pwr with stoves := t.pwr.stoves } ∧
    t.xch = { s.xch with rxCredits := t.xch.rxCredits }

theorem State.refreshed_entersRun (s : State) (credits : List (BitVec 13 × BitVec 13)) :
    EntersRun s (s.refreshed credits).takeHeld.regrant credits := by
  obtain ⟨stoves, htakes⟩ := s.refreshed_takes credits
  have hsends := s.sampleCredits_sends credits
  have hall := htakes.trans (State.takeHeld_takes _)
  have hgrants (p : Nat) (c : BitVec 13 × BitVec 13) (hc : credits[p]? = some c) (hp : p < 3 * s.cfg.stoves) :
      ((s.refreshed credits).takeHeld.port p).grants = (clampCredit c.1.toNat, clampCredit c.2.toNat) :=
    ((State.takeHeld_takes _).grants p).trans (State.refreshed_grants hc hp)
  have hquiet (hnone : ∀ n, (s.ring n).held = none ∧ (s.ring n).withheld = []) (hqueued : s.pwr.queuedAlarms = []) : ∃ stoves ports,
      (s.refreshed credits).takeHeld = { s with ports := ports, pwr := { s.pwr with stoves := stoves } } := by
    obtain ⟨stoves, ports, hsame⟩ := State.refreshed_of_none hqueued credits
    exact ⟨stoves, ports, by rw [hsame]; exact State.takeHeld_of_none hnone⟩
  generalize State.takeHeld _ = u at *
  have hcredits := u.regrant_credits
  generalize u.regrant = t at *
  refine ⟨?_, ?_, ?_, fun p c hc hp => ?_, fun hnone hqueued => ?_⟩
  · rw [hcredits, hall.only]
    exact hsends.vault
  · rw [hcredits, hall.only]
    exact hsends.mantel
  · rw [hcredits, hall.only]
    exact hsends.hearths
  · have hport : (t.port p).grants = (clampCredit c.1.toNat, clampCredit c.2.toNat) := by
      rw [hcredits]
      exact hgrants p c hc hp
    rw [← clampCredit_toNat, ← clampCredit_toNat]
    exact ⟨congrArg BitVec.toNat (congrArg Prod.fst hport), congrArg BitVec.toNat (congrArg Prod.snd hport)⟩
  · obtain ⟨stoves, ports, hsame⟩ := hquiet hnone hqueued
    rw [hcredits, hsame]
    exact ⟨rfl, rfl, rfl, rfl, rfl, rfl, rfl⟩

/-- A reset completes. -/
theorem State.completeReset_result (s : State) (selftest entropy : Bool) (credits : List (BitVec 13 × BitVec 13)) :
    ∃ t, Host.Outcome.next (s.completeReset selftest entropy credits) = (.next t : Result) ∧ SealAfterWipe s t selftest entropy ∧
      t.mantel = s.mantel ∧ t.hearths = s.hearths ∧
      (∀ p c, credits[p]? = some c → p < 3 * s.cfg.stoves →
        (t.port p).rdCredits.toNat = min 4096 (max 16 c.1.toNat) ∧ (t.port p).wrCredits.toNat = min 4096 (max 16 c.2.toNat)) ∧
      ((∀ n, (s.ring n).held = none ∧ (s.ring n).withheld = []) → s.pwr.queuedAlarms = [] → t.rings = s.rings ∧ t.blk = s.blk ∧
        t.audit = s.audit ∧ t.err = s.err ∧ t.host = s.host ∧ t.pwr = { s.pwr with stoves := t.pwr.stoves } ∧
        t.xch = { s.xch with rxCredits := t.xch.rxCredits }) := by
  obtain ⟨k, nonce, drbg, hcomplete⟩ := s.completeReset_eq selftest entropy credits
  refine ⟨_, congrArg Host.Outcome.next hcomplete, ?_⟩
  have henters := State.refreshed_entersRun { s with draws := k, vault := s.sealReset selftest entropy nonce drbg } credits
  generalize State.regrant _ = t at *
  obtain ⟨hvault, hmantel, hhearths, hgrants, hquiet⟩ := henters
  refine ⟨?_, hmantel, hhearths, hgrants, hquiet⟩
  rw [SealAfterWipe, hvault]
  exact ⟨rfl, rfl, rfl, rfl, rfl, rfl, rfl, rfl, rfl, rfl, rfl⟩

/-- Settles O25. -/
theorem wipeDoneEndsTheReset : Obligations.WipeDoneEndsTheReset := by
  intro s row selftest entropy credits
  have hexec : exec (.wipeDone row selftest entropy credits) s = execWipeDone row selftest entropy credits s := rfl
  dsimp only
  rw [hexec, execWipeDone]
  refine ⟨fun hstays => ?_, fun hwiping hrunning hrow => ?_, fun hwiping hfresh hrow => ?_⟩
  · by_cases hfirst : s.vault.wiping = false ∨ (s.err.stopped = true ∧ s.err.fatalCause = 0x15#8)
    · rw [if_pos hfirst]
    · obtain ⟨hstopped, hrow⟩ : s.err.stopped = true ∧ row ≠ 0#3 := by
        rcases hstays with h | ⟨hstopped, hcause | hrow⟩
        · exact absurd (.inl h) hfirst
        · exact absurd (.inr ⟨hstopped, hcause⟩) hfirst
        · exact ⟨hstopped, hrow⟩
      rw [if_neg hfirst, if_pos hrow, State.fatal_of_stopped hstopped]
  · rw [if_neg (by simp [hwiping, hrunning]), if_pos hrow, State.fatal, if_neg (by simp [hrunning])]
    have hlogs := State.logError_logs { s with err := { s.err with
      stopped := true, fatalValid := true, fatalCause := BitVec.ofNat 8 0x15, fatalType := BitVec.ofNat 4 8,
      fatalUnit := BitVec.ofNat 8 0, fatalStamp := s.stamp } } (ErrorEvent.plain 4 0x15 8 0 (row.setWidth 64))
    have herr := State.logError_err { s with err := { s.err with
      stopped := true, fatalValid := true, fatalCause := BitVec.ofNat 8 0x15, fatalType := BitVec.ofNat 4 8,
      fatalUnit := BitVec.ofNat 8 0, fatalStamp := s.stamp } } (ErrorEvent.plain 4 0x15 8 0 (row.setWidth 64))
    refine ⟨_, rfl, ?_⟩
    generalize State.logError _ _ = t at *
    rw [herr.only]
    exact ⟨hlogs.vault, rfl, rfl, rfl, hlogs.rings, hlogs.hearths, hlogs.mantel⟩
  · rw [if_neg (by rintro (h | h); exacts [absurd (hwiping.symm.trans h) nofun, hfresh h]), if_neg (not_not_intro hrow)]
    refine ⟨fun hreset hdown => ?_, fun hreset hup => ?_, fun hreset hwaits => ?_, fun hreset hout => ?_⟩
    · rw [if_pos hreset, if_neg (by simp [hdown])]
    · rw [if_pos hreset, if_pos hup]
      exact s.completeReset_result selftest entropy credits
    · rw [if_neg (by simp [hreset]), if_neg (by simp [hwaits])]
    · rw [if_neg (by simp [hreset]), if_pos hout]
      exact ⟨_, rfl, rfl, rfl, rfl, rfl, rfl, fun n => s.ringsOff_ring n, rfl⟩

end Sys2Proof.Machine
end

section
/-! SUPPORT. Maintenance: requests, the end of an activity, and the MAINT descriptors (R353, R356). -/

namespace Sys2Proof.Machine

/-! ### Requests -/

theorem mem_maintBehind {x y : Nat × Nat} {q : List (Nat × Nat)} : y ∈ maintBehind x q ↔ y = x ∨ y ∈ q := by
  simp only [maintBehind, List.mem_append, List.mem_filter, List.mem_singleton, decide_eq_true_eq]
  have hrank := Nat.lt_or_ge (maintRank y.1) (maintRank x.1)
  tauto

theorem mem_maintAhead {x y : Nat × Nat} {q : List (Nat × Nat)} : y ∈ maintAhead x q ↔ y = x ∨ y ∈ q := by
  simp only [maintAhead, List.mem_append, List.mem_filter, List.mem_singleton, decide_eq_true_eq]
  have hrank := Nat.lt_or_ge (maintRank x.1) (maintRank y.1)
  tauto

/-- A requested activity runs or waits; of everything else only the queue changes. -/
theorem State.maintRequest_frame (s : State) (x : Nat × Nat) :
    s.maintRequest x = { s with maint := { s.maint with queued := (s.maintRequest x).maint.queued } } ∧
      x ∈ s.maint.running ++ (s.maintRequest x).maint.queued := by
  rw [State.maintRequest]
  split
  · next h =>
    refine ⟨rfl, ?_⟩
    simpa using h
  · refine ⟨rfl, ?_⟩
    rw [List.mem_append]
    exact .inr (mem_maintBehind.2 (.inl rfl))

/-! ### The end of an activity -/

/-- The arbiter without an activity. -/
def Maint.without (m : Maint) (x : Nat × Nat) : Maint :=
  { m with
    running := m.running.erase x, queued := m.queued.erase x, scheduled := m.scheduled.filter (· != x),
    waiting := m.waiting.filter fun w => !(w.2.1 == x.1 && w.2.2 == x.2) }

theorem State.maintEnd_endsPositions (s : State) (x : Nat × Nat) : EndsPositions { s with maint := s.maint.without x } (s.maintEnd x) :=
  List.foldlRecOn _ _ (EndsPositions.refl _) fun t ht w _ => by
    split
    · exact ht.trans (t.modEntry_endsPositions w.1 _)
    · exact ht

/-- A position is as it was, or its work has ended. -/
def EntryEnds (o : Option Entry) (e : Entry) : Prop := o = some e ∨ o = some e.finished

theorem EntryEnds.finish {s : State} {n : Nat} {pos : W32} {e : Entry} (h : EntryEnds (s.entry n pos) e) :
    (s.finish n pos).entry n pos = some e.finished := by
  rcases h with h | h
  · exact State.entry_finish h
  · rw [State.entry_finish h, Entry.finished_finished]

/-- The end of another position of ring 0 leaves this one. -/
theorem EntryEnds.other {s : State} {n : Nat} {pos : W32} {e : Entry} (h : EntryEnds (s.entry n pos) e) (q : W32) :
    EntryEnds ((s.finish 0 q).entry n pos) e := by
  by_cases hn : n = 0
  · subst hn
    by_cases hq : pos = q
    · subst hq
      exact .inr h.finish
    · rw [State.finish, State.entry_modEntry_ne _ _ (f := Entry.finished) (fun _ h => h) hq]
      exact h
  · rw [State.entry, State.finish, s.ring_modEntry_ne q _ hn]
    exact h

theorem State.maintEnd_entry {s : State} {n : Nat} {pos : W32} {e : Entry} (h : s.entry n pos = some e) (x : Nat × Nat) :
    EntryEnds ((s.maintEnd x).entry n pos) e :=
  List.foldlRecOn (motive := fun t : State => EntryEnds (t.entry n pos) e) _ _ (.inl h) fun t ht w _ => by
    split
    · exact ht.other w.1
    · exact ht

/-! ### Hearths that are shut -/

/-- A hearth that is shut loses its power, its contents and its wrapper's; nothing else changes. -/
theorem State.shutHearth_frame (s : State) (h : Nat) :
    s.shutHearth h = { s with
      hearths := (s.shutHearth h).hearths, pwr := { s.pwr with pswReq := setBit s.pwr.pswReq (hearthDomain h) false },
      jtag := (s.shutHearth h).jtag } := rfl

theorem State.hearth_shutHearth (s : State) (h k : Nat) :
    (s.shutHearth h).hearth k = if k = h then { (s.hearth h).wiped with power := .shut, fromShut := false } else s.hearth k :=
  State.hearth_setHearth ..

/-! ### The descriptors -/

theorem Maint.held_of_paused {m : Maint} (h : m.paused = true) (y : Nat × Nat) :
    m.held y = false ↔ (y ∈ m.scheduled → ∃ w ∈ m.waiting, w.2 = y) := by
  simp only [Maint.held, h, Bool.true_and, Bool.and_eq_false_iff, List.contains_eq_mem, decide_eq_false_iff_not, Bool.not_eq_false',
    List.any_eq_true, Bool.and_eq_true, beq_iff_eq, ← Prod.ext_iff]
  tauto

theorem maintStart_requests {s : State} {n : BitVec 7} {pos : W32} {e : Entry} (he : s.running n.toNat pos 0x51 = some e) (hop : maintOp e = 0)
    (hstarted : e.started = false) :
    ∃ t, exec (.maintStart n pos) s = .next t ∧ t = { s with rings := t.rings, maint := t.maint } ∧
      t.entry n.toNat pos = some { e with started := true } ∧ maintTarget e ∈ t.maint.running ++ t.maint.queued ∧
      t.maint.running = s.maint.running ∧ (pos, maintTarget e) ∈ t.maint.waiting := by
  obtain ⟨hentry, -⟩ := State.running_iff.1 he
  obtain ⟨hframe, hmem⟩ := s.maintRequest_frame (maintTarget e)
  have hexec : exec (.maintStart n pos) s = execMaintStart n pos s := rfl
  rw [hexec, execMaintStart]
  dsimp only
  rw [he]
  dsimp only
  rw [if_neg (by simp [hop, hstarted])]
  generalize s.maintRequest (maintTarget e) = t at *
  have hentry' : t.entry n.toNat pos = some e := by rw [hframe]; exact hentry
  refine ⟨_, rfl, by rw [hframe]; rfl, State.entry_modEntry_of_entry hentry' (f := fun e => { e with started := true }) fun _ h => h, ?_, ?_, ?_⟩
  · rw [hframe]
    exact hmem
  · rw [hframe]
    rfl
  · exact List.mem_append_right _ (List.mem_singleton.2 rfl)

theorem maintCancel_ends {s : State} {n : BitVec 7} {pos : W32} {e : Entry} (he : s.running n.toNat pos 0x51 = some e) (hop : maintOp e = 1)
    (hrank : maintRank (maintTarget e).1 ≤ 3) :
    ∃ t f, exec (.maintCancel n pos) s = .next t ∧ t.entry n.toNat pos = some f ∧ f.stage = .finished ∧ f.status = e.status ∧
      t.maint.running = s.maint.running.erase (maintTarget e) ∧ t.maint.queued = s.maint.queued.erase (maintTarget e) ∧ t.mantel = s.mantel ∧
      ∀ h, h ≠ (maintTarget e).2 → t.hearth h = s.hearth h := by
  obtain ⟨hentry, -⟩ := State.running_iff.1 he
  have hends (u : State) (hmaint : u.maint = s.maint) (hrings : u.rings = s.rings) (hmantel : u.mantel = s.mantel)
      (hhearths : ∀ h, h ≠ (maintTarget e).2 → u.hearth h = s.hearth h) :
      ∃ f, ((u.maintEnd (maintTarget e)).finish n.toNat pos).entry n.toNat pos = some f ∧ f.stage = .finished ∧ f.status = e.status ∧
        ((u.maintEnd (maintTarget e)).finish n.toNat pos).maint.running = s.maint.running.erase (maintTarget e) ∧
        ((u.maintEnd (maintTarget e)).finish n.toNat pos).maint.queued = s.maint.queued.erase (maintTarget e) ∧
        ((u.maintEnd (maintTarget e)).finish n.toNat pos).mantel = s.mantel ∧
        ∀ h, h ≠ (maintTarget e).2 → ((u.maintEnd (maintTarget e)).finish n.toNat pos).hearth h = s.hearth h := by
    have hpos := (State.maintEnd_entry (s := u) (n := n.toNat) (pos := pos) (e := e) (by rw [State.entry, State.ring, hrings]; exact hentry)
      (maintTarget e)).finish
    have honly := (u.maintEnd_endsPositions (maintTarget e)).only
    have hframe : ((u.maintEnd (maintTarget e)).finish n.toNat pos).maint = u.maint.without (maintTarget e) ∧
        ((u.maintEnd (maintTarget e)).finish n.toNat pos).mantel = u.mantel ∧
        ((u.maintEnd (maintTarget e)).finish n.toNat pos).hearths = u.hearths := by
      rw [honly]
      exact ⟨rfl, rfl, rfl⟩
    obtain ⟨hm, hmantel', hh⟩ := hframe
    refine ⟨_, hpos, rfl, rfl, ?_, ?_, hmantel'.trans hmantel, fun h hne => ?_⟩
    · rw [hm, hmaint]
      rfl
    · rw [hm, hmaint]
      rfl
    · rw [State.hearth, hh]
      exact hhearths h hne
  have hexec : exec (.maintCancel n pos) s = execMaintCancel n pos s := rfl
  rw [hexec, execMaintCancel]
  dsimp only
  rw [he]
  dsimp only
  rw [if_neg (by simp [hop]), if_pos hrank]
  split
  · obtain ⟨f, h⟩ := hends (s.shutHearth (maintTarget e).2) rfl rfl rfl fun h hne => by rw [State.hearth_shutHearth, if_neg hne]
    exact ⟨_, f, rfl, h⟩
  · obtain ⟨f, h⟩ := hends s rfl rfl rfl fun _ _ => rfl
    exact ⟨_, f, rfl, h⟩

/-- Settles O45. -/
theorem maintDescriptorsActOnTheArbiter : Obligations.MaintDescriptorsActOnTheArbiter := by
  intro s n pos e he
  obtain ⟨hentry, -⟩ := State.running_iff.1 he
  dsimp only
  refine ⟨fun hop hstarted => maintStart_requests he hop hstarted, fun hop hrank => maintCancel_ends he hop hrank, fun hop hrank => ?_,
    fun hop => ?_, fun hop => ?_⟩
  · have hexec : exec (.maintCancel n pos) s = execMaintCancel n pos s := rfl
    obtain rfl := State.entry_pos hentry
    refine endsWork_of_finish hentry ?_
    rw [hexec, execMaintCancel]
    dsimp only
    rw [he]
    dsimp only
    rw [if_neg (not_not_intro (show maintOp e = 1 from hop)), if_neg (show ¬maintRank (maintTarget e).1 ≤ 3 from fun h => absurd (hrank ▸ h) (by decide))]
  · have hexec : exec (.pauseAuto n pos) s = execPauseAuto n pos s := rfl
    rw [hexec, execPauseAuto]
    dsimp only
    rw [he]
    dsimp only
    rw [if_neg (not_not_intro (show maintOp e = 2 from hop))]
    refine ⟨_, rfl, rfl, rfl, State.entry_finish hentry, fun y => ?_⟩
    refine List.mem_filter.trans (and_congr_right fun _ => ?_)
    rw [Bool.not_eq_true']
    exact Maint.held_of_paused rfl y
  · have hexec : exec (.resumeAuto n pos) s = execResumeAuto n pos s := rfl
    rw [hexec, execResumeAuto]
    dsimp only
    rw [he]
    dsimp only
    rw [if_neg (not_not_intro (show maintOp e = 3 from hop))]
    exact ⟨_, rfl, rfl, State.entry_finish hentry⟩

end Sys2Proof.Machine
end

section
/-! SUPPORT. The arbiter of maintenance: its schedule, its grants and its aborts (R286, R352, R353). -/

namespace Sys2Proof.Machine

theorem State.clocked_iff {s : State} : s.clocked = true ↔ s.pwr.block = .run ∨ s.pwr.block = .entering := by
  simp [State.clocked]

theorem State.mantelTier_refreshing_iff {s : State} (hclocked : s.clocked = true) : s.mantelTier = .refreshing ↔ s.cfg.hasMantel = true := by
  rw [State.mantelTier]
  rcases State.clocked_iff.1 hclocked with h | h <;> rw [h] <;> split <;> simp_all

theorem State.maintains_iff {s : State} {x : Nat × Nat} : s.maintains x = true ↔ Maintainable s x.1 := by
  have hcode : maintOnHearth x.1 = true ↔ x.1 ∈ [1, 4, 5] := by simp [maintOnHearth, or_assoc]
  rw [State.maintains, State.upkeep, Maintainable]
  simp only [Bool.and_eq_true, Bool.or_eq_true, Bool.not_eq_true', decide_eq_true_eq, hcode, ← State.clocked_iff]
  constructor
  · rintro ⟨⟨⟨hclocked, hrunning⟩, hwiping⟩, h⟩
    exact ⟨hclocked, hrunning, hwiping, h.imp_right (State.mantelTier_refreshing_iff hclocked).1⟩
  · rintro ⟨hclocked, hrunning, hwiping, h⟩
    exact ⟨⟨⟨hclocked, hrunning⟩, hwiping⟩, h.imp_right (State.mantelTier_refreshing_iff hclocked).2⟩

theorem State.maintains_eq_false {s : State} {x : Nat × Nat} (h : ¬Maintainable s x.1) : s.maintains x = false :=
  Bool.eq_false_iff.2 fun hm => h (State.maintains_iff.1 hm)

theorem scheduleAndTemperatureRequestActivities : ScheduleAndTemperatureRequestActivities := by
  intro s h hh
  refine ⟨fun a => ?_, fun hi => ?_⟩
  · have hexec : exec (.maintSchedule a h) s = execMaintSchedule a h s := rfl
    dsimp only
    rw [hexec, execMaintSchedule, if_pos (hasHearth_of_lt hh)]
    dsimp only
    refine ⟨fun hnone => if_pos ?_, fun hperiod hmaint => ?_⟩
    · exact hnone.imp_right fun hnot => State.maintains_eq_false hnot
    · have hmaintains : s.maintains (a.toNat, h.toNat) = true := State.maintains_iff.2 hmaint
      obtain ⟨hframe, hmem⟩ := s.maintRequest_frame (a.toNat, h.toNat)
      rw [if_neg (by rintro (h | h); exacts [hperiod h, absurd (hmaintains.symm.trans h) nofun])]
      generalize s.maintRequest (a.toNat, h.toNat) = t at *
      refine ⟨_, rfl, ?_, ?_, ?_, ?_⟩
      · rw [hframe]
      · rw [hframe]
      · rw [hframe]
        exact hmem
      · dsimp only
        split
        · next hlisted => simpa using hlisted
        · exact List.mem_append_right _ (List.mem_singleton.2 rfl)
  · have hexec : exec (.tempHiChange h hi) s = execTempHiChange h hi s := rfl
    rw [hexec, execTempHiChange, if_pos (hasHearth_of_lt hh)]
    refine ⟨fun hnone => if_pos (hnone.imp_right fun hnot => State.maintains_eq_false hnot), fun hchange hmaint => ?_⟩
    have hmaintains : s.maintains (3, h.toNat) = true := State.maintains_iff.2 hmaint
    obtain ⟨hframe, hmem⟩ := (s.modHearth h.toNat fun x => { x with tempHi := hi }).maintRequest_frame (3, h.toNat)
    rw [if_neg (by rintro (h | h); exacts [hchange h, absurd (hmaintains.symm.trans h) nofun])]
    refine ⟨_, rfl, ?_⟩
    generalize State.maintRequest _ _ = t at *
    rw [hframe]
    refine ⟨rfl, State.hearth_setHearth_self .., fun k hk => ?_, hmem⟩
    exact (State.hearth_setHearth ..).trans (if_neg hk)

/-! ### Errors that are logged do not read the arbiter -/

/-- The state with another arbiter. -/
def State.withMaint (s : State) (m : Maint) : State := { s with maint := m }

theorem State.storeHost_withMaint (s : State) (m : Maint) (a : Nat) (bytes : List W8) (poisoned : Bool) :
    (s.withMaint m).storeHost a bytes poisoned = (s.storeHost a bytes poisoned).withMaint m := rfl

theorem State.performRequest_withMaint (s : State) (m : Maint) (r : Request) : (s.withMaint m).performRequest r = (s.performRequest r).withMaint m := by
  unfold State.performRequest
  split
  · rfl
  · split
    · exact List.foldl_hom (State.withMaint · m) fun _ _ => rfl
    · rfl

theorem State.dispatchRequest_withMaint (s : State) (m : Maint) (p : Nat) (r : Request) (shared : Bool) :
    (s.withMaint m).dispatchRequest p r shared = (s.dispatchRequest p r shared).withMaint m :=
  State.performRequest_withMaint (s.setPort p { s.port p with
    inflight := (s.port p).inflight ++ [{ r with tag := (s.port p).freeTag r.write, shared := shared }],
    nextTag := (s.port p).freeTag r.write + 1#12 }) m r

theorem State.pumpList_withMaint (p : Nat) (rs : List Request) (s : State) (m : Maint) :
    State.pumpList p rs (s.withMaint m) = (State.pumpList p rs s).withMaint m := by
  induction rs generalizing s with
  | nil => rfl
  | cons r rest ih =>
    rw [State.pumpList, State.pumpList, show (s.withMaint m).port p = s.port p from rfl]
    split
    · rw [← ih, ← State.dispatchRequest_withMaint]
      rfl
    · exact ih s

theorem State.pump_withMaint (s : State) (m : Maint) (p : Nat) : (s.withMaint m).pump p = (s.pump p).withMaint m := by
  rw [State.pump, State.pump, show (s.withMaint m).portUp p = s.portUp p from rfl]
  split
  · exact State.pumpList_withMaint ..
  · rfl

theorem State.request_withMaint (s : State) (m : Maint) (p : Nat) (r : Request) : (s.withMaint m).request p r = (s.request p r).withMaint m :=
  State.pump_withMaint (s.setPort p { s.port p with waiting := (s.port p).waiting ++ [r] }) m p

theorem State.logError_withMaint (s : State) (m : Maint) (e : ErrorEvent) : (s.withMaint m).logError e = (s.logError e).withMaint m := by
  unfold State.logError
  extract_lets e' _ t _ _ f _ u
  have hsame : f = e' := rfl
  have hcount : t = u.withMaint m := by
    by_cases h : e.severity = 1#8
    · rw [show u = _ from if_pos h, show t = _ from if_pos h]
      rfl
    · rw [show u = _ from if_neg h, show t = _ from if_neg h]
  clear_value f t u
  subst hcount hsame
  rw [show (u.withMaint m).mergeTarget e' = u.mergeTarget e' from rfl, show (u.withMaint m).err = u.err from rfl]
  by_cases hcorrected : (decide (e'.severity = 1#8) && !u.err.logCorrected) = true
  · rw [if_pos hcorrected, if_pos hcorrected]
  · rw [if_neg hcorrected, if_neg hcorrected]
    cases u.mergeTarget e' with
    | some w => rfl
    | none =>
      dsimp only
      by_cases hfull : (!u.err.enable || decide (2 ^ u.err.log2.toNat ≤ (u.err.index - u.err.head).toNat)) = true
      · rw [if_pos hfull, if_pos hfull]
        rfl
      · rw [if_neg hfull, if_neg hfull]
        exact State.request_withMaint { u with err := { u.err with index := u.err.index + 1#32, writing := u.err.writing ++ [e'] } } m 2 _

/-! ### Grants -/

/-- An activity runs, and no longer waits. -/
def Maint.started (m : Maint) (x : Nat × Nat) : Maint := { m with queued := m.queued.erase x, running := m.running ++ [x] }

/-- A scrub of a hearth that is neither ACTIVE nor GATED (R308). -/
def State.skips (s : State) (x : Nat × Nat) : Prop := x.1 = 1 ∧ (s.hearth x.2).power ≠ .active ∧ (s.hearth x.2).power ≠ .gated

theorem State.maintBegin_of_skipped {s : State} {x : Nat × Nat} (h : s.skips x) : s.maintBegin x = (s.withMaint (s.maint.started x)).maintEnd x :=
  if_pos h

theorem State.maintBegin_of_started {s : State} {x : Nat × Nat} (h : ¬s.skips x) : WakesHearths (s.withMaint (s.maint.started x)) (s.maintBegin x) ∧
    (x.1 ≠ 4 → s.maintBegin x = s.withMaint (s.maint.started x)) := by
  have hbegin : s.maintBegin x = if x.1 = 4 then (s.withMaint (s.maint.started x)).wakeHearth x.2 else s.withMaint (s.maint.started x) := if_neg h
  rw [hbegin]
  refine ⟨?_, fun hne => if_neg hne⟩
  split
  · exact State.wakeHearth_wakes ..
  · exact .refl _

theorem exec_maintGrant {s : State} {x : Nat × Nat} (hstart : s.maint.startable = some x) (hmaint : Maintainable s x.1) :
    exec .maintGrant s = .next (((s.maint.running.filter fun y => maintOverlap x y).foldl (fun s y => s.maintAbort y x) s).maintBegin x) := by
  have hexec : exec .maintGrant s = execMaintGrant s := rfl
  rw [hexec, execMaintGrant, hstart]
  exact if_pos (State.maintains_iff.2 hmaint)

theorem exec_maintGrant_free {s : State} {x : Nat × Nat} (hstart : s.maint.startable = some x) (hmaint : Maintainable s x.1)
    (hfree : ∀ y ∈ s.maint.running, maintOverlap x y = false) : exec .maintGrant s = .next (s.maintBegin x) := by
  have hnone : (s.maint.running.filter fun y => maintOverlap x y) = [] :=
    List.filter_eq_nil_iff.2 fun y hy => by simp [hfree y hy]
  rw [exec_maintGrant hstart hmaint, hnone, List.foldl_nil]

/-- What the arbiter starts aborts activities of lower rank only. -/
theorem startable_ne {m : Maint} {x y : Nat × Nat} (hstart : m.startable = some x) (hy : y ∈ m.running) (hover : maintOverlap x y = true) : y ≠ x := by
  rintro rfl
  have hfirst := List.find?_some hstart
  simp only [Bool.and_eq_true, Bool.not_eq_true', List.any_eq_false] at hfirst
  exact hfirst.2 y hy (by simp [hover])

/-- The arbiter after one running activity has been aborted. -/
def Maint.aborting (m : Maint) (y : Nat × Nat) : Maint :=
  { m with running := m.running.erase y, queued := maintAhead y m.queued, aborted := true, abortCount := satInc m.abortCount }

theorem State.maintAbort_eq (s : State) (y x : Nat × Nat) : s.maintAbort y x =
    (s.logError (ErrorEvent.plain 0 0x12 9 y.2 (BitVec.ofNat 64 (y.1 + 256 * x.1)))).withMaint (s.maint.aborting y) :=
  s.logError_withMaint (s.maint.aborting y) _

theorem theArbiterStartsAndAborts : TheArbiterStartsAndAborts := by
  intro s
  have hexec : exec .maintGrant s = execMaintGrant s := rfl
  refine ⟨fun hnone => ?_, fun x hstart => ⟨fun hstands => ?_, fun hmaint => ?_⟩⟩
  · rw [hexec, execMaintGrant, hnone]
  · rw [hexec, execMaintGrant, hstart]
    exact if_neg (by simp [State.maintains_eq_false hstands])
  dsimp only
  refine ⟨fun hruns hfree => ?_, fun hskip hfree => ?_, fun y hruns hrunning hover => ?_⟩
  · obtain ⟨hwakes, hsame⟩ := State.maintBegin_of_started (show ¬s.skips x from hruns)
    rw [exec_maintGrant_free hstart hmaint hfree]
    generalize s.maintBegin x = t at *
    refine ⟨t, rfl, by rw [hwakes.only]; rfl, by rw [hwakes.only]; rfl, fun hne => ?_⟩
    rw [hsame hne]
    exact ⟨rfl, rfl⟩
  · rw [exec_maintGrant_free hstart hmaint hfree, State.maintBegin_of_skipped (show s.skips x from hskip)]
    have hends := (s.withMaint (s.maint.started x)).maintEnd_endsPositions x
    generalize State.maintEnd _ x = t at *
    refine ⟨t, rfl, by rw [hends.only]; rfl, ?_, by rw [hends.only]; rfl, fun n hn => hends.others n hn⟩
    rw [hends.only]
    exact fun hmem => absurd (List.mem_filter.1 hmem).2 (by simp)
  · have hne := startable_ne hstart (by rw [hrunning]; exact .head _) hover
    have hlower : (s.maint.running.filter fun y => maintOverlap x y) = [y] := by rw [hrunning, List.filter_cons_of_pos hover, List.filter_nil]
    have hlogs := s.logError_logs (ErrorEvent.plain 0 0x12 9 y.2 (BitVec.ofNat 64 (y.1 + 256 * x.1)))
    rw [exec_maintGrant hstart hmaint, hlower, List.foldl_cons, List.foldl_nil, State.maintAbort_eq]
    generalize s.logError _ = u at *
    have hruns' : ¬(u.withMaint (s.maint.aborting y)).skips x := by
      rw [State.skips, show (u.withMaint (s.maint.aborting y)).hearth x.2 = s.hearth x.2 by rw [hlogs.frame]; rfl]
      exact hruns
    obtain ⟨hwakes, -⟩ := State.maintBegin_of_started hruns'
    generalize State.maintBegin _ x = t at *
    have hm : t.maint = (s.maint.aborting y).started x := by rw [hwakes.only]; rfl
    refine ⟨t, rfl, ?_, ?_, by rw [hm]; rfl, by rw [hm]; rfl, by rw [hwakes.only]; rfl, by rw [hwakes.only]; rfl, by rw [hwakes.only]; rfl, ?_, ?_, ?_⟩
    · rw [hm]
      simp [Maint.started, Maint.aborting, hrunning]
    · rw [hm]
      exact (List.mem_erase_of_ne hne).2 (mem_maintAhead.2 (.inl rfl))
    · rw [hwakes.only]
      exact hlogs.rings
    · rw [hwakes.only]
      exact hlogs.mantel
    · rw [hwakes.only]
      exact hlogs.blk

/-- Settles O34. -/
theorem maintenanceRequestsAndGrants : Obligations.MaintenanceRequestsAndGrants :=
  ⟨scheduleAndTemperatureRequestActivities, theArbiterStartsAndAborts⟩

end Sys2Proof.Machine
end

section
/-! SUPPORT. Steps of scrubs, and the ends of activities with their results (R354 to R356). -/

namespace Sys2Proof.Machine

/-! ### Marks -/

theorem Marks.mem_insert {j k : Nat} {m : List Nat} : j ∈ Marks.insert k m ↔ j = k ∨ j ∈ m := by
  induction m with
  | nil => simp [Marks.insert]
  | cons i rest ih =>
    rw [Marks.insert]
    split
    · simp
    split
    · next h => simp [h]
    · simp only [List.mem_cons, ih]
      tauto

theorem Marks.not_mem_drop (k : Nat) (m : List Nat) : k ∉ Marks.drop k m := by simp [Marks.drop]

theorem inLine_iff {m : List Nat} {a : Nat} : ((outsideLine m (a / 8) 8).length != m.length) = true ↔ InLine m a := by
  rw [bne_iff_ne, Ne, outsideLine, List.length_filter_eq_length_iff, InLine]
  push Not
  refine exists_congr fun k => and_congr_right fun _ => ?_
  simp

theorem not_inLine_outsideLine (m : List Nat) (a : Nat) : ¬InLine (outsideLine m (a / 8) 8) a := by
  rintro ⟨k, hk, hlo, hhi⟩
  have hout := (List.mem_filter.1 hk).2
  simp [hlo, hhi] at hout

/-! ### What a scrub finds -/

theorem scrubFinds_finds (outcome : BitVec 2) {bad soft : Prop} {b f : Bool} (hb : b = true ↔ bad) (hf : f = true ↔ soft) :
    ScrubFinds outcome bad soft (scrubFinds outcome.toNat b f) := by
  have hvalue (k : BitVec 2) : (outcome.toNat = k.toNat) = (outcome = k) := propext BitVec.toNat_inj
  have h1 : (outcome.toNat = 1) = (outcome = 1#2) := hvalue 1#2
  have h2 : (outcome.toNat = 2) = (outcome = 2#2) := hvalue 2#2
  have h3 : (outcome.toNat = 3) = (outcome = 3#2) := hvalue 3#2
  rw [ScrubFinds, scrubFinds, ← hb, ← hf]
  simp only [h3, Bool.or_eq_true, beq_iff_eq, h2, h1]
  refine ⟨fun h => if_pos h, fun hn h => ?_, fun hn h1 h2 => ?_, fun hn h1 h2 => ?_⟩
  · rw [if_neg hn, if_pos h]
  · rw [if_neg hn, if_neg h1, if_pos h2]
  · rw [if_neg hn, if_neg h1, if_neg h2]

theorem State.codedError_logs (s : State) (severity cause unitType unit space addr : Nat) (infoFree : Bool) :
    Logs { s with draws := s.draws + 2 } (s.codedError severity cause unitType unit space addr infoFree) := State.logError_logs ..

/-- The report of a scrub's finding leaves only an error record. -/
theorem State.scrubReport_logs (s : State) (found ce ue unitType h space a : Nat) : ∃ k, Logs { s with draws := k }
    (if found = 1 then s.codedError 1 ce unitType h space a true
      else if found = 2 then s.codedError 2 ue unitType h space a false else s) := by
  split
  · exact ⟨_, s.codedError_logs ..⟩
  split
  · exact ⟨_, s.codedError_logs ..⟩
  · exact ⟨s.draws, .refl s⟩

/-! ### A line of an SRAM -/

/-- Whether the scrub pointer stands at a unit of the store, or of accumulator memory, that is marked. -/
def Hearth.atMarked (x : Hearth) (store acc : List Nat) : Bool :=
  ((sramPlace x.sramPtr).1 == 0 && ((outsideLine store ((sramPlace x.sramPtr).2 / 8) 8).length != store.length)) ||
    ((sramPlace x.sramPtr).1 == 2 && ((outsideLine acc ((sramPlace x.sramPtr).2 / 8) 8).length != acc.length))

theorem Hearth.atMarked_iff (x : Hearth) (store acc : List Nat) : x.atMarked store acc = true ↔
    (x.sramPtr < 2 ^ 23 ∧ InLine store x.sramPtr) ∨ ((2 ^ 23 ≤ x.sramPtr ∧ x.sramPtr < 3 * 2 ^ 22) ∧ InLine acc (x.sramPtr - 2 ^ 23)) := by
  simp only [Hearth.atMarked, Bool.or_eq_true, Bool.and_eq_true, beq_iff_eq, inLine_iff, sramPlace]
  split
  · next h =>
    have hlow : x.sramPtr < 8388608 := by omega
    simp [hlow, Nat.not_le.2 hlow]
  split
  · next h h' =>
    have hlow : ¬x.sramPtr < 8388608 := by omega
    have hhigh : x.sramPtr < 12582912 := by omega
    simp [hlow, hhigh, Nat.le_of_not_lt hlow]
  · next h h' =>
    have hlow : ¬x.sramPtr < 8388608 := by omega
    have hhigh : ¬x.sramPtr < 12582912 := by omega
    simp [hlow, hhigh]

/-- A hearth after one line of an SRAM scrub. -/
def Hearth.scrubbed (x : Hearth) (found : Nat) : Hearth :=
  let sp := (sramPlace x.sramPtr).1
  let a := (sramPlace x.sramPtr).2
  let mark (here : Bool) (m : List Nat) : List Nat :=
    if found = 2 ∧ x.atMarked x.storeBad x.accBad = false ∧ here = true then Marks.insert (a / 8) m else m
  let clean (here : Bool) (m : List Nat) : List Nat := if found = 1 ∧ here = true then outsideLine m (a / 8) 8 else m
  { x with
    sramPtr := (x.sramPtr + 64) % sramPass,
    sramCe := if found = 1 then satInc x.sramCe else x.sramCe,
    sramUe := if found = 2 then satInc x.sramUe else x.sramUe,
    storePoison := mark (sp == 0) x.storePoison, storeBad := mark (sp == 0) x.storeBad, storeSoft := clean (sp == 0) x.storeSoft,
    accPoison := mark (sp == 2) x.accPoison, accBad := mark (sp == 2) x.accBad, accSoft := clean (sp == 2) x.accSoft }

/-- What the scrub finds at its pointer. -/
def Hearth.scrubFound (x : Hearth) (outcome : Nat) : Nat :=
  scrubFinds outcome (x.atMarked x.storeBad x.accBad) (x.atMarked x.storeSoft x.accSoft)

theorem State.sramScrub_logs (s : State) (h outcome : Nat) : ∃ k,
    Logs { s.setHearth h ((s.hearth h).scrubbed ((s.hearth h).scrubFound outcome)) with draws := k } (s.sramScrub h outcome) :=
  State.scrubReport_logs (s.setHearth h ((s.hearth h).scrubbed ((s.hearth h).scrubFound outcome))) ((s.hearth h).scrubFound outcome) 0x01 0x02 3 h
    (sramPlace (s.hearth h).sramPtr).1 (sramPlace (s.hearth h).sramPtr).2

theorem Hearth.scrubbed_marks {x : Hearth} {found : Nat} (hfound : found = 2) (hnew : x.atMarked x.storeBad x.accBad = false) :
    (x.sramPtr < 2 ^ 23 → x.sramPtr / 8 ∈ (x.scrubbed found).storePoison ∧ x.sramPtr / 8 ∈ (x.scrubbed found).storeBad) ∧
      (2 ^ 23 ≤ x.sramPtr ∧ x.sramPtr < 3 * 2 ^ 22 →
        (x.sramPtr - 2 ^ 23) / 8 ∈ (x.scrubbed found).accPoison ∧ (x.sramPtr - 2 ^ 23) / 8 ∈ (x.scrubbed found).accBad) := by
  refine ⟨fun hstore => ?_, fun ⟨hlo, hhi⟩ => ?_⟩
  · have hplace : sramPlace x.sramPtr = (0, x.sramPtr) := if_pos hstore
    simp [Hearth.scrubbed, hfound, hnew, hplace, Marks.mem_insert]
  · have hplace : sramPlace x.sramPtr = (2, x.sramPtr - 2 ^ 23) := by rw [sramPlace, if_neg (by omega), if_pos hhi]
    simp [Hearth.scrubbed, hfound, hnew, hplace, Marks.mem_insert]

theorem Hearth.scrubbed_cleans {x : Hearth} {found : Nat} (hfound : found = 1) :
    (x.sramPtr < 2 ^ 23 → ¬InLine (x.scrubbed found).storeSoft x.sramPtr) ∧
      (2 ^ 23 ≤ x.sramPtr ∧ x.sramPtr < 3 * 2 ^ 22 → ¬InLine (x.scrubbed found).accSoft (x.sramPtr - 2 ^ 23)) := by
  refine ⟨fun hstore => ?_, fun ⟨hlo, hhi⟩ => ?_⟩
  · have hplace : sramPlace x.sramPtr = (0, x.sramPtr) := if_pos hstore
    have hsoft : (x.scrubbed found).storeSoft = outsideLine x.storeSoft (x.sramPtr / 8) 8 := by simp [Hearth.scrubbed, hfound, hplace]
    rw [hsoft]
    exact not_inLine_outsideLine _ _
  · have hplace : sramPlace x.sramPtr = (2, x.sramPtr - 2 ^ 23) := by rw [sramPlace, if_neg (by omega), if_pos hhi]
    have hsoft : (x.scrubbed found).accSoft = outsideLine x.accSoft ((x.sramPtr - 2 ^ 23) / 8) 8 := by simp [Hearth.scrubbed, hfound, hplace]
    rw [hsoft]
    exact not_inLine_outsideLine _ _

theorem Hearth.scrubbed_poison {x : Hearth} {found : Nat} (hfound : found ≠ 2) :
    (x.scrubbed found).storePoison = x.storePoison ∧ (x.scrubbed found).accPoison = x.accPoison :=
  ⟨if_neg fun h => hfound h.1, if_neg fun h => hfound h.1⟩

/-! ### A line of a bank -/

/-- What the scrub of a bank finds at its pointer. -/
def State.bankFound (s : State) (h outcome : Nat) : Nat :=
  scrubFinds outcome (s.mantelBad.contains ((bankBytes * h + (s.hearth h).mantelPtr) / 64))
    (s.mantelSoft.contains ((bankBytes * h + (s.hearth h).mantelPtr) / 64))

/-- The pointer and the counts of a bank's scrub after one line. -/
def Hearth.bankScrubbed (x : Hearth) (found : Nat) : Hearth :=
  { x with
    mantelPtr := (x.mantelPtr + 64) % bankBytes,
    mantelCorrected := if found = 1 then satInc x.mantelCorrected else x.mantelCorrected,
    mantelUncorr := if found = 2 then satInc x.mantelUncorr else x.mantelUncorr }

/-- The marks of the Mantel after one line. -/
def State.bankMarked (s : State) (line found : Nat) : State :=
  if found = 2 then { s with mantelPoison := Marks.insert line s.mantelPoison, mantelBad := Marks.insert line s.mantelBad }
  else if found = 1 then { s with mantelSoft := Marks.drop line s.mantelSoft } else s

theorem State.mantelScrub_logs (s : State) (h outcome : Nat) : ∃ k,
    Logs { (s.setHearth h ((s.hearth h).bankScrubbed (s.bankFound h outcome))).bankMarked
      ((bankBytes * h + (s.hearth h).mantelPtr) / 64) (s.bankFound h outcome) with draws := k } (s.mantelScrub h outcome) :=
  State.scrubReport_logs ((s.setHearth h ((s.hearth h).bankScrubbed (s.bankFound h outcome))).bankMarked
    ((bankBytes * h + (s.hearth h).mantelPtr) / 64) (s.bankFound h outcome)) (s.bankFound h outcome) 0x04 0x05 1 h 1
    (bankBytes * h + (s.hearth h).mantelPtr)

theorem State.bankMarked_frame (s : State) (line found : Nat) : s.bankMarked line found =
    { s with mantelPoison := (s.bankMarked line found).mantelPoison, mantelBad := (s.bankMarked line found).mantelBad,
             mantelSoft := (s.bankMarked line found).mantelSoft } := by
  rw [State.bankMarked]
  split
  · rfl
  · split <;> rfl

theorem State.bankMarked_poison (s : State) (line found k : Nat) :
    k ∈ (s.bankMarked line found).mantelPoison ↔ (found = 2 ∧ k = line) ∨ k ∈ s.mantelPoison := by
  rw [State.bankMarked]
  split
  · next h => simp [h, Marks.mem_insert]
  · next h => split <;> simp [h]

theorem State.bankMarked_marks (s : State) {line found : Nat} :
    (found = 2 → line ∈ (s.bankMarked line found).mantelPoison ∧ line ∈ (s.bankMarked line found).mantelBad) ∧
      (found = 1 → line ∉ (s.bankMarked line found).mantelSoft) := by
  refine ⟨fun h => ?_, fun h => ?_⟩
  · rw [State.bankMarked, if_pos h]
    exact ⟨Marks.mem_insert.2 (.inl rfl), Marks.mem_insert.2 (.inl rfl)⟩
  · rw [State.bankMarked, if_neg (by omega), if_pos h]
    exact Marks.not_mem_drop _ _

theorem scrubStepsCountWhatTheyFind : ScrubStepsCountWhatTheyFind := by
  intro s a h outcome
  have hexec : exec (.maintStep a h outcome) s = execMaintStep a h outcome s := rfl
  dsimp only
  rw [hexec, execMaintStep]
  refine ⟨fun hnot => if_neg fun hboth => ?_, fun hruns hmaint => ?_⟩
  · rw [Bool.and_eq_true, List.contains_iff_mem] at hboth
    exact hnot ⟨hboth.1, State.maintains_iff.1 hboth.2⟩
  have hmaintains : s.maintains (a.toNat, h.toNat) = true := State.maintains_iff.2 hmaint
  rw [if_pos (by rw [hmaintains, List.contains_iff_mem.2 hruns]; rfl)]
  refine ⟨fun h1 h2 => by rw [if_neg h1, if_neg h2], fun h1 => ?_, fun h2 => ?_⟩
  · obtain ⟨k, hlogs⟩ := s.sramScrub_logs h.toNat outcome.toNat
    have hfinds : ScrubFinds outcome _ _ ((s.hearth h.toNat).scrubFound outcome.toNat) :=
      scrubFinds_finds outcome (Hearth.atMarked_iff ..) (Hearth.atMarked_iff ..)
    rw [if_pos h1]
    generalize s.sramScrub h.toNat outcome.toNat = t at *
    generalize (s.hearth h.toNat).scrubFound outcome.toNat = found at *
    have hself : t.hearth h.toNat = (s.hearth h.toNat).scrubbed found := by
      rw [State.hearth, hlogs.hearths]
      exact State.hearth_setHearth_self ..
    refine ⟨t, found, rfl, hfinds, fun g hg => ?_, ?_⟩
    · rw [State.hearth, hlogs.hearths]
      exact (State.hearth_setHearth ..).trans (if_neg hg)
    rw [hself]
    refine ⟨rfl, rfl, rfl, fun hfound hnew => ?_, Hearth.scrubbed_poison, Hearth.scrubbed_cleans, rfl, rfl,
      hlogs.mantel, hlogs.rings, by rw [hlogs.frame]; rfl⟩
    exact Hearth.scrubbed_marks hfound (Bool.eq_false_iff.2 fun hb => hnew ((Hearth.atMarked_iff ..).1 hb))
  · obtain ⟨k, hlogs⟩ := s.mantelScrub_logs h.toNat outcome.toNat
    have hfinds : ScrubFinds outcome _ _ (s.bankFound h.toNat outcome.toNat) := scrubFinds_finds outcome List.contains_iff_mem List.contains_iff_mem
    rw [if_neg (by rw [h2]; decide), if_pos h2]
    generalize s.mantelScrub h.toNat outcome.toNat = t at *
    generalize s.bankFound h.toNat outcome.toNat = found at *
    have hframe := State.bankMarked_frame (s.setHearth h.toNat ((s.hearth h.toNat).bankScrubbed found))
      ((bankBytes * h.toNat + (s.hearth h.toNat).mantelPtr) / 64) found
    have hmarks := State.bankMarked_marks (s.setHearth h.toNat ((s.hearth h.toNat).bankScrubbed found))
      (line := (bankBytes * h.toNat + (s.hearth h.toNat).mantelPtr) / 64) (found := found)
    have hpoison := State.bankMarked_poison (s.setHearth h.toNat ((s.hearth h.toNat).bankScrubbed found))
      ((bankBytes * h.toNat + (s.hearth h.toNat).mantelPtr) / 64) found
    generalize State.bankMarked _ _ _ = u at *
    have hhearth (g : Nat) : t.hearth g = if g = h.toNat then (s.hearth h.toNat).bankScrubbed found else s.hearth g := by
      rw [State.hearth, hlogs.hearths]
      refine Eq.trans ?_ (s.hearth_setHearth h.toNat ((s.hearth h.toNat).bankScrubbed found) g)
      rw [hframe]
      rfl
    have hself := (hhearth h.toNat).trans (if_pos rfl)
    refine ⟨t, found, rfl, hfinds, fun g hg => (hhearth g).trans (if_neg hg), ?_⟩
    rw [hself]
    refine ⟨rfl, rfl, rfl, rfl, fun hfound => ?_, fun hfound => ?_, fun j hj => ?_, ?_, ?_, ?_⟩
    · rw [hlogs.frame]
      exact hmarks.1 hfound
    · rw [hlogs.frame]
      exact hmarks.2 hfound
    · rw [hlogs.frame]
      refine (hpoison j).trans ?_
      simp only [show ¬j = (bankBytes * h.toNat + (s.hearth h.toNat).mantelPtr) / 64 from hj, and_false, false_or]
      rfl
    · rw [hlogs.mantel, hframe]
      rfl
    · rw [hlogs.rings, hframe]
      rfl
    · rw [hlogs.frame, hframe]
      rfl

/-! ### The ends of activities -/

/-- Every issued position of that number in ring 0 has ended its work. -/
def State.HasFinished (s : State) (pos : W32) : Prop := ∀ e ∈ (s.ring 0).entries, e.pos = pos → e.stage = .finished

theorem State.HasFinished.finish {s : State} {pos : W32} (h : s.HasFinished pos) (q : W32) : (s.finish 0 q).HasFinished pos := by
  intro e he hpos
  rw [State.finish, State.ring_modEntry_self] at he
  obtain ⟨f, hf, rfl⟩ := List.mem_map.1 he
  by_cases hq : f.pos = q
  · rw [if_pos hq]
    rfl
  · rw [if_neg hq] at hpos ⊢
    exact h f hf hpos

theorem State.finish_hasFinished (s : State) (pos : W32) : (s.finish 0 pos).HasFinished pos := by
  intro e he hpos
  rw [State.finish, State.ring_modEntry_self] at he
  obtain ⟨f, hf, rfl⟩ := List.mem_map.1 he
  by_cases hq : f.pos = pos
  · rw [if_pos hq]
    rfl
  · rw [if_neg hq] at hpos
    exact absurd hpos hq

/-- The end of an activity finishes what awaits it. -/
theorem State.maintEnd_finishes (s : State) (x : Nat × Nat) {w : W32 × Nat × Nat} (hw : w ∈ s.maint.waiting) (hx : w.2 = x) :
    (s.maintEnd x).HasFinished w.1 := by
  rw [State.maintEnd]
  refine foldl_establishes (P := fun t => t.HasFinished w.1) (h := w) (Q := fun _ => True) (fun t v ht => ?_) (fun _ _ _ _ => trivial) (fun t _ => ?_) hw trivial
  · split
    · exact ht.finish v.1
    · exact ht
  · rw [if_pos (by simp [hx])]
    exact t.finish_hasFinished w.1

/-- What an activity leaves as it ends (R355). -/
def State.activityEffect (s : State) (a h : Nat) (pass : Bool) (unit : W8) : State :=
  if a = 1 then s.modHearth h fun y => { y with scrubPasses := satInc y.scrubPasses, sramPtr := 0 }
  else if a = 2 then s.modHearth h fun y => { y with mantelPtr := 0 }
  else if a = 4 then s.bistDone h pass unit
  else if a = 5 then s.modHearth h Hearth.wiped
  else if a = 6 then s.wipeBank h
  else s

/-- An activity acts on its hearth and on the bank above it. -/
structure ActsOnHearth (s t : State) (h : Nat) : Prop where
  maint : t.maint = s.maint
  rings : t.rings = s.rings
  others : ∀ k, k ≠ h → t.hearth k = s.hearth k

theorem State.modHearth_acts (s : State) (h : Nat) (f : Hearth → Hearth) : ActsOnHearth s (s.modHearth h f) h :=
  ⟨rfl, rfl, fun _ hk => (State.hearth_setHearth ..).trans (if_neg hk)⟩

/-- A hearth as its self-test leaves it. -/
def Hearth.tested (x : Hearth) (pass : Bool) (unit : W8) : Hearth :=
  { x with
    bistResult := if pass then 1#2 else 2#2, bistUnit := if pass then 0#8 else unit, bistRuns := satInc x.bistRuns,
    bistFails := if pass then x.bistFails else satInc x.bistFails, offline := true }

theorem State.bistDone_logs (s : State) (h : Nat) (pass : Bool) (unit : W8) :
    Logs ((s.modHearth h fun x => x.tested pass unit).shutHearth h) (s.bistDone h pass unit) := by
  have hbist : s.bistDone h pass unit = if pass then (s.modHearth h fun x => x.tested pass unit).shutHearth h
      else ((s.modHearth h fun x => x.tested pass unit).shutHearth h).logError (ErrorEvent.plain 2 0x13 9 h (unit.setWidth 64)) := rfl
  rw [hbist]
  split
  · exact .refl _
  · exact State.logError_logs ..

theorem State.bistDone_hearth (s : State) (h k : Nat) (pass : Bool) (unit : W8) : (s.bistDone h pass unit).hearth k =
    if k = h then { ((s.hearth h).tested pass unit).wiped with power := .shut, fromShut := false } else s.hearth k := by
  have hlogs := s.bistDone_logs h pass unit
  rw [State.hearth, hlogs.hearths]
  refine (State.hearth_shutHearth ..).trans ?_
  by_cases hk : k = h
  · rw [if_pos hk, if_pos hk, State.modHearth, State.hearth_setHearth_self]
  · rw [if_neg hk, if_neg hk]
    exact (State.hearth_setHearth ..).trans (if_neg hk)

theorem State.bistDone_acts (s : State) (h : Nat) (pass : Bool) (unit : W8) : ActsOnHearth s (s.bistDone h pass unit) h := by
  have hlogs := s.bistDone_logs h pass unit
  have hothers (k : Nat) (hk : k ≠ h) := (s.bistDone_hearth h k pass unit).trans (if_neg hk)
  generalize s.bistDone h pass unit = t at *
  have hmaint : t.maint = ((s.modHearth h fun x => x.tested pass unit).shutHearth h).maint := by rw [hlogs.frame]
  refine ⟨?_, ?_, hothers⟩
  · rw [hmaint, State.shutHearth_frame]
    rfl
  · rw [hlogs.rings, State.shutHearth_frame]
    rfl

theorem State.bistDone_mantel (s : State) (h : Nat) (pass : Bool) (unit : W8) : (s.bistDone h pass unit).mantel = s.mantel := by
  rw [(s.bistDone_logs h pass unit).mantel, State.shutHearth_frame]
  rfl

theorem State.activityEffect_acts (s : State) (a h : Nat) (pass : Bool) (unit : W8) : ActsOnHearth s (s.activityEffect a h pass unit) h := by
  rw [State.activityEffect]
  split
  · exact s.modHearth_acts ..
  split
  · exact s.modHearth_acts ..
  split
  · exact s.bistDone_acts h pass unit
  split
  · exact s.modHearth_acts ..
  split
  · exact ⟨rfl, rfl, fun k hk => (State.hearth_setHearth ..).trans (if_neg hk)⟩
  · exact ⟨rfl, rfl, fun _ _ => rfl⟩

theorem State.activityEffect_mantel (s : State) {a : Nat} (h : Nat) (ha : a ≠ 6) (pass : Bool) (unit : W8) :
    (s.activityEffect a h pass unit).mantel = s.mantel := by
  rw [State.activityEffect]
  split
  · rfl
  split
  · rfl
  split
  · exact s.bistDone_mantel h pass unit
  split
  · rfl
  · rfl

theorem exec_maintActivityDone {s : State} {a : BitVec 3} {h : BitVec 6} (hruns : (a.toNat, h.toNat) ∈ s.maint.running)
    (hmaint : Maintainable s a.toNat) (hactive : a = 4#3 → (s.hearth h.toNat).power = .active) (pass : Bool) (unit : W8) :
    exec (.maintActivityDone a h pass unit) s = .next ((s.activityEffect a.toNat h.toNat pass unit).maintEnd (a.toNat, h.toNat)) := by
  have hmaintains : s.maintains (a.toNat, h.toNat) = true := State.maintains_iff.2 hmaint
  have hbist : (a.toNat != 4 || decide ((s.hearth h.toNat).power = .active)) = true := by
    by_cases h4 : a = 4#3
    · simp [hactive h4]
    · simp [show a.toNat ≠ 4 from fun h => h4 (BitVec.eq_of_toNat_eq h)]
  have hexec : exec (.maintActivityDone a h pass unit) s = execMaintActivityDone a h pass unit s := rfl
  rw [hexec, execMaintActivityDone]
  dsimp only
  rw [hmaintains, List.contains_iff_mem.2 hruns, hbist, if_pos (by decide)]
  rfl

theorem exec_maintActivityDone_of_not {s : State} {a : BitVec 3} {h : BitVec 6}
    (hnot : ¬((a.toNat, h.toNat) ∈ s.maint.running ∧ Maintainable s a.toNat ∧ (a = 4#3 → (s.hearth h.toNat).power = .active)))
    (pass : Bool) (unit : W8) : exec (.maintActivityDone a h pass unit) s = .next s := by
  have hexec : exec (.maintActivityDone a h pass unit) s = execMaintActivityDone a h pass unit s := rfl
  rw [hexec, execMaintActivityDone]
  refine if_neg fun hall => hnot ?_
  simp only [Bool.and_eq_true, List.contains_iff_mem, Bool.or_eq_true, bne_iff_ne, decide_eq_true_eq] at hall
  obtain ⟨⟨hruns, hmaint⟩, hactive⟩ := hall
  exact ⟨hruns, State.maintains_iff.1 hmaint, fun h4 => hactive.resolve_left fun hne => hne (by rw [h4]; rfl)⟩

theorem activitiesEndWithTheirResults : ActivitiesEndWithTheirResults := by
  intro s a h pass unit
  refine ⟨fun hnot => exec_maintActivityDone_of_not hnot pass unit, fun ⟨hruns, hmaint, hactive⟩ => ?_⟩
  have hacts := s.activityEffect_acts a.toNat h.toNat pass unit
  have hmantel (h6 : a ≠ 6#3) := s.activityEffect_mantel h.toNat (a := a.toNat) (fun h => h6 (BitVec.eq_of_toNat_eq h)) pass unit
  rw [exec_maintActivityDone hruns hmaint hactive]
  have hends := (s.activityEffect a.toNat h.toNat pass unit).maintEnd_endsPositions (a.toNat, h.toNat)
  have hfinishes (w : W32 × Nat × Nat) (hw : w ∈ s.maint.waiting) (hx : w.2 = (a.toNat, h.toNat)) :=
    State.maintEnd_finishes (s.activityEffect a.toNat h.toNat pass unit) (a.toNat, h.toNat) (w := w) (by rw [hacts.maint]; exact hw) hx
  generalize State.maintEnd _ _ = t at *
  have hhearth (k : Nat) : t.hearth k = (s.activityEffect a.toNat h.toNat pass unit).hearth k := hends.hearth k
  refine ⟨t, rfl, ?_, hfinishes, fun n hn => ?_, fun k hk => (hhearth k).trans (hacts.others k hk), fun h6 => ?_, fun h1 => ?_, fun h2 => ?_,
    fun h4 => ?_, fun h5 => ?_, fun h6 b => ?_⟩
  · rw [hends.only, hacts.maint]
    rfl
  · rw [hends.others n hn]
    exact (congrArg (Tab.at Ring.reset · n) hacts.rings :)
  · rw [hends.only]
    exact hmantel h6
  · rw [hhearth, h1, show s.activityEffect (1#3).toNat h.toNat pass unit = s.modHearth h.toNat _ from if_pos rfl, State.modHearth,
      State.hearth_setHearth_self]
    exact ⟨rfl, rfl, rfl⟩
  · rw [hhearth, h2]
    exact State.hearth_setHearth_self ..
  · rw [hhearth, h4]
    have hself := (s.bistDone_hearth h.toNat h.toNat pass unit).trans (if_pos rfl)
    exact ⟨congrArg Hearth.bistResult hself, congrArg Hearth.bistUnit hself, congrArg Hearth.bistRuns hself, congrArg Hearth.bistFails hself,
      congrArg Hearth.power hself, congrArg Hearth.offline hself⟩
  · rw [hhearth, h5]
    exact ⟨congrArg Hearth.store (State.hearth_setHearth_self ..), congrArg Hearth.acc (State.hearth_setHearth_self ..)⟩
  · rw [hends.only, h6]
    refine (s.mantel.byte_zero (bankBytes * h.toNat) bankBytes b).trans (if_congr ?_ rfl rfl)
    rw [bankBytes]
    omega

/-- Settles O35. -/
theorem maintenanceStepsAndEnds : Obligations.MaintenanceStepsAndEnds := ⟨scrubStepsCountWhatTheyFind, activitiesEndWithTheirResults⟩

end Sys2Proof.Machine
end

section
/-! SUPPORT. Completion records: what the writing of one changes, and the end of WAIT (R255 to R258, R310, R312). -/

namespace Sys2Proof.Machine

/-! ### Positions that end with a status -/

/-- An issued position whose work ends with a status. -/
def Entry.failedWith (e : Entry) (status detail : Nat) : Entry :=
  { e with status := BitVec.ofNat 8 status, detail := BitVec.ofNat 16 detail }.finished

theorem State.entry_finishWith {s : State} {n : Nat} {pos : W32} {e : Entry} (he : s.entry n pos = some e) (hok : e.status = 0#8) (status detail : Nat) :
    (s.finishWith n pos status detail).entry n pos = some (e.failedWith status detail) := by
  have hfail : (s.fail n pos status detail).entry n pos = some { e with status := BitVec.ofNat 8 status, detail := BitVec.ofNat 16 detail } :=
    (State.entry_modEntry_of_entry he (fun e h => by split <;> exact h)).trans (congrArg some (if_pos hok))
  exact State.entry_finish hfail

theorem State.finishWith_only (s : State) (n : Nat) (pos : W32) (status detail : Nat) :
    s.finishWith n pos status detail = { s with rings := (s.finishWith n pos status detail).rings } := rfl

theorem State.ring_finishWith_ne (s : State) {n m : Nat} (pos : W32) (status detail : Nat) (h : m ≠ n) :
    (s.finishWith n pos status detail).ring m = s.ring m :=
  ((State.ring_modEntry_ne _ pos _ h).trans (s.ring_modEntry_ne pos _ h) :)

/-! ### What the writing of a record leaves -/

theorem State.recordFailed_takes (s : State) (n : Nat) (pos : W32) (port : Nat) : TakesInputs s (s.recordFailed n pos port) := by
  rw [State.recordFailed]
  split
  dsimp only
  split
  · exact ((State.logError_takes ..).trans (State.ringFault_takes ..)).trans (State.setRing_takes ..)
  · exact (State.logError_takes ..).trans (State.ringFault_takes ..)

theorem State.sendRecord_takes (s : State) (n : Nat) (e : Entry) : TakesInputs s (s.sendRecord n e) := by
  rw [State.sendRecord]
  split
  · exact s.recordFailed_takes ..
  split
  · exact ((State.request_takes ..).trans (State.request_takes ..)).trans (State.message_takes ..)
  · exact (State.request_takes ..).trans (State.request_takes ..)

theorem State.errStop_takes (s : State) (n : Nat) (e : Entry) : TakesInputs s (s.errStop n e) := by
  rw [State.errStop]
  split
  · exact (s.setRing_takes ..).trans (State.event_takes ..)
  · exact .refl s

theorem State.writeRecord_takes (s : State) (n : Nat) (e : Entry) : TakesInputs s (s.writeRecord n e) :=
  (((s.setRing_takes ..).trans (State.setRing_takes ..)).trans (State.sendRecord_takes ..)).trans (State.errStop_takes ..)

theorem State.completionRecord_takes (s : State) (n : Nat) (pos : W32) : TakesInputs s (s.completionRecord n pos) := by
  rw [State.completionRecord]
  split
  · split
    · exact s.writeRecord_takes ..
    · exact .refl s
  · exact .refl s

/-! ### The position of a record -/

/-- The position as its record leaves it. -/
def Entry.recordedAs (e : Entry) : Entry := { e.final with stage := .recorded, holds := Uses.none, work := [] }

/-- SEALED of a contributor, and the E_SEAL of a refused keyed service where nothing else arose (R279, R343). -/
theorem Entry.final_eq (e : Entry) : e.final = { e with
    flags := if e.sealed then e.flags ||| BitVec.ofNat 16 fSealed else e.flags,
    status := if e.status = 0#8 ∧ e.sealRefusal ≠ 0#16 then 0x0E#8 else e.status,
    detail := if e.status = 0#8 ∧ e.sealRefusal ≠ 0#16 then e.sealRefusal else e.detail } := by
  have hflags : (if e.sealed then { e with flags := e.flags ||| BitVec.ofNat 16 fSealed } else e) =
      { e with flags := if e.sealed then e.flags ||| BitVec.ofNat 16 fSealed else e.flags } := by
    split <;> rfl
  unfold Entry.final
  dsimp only
  rw [hflags]
  by_cases hrefused : e.status = 0#8 ∧ e.sealRefusal ≠ 0#16
  · rw [if_pos hrefused, if_pos hrefused, if_pos hrefused]
    rfl
  · rw [if_neg hrefused, if_neg hrefused, if_neg hrefused]

theorem Entry.final_pos (e : Entry) : e.final.pos = e.pos := by rw [e.final_eq]

/-- The state in which the writes of a record leave. -/
def State.recording (s : State) (n : Nat) (e : Entry) : State :=
  (s.modEntry n e.pos fun _ => e.recordedAs).modRing n fun r => r.noteRecord e.final

theorem State.writeRecord_eq (s : State) (n : Nat) (e : Entry) : s.writeRecord n e = ((s.recording n e).sendRecord n e.final).errStop n e.final := by
  have hpos := e.final_pos
  rw [State.writeRecord, State.recording, ← hpos]
  rfl

theorem State.entry_recording {s : State} {n : Nat} {pos : W32} {e : Entry} (he : s.entry n pos = some e) :
    (s.recording n e).entry n pos = some e.recordedAs := by
  have hpos := State.entry_pos he
  have hentry : (s.modEntry n e.pos fun _ => e.recordedAs).entry n pos = some e.recordedAs := by
    rw [hpos]
    exact State.entry_modEntry_of_entry he fun _ _ => e.final_pos.trans hpos
  rw [← hentry, State.recording, State.entry, State.ring_modRing_self]
  rfl

theorem State.sendRecord_raises {s : State} {n : Nat} {e : Entry} (hslot : (s.ring n).cqSlot e.pos < 2 ^ 52) : Raises s (s.sendRecord n e) := by
  rw [State.sendRecord]
  rw [if_neg (by omega)]
  split
  · exact ((State.request_raises ..).trans (State.request_raises ..)).trans (State.message_raises ..)
  · exact (State.request_raises ..).trans (State.request_raises ..)

theorem State.errStop_of_ok {s : State} {n : Nat} {e : Entry} (h : e.status = 0#8 ∨ (s.ring n).errStop = false) : s.errStop n e = s := by
  rw [State.errStop]
  exact if_neg (by rcases h with h | h <;> simp [h])

/-! ### WAIT -/

theorem exec_wait {s : State} {n : BitVec 7} {pos : W32} {e : Entry} (he : s.running n.toNat pos 0x50 = some e) :
    exec (.wait n pos) s =
      if s.pwr.mode = 0#2 then .next (s.finish n.toNat pos)
      else if s.behind n.toNat e then .next s
      else if s.refuser pos ≠ 0 then .next (s.refuse n.toNat pos (s.refuser pos) (s.refuser pos) 0x50)
      else .next ((s.commitEntry.finish n.toNat pos).completionRecord n.toNat pos) := by
  have hexec : exec (.wait n pos) s = execWait n pos s := rfl
  rw [hexec, execWait]
  dsimp only
  rw [he]

/-- The refusal of an entry, as the power registers count and name it. -/
def Power.refused (p : Power) (code detail opcode : Nat) : Power :=
  { p with
    refuseCount := Tab.put 0#32 p.refuseCount code (satInc (Tab.at 0#32 p.refuseCount code)),
    refuserCode := BitVec.ofNat 8 code, refuserDetail := BitVec.ofNat 16 detail, refuserOpcode := BitVec.ofNat 8 opcode }

theorem Power.refused_count (p : Power) (code detail opcode k : Nat) : Tab.at 0#32 (p.refused code detail opcode).refuseCount k =
    if k = code then satInc (Tab.at 0#32 p.refuseCount k) else Tab.at 0#32 p.refuseCount k := by
  rw [Power.refused]
  refine (Tab.at_put ..).trans ?_
  split
  · next h => rw [h]
  · rfl

/-- A refused entry is reported by an event, and its position ends with E_REFUSED (R312). -/
theorem State.refuse_reports {s : State} {n : Nat} {pos : W32} {e : Entry} (hentry : s.entry n pos = some e) (hok : e.status = 0#8)
    (code detail opcode : Nat) :
    (s.refuse n pos code detail opcode).entry n pos = some (e.failedWith stRefused detail) ∧
      (s.refuse n pos code detail opcode).pwr = s.pwr.refused code detail opcode ∧
      (s.refuse n pos code detail opcode).blk.blkEvent.getLsbD 5 = true ∧ (s.refuse n pos code detail opcode).mantel = s.mantel ∧
      (s.refuse n pos code detail opcode).hearths = s.hearths := by
  have hraises := State.event_raises { s with pwr := s.pwr.refused code detail opcode } .pwrRefused code detail
  have hflag := State.event_blkEvent { s with pwr := s.pwr.refused code detail opcode } .pwrRefused code detail
  have hrefuse : s.refuse n pos code detail opcode =
    (State.event { s with pwr := s.pwr.refused code detail opcode } .pwrRefused code detail).finishWith n pos stRefused detail := rfl
  rw [hrefuse]
  generalize State.event _ _ _ _ = u at *
  refine ⟨State.entry_finishWith (by rw [State.entry, hraises.ring]; exact hentry) hok _ _, ?_, hflag, hraises.mantel, hraises.hearths⟩
  rw [hraises.frame]
  rfl

/-- The record of a position that ended with OK. -/
theorem State.completionRecord_of_ok {s : State} {n : Nat} {pos : W32} {e : Entry} (hentry : s.entry n pos = some e) (hstage : e.stage = .finished)
    (hstopped : s.err.stopped = false) (houtstanding : s.outstanding n pos = false) (hslot : (s.ring n).cqSlot pos < 2 ^ 52)
    (hok : e.status = 0#8) (hseal : e.sealRefusal = 0#16) :
    (s.completionRecord n pos).entry n pos = some e.recordedAs ∧ e.recordedAs.status = 0#8 := by
  have hpos := State.entry_pos hentry
  have hfinal : e.final.status = 0#8 := by
    rw [e.final_eq]
    simp [hok, hseal]
  have hwrite : s.completionRecord n pos = s.writeRecord n e := by
    rw [State.completionRecord, hentry]
    exact if_pos ⟨hstage, houtstanding, hstopped⟩
  have hraises : Raises (s.recording n e) ((s.recording n e).sendRecord n e.final) := by
    refine State.sendRecord_raises ?_
    rw [e.final_pos, hpos, State.recording, State.ring_modRing_self, State.ring_modEntry_self]
    exact hslot
  rw [hwrite, s.writeRecord_eq, State.errStop_of_ok (.inl hfinal), State.entry, hraises.ring]
  exact ⟨State.entry_recording hentry, hfinal⟩

/-- Settles O43. -/
theorem waitRefusesOrCommits : Obligations.WaitRefusesOrCommits := by
  intro s n pos e he
  obtain ⟨hentry, hstage, hop, hrunning⟩ := State.running_iff.1 he
  rw [exec_wait he]
  refine ⟨fun hmode => ?_, fun hmode hbehind => ?_, fun hmode hfirst => ⟨fun hrefuser hok => ?_, fun hrefuser => ?_⟩⟩
  · obtain rfl := State.entry_pos hentry
    exact endsWork_of_finish hentry ((exec_wait he).trans (if_pos hmode))
  · rw [if_neg hmode, if_pos (State.behind_eq_true.2 hbehind)]
  · rw [if_neg hmode, if_neg (by simp [State.behind_eq_false.2 hfirst]), if_pos hrefuser]
    obtain ⟨hself, hpwr, hflag, hmantel, hhearths⟩ := State.refuse_reports hentry hok (s.refuser pos) (s.refuser pos) 0x50
    refine ⟨_, _, rfl, ?_, hself, rfl, rfl, rfl, ?_, ?_, fun c => ?_, hflag, hmantel, hhearths⟩
    · rw [hpwr]
      rfl
    · rw [hpwr]
      rfl
    · rw [hpwr]
      rfl
    · rw [hpwr]
      exact Power.refused_count ..
  · rw [if_neg hmode, if_neg (by simp [State.behind_eq_false.2 hfirst]), if_neg (not_not_intro hrefuser)]
    have htakes := (s.commitEntry.finish n.toNat pos).completionRecord_takes n.toNat pos
    refine ⟨_, rfl, ?_, ?_, ?_, ?_, ?_, fun houtstanding hslot hok hseal => ?_⟩
    · rw [htakes.only]
      rfl
    · rw [htakes.only]
      rfl
    · rw [htakes.only]
      rfl
    · rw [htakes.only]
      rfl
    · rw [htakes.only]
      rfl
    · have hfinished : (s.commitEntry.finish n.toNat pos).entry n.toNat pos = some e.finished :=
        State.entry_finish (s := s.commitEntry) hentry
      obtain ⟨hself, hstatus⟩ := State.completionRecord_of_ok hfinished rfl hrunning houtstanding
        (by rw [State.finish, State.ring_modEntry_self]; exact hslot) hok hseal
      exact ⟨_, hself, rfl, hstatus⟩

end Sys2Proof.Machine
end

section
/-! SUPPORT. Completion records in their slots: Table 12-9, the PHASE word, and the ring that a failure stops (R255 to R262). -/

namespace Sys2Proof.Machine

/-! ### Two writes in a row -/

/-- Two writes in a row leave a port that is awake and idle at once, in their order. -/
theorem State.request_request_host {s : State} {p : Nat} {q r : Request} (hawake : s.portAwake p = true) (hwaiting : (s.port p).waiting = [])
    (hinflight : (s.port p).inflight = []) (hcredits : 4 ≤ (s.port p).wrCredits.toNat) (hq : q.write = true ∧ q.bytes ≠ [])
    (hr : r.write = true ∧ r.bytes ≠ []) (hqplain : ∀ o i w, q.purpose ≠ .atomic o i w) (hrplain : ∀ o i w, r.purpose ≠ .atomic o i w) :
    ((s.request p q).request p r).host = (s.host.store q.addr q.bytes).store r.addr r.bytes := by
  obtain ⟨hup, hhalted⟩ := State.portAwake_iff.1 hawake
  obtain ⟨first, hfirst⟩ := Port.credit_isSome (x := s.port p) (write := q.write) (k := 0) (by simp [hinflight]) (by decide)
    (by rw [if_pos hq.1]; omega) q.cls
  have hsends := s.request_sends p q
  have hsent := State.request_of_free hup (.inl hhalted) hwaiting hfirst
  have hport : ((s.request p q).port p).waiting = [] ∧ ((s.request p q).port p).inflight.length ≤ 1 ∧
      ((s.request p q).port p).wrCredits = (s.port p).wrCredits := by
    rw [hsent, State.port, State.performRequest_ports, ← State.port, State.port_setPort_self]
    exact ⟨hwaiting, by simp [hinflight], rfl⟩
  have hhost : (s.request p q).host = s.host.store q.addr q.bytes := by
    rw [hsent, State.performRequest_host hq.1 hqplain hq.2]
    rfl
  rw [← hhost]
  clear hhost
  generalize s.request p q = t at *
  have hup' : t.portUp p = true := by
    rw [hsends]
    exact hup
  have hhalted' : t.vault.halted = false := by rw [hsends.vault, hhalted]
  obtain ⟨second, hsecond⟩ := Port.credit_isSome (x := t.port p) (write := r.write) hport.2.1 le_rfl
    (by rw [if_pos hr.1, hport.2.2]; omega) r.cls
  rw [State.request_of_free hup' (.inl hhalted') hport.1 hsecond, State.performRequest_host hr.1 hrplain hr.2]
  rfl

/-! ### What becomes of a position before its record -/

/-- An entry that holds nothing leaves nothing behind when it fails. -/
theorem State.abandon_of_holdsNothing (s : State) {e : Entry}
    (h : e.failed = false ∨ (e.outs = [] ∧ e.uses = Uses.none ∧ descOpcode e.desc ≠ 0x01)) : s.abandon e = s := by
  rw [State.abandon]
  rcases h with h | ⟨houts, huses, hop⟩
  · rw [if_neg (by simp [h])]
  · split
    · dsimp only
      rw [if_neg (fun h => hop h.1), houts, List.foldl_nil, State.leaveSlots, huses]
      rfl
    · rfl

theorem State.releaseAtRecord_of_local (s : State) {e : Entry} (h : descOpcode e.desc ∉ [0x21, 0x22]) : s.releaseAtRecord e = s := by
  rw [State.releaseAtRecord]
  exact if_neg (by simpa using h)

/-- The end marks of a position leave the ports, and nothing else does. -/
theorem State.port_dropMarks {s : State} (hwf : Tab.wf Port.reset s.ports = true) (n p : Nat) (pos : W32) :
    (s.dropMarks n pos).port p = { s.port p with marks := (s.port p).marks.filter fun m => !(m.1 == n && m.2.1 == pos) } :=
  Tab.at_remap (f := fun p : Port => { p with marks := p.marks.filter fun m => !(m.1 == n && m.2.1 == pos) }) rfl hwf p

/-- A position of which nothing is under way has nothing under way once marks are dropped. -/
theorem State.outstanding_dropMarks {s : State} {n m : Nat} {pos dropped : W32} (h : s.outstanding n pos = false) :
    (s.dropMarks m dropped).outstanding n pos = false := by
  rw [State.outstanding, List.any_eq_false] at h ⊢
  intro x hx
  obtain ⟨y, hy, rfl⟩ := List.mem_map.1 (List.mem_filter.1 hx).1
  exact h y hy

theorem exec_completionRecordWrite {s : State} {n : BitVec 7} {pos : W32} {e : Entry} (he : s.entry n.toNat pos = some e)
    (hstage : e.stage = .finished) (houtstanding : s.outstanding n.toNat pos = false) (hstopped : s.err.stopped = false)
    (hholds : e.failed = false ∨ (e.outs = [] ∧ e.uses = Uses.none ∧ descOpcode e.desc ≠ 0x01)) (hop : descOpcode e.desc ∉ [0x21, 0x22]) :
    exec (.completionRecordWrite n pos) s = .next ((s.dropMarks n.toNat pos).writeRecord n.toNat e) := by
  have hexec : exec (.completionRecordWrite n pos) s = execCompletionRecordWrite n pos s := rfl
  have hentry : (s.dropMarks n.toNat pos).entry n.toNat pos = some e := he
  have hdropped := State.outstanding_dropMarks (m := n.toNat) (dropped := pos) houtstanding
  rw [hexec, execCompletionRecordWrite, he]
  dsimp only
  rw [if_pos ⟨hstage, houtstanding, hstopped⟩, s.abandon_of_holdsNothing hholds, State.releaseAtRecord_of_local _ hop, State.completionRecord, hentry]
  exact congrArg Host.Outcome.next (if_pos ⟨hstage, hdropped, hstopped⟩)

/-! ### The record -/

theorem State.ring_recording_self (s : State) (n : Nat) (e : Entry) : (s.recording n e).ring n =
    ({ s.ring n with entries := ((s.recording n e).ring n).entries } : Ring).noteRecord e.final := by
  rw [State.recording, State.ring_modRing_self, State.ring_modEntry_self]
  rfl

theorem State.ring_recording_ne (s : State) {n m : Nat} (e : Entry) (h : m ≠ n) : (s.recording n e).ring m = s.ring m :=
  (State.ring_modRing_ne _ _ h).trans (State.ring_modEntry_ne _ _ _ h)

theorem State.recording_only (s : State) (n : Nat) (e : Entry) : s.recording n e = { s with rings := (s.recording n e).rings } := rfl

/-- The writes of a record whose port is awake and idle, and which sends no message. -/
theorem State.sendRecord_of_free {s : State} {n : Nat} {e : Entry} (hslot : (s.ring n).cqSlot e.pos < 2 ^ 52)
    (hquiet : (descIrq e.desc || ((s.ring n).irqErr && decide (e.status ≠ 0#8))) = false) (hawake : s.portAwake 0 = true)
    (hwaiting : (s.port 0).waiting = []) (hinflight : (s.port 0).inflight = []) (hcredits : 4 ≤ (s.port 0).wrCredits.toNat) :
    Sends s (s.sendRecord n e) ∧ (s.sendRecord n e).host =
      (s.host.store ((s.ring n).cqSlot e.pos) (recordBody (s.ring n) e s.audit.count)).store ((s.ring n).cqSlot e.pos + 28)
        (leBytes 4 (phaseOf (s.ring n).log2Size.toNat e.pos.toNat)) := by
  rw [State.sendRecord, if_neg (by omega)]
  dsimp only
  rw [if_neg (by rw [hquiet]; decide)]
  refine ⟨(State.request_sends ..).trans (State.request_sends ..), ?_⟩
  exact State.request_request_host hawake hwaiting hinflight hcredits ⟨rfl, List.cons_ne_nil _ _⟩ ⟨rfl, List.cons_ne_nil _ _⟩
    (by intros; nofun) (by intros; nofun)

theorem leBytes_one (v : W8) : leBytes 1 v.toNat = [v] := by
  simp [leBytes]

/-- Table 12-9 as one list of bytes. -/
theorem recordBody_eq (r : Ring) (e : Entry) (count : W64) : recordBody r e count =
    leBytes 4 (descSeq e.desc) ++ [e.status, BitVec.ofNat 8 (descOpcode e.desc)] ++ leBytes 2 e.detail.toNat ++ leBytes 4 e.flags.toNat ++
      leBytes 4 e.pos.toNat ++ leBytes 8 count.toNat ++ leBytes 4 (r.duration e.pos count) := by
  have hopcode : leBytes 1 (descOpcode e.desc) = [BitVec.ofNat 8 (descOpcode e.desc)] := by simp [leBytes]
  rw [recordBody, leBytes_one, hopcode]
  simp only [List.append_assoc, List.cons_append, List.nil_append]

theorem recordsAreWritten : RecordsAreWritten := by
  intro s n pos e he
  refine ⟨fun hwaits => ?_, fun hstage houtstanding hstopped hholds hop hwf hawake hwaiting hinflight hcredits hslot => ?_⟩
  · have hexec : exec (.completionRecordWrite n pos) s = execCompletionRecordWrite n pos s := rfl
    rw [hexec, execCompletionRecordWrite, he]
    refine if_neg fun h => ?_
    obtain ⟨hstage, houtstanding, hstopped⟩ := h
    rcases hwaits with h | h | h
    · exact h hstage
    · rw [houtstanding] at h
      exact Bool.noConfusion h
    · rw [hstopped] at h
      exact Bool.noConfusion h
  · intro r refused status detail flags a body phase hirq hquiet
    have hpos := State.entry_pos he
    have hfinal : e.final = { e with flags := flags, status := status, detail := detail } := e.final_eq
    have hport := State.port_dropMarks hwf n.toNat 0 pos
    have hentry : (s.dropMarks n.toNat pos).entry n.toNat pos = some e := he
    have hwrite := (s.dropMarks n.toNat pos).writeRecord_eq n.toNat e
    have hself := State.entry_recording hentry
    have hring := (s.dropMarks n.toNat pos).ring_recording_self n.toNat e
    have hothers := fun m (hm : m ≠ n.toNat) => (s.dropMarks n.toNat pos).ring_recording_ne e hm
    have honly := (s.dropMarks n.toNat pos).recording_only n.toNat e
    rw [exec_completionRecordWrite he hstage houtstanding hstopped hholds hop, hwrite]
    clear hwrite
    have hawake' : (s.dropMarks n.toNat pos).portAwake 0 = true := hawake
    have hring' : ∀ m, (s.dropMarks n.toNat pos).ring m = s.ring m := fun _ => rfl
    have hdropped : s.dropMarks n.toNat pos = { s with ports := (s.dropMarks n.toNat pos).ports } := rfl
    generalize s.dropMarks n.toNat pos = d at *
    generalize d.recording n.toNat e = u at *
    have hportU (p : Nat) : u.port p = d.port p := by rw [honly]; rfl
    have hsession : (u.ring n.toNat).session = if e.sealed then r.session.map (fun v => v.note e.final) else r.session := by
      rw [hring, Ring.noteRecord, hfinal, hring']
    have hringU : u.ring n.toNat = { r with
        entries := (u.ring n.toNat).entries, session := (u.ring n.toNat).session,
        lastPos := if status ≠ 0#8 then pos else r.lastPos, lastStatus := if status ≠ 0#8 then status else r.lastStatus,
        lastDetail := if status ≠ 0#8 then detail else r.lastDetail } := by
      rw [hsession]
      refine hring.trans ?_
      rw [Ring.noteRecord, hfinal, hring', ← hpos]
    have hslotU : (u.ring n.toNat).cqSlot e.final.pos = a := by
      rw [hringU, e.final_pos, hpos]
      rfl
    have hquietU : (descIrq e.final.desc || ((u.ring n.toNat).irqErr && decide (e.final.status ≠ 0#8))) = false := by
      rw [hringU, hfinal]
      rcases hquiet with h | ⟨h, -⟩ <;> simp [hirq, h, r] 
    obtain ⟨hsends, hhost⟩ := State.sendRecord_of_free (s := u) (n := n.toNat) (e := e.final) (by rw [hslotU]; exact hslot) hquietU
      (by rw [honly]; exact hawake') (by rw [hportU, hport]; exact hwaiting) (by rw [hportU, hport]; exact hinflight)
      (by rw [hportU, hport]; exact hcredits)
    have herrStop : (u.sendRecord n.toNat e.final).errStop n.toNat e.final = u.sendRecord n.toNat e.final := by
      refine State.errStop_of_ok ?_
      rw [hsends.ring, hringU, hfinal]
      exact hquiet.imp id And.right
    rw [herrStop]
    refine ⟨_, rfl, ?_, ?_, fun m hm => ?_, ?_, fun hunsealed => ?_, ?_⟩
    · rw [hhost, hslotU, hringU, honly, hdropped, hfinal]
      rw [recordBody_eq, hpos]
      rfl
    · rw [hsends.entry, hself, Entry.recordedAs, hfinal]
    · rw [hsends.ring, hothers m hm, hring']
    · rw [hsends.ring]
      exact hringU
    · rw [hsends.ring, hsession, if_neg (by simp [hunsealed])]
    · rw [hsends.rings]
      refine Eq.trans hsends ?_
      rw [honly, hdropped]

theorem failuresStopTheRing : FailuresStopTheRing := by
  intro s n pos e he hstage houtstanding hstopped hstatus ⟨houts, huses⟩ hop hslot herrStop hrun
  have hpos := State.entry_pos he
  have hop1 : descOpcode e.desc ≠ 0x01 := fun h => hop (by simp [h])
  have hexec := exec_completionRecordWrite he hstage houtstanding hstopped (.inr ⟨houts, huses, hop1⟩)
    fun h => hop (List.mem_cons_of_mem _ h)
  have hring := (s.dropMarks n.toNat pos).ring_recording_self n.toNat e
  have hothers := fun m (hm : m ≠ n.toNat) => (s.dropMarks n.toNat pos).ring_recording_ne e hm
  have honly := (s.dropMarks n.toNat pos).recording_only n.toNat e
  have hring' : ∀ m, (s.dropMarks n.toNat pos).ring m = s.ring m := fun _ => rfl
  have hunits : (s.dropMarks n.toNat pos).mantel = s.mantel ∧ (s.dropMarks n.toNat pos).hearths = s.hearths := ⟨rfl, rfl⟩
  rw [State.writeRecord_eq] at hexec
  generalize s.dropMarks n.toNat pos = d at *
  generalize d.recording n.toNat e = u at *
  have hfinal : e.final.status = e.status ∧ e.final.detail = e.detail ∧ e.final.pos = pos := by
    rw [e.final_eq]
    simp [hstatus, hpos]
  obtain ⟨hfinalStatus, hfinalDetail, hfinalPos⟩ := hfinal
  have hraises : Raises u (u.sendRecord n.toNat e.final) := by
    refine State.sendRecord_raises ?_
    rw [hring, hring', hfinalPos]
    exact hslot
  have hstops : (u.sendRecord n.toNat e.final).errStop n.toNat e.final =
      ((u.sendRecord n.toNat e.final).setRing n.toNat { u.ring n.toNat with state := .stopped }).event .ringStopped n.toNat
        (u.ring n.toNat).cause.toNat := by
    rw [State.errStop, hraises.ring]
    refine if_pos ?_
    rw [hfinalStatus, hring, hring']
    simp [Ring.noteRecord, herrStop, hstatus, hrun]
  rw [hexec, hstops]
  have hevent := ((u.sendRecord n.toNat e.final).setRing n.toNat { u.ring n.toNat with state := .stopped }).event_raises .ringStopped n.toNat
    (u.ring n.toNat).cause.toNat
  have hflag := ((u.sendRecord n.toNat e.final).setRing n.toNat { u.ring n.toNat with state := .stopped }).event_blkEvent .ringStopped n.toNat
    (u.ring n.toNat).cause.toNat
  refine ⟨_, rfl, ?_, hflag, ?_, ?_, ?_, fun m hm => ?_, ?_, ?_⟩
  · rw [hevent.ring, State.ring_setRing_self]
  · rw [hevent.ring, State.ring_setRing_self, hring]
    simp [Ring.noteRecord, hfinalStatus, hstatus, hfinalPos]
  · rw [hevent.ring, State.ring_setRing_self, hring]
    simp [Ring.noteRecord, hfinalStatus, hstatus]
  · rw [hevent.ring, State.ring_setRing_self, hring]
    simp [Ring.noteRecord, hfinalStatus, hstatus, hfinalDetail]
  · rw [hevent.ring, State.ring_setRing, if_neg hm, hraises.ring, hothers m hm, hring']
  · rw [hevent.mantel]
    refine hraises.mantel.trans (Eq.trans ?_ hunits.1)
    rw [honly]
  · rw [hevent.hearths]
    refine hraises.hearths.trans (Eq.trans ?_ hunits.2)
    rw [honly]

/-- Settles O40. -/
theorem recordsFollowTable12_9 : Obligations.RecordsFollowTable12_9 :=
  ⟨recordsAreWritten, failuresStopTheRing⟩

end Sys2Proof.Machine
end

section
/-! SUPPORT. SEAL_CLOSE: the record of a session, and the session's end (R281, R343). -/

namespace Sys2Proof.Machine

/-! ### The record -/

/-- The seal record has 128 bytes. -/
theorem State.sealRecord_length (s : State) (n : Nat) (v : Session) : (s.sealRecord n v).length = 128 := by
  have hdigest (pre role : Nat) (middle : List W8) : (v.digest pre role middle).length = 48 := sha384_length _
  have hmac (key msg : List W8) : (hmac384 key msg).length = 48 := sha384_length _
  rw [State.sealRecord]
  simp [Session.digests, hdigest, hmac, leBytes_length, sha384_length]

/-! ### The ring whose session ends -/

/-- The session of ring `n` has ended for the position's record, with nothing else of any ring changed but the ring's positions. -/
structure State.SessionEnds (s t : State) (n : Nat) (pos : W32) (e f : Entry) : Prop where
  entry : t.entry n pos = some f
  status : f.status = e.status
  sealed : f.sealed = true
  ring : t.ring n = { s.ring n with session := none, entries := (t.ring n).entries }
  others : ∀ m, m ≠ n → t.ring m = s.ring m

section

variable {s t u : State} {n : Nat} {pos : W32} {e f : Entry}

theorem State.SessionEnds.of_rings (h : s.SessionEnds t n pos e f) (hrings : u.rings = t.rings) : s.SessionEnds u n pos e f := by
  have hring (m : Nat) : u.ring m = t.ring m := by rw [State.ring, hrings, State.ring]
  refine ⟨?_, h.status, h.sealed, ?_, fun m hm => (hring m).trans (h.others m hm)⟩
  · rw [State.entry, hring]
    exact h.entry
  · rw [hring]
    exact h.ring

theorem State.SessionEnds.modEntry (h : s.SessionEnds t n pos e f) {g : Entry → Entry} (hpos : ∀ e, e.pos = pos → (g e).pos = pos)
    (hstatus : (g f).status = f.status) (hsealed : (g f).sealed = f.sealed) : s.SessionEnds (t.modEntry n pos g) n pos e (g f) := by
  refine ⟨State.entry_modEntry_of_entry h.entry hpos, hstatus.trans h.status, hsealed.trans h.sealed, ?_,
    fun m hm => (t.ring_modEntry_ne pos g hm).trans (h.others m hm)⟩
  rw [t.ring_modEntry_self, h.ring]

/-- The session ends and SEALED is due in the position's FLAGS. -/
theorem State.sessionEnds (he : s.entry n pos = some e) :
    s.SessionEnds ((s.modRing n fun r => { r with session := none }).modEntry n pos fun e => { e with sealed := true }) n pos e
      { e with sealed := true } := by
  have hentry : (s.modRing n fun r => { r with session := none }).entry n pos = some e := by
    rw [← he, State.entry, State.ring_modRing_self]
    rfl
  refine ⟨State.entry_modEntry_of_entry hentry (f := fun e => { e with sealed := true }) fun _ h => h, rfl, rfl, ?_, fun m hm => ?_⟩
  · rw [State.ring_modEntry_self, State.ring_modRing_self]
  · rw [State.ring_modEntry_ne _ _ _ hm, State.ring_modRing_ne _ _ hm]

end

/-! ### The writing of the record -/

/-- A write leaves a port that is awake and idle at once. -/
theorem State.request_host {s : State} {p : Nat} {r : Request} (hawake : s.portAwake p = true) (hwaiting : (s.port p).waiting = [])
    (hinflight : (s.port p).inflight = []) (hcredits : 3 ≤ (s.port p).wrCredits.toNat) (hr : r.write = true ∧ r.bytes ≠ [])
    (hplain : ∀ o i w, r.purpose ≠ .atomic o i w) : (s.request p r).host = s.host.store r.addr r.bytes := by
  obtain ⟨hup, hhalted⟩ := State.portAwake_iff.1 hawake
  obtain ⟨shared, hcredit⟩ := Port.credit_isSome (x := s.port p) (write := r.write) (k := 0) (by simp [hinflight]) (by decide)
    (by rw [if_pos hr.1]; omega) r.cls
  rw [State.request_of_free hup (.inl hhalted) hwaiting hcredit, State.performRequest_host hr.1 hplain hr.2]
  rfl

theorem State.noteOutput_only (s : State) (n : Nat) (pos : W32) (r : Range) :
    s.noteOutput n pos r = { s with rings := (s.noteOutput n pos r).rings } := by
  rw [State.noteOutput]
  split <;> rfl

theorem State.SessionEnds.noteOutput {s t : State} {n : Nat} {pos : W32} {e f : Entry} (h : s.SessionEnds t n pos e f) (r : Range) :
    ∃ g, s.SessionEnds (t.noteOutput n pos r) n pos e g := by
  rw [State.noteOutput]
  split
  · exact ⟨f, h⟩
  · exact ⟨_, h.modEntry (g := fun e => { e with outs := if e.outs.contains r then e.outs else e.outs ++ [r] }) (fun _ h => h) rfl rfl⟩

/-- A bank that is being wiped holds back what begins in it. -/
theorem State.stalls_of_wiping {s : State} {h a n : Nat} (hn : n ≠ 0) (hwiping : s.maint.running.contains (6, a / 2 ^ 28) = true) :
    s.stalls { space := 1, hearth := h, lo := a, len := n } = true := by
  have hbank : bankBytes * (a / bankBytes + 0) / bankBytes = a / 2 ^ 28 := by
    simp only [bankBytes]
    omega
  rw [State.stalls, Bool.and_eq_true, List.any_eq_true]
  refine ⟨by simp [hn], 0, List.mem_range.2 (by omega), ?_⟩
  rw [State.bankWiping, hbank]
  exact hwiping

theorem State.stalls_of_noneWiping {s : State} (h : ∀ b, s.maint.running.contains (6, b) = false) (r : Range) : s.stalls r = false := by
  rw [State.stalls, Bool.and_eq_false_imp]
  exact fun _ => List.any_eq_false.2 fun i _ => by rw [State.bankWiping, h]; decide

theorem State.stalls_of_space {s : State} {r : Range} (h : r.space ≠ 1) : s.stalls r = false := by
  simp [State.stalls, h]

theorem State.finish_only (s : State) (n : Nat) (pos : W32) : s.finish n pos = { s with rings := (s.finish n pos).rings } := rfl

/-- The place of the record of a SEAL_CLOSE. -/
def sealPlace (e : Entry) : Range := { space := fld e.desc.toNat 16 0 2, hearth := 0, lo := fld e.desc.toNat 24 0 64, len := 128 }

section

variable {s : State} {n : BitVec 7} {pos : W32} {e : Entry} (he : s.running n.toNat pos 0x42 = some e)

include he

theorem exec_sealClose : exec (.sealClose n pos) s = .next (s.sealClose n.toNat e) := by
  have hexec : exec (.sealClose n pos) s = execSealClose n pos s := rfl
  rw [hexec, execSealClose, he]

theorem sealCloses_of_first (hfirst : ∀ f ∈ (s.ring n.toNat).entries, e.order ≤ f.order) (hrefusal : s.sealRefusal n.toNat = 0)
    (hstalls : s.stalls (sealPlace e) = false) :
    ∃ u g, s.SessionEnds u n.toNat pos e g ∧ u = { s with rings := u.rings } ∧
      let bytes := s.sealRecord n.toNat ((s.ring n.toNat).session.getD (s.newSession n.toNat))
      exec (.sealClose n pos) s = .next (State.finish (if fld e.desc.toNat 16 0 2 = 1 then u.poke 1 0 (fld e.desc.toNat 24 0 64) bytes false
        else (granules (fld e.desc.toNat 24 0 64) bytes.length).foldl (fun s g =>
          s.send 2 (Request.mk' true g.1 g.2 ((bytes.drop (g.1 - fld e.desc.toNat 24 0 64)).take g.2) (s.classOf n.toNat) n.toNat pos .output))
            u) n.toNat pos) := by
  obtain ⟨hentry, -, -, -⟩ := State.running_iff.1 he
  have hpos := State.entry_pos hentry
  have hsession : (match (s.ring n.toNat).session with | some v => v | none => s.newSession n.toNat) =
      (s.ring n.toNat).session.getD (s.newSession n.toNat) := by
    cases (s.ring n.toNat).session <;> rfl
  have hlength := s.sealRecord_length n.toNat ((s.ring n.toNat).session.getD (s.newSession n.toNat))
  obtain ⟨g, hg⟩ := (State.sessionEnds hentry).noteOutput { sealPlace e with
    len := (s.sealRecord n.toNat ((s.ring n.toNat).session.getD (s.newSession n.toNat))).length }
  refine ⟨_, g, hg, ?_, ?_⟩
  · rw [State.noteOutput_only]
    rfl
  · rw [← hsession]
    intro bytes
    rw [exec_sealClose he, State.sealClose, if_neg (by simp [State.behind_eq_false.2 hfirst]), if_neg (not_not_intro hrefusal)]
    dsimp only
    rw [hpos]
    refine congrArg Host.Outcome.next ?_
    have hstalls' : s.stalls { space := fld e.desc.toNat 16 0 2, hearth := 0, lo := fld e.desc.toNat 24 0 64, len := 128 } = false := hstalls
    rw [hstalls', if_neg Bool.false_ne_true]
    rfl

end

/-- Settles O39. -/
theorem sealCloseWritesTheRecord : Obligations.SealCloseWritesTheRecord := by
  intro s n pos e he
  obtain ⟨hentry, -, -, -⟩ := State.running_iff.1 he
  have hpos := State.entry_pos hentry
  refine ⟨fun hbehind => ?_, fun hfirst => ⟨fun hrefusal hok => ?_, fun hrefusal => ?_⟩⟩
  · rw [exec_sealClose he, State.sealClose, if_pos (State.behind_eq_true.2 hbehind)]
  · rw [exec_sealClose he, State.sealClose, if_neg (by simp [State.behind_eq_false.2 hfirst]), if_pos hrefusal, hpos]
    have hentry' : (s.modRing n.toNat fun r => { r with sessionLost := false }).entry n.toNat pos = some e := by
      rw [← hentry, State.entry, State.ring_modRing_self]
      rfl
    refine ⟨_, _, rfl, State.entry_finishWith hentry' hok .., rfl, rfl, rfl, ?_, ?_, fun m hm => ?_⟩
    · rw [State.finishWith_only]
      rfl
    · rw [State.finishWith, State.finish, State.ring_modEntry_self, State.fail, State.ring_modEntry_self, State.ring_modRing_self]
    · rw [State.ring_finishWith_ne _ _ _ _ hm, State.ring_modRing_ne _ _ hm]
  · intro a bytes ends
    have hends {t u : State} {f : Entry} (h : s.SessionEnds t n.toNat pos e f) (hrings : u.rings = t.rings) : ends (u.finish n.toNat pos) := by
      obtain ⟨hself, hstatus, hsealed, hring, hothers⟩ := (h.of_rings hrings).modEntry (g := Entry.finished) (fun _ h => h) rfl rfl
      exact ⟨⟨_, hself, rfl, hstatus, hsealed⟩, hring, hothers⟩
    refine ⟨fun hspace => ⟨fun hwiping => ?_, fun hquiet => ?_⟩, fun hspace hawake hwaiting hinflight hcredits hfits hend => ?_⟩
    · rw [exec_sealClose he, State.sealClose, if_neg (by simp [State.behind_eq_false.2 hfirst]), if_neg (not_not_intro hrefusal), hspace]
      exact congrArg Host.Outcome.next (if_pos (State.stalls_of_wiping (by decide) hwiping))
    · obtain ⟨u, g, hu, honly, hexec⟩ := sealCloses_of_first he hfirst hrefusal (State.stalls_of_noneWiping hquiet _)
      dsimp only at hexec
      rw [if_pos hspace] at hexec
      refine ⟨_, hexec, hends hu rfl, ?_, ?_⟩
      · rw [honly]
        rfl
      · rw [honly]
        rfl
    · obtain ⟨u, g, hu, honly, hexec⟩ := sealCloses_of_first he hfirst hrefusal (State.stalls_of_space (by simp [sealPlace, hspace]))
      have hlength : bytes.length = 128 := s.sealRecord_length ..
      have hbytes : bytes ≠ [] := List.length_pos_iff.1 (by omega)
      dsimp only at hexec
      rw [if_neg (by omega), show (s.sealRecord n.toNat ((s.ring n.toNat).session.getD (s.newSession n.toNat))) = bytes from rfl, hlength,
        granules_single (by decide) (by omega), List.foldl_cons, List.foldl_nil, State.send, if_neg (by simp only [Request.mk']; omega)] at hexec
      have hplace : fld e.desc.toNat 24 0 64 = a := rfl
      have hall : (bytes.drop (a - a)).take 128 = bytes := by rw [Nat.sub_self, List.drop_zero, List.take_of_length_le hlength.le]
      dsimp only at hexec
      rw [hplace, hall] at hexec
      have hport (p : Nat) : u.port p = s.port p := by
        rw [honly]
        rfl
      have hsends := u.request_sends 2 (Request.mk' true a 128 bytes (u.classOf n.toNat) n.toNat pos .output)
      have hhost := State.request_host (s := u) (p := 2) (r := Request.mk' true a 128 bytes (u.classOf n.toNat) n.toNat pos .output)
        (by rw [honly]; exact hawake) (by rw [hport]; exact hwaiting) (by rw [hport]; exact hinflight) (by rw [hport]; exact hcredits)
        ⟨rfl, hbytes⟩ (by intros; nofun)
      refine ⟨_, hexec, hends hu hsends.rings, hhost.trans ?_, ?_⟩
      · rw [honly]
        rfl
      · generalize u.request 2 _ = v at *
        rw [State.finish_only v, hsends, honly]

end Sys2Proof.Machine
end

section
/-! SUPPORT. HEARTH_SET: hearths go offline and online (R308, R322 to R324). -/

namespace Sys2Proof.Machine

/-! ### The hearths of a mask -/

theorem State.mem_hearthsOf {s : State} {mask : W64} {h : Nat} : h ∈ s.hearthsOf mask ↔ h < s.cfg.hearths ∧ mask.getLsbD h = true := by
  rw [State.hearthsOf, bitsBelow, List.mem_filter, List.mem_range]
  rfl

theorem State.hearthsOf_sorted (s : State) (mask : W64) : (s.hearthsOf mask).Pairwise (· < ·) :=
  List.pairwise_lt_range.filter _

theorem lt_of_getLsbD {w h : Nat} {x : BitVec w} (hx : x.getLsbD h = true) : h < w :=
  Nat.lt_of_not_le fun hle => by simp [BitVec.getLsbD_of_ge x h hle] at hx

/-- The first of a sorted list for which there is an answer gives it. -/
theorem findSome?_of_lowest {α : Type} {f : Nat → Option α} {l : List Nat} {g : Nat} {x : α} (hsorted : l.Pairwise (· < ·)) (hg : g ∈ l)
    (hx : f g = some x) (hbelow : ∀ h ∈ l, h < g → f h = none) : l.findSome? f = some x := by
  induction l with
  | nil => exact absurd hg List.not_mem_nil
  | cons a rest ih =>
    obtain ⟨hfirst, hrest⟩ := List.pairwise_cons.1 hsorted
    rw [List.findSome?_cons]
    rcases List.mem_cons.1 hg with rfl | hmem
    · rw [hx]
    · rw [hbelow a (List.mem_cons_self ..) (hfirst g hmem)]
      exact ih hrest hmem fun h hh hlt => hbelow h (List.mem_cons_of_mem _ hh) hlt

/-! ### OFFLINE -/

theorem State.setOffline_frame (s : State) (mask : W64) (b : Bool) : s.setOffline mask b = { s with hearths := (s.setOffline mask b).hearths } :=
  List.foldlRecOn (motive := fun t : State => t = { s with hearths := t.hearths }) _ _ rfl fun t ht h _ => by
    rw [State.modHearth, State.setHearth, ht]

theorem State.hearth_setOffline (s : State) (mask : W64) (b : Bool) (k : Nat) :
    (s.setOffline mask b).hearth k = if k ∈ s.hearthsOf mask then { s.hearth k with offline := b } else s.hearth k := by
  rw [State.setOffline]
  generalize s.hearthsOf mask = hs
  induction hs generalizing s with
  | nil => rfl
  | cons a rest ih =>
    rw [List.foldl_cons, ih, State.modHearth, State.hearth_setHearth]
    by_cases hk : k = a
    · subst hk
      simp
    · simp [hk]

theorem EntryEnds.maintEnd {s : State} {n : Nat} {pos : W32} {e : Entry} (h : EntryEnds (s.entry n pos) e) (x : Nat × Nat) :
    EntryEnds ((s.maintEnd x).entry n pos) e := by
  rcases h with h | h
  · exact State.maintEnd_entry h x
  · have hends := State.maintEnd_entry h x
    rw [EntryEnds, Entry.finished_finished, or_self] at hends
    exact .inr hends

/-- A hearth that goes offline is shut, and an activity that ends with it ends nothing else of a hearth or a switch. -/
theorem State.offlineHearth_endsPositions (s : State) (h : Nat) :
    ∃ m, EndsPositions { s.shutHearth h with maint := m } (s.offlineHearth h) ∧
      m.running = s.maint.running.erase (1, h) := by
  rw [State.offlineHearth]
  split
  · exact ⟨(s.shutHearth h).maint.without (1, h), State.maintEnd_endsPositions (s.shutHearth h) (1, h), rfl⟩
  · next hnot =>
    refine ⟨s.maint, .refl (s.shutHearth h), (List.erase_of_not_mem fun hmem => hnot ?_).symm⟩
    exact List.contains_iff_mem.2 hmem

theorem State.offlineHearth_entry {s : State} {n : Nat} {pos : W32} {e : Entry} (h : EntryEnds (s.entry n pos) e) (k : Nat) :
    EntryEnds ((s.offlineHearth k).entry n pos) e := by
  rw [State.offlineHearth]
  have hshut : EntryEnds ((s.shutHearth k).entry n pos) e := h
  split
  · exact hshut.maintEnd _
  · exact hshut

theorem State.hearth_offlineHearth (s : State) (h k : Nat) :
    (s.offlineHearth h).hearth k = if k = h then { (s.hearth h).wiped with power := .shut, fromShut := false } else s.hearth k := by
  obtain ⟨m, hends, -⟩ := s.offlineHearth_endsPositions h
  rw [hends.hearth]
  exact s.hearth_shutHearth h k

theorem State.offlineHearth_requests (s : State) (h : Nat) : (s.offlineHearth h).pwr.pswReq = setBit s.pwr.pswReq (hearthDomain h) false := by
  obtain ⟨m, hends, -⟩ := s.offlineHearth_endsPositions h
  rw [hends.only]
  rfl

theorem State.offlineHearth_running (s : State) (h : Nat) : (s.offlineHearth h).maint.running = s.maint.running.erase (1, h) := by
  obtain ⟨m, hends, hm⟩ := s.offlineHearth_endsPositions h
  rw [hends.only]
  exact hm

/-- A hearth that is offline: SHUT, empty and without its power's request, and no scrub runs on it where one ran at most. -/
def State.IsOff (s t : State) (h : Nat) : Prop :=
  (t.hearth h).power = .shut ∧ (t.hearth h).store = [] ∧ t.pwr.pswReq.getLsbD (9 + h) = false ∧
    (s.maint.running.count (1, h) ≤ 1 → t.maint.running.contains (1, h) = false)

theorem State.offlineHearth_isOff {s t : State} {h : Nat} (hh : h < 64) (hcount : t.maint.running.count (1, h) ≤ s.maint.running.count (1, h)) :
    s.IsOff (t.offlineHearth h) h := by
  rw [State.IsOff, State.hearth_offlineHearth, if_pos rfl, State.offlineHearth_requests, State.offlineHearth_running]
  refine ⟨rfl, rfl, ?_, fun hone => ?_⟩
  · rw [getLsbD_setBit_false _ _ _ (by omega)]
    simp [hearthDomain]
  · rw [List.contains_eq_mem, decide_eq_false_iff_not, ← List.count_eq_zero, List.count_erase_self]
    omega

theorem State.IsOff.offlineHearth {s t : State} {h : Nat} (hh : h < 64) (hoff : s.IsOff t h) (k : Nat) : s.IsOff (t.offlineHearth k) h := by
  obtain ⟨hpower, hstore, hreq, hrunning⟩ := hoff
  rw [State.IsOff, State.hearth_offlineHearth, State.offlineHearth_requests, State.offlineHearth_running]
  refine ⟨?_, ?_, ?_, fun hone => ?_⟩
  · split
    · rfl
    · exact hpower
  · split
    · rfl
    · exact hstore
  · rw [getLsbD_setBit_false _ _ _ (by omega), hreq, Bool.false_and]
  · have hnot := hrunning hone
    rw [List.contains_eq_mem, decide_eq_false_iff_not] at hnot ⊢
    exact fun hmem => hnot (List.mem_of_mem_erase hmem)

/-- The hearths of a list go offline one after another. -/
theorem State.foldl_offlineHearth {s : State} {pos : W32} {e : Entry} (he : s.entry 0 pos = some e) (hs : List Nat) :
    EntryEnds ((hs.foldl (fun s h => s.offlineHearth h) s).entry 0 pos) e ∧
      (∀ h ∈ hs, h < 64 → s.IsOff (hs.foldl (fun s h => s.offlineHearth h) s) h) ∧
      ∀ h, h ∉ hs → (hs.foldl (fun s h => s.offlineHearth h) s).hearth h = s.hearth h := by
  refine ⟨?_, fun h hmem hh => ?_, fun h hnot => ?_⟩
  · exact List.foldlRecOn (motive := fun t : State => EntryEnds (t.entry 0 pos) e) _ _ (.inl he) fun t ht k _ => State.offlineHearth_entry ht k
  · refine foldl_establishes (P := fun t => s.IsOff t h) (Q := fun t => t.maint.running.count (1, h) ≤ s.maint.running.count (1, h))
      (fun t k ht => ht.offlineHearth hh k) (fun t k _ ht => ?_) (fun t ht => State.offlineHearth_isOff hh ht) hmem le_rfl
    rw [State.offlineHearth_running]
    exact ((List.erase_sublist).count_le _).trans ht
  · refine List.foldlRecOn (motive := fun t : State => t.hearth h = s.hearth h) _ _ rfl fun t ht k hk => ?_
    rw [State.hearth_offlineHearth, if_neg (fun heq : h = k => hnot (heq ▸ hk)), ht]

theorem State.noHearthWork {s : State} {mask : W64} (h : ∀ h < s.cfg.hearths, mask.getLsbD h = true → s.hearthWork h = false) :
    ¬((s.hearthsOf mask).any fun h => s.hearthWork h) = true := by
  rw [List.any_eq_true]
  rintro ⟨k, hmem, hwork⟩
  obtain ⟨hk, hbit⟩ := State.mem_hearthsOf.1 hmem
  rw [h k hk hbit] at hwork
  exact Bool.noConfusion hwork

/-- A hearth refuses to be SHUT for an open group or a PARKED tile. -/
theorem Hearth.offlineRefusal_status {x : Hearth} {r : Nat × Nat} (h : x.offlineRefusal = some r) : r.1 = 0x05 ∨ r.1 = 0x04 := by
  rw [Hearth.offlineRefusal] at h
  split at h
  · exact .inl (Option.some.inj h ▸ rfl)
  · split at h
    · exact .inr (Option.some.inj h ▸ rfl)
    · exact absurd h (by simp)

/-! ### ONLINE -/

/-- The wake of one hearth that ONLINE names. -/
def State.onlineHearth (s : State) (h : Nat) : State :=
  if (s.hearth h).offline then (s.modHearth h fun x => { x with offline := false }).wakeHearth h else s

theorem State.onlineHearth_wakes (s : State) (h : Nat) : WakesHearths s (s.onlineHearth h) := by
  rw [State.onlineHearth]
  split
  · have hset : WakesHearths s (s.modHearth h fun x => { x with offline := false }) := ⟨rfl⟩
    exact hset.trans (State.wakeHearth_wakes ..)
  · exact .refl s

theorem State.hearth_onlineHearth (s : State) (h : Nat) : (s.onlineHearth h).hearth h =
    if (s.hearth h).offline then Hearth.woken (s.pwr.pswAck.getLsbD (hearthDomain h)) { s.hearth h with offline := false } else s.hearth h := by
  rw [State.onlineHearth]
  split
  · rw [State.hearth_wakeHearth, State.modHearth, State.hearth_setHearth_self]
    rfl
  · rfl

theorem State.hearth_onlineHearth_ne (s : State) {h k : Nat} (hk : k ≠ h) : (s.onlineHearth h).hearth k = s.hearth k := by
  rw [State.onlineHearth]
  split
  · rw [State.hearth_wakeHearth_ne _ hk, State.modHearth, State.hearth_setHearth, if_neg hk]
  · rfl

theorem Hearth.woken_offline (on : Bool) (x : Hearth) : (x.woken on).offline = x.offline := by
  rw [Hearth.woken]
  split <;> rfl

/-- A hearth that is no longer OFFLINE and waits for its wake from SHUT. -/
def State.ComesOnline (s : State) (h : Nat) : Prop := (s.hearth h).offline = false ∧ s.WakesFromShut h

theorem State.onlineHearth_comesOnline {s : State} {h : Nat} (hh : h < 64) (hoff : (s.hearth h).offline = true) (hshut : (s.hearth h).power = .shut) :
    (s.onlineHearth h).ComesOnline h := by
  refine ⟨?_, ?_⟩
  · rw [State.hearth_onlineHearth, if_pos hoff, Hearth.woken_offline]
  · rw [State.onlineHearth, if_pos hoff]
    refine State.wakeHearth_wakesFromShut hh ?_
    rw [State.modHearth, State.hearth_setHearth_self]
    exact hshut

theorem State.ComesOnline.onlineHearth {s : State} {h : Nat} (hh : h < 64) (hs : s.ComesOnline h) (k : Nat) : (s.onlineHearth k).ComesOnline h := by
  obtain ⟨hon, hwakes⟩ := hs
  by_cases hk : h = k
  · subst hk
    rw [State.onlineHearth, if_neg (by simp [hon])]
    exact ⟨hon, hwakes⟩
  · refine ⟨by rw [s.hearth_onlineHearth_ne hk, hon], ?_⟩
    rw [State.onlineHearth]
    split
    · refine State.wakeHearth_keeps_wakesFromShut hh ?_ k
      rw [State.WakesFromShut, State.modHearth, State.hearth_setHearth, if_neg hk]
      exact hwakes
    · exact hwakes

section

variable {s : State} {pos : W32} {e : Entry} (he : s.running 0 pos 0x52 = some e)

include he

/-- The start of OFFLINE. -/
theorem exec_hearthSetOffline (hop : heSetOp e = 0) (hstarted : e.started = false) : exec (.hearthSetOffline 0#7 pos) s =
    match s.pinningRing (heSetMask e) with
    | some r => .next (s.refuse 0 pos 8 (8 + 256 * r) 0x52)
    | none => .next ((s.setOffline (heSetMask e) true).modEntry 0 pos fun e => { e with started := true }) := by
  have hexec : exec (.hearthSetOffline 0#7 pos) s = execHearthSetOffline 0#7 pos s := rfl
  have he' : s.running (0#7).toNat pos 0x52 = some e := he
  rw [hexec, execHearthSetOffline, he']
  exact if_neg (by simp [hop, hstarted])

/-- The one position of ring 0 is a started OFFLINE. -/
theorem exec_hearthOfflineSettle (hop : heSetOp e = 0) (hstarted : e.started = true) (honly : (s.ring 0).entries = [e]) :
    exec .hearthOfflineSettle s = .next (s.settleOffline e) := by
  obtain ⟨-, hstage, hopcode, -⟩ := State.running_iff.1 he
  have hexec : exec .hearthOfflineSettle s = execHearthOfflineSettle s := rfl
  rw [hexec, execHearthOfflineSettle, honly, List.foldl_cons, List.foldl_nil, if_pos ⟨hstage, hstarted, hopcode, hop⟩]

/-- The start of ONLINE. -/
theorem exec_hearthSetOnline (hop : heSetOp e = 1) (hstarted : e.started = false) : exec (.hearthSetOnline 0#7 pos) s =
    .next (((s.hearthsOf (heSetMask e)).foldl (fun s h => s.onlineHearth h) s).modEntry 0 pos fun e => { e with started := true }).settleOnline := by
  have hexec : exec (.hearthSetOnline 0#7 pos) s = execHearthSetOnline 0#7 pos s := rfl
  have he' : s.running (0#7).toNat pos 0x52 = some e := he
  rw [hexec, execHearthSetOnline]
  dsimp only
  rw [he']
  exact if_neg (by simp [hop, hstarted])

theorem hearthsRefused (hop : heSetOp e = 0) (hstarted : e.started = false) {r : Nat} (hpin : s.pinningRing (heSetMask e) = some r)
    (hok : e.status = 0#8) :
    ∃ t f, exec (.hearthSetOffline 0#7 pos) s = .next t ∧ t.entry 0 pos = some f ∧ f.stage = .finished ∧ f.status = 0x0D#8 ∧
      f.detail = BitVec.ofNat 16 (8 + 256 * r) ∧ t.hearths = s.hearths ∧ t.pwr.refuserCode = 8#8 := by
  obtain ⟨hentry, -⟩ := State.running_iff.1 he
  obtain ⟨hself, hpwr, -, -, hhearths⟩ := State.refuse_reports hentry hok 8 (8 + 256 * r) 0x52
  rw [exec_hearthSetOffline he hop hstarted, hpin]
  refine ⟨_, _, rfl, hself, rfl, rfl, rfl, hhearths, ?_⟩
  rw [hpwr]
  rfl

theorem hearthsSetOffline (hop : heSetOp e = 0) (hstarted : e.started = false) (hpin : s.pinningRing (heSetMask e) = none) :
    ∃ t, exec (.hearthSetOffline 0#7 pos) s = .next t ∧ t = { s with rings := t.rings, hearths := t.hearths } ∧
      t.entry 0 pos = some { e with started := true } ∧
      ∀ h < s.cfg.hearths, t.hearth h = if (heSetMask e).getLsbD h then { s.hearth h with offline := true } else s.hearth h := by
  obtain ⟨hentry, -⟩ := State.running_iff.1 he
  have hframe := s.setOffline_frame (heSetMask e) true
  have hhearth := s.hearth_setOffline (heSetMask e) true
  rw [exec_hearthSetOffline he hop hstarted, hpin]
  dsimp only
  generalize s.setOffline (heSetMask e) true = t at *
  have hentry' : t.entry 0 pos = some e := by
    rw [hframe]
    exact hentry
  refine ⟨_, rfl, ?_, State.entry_modEntry_of_entry hentry' (f := fun e => { e with started := true }) fun _ h => h, fun h hh => ?_⟩
  · rw [hframe]
    rfl
  · refine (hhearth h).trans ?_
    simp only [State.mem_hearthsOf, hh, true_and]

theorem hearthsShut (hop : heSetOp e = 0) (hstarted : e.started = true) (honly : (s.ring 0).entries = [e])
    (hidle : ∀ h < s.cfg.hearths, (heSetMask e).getLsbD h = true → s.hearthWork h = false)
    (hnone : ∀ h < s.cfg.hearths, (heSetMask e).getLsbD h = true → (s.hearth h).offlineRefusal = none) :
    ∃ t, exec .hearthOfflineSettle s = .next t ∧ t.entry 0 pos = some e.finished ∧
      (∀ h < s.cfg.hearths, (heSetMask e).getLsbD h = true → s.IsOff t h) ∧
      ∀ h < s.cfg.hearths, (heSetMask e).getLsbD h = false → t.hearth h = s.hearth h := by
  obtain ⟨hentry, -⟩ := State.running_iff.1 he
  obtain ⟨hends, hoff, hothers⟩ := State.foldl_offlineHearth hentry (s.hearthsOf (heSetMask e))
  have hnorefusal : ((s.hearthsOf (heSetMask e)).findSome? fun h => (s.hearth h).offlineRefusal) = none := by
    rw [List.findSome?_eq_none_iff]
    intro h hmem
    obtain ⟨hh, hbit⟩ := State.mem_hearthsOf.1 hmem
    exact hnone h hh hbit
  rw [exec_hearthOfflineSettle he hop hstarted honly, State.settleOffline, if_neg (State.noHearthWork hidle), hnorefusal, State.entry_pos hentry]
  dsimp only
  refine ⟨_, rfl, hends.finish, fun h hh hbit => ?_, fun h hh hbit => ?_⟩
  · exact hoff h (State.mem_hearthsOf.2 ⟨hh, hbit⟩) (lt_of_getLsbD hbit)
  · refine hothers h fun hmem => ?_
    rw [(State.mem_hearthsOf.1 hmem).2] at hbit
    exact Bool.noConfusion hbit

theorem hearthsStayOn (hop : heSetOp e = 0) (hstarted : e.started = true) (honly : (s.ring 0).entries = [e]) (hok : e.status = 0#8)
    (hidle : ∀ h < s.cfg.hearths, (heSetMask e).getLsbD h = true → s.hearthWork h = false)
    {g : Nat} {x : Nat × Nat} (hg : g < s.cfg.hearths) (hbit : (heSetMask e).getLsbD g = true) (hx : (s.hearth g).offlineRefusal = some x)
    (hbelow : ∀ h < g, (heSetMask e).getLsbD h = true → (s.hearth h).offlineRefusal = none) :
    ∃ t f, exec .hearthOfflineSettle s = .next t ∧ t.entry 0 pos = some f ∧ f.stage = .finished ∧
      (x.1 = 0x05 ∨ x.1 = 0x04) ∧ f.status = BitVec.ofNat 8 x.1 ∧ f.detail = BitVec.ofNat 16 x.2 ∧
      ∀ h < s.cfg.hearths, t.hearth h = if (heSetMask e).getLsbD h then { s.hearth h with offline := false } else s.hearth h := by
  obtain ⟨hentry, -⟩ := State.running_iff.1 he
  have hframe := s.setOffline_frame (heSetMask e) false
  have hhearth := s.hearth_setOffline (heSetMask e) false
  have hrefusal : ((s.hearthsOf (heSetMask e)).findSome? fun h => (s.hearth h).offlineRefusal) = some x :=
    findSome?_of_lowest (s.hearthsOf_sorted _) (State.mem_hearthsOf.2 ⟨hg, hbit⟩) hx fun h hmem hlt =>
      hbelow h hlt (State.mem_hearthsOf.1 hmem).2
  rw [exec_hearthOfflineSettle he hop hstarted honly, State.settleOffline, if_neg (State.noHearthWork hidle), hrefusal, State.entry_pos hentry]
  dsimp only
  generalize s.setOffline (heSetMask e) false = t at *
  have hentry' : t.entry 0 pos = some e := by
    rw [hframe]
    exact hentry
  refine ⟨_, _, rfl, State.entry_finishWith hentry' hok _ _, rfl, Hearth.offlineRefusal_status hx, rfl, rfl, fun h hh => ?_⟩
  refine (hhearth h).trans ?_
  simp only [State.mem_hearthsOf, hh, true_and]

end

/-- An ONLINE whose hearths are all ACTIVE ends. -/
theorem State.settleOnline_entry {s : State} {pos : W32} {e : Entry} (he : s.entry 0 pos = some e) (hstage : e.stage = .running)
    (hstarted : e.started = true) (hopcode : descOpcode e.desc = 0x52) (hop : heSetOp e = 1)
    (hactive : ∀ h ∈ s.hearthsOf (heSetMask e), (s.hearth h).power = .active) : s.settleOnline.entry 0 pos = some e.finished := by
  have hpos := State.entry_pos he
  rw [State.settleOnline]
  refine foldl_establishes (h := e) (P := fun t => t.entry 0 pos = some e.finished)
    (Q := fun t => EntryEnds (t.entry 0 pos) e ∧ t.hearths = s.hearths ∧ t.cfg = s.cfg) (fun t f ht => ?_) (fun t f _ ht => ?_) (fun t ht => ?_)
    (State.mem_of_entry he) ⟨.inl he, rfl, rfl⟩
  · split
    · have hends : EntryEnds ((t.finish 0 f.pos).entry 0 pos) e.finished := EntryEnds.other (.inl ht) f.pos
      rw [EntryEnds, Entry.finished_finished, or_self] at hends
      exact hends
    · exact ht
  · obtain ⟨hends, hhearths, hcfg⟩ := ht
    split
    · exact ⟨hends.other f.pos, hhearths, hcfg⟩
    · exact ⟨hends, hhearths, hcfg⟩
  · obtain ⟨hends, hhearths, hcfg⟩ := ht
    have hall : ((t.hearthsOf (heSetMask e)).all fun h => decide ((t.hearth h).power = .active)) = true := by
      refine List.all_eq_true.2 fun h hmem => decide_eq_true ?_
      rw [State.hearthsOf, hcfg] at hmem
      rw [State.hearth, hhearths]
      exact hactive h hmem
    rw [if_pos ⟨hstage, hstarted, hopcode, hop, hall⟩, hpos]
    exact hends.finish

/-- Settles O44. -/
theorem hearthSetTakesHearthsOffAndOn : Obligations.HearthSetTakesHearthsOffAndOn := by
  intro s pos e mask he hmask
  obtain rfl : mask = heSetMask e := hmask
  refine ⟨fun hop hstarted => ⟨fun r hpin hok => hearthsRefused he hop hstarted hpin hok, fun hpin => hearthsSetOffline he hop hstarted hpin⟩,
    fun hop hstarted honly => ⟨?_, fun hidle => ⟨fun hnone => hearthsShut he hop hstarted honly hidle hnone,
      fun g x hg hbit hx hbelow hok => hearthsStayOn he hop hstarted honly hok hidle hg hbit hx hbelow⟩⟩, fun hop hstarted => ?_⟩
  · rintro ⟨h, hh, hbit, hwork⟩
    rw [exec_hearthOfflineSettle he hop hstarted honly, State.settleOffline,
      if_pos (List.any_eq_true.2 ⟨h, State.mem_hearthsOf.2 ⟨hh, hbit⟩, hwork⟩)]
  · obtain ⟨hentry, hstage, hopcode, -⟩ := State.running_iff.1 he
    rw [exec_hearthSetOnline he hop hstarted]
    have hwakes := WakesHearths.foldl State.onlineHearth_wakes (s.hearthsOf (heSetMask e)) s
    have hwoken (h : Nat) (hh : h < s.cfg.hearths) (hbit : (heSetMask e).getLsbD h = true) (hoff : (s.hearth h).offline = true)
        (hshut : (s.hearth h).power = .shut) : ((s.hearthsOf (heSetMask e)).foldl (fun s h => s.onlineHearth h) s).ComesOnline h := by
      refine foldl_establishes (P := fun t => t.ComesOnline h) (Q := fun t => t.hearth h = s.hearth h)
        (fun t k ht => ht.onlineHearth (lt_of_getLsbD hbit) k) (fun t k hk ht => ?_) (fun t ht => ?_) (State.mem_hearthsOf.2 ⟨hh, hbit⟩) rfl
      · rw [t.hearth_onlineHearth_ne (Ne.symm hk), ht]
      · exact State.onlineHearth_comesOnline (lt_of_getLsbD hbit) (by rw [ht, hoff]) (by rw [ht, hshut])
    have hothers (h : Nat) (hnot : (heSetMask e).getLsbD h = false ∨ (s.hearth h).offline = false) :
        ((s.hearthsOf (heSetMask e)).foldl (fun s h => s.onlineHearth h) s).hearth h = s.hearth h := by
      refine List.foldlRecOn (motive := fun t : State => t.hearth h = s.hearth h) _ _ rfl fun t ht k hk => ?_
      by_cases hkh : h = k
      · subst hkh
        have hon : (s.hearth h).offline = false := hnot.resolve_left (by simp [(State.mem_hearthsOf.1 hk).2])
        rw [State.hearth_onlineHearth, ht, if_neg (by simp [hon])]
      · rw [t.hearth_onlineHearth_ne hkh, ht]
    have hhearthsOf : ((s.hearthsOf (heSetMask e)).foldl (fun s h => s.onlineHearth h) s).hearthsOf (heSetMask e) = s.hearthsOf (heSetMask e) := by
      rw [hwakes.only]
      rfl
    generalize (s.hearthsOf (heSetMask e)).foldl (fun s h => s.onlineHearth h) s = t at *
    have hentry' : t.entry 0 pos = some e := by
      rw [hwakes.only]
      exact hentry
    have hstarts : (t.modEntry 0 pos fun e => { e with started := true }).entry 0 pos = some { e with started := true } :=
      State.entry_modEntry_of_entry hentry' (f := fun e => { e with started := true }) fun _ h => h
    have hends := (t.modEntry 0 pos fun e => { e with started := true }).settleOnline_endsPositions
    have hmantel : t.mantel = s.mantel := by rw [hwakes.only]
    have hmaint : t.maint = s.maint := by rw [hwakes.only]
    refine ⟨_, rfl, fun h hh hbit hoff hshut => ?_, fun h _ hnot => ?_, ?_, ?_, fun hactive => ?_⟩
    · obtain ⟨hon, hpower, -, hreq⟩ := hwoken h hh hbit hoff hshut
      rw [hends.hearth]
      refine ⟨hon, hpower, ?_⟩
      rw [hends.only]
      exact hreq
    · rw [hends.hearth]
      exact hothers h hnot
    · rw [hends.only]
      exact hmantel
    · rw [hends.only]
      exact hmaint
    · refine State.settleOnline_entry hstarts hstage rfl hopcode hop fun h hmem => ?_
      obtain ⟨hh, hbit⟩ := State.mem_hearthsOf.1 (hhearthsOf ▸ hmem : h ∈ s.hearthsOf (heSetMask e))
      obtain ⟨hon, hpower⟩ := hactive h hh hbit
      exact (congrArg Hearth.power (hothers h (.inr hon))).trans hpower

end Sys2Proof.Machine
end

section
/-! SUPPORT. Requests that reach a port wait there or leave (R294, R295), and the release of ordered adds (R298, R299). -/

namespace Sys2Proof.Machine

/-! ### What a request leaves of the ports -/

/-- The ports of `t` hold the ordered adds of `s`. -/
def KeepsAdds (s t : State) : Prop := ∀ p, (t.port p).adds = (s.port p).adds

theorem KeepsAdds.trans {s t u : State} (h : KeepsAdds s t) (k : KeepsAdds t u) : KeepsAdds s u := fun p => (k p).trans (h p)

theorem State.setPort_keepsAdds {s : State} {p : Nat} {x : Port} (h : x.adds = (s.port p).adds) : KeepsAdds s (s.setPort p x) := by
  intro q
  rw [State.port_setPort]
  split
  · next hq => rw [h, hq]
  · rfl

theorem State.dispatchRequest_keepsAdds (s : State) (p : Nat) (r : Request) (shared : Bool) : KeepsAdds s (s.dispatchRequest p r shared) := by
  rw [State.dispatchRequest]
  intro q
  rw [State.port, State.performRequest_ports, ← State.port]
  exact State.setPort_keepsAdds (x := { s.port p with
    inflight := (s.port p).inflight ++ [{ r with tag := (s.port p).freeTag r.write, shared := shared }]
    nextTag := (s.port p).freeTag r.write + 1#12 }) rfl q

theorem State.pumpList_keepsAdds (p : Nat) (rs : List Request) (s : State) : KeepsAdds s (State.pumpList p rs s) := by
  induction rs generalizing s with
  | nil => exact fun _ => rfl
  | cons r rest ih =>
    rw [State.pumpList]
    split
    · refine KeepsAdds.trans (KeepsAdds.trans ?_ (State.dispatchRequest_keepsAdds _ _ _ _)) (ih _)
      exact State.setPort_keepsAdds rfl
    · exact ih s

theorem State.request_keepsAdds (s : State) (p : Nat) (r : Request) : KeepsAdds s (s.request p r) := by
  have hset : KeepsAdds s (s.setPort p { s.port p with waiting := (s.port p).waiting ++ [r] }) := State.setPort_keepsAdds rfl
  rw [State.request]
  refine hset.trans ?_
  generalize s.setPort p _ = t
  rw [State.pump]
  split
  · exact State.pumpList_keepsAdds _ _ _
  · exact fun _ => rfl

theorem State.logError_keepsAdds (s : State) (e : ErrorEvent) : KeepsAdds s (s.logError e) := by
  have hcount (c : Prop) [Decidable c] :
      KeepsAdds s (if c then { s with err := { s.err with corrected := satInc s.err.corrected } } else s) := by
    split
    · exact fun _ => rfl
    · exact fun _ => rfl
  unfold State.logError
  extract_lets e' _ s'
  have hs' : KeepsAdds s s' := hcount _
  have herr (e : Errors) : KeepsAdds s' { s' with err := e } := fun _ => rfl
  have hport (e : Errors) (x : Port) (hx : x.adds = (s'.port 2).adds) : KeepsAdds s' ({ s' with err := e }.setPort 2 x) :=
    (herr e).trans (State.setPort_keepsAdds hx)
  split
  · exact hs'
  · split
    · exact hs'.trans (hport _ _ rfl)
    · split
      · exact hs'.trans (herr _)
      · exact (hs'.trans (herr _)).trans (State.request_keepsAdds _ _ _)

/-! ### A request that reached a port is there -/

/-- The port has the request: it waits, or it has left with a tag and a credit. -/
def Port.has (x : Port) (r : Request) : Prop := ∃ q ∈ x.inflight ++ x.waiting, q = { r with tag := q.tag, shared := q.shared }

theorem State.dispatchRequest_has {s : State} {p : Nat} {r q : Request} {shared : Bool}
    (h : (s.port p).has r ∨ q = { r with tag := q.tag, shared := q.shared }) : ((s.dispatchRequest p q shared).port p).has r := by
  rw [State.dispatchRequest, State.port, State.performRequest_ports, ← State.port, State.port_setPort_self]
  rcases h with ⟨w, hw, hwr⟩ | hq
  · refine ⟨w, ?_, hwr⟩
    rw [List.mem_append] at hw ⊢
    exact hw.imp_left (List.mem_append_left _)
  · refine ⟨{ q with tag := (s.port p).freeTag q.write, shared := shared }, ?_, ?_⟩
    · exact List.mem_append_left _ (List.mem_append_right _ (List.mem_singleton.2 rfl))
    · rw [hq]

theorem State.pumpList_has {p : Nat} {r : Request} (rs : List Request) {s : State} (h : (s.port p).has r) : ((State.pumpList p rs s).port p).has r := by
  induction rs generalizing s with
  | nil => exact h
  | cons q rest ih =>
    rw [State.pumpList]
    split
    · refine ih (State.dispatchRequest_has ?_)
      rw [State.port_setPort_self]
      obtain ⟨w, hw, hwr⟩ := h
      by_cases hwq : w = q
      · exact .inr (hwq ▸ hwr)
      · refine .inl ⟨w, ?_, hwr⟩
        rw [List.mem_append] at hw ⊢
        exact hw.imp_right fun hmem => (List.mem_erase_of_ne hwq).2 hmem
    · exact ih h

theorem State.request_has (s : State) (p : Nat) (r : Request) : ((s.request p r).port p).has r := by
  have hset : ((s.setPort p { s.port p with waiting := (s.port p).waiting ++ [r] }).port p).has r := by
    rw [State.port_setPort_self]
    exact ⟨r, List.mem_append_right _ (List.mem_append_right _ (List.mem_singleton.2 rfl)), rfl⟩
  rw [State.request]
  generalize s.setPort p _ = t at *
  rw [State.pump]
  split
  · exact State.pumpList_has _ hset
  · exact hset

/-! ### Ordered adds -/

/-- The adds of a port without those that are released. -/
def State.withoutAdds (s : State) (p : Nat) : State := s.setPort p { s.port p with adds := [] }

theorem Port.cleared_iff {x : Port} {n : Nat} {pos : W32} {lower : List Nat} :
    x.cleared n pos lower = true ↔ ∀ k ∈ lower, (n, pos, k) ∈ x.marks := by
  simp [Port.cleared]

theorem exec_orderedAddRelease {s : State} {port : BitVec 5} (hport : port.toNat < 3 * s.cfg.stoves) :
    exec (.orderedAddRelease port) s = .next (s.releaseAdds port.toNat) := by
  have hexec : exec (.orderedAddRelease port) s = execOrderedAddRelease port s := rfl
  rw [hexec, execOrderedAddRelease, if_pos (show port.toNat < s.portCount from hport)]

theorem State.releaseAdds_of_held {s : State} {p : Nat} {a : OrderedAdd} (hone : (s.port p).adds = [a])
    (hheld : (s.port p).cleared a.ring a.pos (s.lowerOf a) = false) : s.releaseAdds p = s.setPort p (s.port p) := by
  have hfree : (s.port p).adds.filter (fun a => (s.port p).cleared a.ring a.pos (s.lowerOf a)) = [] := by
    rw [hone]
    exact List.filter_cons_of_neg (by simp [hheld])
  have hall : ({ s.port p with adds := (s.port p).adds.filter fun a => !([] : List OrderedAdd).contains a } : Port) = s.port p := by
    simp
  rw [State.releaseAdds, hfree, hall]
  exact congrArg (List.foldl _ _) (List.flatMap_eq_nil_iff.2 fun _ _ => rfl)

/-- The indices at which a test of one element holds give that element each. -/
theorem flatMap_filter_singleton {α : Type} (f : α → Nat) (a : α) (ks : List Nat) :
    (ks.flatMap fun k => [a].filter fun b => f b == k) = (ks.filter fun k => k == f a).map fun _ => a := by
  induction ks with
  | nil => rfl
  | cons k rest ih =>
    rw [List.flatMap_cons, ih, List.filter_cons, List.filter_cons, List.filter_nil, BEq.comm]
    split <;> rfl

theorem State.releaseAdds_of_free {s : State} {p : Nat} {a : OrderedAdd} (hone : (s.port p).adds = [a])
    (hfree : (s.port p).cleared a.ring a.pos (s.lowerOf a) = true) (hposition : a.position < 64) :
    s.releaseAdds p = (s.withoutAdds p).send p (atomicRequest (s.classOf a.ring) a.ring a.pos a true) := by
  have hadds : (s.port p).adds.filter (fun a => (s.port p).cleared a.ring a.pos (s.lowerOf a)) = [a] := by
    rw [hone]
    exact List.filter_cons_of_pos (l := []) hfree
  have hordered : ((List.range 64).flatMap fun k => [a].filter fun a => a.position == k) = [a] := by
    rw [flatMap_filter_singleton, filter_beq_range hposition]
    rfl
  have hleft : (s.port p).adds.filter (fun b => !([a] : List OrderedAdd).contains b) = [] := by
    rw [hone]
    simp
  rw [State.releaseAdds, hadds, hordered, hleft, List.foldl_cons, List.foldl_nil]
  rfl

/-- A request at or above 2^52 is refused and reported, and its descriptor ends with E_MEM (R294). -/
theorem State.send_beyond {s : State} {p : Nat} {r : Request} (hbeyond : 2 ^ 52 ≤ r.addr) :
    ∃ t, Logs { s with draws := s.draws + 1 } t ∧ KeepsAdds s t ∧ s.send p r = t.fail r.ring r.pos stMem p := by
  rw [State.send, if_pos hbeyond]
  refine ⟨_, State.logError_logs .., ?_, rfl⟩
  exact State.logError_keepsAdds { s with draws := s.draws + 1 } _

/-- The atomic request of an add carries the sum to host memory when it leaves (R298). -/
theorem State.performRequest_atomic {s : State} {r : Request} {o int : Bool} {w : W32} (h : r.purpose = .atomic o int w) :
    (s.performRequest r).host = s.host.store r.addr (leBytes 4 (atomicSum int (BitVec.ofNat 32 (s.host.nat r.addr 4)) w).toNat) := by
  rw [State.performRequest, h]
  rfl

/-- Settles O48. -/
theorem orderedAddsWaitForLowerPositions : Obligations.OrderedAddsWaitForLowerPositions := by
  intro s port a hport hone
  dsimp only
  have hadds : ((s.withoutAdds port.toNat).port port.toNat).adds = [] := by
    rw [State.withoutAdds, State.port_setPort_self]
  refine ⟨fun hheld => ?_, fun hfree hposition hinside => ?_, fun hfree hposition hbeyond => ?_⟩
  · rw [exec_orderedAddRelease hport, State.releaseAdds_of_held hone (Bool.eq_false_iff.2 fun h => hheld (Port.cleared_iff.1 h))]
    refine ⟨_, rfl, fun p => ?_, rfl⟩
    rw [State.port_setPort]
    split
    · next h => rw [h]
    · rfl
  · rw [exec_orderedAddRelease hport, State.releaseAdds_of_free hone (Port.cleared_iff.2 hfree) hposition, State.send,
      if_neg (show ¬2 ^ 52 ≤ (atomicRequest (s.classOf a.ring) a.ring a.pos a true).addr from not_le.2 hinside)]
    have hsends := (s.withoutAdds port.toNat).request_sends port.toNat (atomicRequest (s.classOf a.ring) a.ring a.pos a true)
    refine ⟨_, rfl, ?_, ?_, fun hawake hwaiting hinflight hcredits => ?_, hsends.rings, hsends.hearths, hsends.mantel⟩
    · rw [State.request_keepsAdds, hadds]
    · obtain ⟨q, hq, heq⟩ := (s.withoutAdds port.toNat).request_has port.toNat (atomicRequest (s.classOf a.ring) a.ring a.pos a true)
      refine ⟨q, hq, ?_⟩
      rw [heq]
      exact ⟨rfl, rfl, rfl, rfl, rfl, rfl, rfl⟩
    · obtain ⟨hup, hhalted⟩ := State.portAwake_iff.1 hawake
      have hport : (s.withoutAdds port.toNat).port port.toNat = { s.port port.toNat with adds := [] } := State.port_setPort_self ..
      obtain ⟨shared, hcredit⟩ := Port.credit_isSome (x := (s.withoutAdds port.toNat).port port.toNat) (write := true) (k := 0)
        (by rw [hport]; simp [hinflight]) (by decide) (by rw [hport, if_pos rfl]; exact hcredits) (s.classOf a.ring)
      rw [State.request_of_free (s := s.withoutAdds port.toNat) hup (.inl hhalted) (by rw [hport]; exact hwaiting) hcredit,
        State.performRequest_atomic rfl]
      rfl
  · rw [exec_orderedAddRelease hport, State.releaseAdds_of_free hone (Port.cleared_iff.2 hfree) hposition]
    obtain ⟨t, hlogs, hkeeps, hsend⟩ := State.send_beyond (s := s.withoutAdds port.toNat) (p := port.toNat)
      (r := atomicRequest (s.classOf a.ring) a.ring a.pos a true) hbeyond
    rw [hsend]
    refine ⟨_, rfl, (hkeeps _).trans hadds, hlogs.hearths, hlogs.mantel, fun e he hok => ?_⟩
    have he' : t.entry a.ring a.pos = some e := by
      rw [← he, State.entry, State.ring, hlogs.rings]
      rfl
    exact (State.entry_modEntry_of_entry he' (fun e h => by split <;> exact h)).trans (congrArg some (if_pos hok))

end Sys2Proof.Machine
end

section
/-! SUPPORT. Responses to reads: parity, the arrival of data, and reads that fail (R294, R297, R360, R368). -/

namespace Sys2Proof.Machine

/-! ### Parity -/

theorem getLsbD_parityBits (data : List W8) {i : Nat} (hi : i < 32) :
    (parityBits data).getLsbD i = (decide (8 * i < data.length) && laneParity ((data.drop (8 * i)).take 8)) := by
  have hlane : (i < ceilDiv data.length 8) ↔ 8 * i < data.length := by
    rw [ceilDiv]
    omega
  rw [parityBits, BitVec.getLsbD_ofNat, decide_eq_true hi, Bool.true_and, testBit_maskOf]
  by_cases h : 8 * i < data.length
  · simp [List.mem_filter, hlane, h]
  · simp [List.mem_filter, hlane, h]

theorem parityFails_eq_false {data : List W8} (hsize : data.length ≤ 256) (parity : BitVec 32) :
    parityFails data parity = false ↔ ParityHolds data parity := by
  have hbit (i : Nat) (hi : i < 32) : ((parity ^^^ parityBits data) &&& BitVec.ofNat 32 (2 ^ ceilDiv data.length 8 - 1)).getLsbD i =
      ((parity.getLsbD i ^^ (decide (8 * i < data.length) && laneParity ((data.drop (8 * i)).take 8))) && decide (8 * i < data.length)) := by
    have hlane : (i < ceilDiv data.length 8) ↔ 8 * i < data.length := by
      rw [ceilDiv]
      omega
    rw [BitVec.getLsbD_and, BitVec.getLsbD_xor, getLsbD_parityBits data hi, BitVec.getLsbD_ofNat, decide_eq_true hi, Bool.true_and,
      Nat.testBit_two_pow_sub_one]
    simp only [hlane]
  rw [parityFails, decide_eq_false_iff_not, not_not, ParityHolds]
  constructor
  · intro hzero i hi hin
    have h := hbit i hi
    rw [hzero, BitVec.getLsbD_zero, decide_eq_true hin, Bool.true_and, Bool.and_true] at h
    simpa using h.symm
  · intro hholds
    refine BitVec.eq_of_getLsbD_eq fun i hi => ?_
    rw [hbit i hi, BitVec.getLsbD_zero]
    by_cases hin : 8 * i < data.length
    · simp [hin, hholds i hi hin]
    · simp [hin]

theorem parityFails_eq_true {data : List W8} (hsize : data.length ≤ 256) (parity : BitVec 32) :
    parityFails data parity = true ↔ ¬ParityHolds data parity := by
  rw [← parityFails_eq_false hsize, Bool.not_eq_false]

/-! ### What a response finds -/

theorem State.pump_of_none {s : State} {p : Nat} (h : (s.port p).waiting = []) : s.pump p = s := by
  rw [State.pump, h]
  split <;> rfl

theorem State.port_freeCredit (s : State) (p : Nat) (r : Request) :
    (s.freeCredit p r).port p = { s.port p with inflight := (s.port p).inflight.erase r } := State.port_setPort_self ..

theorem State.port_freeCredit_ne (s : State) {p q : Nat} (r : Request) (h : q ≠ p) : (s.freeCredit p r).port q = s.port q :=
  (State.port_setPort ..).trans (if_neg h)

section

variable {s : State} {port : BitVec 5} {tag : BitVec 12} {r : Request} (hawaits : AwaitsRead s port tag r)

include hawaits

/-- What the response to an awaited read does. -/
theorem exec_memoryReadResponse (data : List W8) (parity : BitVec 32) (poison : BitVec 4) (err : W8) :
    exec (.memoryReadResponse port tag data parity poison err) s =
      if err ≠ 0#8 then .next (((s.freeCredit port.toNat r).loseRead port.toNat r 0x08 (err.setWidth 64)).pump port.toNat)
      else if data.length ≠ r.size then .next s
      else if parityFails data parity then
        if r.repeated then .next (((s.freeCredit port.toNat r).loseRead port.toNat r 0x07 0#64).pump port.toNat)
        else .next ((s.freeCredit port.toNat r).repeatRead port.toNat r)
      else .next (((s.freeCredit port.toNat r).useRead port.toNat r data poison).pump port.toNat) := by
  obtain ⟨hport, hclocked, -, hfind⟩ := hawaits
  have hexec : exec (.memoryReadResponse port tag data parity poison err) s = execMemoryReadResponse port tag data parity poison err s := rfl
  have hanswered : (s.port port.toNat).answered false tag = some r := hfind
  rw [hexec, execMemoryReadResponse, if_pos (show port.toNat < s.portCount from hport), hanswered]
  exact if_neg (by simp [hclocked])

end

theorem strayResponsesChangeNothing : StrayResponsesChangeNothing := by
  intro s port tag data parity poison err hport
  have hread : exec (.memoryReadResponse port tag data parity poison err) s = execMemoryReadResponse port tag data parity poison err s := rfl
  have hack : exec (.memoryWriteAck port tag err) s = execMemoryWriteAck port tag err s := rfl
  have hcount : port.toNat < s.portCount := hport
  have hnone (write : Bool) (h : ∀ q ∈ (s.port port.toNat).inflight, q.write = write → q.tag ≠ tag) :
      (s.port port.toNat).answered write tag = none := by
    rw [Port.answered, List.find?_eq_none]
    intro q hq
    simpa using h q hq
  rw [hread, hack, execMemoryReadResponse, execMemoryWriteAck, if_pos hcount, if_pos hcount]
  refine ⟨fun h => ?_, fun h => ?_⟩
  · rcases h with h | h
    · split
      · rfl
      · rw [if_pos h]
    · rw [hnone false h]
  · rcases h with h | h
    · split
      · rfl
      · rw [if_pos h]
    · rw [hnone true h]

/-! ### Data that arrives -/

/-- The first `k` lines of a read's data reach host memory. -/
def State.linesArrive (s : State) (a : Nat) (data : List W8) (poison : BitVec 4) (k : Nat) : State :=
  (List.range k).foldl (fun s k => s.storeHost (a + 64 * k) ((data.drop (64 * k)).take 64) (poison.getLsbD k)) s

theorem State.linesArrive_succ (s : State) (a : Nat) (data : List W8) (poison : BitVec 4) (k : Nat) :
    s.linesArrive a data poison (k + 1) =
      (s.linesArrive a data poison k).storeHost (a + 64 * k) ((data.drop (64 * k)).take 64) (poison.getLsbD k) := by
  rw [State.linesArrive, List.range_succ, List.foldl_append, List.foldl_cons, List.foldl_nil, State.linesArrive]

/-- The lines of a read that have arrived stand as one range. -/
theorem State.linesArrive_host (s : State) (a : Nat) (data : List W8) (poison : BitVec 4) {k : Nat} (hk : 64 * k ≤ data.length) :
    (s.linesArrive a data poison (k + 1)).host = s.host.store a (data.take (64 * (k + 1))) := by
  induction k with
  | zero => simp [State.linesArrive, State.storeHost]
  | succ k ih =>
    have hlength : (data.take (64 * (k + 1))).length = 64 * (k + 1) := by
      rw [List.length_take]
      omega
    have hstore : (s.linesArrive a data poison (k + 1 + 1)).host =
        (s.linesArrive a data poison (k + 1)).host.store (a + 64 * (k + 1)) ((data.drop (64 * (k + 1))).take 64) := by
      rw [State.linesArrive_succ]
      rfl
    rw [hstore, ih (by omega), Nat.mul_succ 64 (k + 1), List.take_add, ← Memory.store_append, hlength]

/-- The bytes of a read that has arrived are its data's, and no other byte changes. -/
theorem State.readArrives_byte {s : State} {r : Request} {data : List W8} (hlength : data.length = r.size) (poison : BitVec 4) :
    (∀ i, i < r.size → (s.readArrives r data poison).host.byte (r.addr + i) = data.getD i 0#8) ∧
      ∀ a, (a < r.addr ∨ r.addr + r.size ≤ a) → (s.readArrives r data poison).host.byte a = s.host.byte a := by
  have hlines : s.readArrives r data poison = s.linesArrive r.addr data poison (ceilDiv r.size 64) := rfl
  rcases Nat.eq_zero_or_pos r.size with hzero | hpos
  · have hnone : s.linesArrive r.addr data poison (ceilDiv r.size 64) = s := by rw [hzero]; rfl
    rw [hlines, hnone]
    exact ⟨fun i hi => absurd hi (by omega), fun _ _ => rfl⟩
  · obtain ⟨k, hk⟩ : ∃ k, ceilDiv r.size 64 = k + 1 := ⟨ceilDiv r.size 64 - 1, by rw [ceilDiv]; omega⟩
    have hk' : 64 * k < r.size ∧ r.size ≤ 64 * (k + 1) := by
      rw [ceilDiv] at hk
      omega
    rw [hlines, hk, State.linesArrive_host _ _ _ _ (by omega), List.take_of_length_le (by omega)]
    refine ⟨fun i hi => ?_, fun a ha => Memory.byte_store_of_not (by rwa [hlength])⟩
    rw [Memory.byte_store _ _ _ _ (by omega), List.getD_eq_getElem _ _ (by omega)]

/-! ### Poison of the lines -/

theorem foldl_insert_marks {j : Nat} (us : List Nat) (m : List Nat) : j ∈ us.foldl (fun acc u => Marks.insert u acc) m ↔ j ∈ us ∨ j ∈ m := by
  induction us generalizing m with
  | nil => simp
  | cons u rest ih =>
    rw [List.foldl_cons, ih, Marks.mem_insert, List.mem_cons]
    tauto

theorem unitsOf_within_line {a n : Nat} (haligned : a % 64 = 0) (hpos : 0 < n) (hn : n ≤ 64) : unitsOf 64 a n = [a / 64] := by
  have hone : (a + n - 1) / 64 - a / 64 + 1 = 1 := by omega
  simp [unitsOf, hpos.ne', hone]

/-- The write of one line marks it where it comes with poison, clears its mark where it is whole, and leaves every other line's. -/
theorem mem_writeMarks_line {m : List Nat} {a n j : Nat} {poisoned : Bool} (haligned : a % 64 = 0) (hpos : 0 < n) (hn : n ≤ 64) :
    j ∈ writeMarks 64 m a n poisoned ↔ if poisoned then j = a / 64 ∨ j ∈ m else (j ∈ m ∧ (n = 64 → j ≠ a / 64)) := by
  rw [writeMarks]
  split
  · rw [foldl_insert_marks, unitsOf_within_line haligned hpos hn, List.mem_singleton]
  · rw [if_neg (by omega), List.mem_filter]
    simp only [Bool.not_eq_true', Bool.and_eq_false_iff, decide_eq_false_iff_not]
    refine and_congr_right fun _ => ?_
    omega

/-- The lines of a read carry their poison bits. -/
theorem State.readArrives_poison {s : State} {r : Request} {data : List W8} (hlength : data.length = r.size) (haligned : r.addr % 64 = 0)
    (poison : BitVec 4) (k : Nat) :
    (64 * k < r.size → poison.getLsbD k = true → r.addr / 64 + k ∈ (s.readArrives r data poison).hostPoison) ∧
      (64 * (k + 1) ≤ r.size → poison.getLsbD k = false → r.addr / 64 + k ∉ (s.readArrives r data poison).hostPoison) := by
  have hline (t : State) (i : Nat) (hi : 64 * i < r.size) :
      r.addr / 64 + k ∈ (t.storeHost (r.addr + 64 * i) ((data.drop (64 * i)).take 64) (poison.getLsbD i)).hostPoison ↔
        if poison.getLsbD i then k = i ∨ r.addr / 64 + k ∈ t.hostPoison
        else (r.addr / 64 + k ∈ t.hostPoison ∧ (64 * (i + 1) ≤ r.size → k ≠ i)) := by
    have hsize : ((data.drop (64 * i)).take 64).length = min 64 (r.size - 64 * i) := by
      rw [List.length_take, List.length_drop, hlength]
    have hmark := mem_writeMarks_line (m := t.hostPoison) (a := r.addr + 64 * i) (n := ((data.drop (64 * i)).take 64).length)
      (j := r.addr / 64 + k) (poisoned := poison.getLsbD i) (by omega) (by omega) (by omega)
    refine hmark.trans ?_
    have hplace : r.addr / 64 + k = (r.addr + 64 * i) / 64 ↔ k = i := by omega
    have hwhole : min 64 (r.size - 64 * i) = 64 ↔ 64 * (i + 1) ≤ r.size := by omega
    rw [hsize, hwhole, Ne, hplace]
  have hlines (m : Nat) (hm : ∀ i < m, 64 * i < r.size) (hk : k < m) :
      (poison.getLsbD k = true → r.addr / 64 + k ∈ (s.linesArrive r.addr data poison m).hostPoison) ∧
        (64 * (k + 1) ≤ r.size → poison.getLsbD k = false → r.addr / 64 + k ∉ (s.linesArrive r.addr data poison m).hostPoison) := by
    induction m with
    | zero => exact absurd hk (Nat.not_lt_zero _)
    | succ m ih =>
      rw [State.linesArrive_succ, hline _ _ (hm m (Nat.lt_succ_self _))]
      by_cases hkm : k = m
      · subst hkm
        refine ⟨fun hp => ?_, fun hwhole hp => ?_⟩
        · rw [if_pos hp]
          exact .inl rfl
        · rw [if_neg (by simp [hp])]
          exact fun h => h.2 hwhole rfl
      · obtain ⟨hmark, hclear⟩ := ih (fun i hi => hm i (by omega)) (by omega)
        refine ⟨fun hp => ?_, fun hwhole hp => ?_⟩
        · split
          · exact .inr (hmark hp)
          · exact ⟨hmark hp, fun _ => hkm⟩
        · split
          · exact fun h => h.elim hkm (hclear hwhole hp)
          · exact fun h => hclear hwhole hp h.1
  have hcount : ∀ i < ceilDiv r.size 64, 64 * i < r.size := fun i hi => by
    rw [ceilDiv] at hi
    omega
  have hreads : s.readArrives r data poison = s.linesArrive r.addr data poison (ceilDiv r.size 64) := rfl
  have hin : 64 * k < r.size → k < ceilDiv r.size 64 := fun h => by
    rw [ceilDiv]
    omega
  rw [hreads]
  exact ⟨fun hk => (hlines _ hcount (hin hk)).1, fun hwhole => (hlines _ hcount (hin (by omega))).2 hwhole⟩

/-! ### A read that fails -/

theorem State.portError_logs (s : State) (p : Nat) (r : Request) (severity cause status : Nat) (info : W64) :
    Logs s (s.portError p r severity cause status info) := State.logError_logs ..

/-- A descriptor whose read or write is lost ends with E_MEM and the port as DETAIL; its error record is logged. -/
theorem State.requestLost_of_local {s : State} {p : Nat} {r : Request} (hexchange : s.exchange r.ring r.pos = none) (cause : Nat) (info : W64) :
    s.requestLost p r cause info = (s.portError p r 3 cause stMem info).fail r.ring r.pos stMem p := by
  have hnone : (s.portError p r 3 cause stMem info).exchange r.ring r.pos = none := by
    rw [State.exchange, (s.portError_logs p r 3 cause stMem info).frame]
    exact hexchange
  rw [State.requestLost, hnone]

/-- A counted event is counted. -/
theorem State.logError_corrected (s : State) {e : ErrorEvent} (h : e.severity = 1#8) : (s.logError e).err.corrected = satInc s.err.corrected := by
  unfold State.logError
  extract_lets e' _ s'
  have he' : e'.severity = 1#8 := h
  have hs' : s'.err.corrected = satInc s.err.corrected := by
    simp only [s', he', if_true]
  split
  · exact hs'
  · split
    · exact hs'
    · split
      · exact hs'
      · rw [(State.request_sends ..).err]
        exact hs'

theorem State.entry_fail {s : State} {n : Nat} {pos : W32} {e : Entry} (he : s.entry n pos = some e) (hok : e.status = 0#8) (status detail : Nat) :
    (s.fail n pos status detail).entry n pos = some { e with status := BitVec.ofNat 8 status, detail := BitVec.ofNat 16 detail } :=
  (State.entry_modEntry_of_entry he (fun e h => by split <;> exact h)).trans (congrArg some (if_pos hok))

/-- The end of an operand whose read is lost. -/
theorem State.operandLost {s : State} {p : Nat} {r : Request} (hpurpose : r.purpose = .operand) (hexchange : s.exchange r.ring r.pos = none)
    (cause : Nat) (info : W64) :
    ∃ t, ((s.freeCredit p r).loseRead p r cause info).pump p = t ∧ t.hearths = s.hearths ∧ t.mantel = s.mantel ∧
      (∀ e, s.entry r.ring r.pos = some e → e.status = 0#8 →
        t.entry r.ring r.pos = some { e with status := 0x0A#8, detail := BitVec.ofNat 16 p }) ∧
      ∀ m, m ≠ r.ring → t.ring m = s.ring m := by
  have hfree : (s.freeCredit p r).exchange r.ring r.pos = none := hexchange
  have hlogs := (s.freeCredit p r).portError_logs p r 3 cause stMem info
  have hlose : (s.freeCredit p r).loseRead p r cause info =
      ((s.freeCredit p r).portError p r 3 cause stMem info).fail r.ring r.pos stMem p := by
    rw [← State.requestLost_of_local hfree, State.loseRead, hpurpose]
  rw [hlose]
  generalize (s.freeCredit p r).portError p r 3 cause stMem info = u at *
  have hring (m : Nat) : u.ring m = s.ring m := hlogs.ring m
  have hsends := (u.fail r.ring r.pos stMem p).pump_sends p
  refine ⟨_, rfl, hsends.hearths.trans hlogs.hearths, hsends.mantel.trans hlogs.mantel, fun e he hok => ?_, fun m hm => ?_⟩
  · rw [hsends.entry]
    refine State.entry_fail ?_ hok _ _
    rw [State.entry, hring]
    exact he
  · rw [hsends.ring, State.fail, State.ring_modEntry_ne _ _ _ hm, hring]

theorem operandsArriveOrFail : OperandsArriveOrFail := by
  intro s port tag r data parity poison err hawaits hpurpose hsealing hexchange hlength hsize
  have hexec := exec_memoryReadResponse hawaits data parity poison
  obtain ⟨-, -, hwaiting, -⟩ := hawaits
  have hsize' : data.length ≤ 256 := by omega
  refine ⟨fun hholds => ?_, fun hfails hfirst => ?_, fun hlost => ?_⟩
  · have hsends := (s.freeCredit port.toNat r).readArrives_sends r data poison
    have hports := (s.freeCredit port.toNat r).readArrives_ports r data poison
    obtain ⟨hbytes, hothers⟩ := State.readArrives_byte (s := s.freeCredit port.toNat r) hlength poison
    have hpoison (haligned : r.addr % 64 = 0) := State.readArrives_poison (s := s.freeCredit port.toNat r) hlength haligned poison
    rw [hexec, if_neg (by decide), if_neg (not_not_intro hlength), if_neg (by simp [(parityFails_eq_false hsize' parity).2 hholds]), State.useRead,
      hpurpose]
    dsimp only
    generalize (s.freeCredit port.toNat r).readArrives r data poison = t at *
    have hopen : t.sealing r.ring r.pos = false := by
      rw [State.sealing, hsends.entry]
      exact hsealing
    have hport : t.port port.toNat = { s.port port.toNat with inflight := (s.port port.toNat).inflight.erase r } := by
      rw [State.port, hports]
      exact s.port_freeCredit ..
    rw [hopen, if_neg Bool.false_ne_true, State.pump_of_none (by rw [hport]; exact hwaiting)]
    exact ⟨t, rfl, by rw [hport], hbytes, hothers, hpoison, hsends⟩
  · have hlogs := (s.freeCredit port.toNat r).portError_logs port.toNat r 1 0x06 0 0#64
    have hcorrected : ((s.freeCredit port.toNat r).portError port.toNat r 1 0x06 0 0#64).err.corrected = satInc s.err.corrected :=
      State.logError_corrected _ (by split <;> rfl)
    rw [hexec, if_neg (by decide), if_neg (not_not_intro hlength), if_pos ((parityFails_eq_true hsize' parity).2 hfails),
      if_neg (by simp [hfirst]), State.repeatRead]
    generalize (s.freeCredit port.toNat r).portError port.toNat r 1 0x06 0 0#64 = t at *
    have hsends := t.request_sends port.toNat { r with repeated := true }
    refine ⟨_, rfl, ?_, ?_, hsends.rings.trans hlogs.rings, hsends.hearths.trans hlogs.hearths, hsends.mantel.trans hlogs.mantel⟩
    · rw [hsends.err, hcorrected]
    · exact t.request_has port.toNat { r with repeated := true }
  · by_cases herr : err = 0#8
    · obtain ⟨hfails, hrepeated⟩ := hlost.resolve_left (not_not_intro herr)
      obtain ⟨t, ht, h⟩ := State.operandLost (p := port.toNat) hpurpose hexchange 0x07 0#64
      rw [hexec, if_neg (not_not_intro herr), if_neg (not_not_intro hlength), if_pos ((parityFails_eq_true hsize' parity).2 hfails), if_pos hrepeated, ht]
      exact ⟨t, rfl, h⟩
    · obtain ⟨t, ht, h⟩ := State.operandLost (p := port.toNat) hpurpose hexchange 0x08 (err.setWidth 64)
      rw [hexec, if_pos herr, ht]
      exact ⟨t, rfl, h⟩

/-! ### Descriptors -/

/-- One intact descriptor is the first that the ring has fetched. -/
theorem State.arriveDescriptors_one {s : State} {n : Nat} (hrun : (s.ring n).state = .run) (hnone : (s.ring n).failedRead = none)
    (hfetched : (s.ring n).fetched = []) (pos last : W32) {data : List W8} (hlength : data.length = 128) :
    s.arriveDescriptors n pos last 1 data =
      s.setRing n { s.ring n with fetched := [{ pos := pos, desc := BitVec.ofNat 1024 (leNat data) }] } := by
  have hdata : (data.drop (128 * 0)).take 128 = data := List.take_of_length_le hlength.le
  have hpos : pos + BitVec.ofNat 32 0 = pos := BitVec.add_zero pos
  rw [State.arriveDescriptors, if_pos (.inl hrun)]
  simp only [hnone, hfetched, List.range_one, List.map_cons, List.map_nil, Bool.not_false, List.filter_true, List.foldl_cons, List.foldl_nil,
    insertFetched, hdata, hpos]
  rw [State.settleReadFault, State.ring_setRing_self]

/-- A request that leaves flight is no earlier read. -/
theorem State.readsBefore_freeCredit {s : State} {n : Nat} {pos last : W32} (h : s.readsBefore n pos last = false) (p : Nat) (r : Request) :
    (s.freeCredit p r).readsBefore n pos last = false := by
  rw [State.readsBefore, List.any_eq_false] at h ⊢
  intro q hq
  have hbefore := h q hq
  simp only [Bool.or_eq_true, List.any_eq_true, not_or, not_exists, not_and] at hbefore ⊢
  obtain ⟨hinflight, hwaiting⟩ := hbefore
  by_cases hqp : q = p
  · subst hqp
    rw [s.port_freeCredit]
    exact ⟨fun x hx => hinflight x (List.mem_of_mem_erase hx), hwaiting⟩
  · rw [s.port_freeCredit_ne r hqp]
    exact ⟨hinflight, hwaiting⟩

/-- A failed read of a descriptor faults its ring, when every earlier read of the burst has been answered. -/
theorem State.readFailed_faults {s : State} {n : Nat} (hrun : (s.ring n).state = .run) (hnone : (s.ring n).failedRead = none) {pos last : W32}
    (hfirst : s.readsBefore n pos last = false) (port : Nat) :
    ∃ t, s.readFailed n pos last port = t ∧ (t.ring n).state = .fault ∧ (t.ring n).cause = 2#4 ∧ (∀ m, m ≠ n → t.ring m = s.ring m) ∧
      t.mantel = s.mantel ∧ t.hearths = s.hearths := by
  rw [State.readFailed, if_pos (.inl hrun), hnone]
  dsimp only
  rw [State.settleReadFault, State.ring_setRing_self]
  dsimp only
  rw [if_pos ⟨.inl hrun, hfirst⟩, State.setRing_setRing]
  have hlogs := State.logError_logs (s.setRing n { s.ring n with
    fetched := (s.ring n).fetched.filter (fun f => !decide ((f.pos - pos).toNat < (last - pos).toNat)), failedRead := none })
    (((ErrorEvent.plain 3 0x0C 0 port 0#64).of n pos 0 0).atAddr 3 ((s.ring n).sqBase.toNat + 128 * (pos.toNat % 2 ^ (s.ring n).log2Size.toNat)))
  generalize State.logError _ _ = t at *
  have hself : (t.ring n).state = .run := by rw [hlogs.ring, State.ring_setRing_self]; exact hrun
  obtain ⟨hraises, -⟩ := State.ringFault_of_live (.inl hself) 2
  refine ⟨_, rfl, ?_, ?_, fun m hm => ?_, hraises.mantel.trans hlogs.mantel, hraises.hearths.trans hlogs.hearths⟩
  · rw [hraises.ring, State.ring_setRing_self]
  · rw [hraises.ring, State.ring_setRing_self]
  · rw [hraises.ring, State.ring_setRing, if_neg hm, hlogs.ring, State.ring_setRing, if_neg hm]

theorem descriptorsArriveOrFault : DescriptorsArriveOrFault := by
  intro s port tag r data parity poison err last hawaits hpurpose hsize hlength hholds hrun hnone
  have hexec := exec_memoryReadResponse hawaits data parity poison
  have hparity : parityFails data parity = false := (parityFails_eq_false (by omega) parity).2 hholds
  obtain ⟨-, -, hwaiting, -⟩ := hawaits
  refine ⟨fun herr hpoison hfetched => ?_, fun hbad hbefore => ?_⟩
  · have harrives := State.arriveDescriptors_one (s := s.freeCredit port.toNat r) hrun hnone hfetched r.pos last hlength
    rw [hexec, if_neg (not_not_intro herr), if_neg (not_not_intro (hlength.trans hsize.symm)), hparity, if_neg Bool.false_ne_true, State.useRead,
      hpurpose]
    dsimp only
    rw [if_pos hpoison, harrives, State.pump_of_none (by rw [State.port_setRing, State.port_freeCredit]; exact hwaiting)]
    refine ⟨_, rfl, ?_, fun m hm => ?_, rfl⟩
    · exact State.ring_setRing_self ..
    · exact (State.ring_setRing ..).trans (if_neg hm)
  · obtain ⟨t, ht, hstate, hcause, hothers, hmantel, hhearths⟩ := State.readFailed_faults (s := s.freeCredit port.toNat r) (n := r.ring) hrun hnone
      (s.readsBefore_freeCredit hbefore port.toNat r) port.toNat
    have hsends := t.pump_sends port.toNat
    have hall : exec (.memoryReadResponse port tag data parity poison err) s = .next (t.pump port.toNat) := by
      rw [hexec]
      by_cases herr : err = 0#8
      · have hpoison := hbad.resolve_left (not_not_intro herr)
        rw [if_neg (not_not_intro herr), if_neg (not_not_intro (hlength.trans hsize.symm)), hparity, if_neg Bool.false_ne_true, State.useRead,
          hpurpose, ← ht]
        dsimp only
        rw [if_neg hpoison, if_neg (by decide)]
      · rw [if_pos herr, State.loseRead, hpurpose, ← ht]
        dsimp only
        rw [if_neg (by decide)]
    rw [hall]
    refine ⟨_, rfl, ?_, ?_, fun m hm => ?_, hsends.mantel.trans hmantel, hsends.hearths.trans hhearths⟩
    · rw [hsends.ring, hstate]
    · rw [hsends.ring, hcause]
    · rw [hsends.ring, hothers m hm]
      rfl

/-- Settles O46. -/
theorem readResponsesArriveOrFail : Obligations.ReadResponsesArriveOrFail :=
  ⟨operandsArriveOrFail, descriptorsArriveOrFault, strayResponsesChangeNothing⟩

end Sys2Proof.Machine
end

section
/-! SUPPORT. Acknowledgements of writes: outputs, records and error records (R243, R257, R294, R296, R349). -/

namespace Sys2Proof.Machine

/-! ### The logging of an event -/

theorem State.message_err (s : State) (v : Nat) (cls : BitVec 2) : LogsErrors s.err (s.message v cls).err := by
  rw [State.message]
  split
  · exact .refl _
  · dsimp only
    split
    · exact s.logError_err _
    · rw [(State.request_sends ..).err]
      exact .refl _

theorem State.eventFlag_err (s : State) (b : Nat) : LogsErrors s.err (s.eventFlag b).err := by
  rw [State.eventFlag]
  dsimp only
  split
  · exact State.message_err { s with blk := { s.blk with
      blkEvent := s.blk.blkEvent ||| BitVec.ofNat 9 (2 ^ b),
      eventCount := Tab.put 0#32 s.blk.eventCount b (Tab.at 0#32 s.blk.eventCount b + 1#32) } } _ _
  · exact .refl _

/-- What the entry of an event in the queue leaves of the error registers. -/
theorem State.event_err (s : State) (e : BlockEvent) (source detail : Nat) : LogsErrors s.err (s.event e source detail).err := by
  have hflag := s.eventFlag_err e.bit
  rw [State.event]
  generalize s.eventFlag e.bit = t at *
  dsimp only
  split
  · exact hflag
  · exact hflag.trans (State.eventFlag_err { t with blk := { t.blk with dropped := satInc t.blk.dropped } } _)

/-- With the error ring disabled, an event reaches no memory, and leaves a port without waiting requests without them. -/
theorem State.logError_of_noRing {s : State} (henable : s.err.enable = false) (e : ErrorEvent) :
    (s.logError e).host = s.host ∧ ∀ p, (s.port p).waiting = [] → ((s.logError e).port p).waiting = [] := by
  have hcount (c : Prop) [Decidable c] (u : State)
      (hu : u = if c then { s with err := { s.err with corrected := satInc s.err.corrected } } else s) :
      u.host = s.host ∧ u.ports = s.ports ∧ u.err.enable = false := by
    subst hu
    split
    · exact ⟨rfl, rfl, henable⟩
    · exact ⟨rfl, rfl, henable⟩
  unfold State.logError
  extract_lets e' _ s'
  obtain ⟨hhost, hports, henable'⟩ := hcount _ s' rfl
  have hport (p : Nat) : s'.port p = s.port p := by rw [State.port, hports, State.port]
  split
  · exact ⟨hhost, fun p hp => by rwa [hport]⟩
  · split
    · refine ⟨hhost, fun p hp => ?_⟩
      rw [State.port_setPort]
      split
      · next h =>
        subst h
        refine List.map_eq_nil_iff.2 ((congrArg Port.waiting (hport 2)).trans hp)
      · exact (congrArg Port.waiting (hport p)).trans hp
    · rw [if_pos (by simp [henable'])]
      exact ⟨hhost, fun p hp => (congrArg Port.waiting (hport p)).trans hp⟩

theorem State.portError_of_noRing {s : State} (henable : s.err.enable = false) (p : Nat) (r : Request) (severity cause status : Nat) (info : W64) :
    (s.portError p r severity cause status info).host = s.host ∧
      ∀ q, (s.port q).waiting = [] → ((s.portError p r severity cause status info).port q).waiting = [] :=
  State.logError_of_noRing henable _

theorem Raises.xch {s t : State} (h : Raises s t) : t.xch = s.xch := by rw [h.frame]
theorem Logs.xch {s t : State} (h : Logs s t) : t.xch = s.xch := by rw [h.frame]

/-! ### What an acknowledgement finds -/

theorem State.settleExchange_of_none {s : State} {n : Nat} {pos : W32} (h : s.exchange n pos = none) : s.settleExchange n pos = s := by
  rw [State.settleExchange, h]

section

variable {s : State} {port : BitVec 5} {tag : BitVec 12} {r : Request} (hport : port.toNat < 3 * s.cfg.stoves) (hclocked : s.clocked = true)
  (hfind : ((s.port port.toNat).inflight.find? fun q => q.write == true && q.tag == tag) = some r) (hexchange : s.exchange r.ring r.pos = none)

include hport hclocked hfind hexchange

/-- The acknowledgement of a write that belongs to no exchange. -/
theorem exec_memoryWriteAck (err : W8) {t : State}
    (ht : (if err = 0#8 then (s.freeCredit port.toNat r).useAck r else (s.freeCredit port.toNat r).loseWrite port.toNat r err) = t)
    (hxch : t.xch = s.xch) : exec (.memoryWriteAck port tag err) s = .next (t.pump port.toNat) := by
  have hexec : exec (.memoryWriteAck port tag err) s = execMemoryWriteAck port tag err s := rfl
  have hanswered : (s.port port.toNat).answered true tag = some r := hfind
  have hnone : (t.pump port.toNat).exchange r.ring r.pos = none := by
    rw [State.exchange, t.pump_sends]
    show t.xch.exchanges.find? _ = none
    rw [hxch]
    exact hexchange
  rw [hexec, execMemoryWriteAck, if_pos (show port.toNat < s.portCount from hport), hanswered]
  dsimp only
  rw [if_neg (by simp [hclocked]), ht, State.settleExchange_of_none hnone]
  exact congrArg Host.Outcome.next (ite_self _)

end

/-! ### Outputs -/

theorem State.useAck_output {s : State} {r : Request} (h : r.purpose = .output ∨ ∃ o i w, r.purpose = .atomic o i w) : s.useAck r = s := by
  rcases h with h | ⟨o, i, w, h⟩ <;> rw [State.useAck, h]

theorem State.loseWrite_output {s : State} {r : Request} (h : r.purpose = .output ∨ ∃ o i w, r.purpose = .atomic o i w) (p : Nat) (err : W8) :
    s.loseWrite p r err = (s.spoilHost r.addr r.bytes.length).requestLost p r 0x08 (err.setWidth 64) := by
  rcases h with h | ⟨o, i, w, h⟩ <;> rw [State.loseWrite, h]

/-- The bytes that a failed write addressed are undefined, and no other byte changes. -/
theorem State.spoilHost_byte (s : State) (a n : Nat) :
    (∃ k, ∀ i < n, (s.spoilHost a n).host.byte (a + i) = Config.freeByte (k + i)) ∧
      ∀ b, (b < a ∨ a + n ≤ b) → (s.spoilHost a n).host.byte b = s.host.byte b := by
  have hstore : (s.spoilHost a n).host = s.host.store a ((List.range n).map fun i => Config.freeByte (s.draws + i)) := rfl
  rw [hstore]
  refine ⟨⟨s.draws, fun i hi => ?_⟩, fun b hb => Memory.byte_store_of_not (by simpa using hb)⟩
  rw [Memory.byte_store _ _ _ _ (by simpa using hi)]
  simp

theorem outputsAreAcknowledged : OutputsAreAcknowledged := by
  intro s port tag r err hport hclocked hwaiting hfind hexchange hpurpose
  have hwaiting' : ((s.freeCredit port.toNat r).port port.toNat).waiting = [] := by
    rw [s.port_freeCredit]
    exact hwaiting
  refine ⟨?_, fun herr => ?_⟩
  · rw [exec_memoryWriteAck hport hclocked hfind hexchange 0#8 (t := s.freeCredit port.toNat r)
      ((if_pos rfl).trans (State.useAck_output hpurpose)) rfl, State.pump_of_none hwaiting']
    exact ⟨_, rfl, by rw [s.port_freeCredit], fun p hp => s.port_freeCredit_ne r hp, rfl⟩
  · obtain ⟨hspoiled, hkept⟩ := (s.freeCredit port.toNat r).spoilHost_byte r.addr r.bytes.length
    have hlocal : ((s.freeCredit port.toNat r).spoilHost r.addr r.bytes.length).exchange r.ring r.pos = none := hexchange
    have hlose := (s.freeCredit port.toNat r).loseWrite_output hpurpose port.toNat err
    rw [State.requestLost_of_local hlocal] at hlose
    have hframe : ((s.freeCredit port.toNat r).spoilHost r.addr r.bytes.length).rings = s.rings ∧
        ((s.freeCredit port.toNat r).spoilHost r.addr r.bytes.length).hearths = s.hearths ∧
        ((s.freeCredit port.toNat r).spoilHost r.addr r.bytes.length).mantel = s.mantel ∧
        ((s.freeCredit port.toNat r).spoilHost r.addr r.bytes.length).xch = s.xch ∧
        ((s.freeCredit port.toNat r).spoilHost r.addr r.bytes.length).err = s.err ∧
        (((s.freeCredit port.toNat r).spoilHost r.addr r.bytes.length).port port.toNat).waiting = [] := ⟨rfl, rfl, rfl, rfl, rfl, hwaiting'⟩
    have hbefore : (s.freeCredit port.toNat r).host = s.host := rfl
    generalize (s.freeCredit port.toNat r).spoilHost r.addr r.bytes.length = u at *
    obtain ⟨hrings, hhearths, hmantel, hxch, herr', hwaits⟩ := hframe
    have hlogs := u.portError_logs port.toNat r 3 0x08 stMem (err.setWidth 64)
    have hquiet (h : s.err.enable = false) := State.portError_of_noRing (s := u) (by rw [herr', h]) port.toNat r 3 0x08 stMem (err.setWidth 64)
    generalize u.portError port.toNat r 3 0x08 stMem (err.setWidth 64) = v at *
    have hsends := (v.fail r.ring r.pos stMem port.toNat).pump_sends port.toNat
    have hring (m : Nat) : v.ring m = s.ring m := by rw [hlogs.ring, State.ring, hrings, State.ring]
    rw [exec_memoryWriteAck hport hclocked hfind hexchange err ((if_neg herr).trans hlose) ((congrArg State.xch hlogs.frame).trans hxch)]
    refine ⟨_, rfl, hsends.hearths.trans (hlogs.hearths.trans hhearths), hsends.mantel.trans (hlogs.mantel.trans hmantel), fun hoff => ?_,
      fun e he hok => ?_, fun m hm => ?_⟩
    · obtain ⟨hhost, hnone⟩ := hquiet hoff
      rw [State.pump_of_none (s := v.fail r.ring r.pos stMem port.toNat) (hnone port.toNat hwaits),
        show (v.fail r.ring r.pos stMem port.toNat).host = v.host from rfl, hhost]
      exact ⟨hspoiled, hkept⟩
    · rw [hsends.entry]
      refine State.entry_fail ?_ hok _ _
      rw [State.entry, hring]
      exact he
    · rw [hsends.ring, State.fail, State.ring_modEntry_ne _ _ _ hm, hring]

/-! ### Records -/

theorem Ring.advance_entries (k : Nat) (r : Ring) : (Ring.advance k r).entries = r.entries := by
  induction k generalizing r with
  | zero => rfl
  | succ k ih =>
    rw [Ring.advance]
    split
    · exact ih _
    · rfl

/-- The position of a completed record is left, and HEAD passes it where no other record waits behind it. -/
theorem Ring.complete_frame (r : Ring) (pos : W32) :
    (∀ f ∈ (r.complete pos).entries, f.pos ≠ pos) ∧ (r.done = [] → r.head = pos → (r.complete pos).head = pos + 1#32) := by
  rw [Ring.complete]
  obtain ⟨hhead, -, hentries, -⟩ := Ring.settle_frame ((Ring.advance (r.done.length + 1)
    { r with entries := r.entries.filter fun e => e.pos != pos, done := r.done ++ [pos] }).pruneAccepts)
  rw [hhead, hentries]
  refine ⟨fun f hf => ?_, fun hdone hhead => ?_⟩
  · have hmem : f ∈ (r.entries.filter fun e => e.pos != pos) := by
      rwa [Ring.pruneAccepts, Ring.advance_entries] at hf
    simpa using (List.mem_filter.1 hmem).2
  · rw [hdone, ← hhead]
    simp [Ring.advance, Ring.pruneAccepts]

/-- A ring in FAULT that is still enabled stays in FAULT when a record is lost. -/
theorem Ring.loseRecord_of_fault {r : Ring} (hstate : r.state = .fault) (henable : r.enable = true) (pos : W32) :
    r.loseRecord pos = { r with entries := r.entries.filter fun e => e.pos != pos, lostRecords := r.lostRecords ++ [pos] } := by
  rw [Ring.loseRecord, Ring.settle]
  split
  · rw [if_neg (by simp [hstate, henable])]
  · rfl

/-- A record that could not be written faults its ring, which keeps its HEAD. -/
theorem State.recordFailed_faults {s : State} {n : Nat} {pos : W32} {e : Entry} (he : s.entry n pos = some e) (hrun : (s.ring n).state = .run)
    (henable : (s.ring n).enable = true) (port : Nat) :
    ∃ t, s.recordFailed n pos port = t ∧ (t.ring n).state = .fault ∧ (t.ring n).cause = 3#4 ∧ (t.ring n).head = (s.ring n).head ∧
      (∀ f ∈ (t.ring n).entries, f.pos ≠ pos) ∧ (∀ m, m ≠ n → t.ring m = s.ring m) ∧ t.mantel = s.mantel ∧ t.hearths = s.hearths ∧ t.xch = s.xch := by
  have hlogs := s.logError_logs (((ErrorEvent.plain 3 0x0D 0 port 0#64).of n pos (descOpcode e.desc) e.status.toNat).atAddr 3 ((s.ring n).cqSlot pos))
  rw [State.recordFailed, he]
  dsimp only
  generalize s.logError _ = u at *
  have hentry : u.entry n pos = some e := by
    rw [State.entry, hlogs.ring]
    exact he
  have hlive : (u.ring n).state = .run := by rw [hlogs.ring, hrun]
  obtain ⟨hraises, -⟩ := State.ringFault_of_live (.inl hlive) 3
  have hfault : ((u.ringFault n 3).ring n).state = .fault ∧ ((u.ringFault n 3).ring n).cause = 3#4 ∧
      ((u.ringFault n 3).ring n).head = (s.ring n).head ∧ ((u.ringFault n 3).ring n).enable = true := by
    rw [hraises.ring, State.ring_setRing_self]
    have hhead : (u.ring n).head = (s.ring n).head := by rw [hlogs.ring]
    have henabled : (u.ring n).enable = true := by rw [hlogs.ring, henable]
    exact ⟨rfl, rfl, hhead, henabled⟩
  have hxch : (u.ringFault n 3).xch = s.xch := hraises.xch.trans hlogs.xch
  have hothers (m : Nat) (hm : m ≠ n) : (u.ringFault n 3).ring m = s.ring m := by
    rw [hraises.ring, State.ring_setRing, if_neg hm, hlogs.ring]
  obtain ⟨hstate, hcause, hhead, henabled⟩ := hfault
  rw [hentry]
  dsimp only
  refine ⟨_, rfl, ?_, ?_, ?_, ?_, fun m hm => ?_, hraises.mantel.trans hlogs.mantel, hraises.hearths.trans hlogs.hearths, hxch⟩
  · rw [State.ring_modRing_self, Ring.loseRecord_of_fault hstate henabled]
    exact hstate
  · rw [State.ring_modRing_self, Ring.loseRecord_of_fault hstate henabled]
    exact hcause
  · rw [State.ring_modRing_self, Ring.loseRecord_of_fault hstate henabled]
    exact hhead
  · rw [State.ring_modRing_self, Ring.loseRecord_of_fault hstate henabled]
    exact fun f hf => by simpa using (List.mem_filter.1 hf).2
  · rw [State.ring_modRing_ne _ _ hm, hothers m hm]

/-- The only error record under way is acknowledged: ERR_TAIL passes it, and the event is raised. -/
theorem State.errorWritten_of_only {s : State} {w : ErrorEvent} (hwriting : s.err.writing = [w]) (hwritten : s.err.written = []) :
    ∃ t, s.errorWritten w.index = t ∧ t.err.tail = s.err.tail + 1#32 ∧ t.blk.blkEvent.getLsbD 3 = true ∧ t.rings = s.rings ∧
      t.mantel = s.mantel ∧ t.hearths = s.hearths ∧ t.xch = s.xch := by
  obtain ⟨u, hu⟩ : ∃ u : State, u = { s with err := { s.err with tail := s.err.tail + 1#32, writing := [], written := [] } } := ⟨_, rfl⟩
  have hwritten : s.errorWritten w.index = u.event .errRecord w.unit.toNat (256 * w.severity.toNat + w.cause.toNat) := by
    rw [hu]
    simp [State.errorWritten, State.errorsOut, hwriting, hwritten]
  have hraises := u.event_raises .errRecord w.unit.toNat (256 * w.severity.toNat + w.cause.toNat)
  have hflag := u.event_blkEvent .errRecord w.unit.toNat (256 * w.severity.toNat + w.cause.toNat)
  have herr := u.event_err .errRecord w.unit.toNat (256 * w.severity.toNat + w.cause.toNat)
  generalize u.event .errRecord _ _ = t at *
  refine ⟨t, hwritten, ?_, hflag, ?_, ?_, ?_, ?_⟩
  · rw [herr.only, hu]
  · rw [hraises.rings, hu]
  · rw [hraises.mantel, hu]
  · rw [hraises.hearths, hu]
  · rw [hraises.xch, hu]

theorem recordsAreAcknowledged : RecordsAreAcknowledged := by
  intro s port tag r err hport hclocked hwaiting hfind hexchange
  have hack := fun (err : W8) {t : State} => exec_memoryWriteAck hport hclocked hfind hexchange err (t := t)
  refine ⟨fun hpurpose e he => ⟨?_, fun herr hrun henable => ?_⟩, fun w hpurpose hwriting hindex hwritten => ?_⟩
  · have hentry : (s.freeCredit port.toNat r).entry r.ring r.pos = some e := he
    have huse : (s.freeCredit port.toNat r).useAck r = (s.freeCredit port.toNat r).modRing r.ring fun x => x.complete r.pos := by
      rw [State.useAck, hpurpose]
      dsimp only
      rw [hentry]
    have hwaits : (((s.freeCredit port.toNat r).modRing r.ring fun x => x.complete r.pos).port port.toNat).waiting = [] :=
      (congrArg Port.waiting (s.port_freeCredit ..)).trans hwaiting
    rw [hack 0#8 ((if_pos rfl).trans huse) rfl, State.pump_of_none hwaits]
    obtain ⟨hleft, hhead⟩ := (s.ring r.ring).complete_frame r.pos
    refine ⟨_, rfl, ?_, fun hdone hfirst => ?_, fun m hm => State.ring_modRing_ne _ _ hm, rfl⟩
    · rw [State.ring_modRing_self]
      exact hleft
    · rw [State.ring_modRing_self]
      exact hhead hdone hfirst
  · have hentry : ((s.freeCredit port.toNat r).spoilHost r.addr r.bytes.length).entry r.ring r.pos = some e := he
    obtain ⟨t, ht, hstate, hcause, hhead, hleft, hothers, hmantel, hhearths, hxch⟩ := State.recordFailed_faults hentry hrun henable port.toNat
    have hlose : (s.freeCredit port.toNat r).loseWrite port.toNat r err = t := by
      rw [← ht, State.loseWrite, hpurpose]
      dsimp only
      rw [hentry]
    have hsends := t.pump_sends port.toNat
    rw [hack err ((if_neg herr).trans hlose) hxch]
    refine ⟨_, rfl, ?_, ?_, ?_, ?_, fun m hm => ?_, hsends.mantel.trans hmantel, hsends.hearths.trans hhearths⟩
    · rw [hsends.ring, hstate]
    · rw [hsends.ring, hcause]
    · rw [hsends.ring, hhead]
      rfl
    · rw [hsends.ring]
      exact hleft
    · rw [hsends.ring, hothers m hm]
      rfl
  · have huse : (s.freeCredit port.toNat r).useAck r = (s.freeCredit port.toNat r).errorWritten w.index := by
      rw [State.useAck, hpurpose, hindex]
    obtain ⟨t, ht, htail, hflag, hrings, hmantel, hhearths, hxch⟩ :=
      State.errorWritten_of_only (s := s.freeCredit port.toNat r) hwriting hwritten
    have hsends := t.pump_sends port.toNat
    rw [hack 0#8 ((if_pos rfl).trans (huse.trans ht)) hxch]
    refine ⟨_, rfl, ?_, ?_, hsends.rings.trans hrings, hsends.mantel.trans hmantel, hsends.hearths.trans hhearths⟩
    · rw [hsends.err, htail]
      rfl
    · rw [hsends.blk]
      exact hflag

/-- Settles O47. -/
theorem writeAcknowledgementsComplete : Obligations.WriteAcknowledgementsComplete :=
  ⟨outputsAreAcknowledged, recordsAreAcknowledged⟩

end Sys2Proof.Machine
end

section
/-! SUPPORT. Alarms: what their policies do at once, the wipe that they start, and their end (R339 to R342, R345). -/

namespace Sys2Proof.Machine

/-! ### What happens at once -/

theorem State.startWake_vault (s : State) (code : BitVec 3) : (s.startWake code).vault = s.vault := by
  rw [State.startWake]
  split
  · rw [(State.wakeWithBlock_wakes { s with pwr := { s.pwr with
      sleeping := .doze, block := .waking, lastWake := code, wakeCount := satInc s.pwr.wakeCount } } s.allHearths).only]
  · rfl
  · rfl
  · rfl

theorem State.startWake_queuedAlarms (s : State) (code : BitVec 3) : (s.startWake code).pwr.queuedAlarms = s.pwr.queuedAlarms := by
  rw [State.startWake]
  split
  · rw [(State.wakeWithBlock_wakes { s with pwr := { s.pwr with
      sleeping := .doze, block := .waking, lastWake := code, wakeCount := satInc s.pwr.wakeCount } } s.allHearths).only]
  · rfl
  · rfl
  · rfl

/-- The Seal as a policy leaves it at once. -/
def Seal.punished (v : Seal) (p : Policy) : Seal :=
  { v with
    attest := v.attest && decide (p.toNat < 2), keysErased := v.keysErased || decide (2 ≤ p.toNat), blocked := v.blocked || decide (2 ≤ p.toNat),
    lcFuse := if p = polScrap then 0xF#4 else v.lcFuse }

theorem State.punish_vault (s : State) (p : Policy) : (s.punish p).vault = s.vault.punished p := by
  rw [State.punish, Seal.punished]
  by_cases hkeys : 2 ≤ p.toNat
  · have hnot : ¬p.toNat < 2 := by omega
    rw [if_pos hkeys]
    by_cases hscrap : p = polScrap
    · rw [if_pos hscrap, if_pos hscrap]
      simp [hkeys, hnot, State.eraseKeys, State.zeroiseKeys, State.endSessions]
    · rw [if_neg hscrap, if_neg hscrap]
      simp [hkeys, hnot, State.eraseKeys, State.zeroiseKeys, State.endSessions]
  · have hscrap : p ≠ polScrap := fun h => hkeys (by rw [h]; decide)
    have hlow : p.toNat < 2 := by omega
    rw [if_neg hkeys, if_neg hscrap, if_neg hscrap]
    simp [hkeys, hlow]

theorem State.punish_pwr (s : State) (p : Policy) : (s.punish p).pwr = s.pwr := by
  rw [State.punish]
  split <;> split <;> rfl

/-! ### The abort of work -/

theorem State.sendAborts_vault (s : State) (x : Exchange) (status : Nat) : (s.sendAborts x status).vault = s.vault :=
  List.foldlRecOn (motive := fun t : State => t.vault = s.vault) _ _ rfl fun _ ht _ _ => ht

theorem State.abortExchanges_vault (s : State) : s.abortExchanges.vault = s.vault :=
  List.foldlRecOn (motive := fun t : State => t.vault = s.vault) _ _ rfl fun t ht x _ => (t.sendAborts_vault x stAborted).trans ht

theorem State.spoilOutputs_vault (s : State) : s.spoilOutputs.vault = s.vault :=
  List.foldlRecOn (motive := fun t : State => t.vault = s.vault) _ _ rfl fun _ ht _ _ => ht

theorem State.abortRing_takes (s : State) (n : Nat) : TakesInputs s (s.abortRing n) := by
  rw [State.abortRing]
  split
  · exact .refl s
  · exact (s.setRing_takes n (s.ring n).abortAll).trans (TakesInputs.foldl (fun t e => t.writeRecord_takes n e) _ _)

/-- The work of the block stops, and a wipe of memory starts (R341). -/
theorem State.haltWork_wipes (s : State) :
    (∃ start, s.haltWork.vault = { s.vault with wiping := true, wipeStart := start, wipeKind := 3#3 }) ∧ s.haltWork.mantel = [] ∧
      ∀ h, (s.haltWork.hearth h).store = [] ∧ (s.haltWork.hearth h).acc = [] ∧ (s.haltWork.hearth h).xab = [] := by
  have hbefore : s.abortExchanges.spoilOutputs.dropWork.vault = s.vault :=
    (State.spoilOutputs_vault _).trans s.abortExchanges_vault
  have htakes := TakesInputs.foldl (fun s n => State.abortRing_takes s n) (List.range 128) ((s.abortExchanges.spoilOutputs.dropWork.startWipe 3#3).wipeMemories)
  have hwork : s.haltWork = (List.range 128).foldl (fun s n => s.abortRing n) ((s.abortExchanges.spoilOutputs.dropWork.startWipe 3#3).wipeMemories) := rfl
  rw [hwork]
  generalize s.abortExchanges.spoilOutputs.dropWork = d at *
  generalize (List.range 128).foldl _ _ = t at *
  refine ⟨⟨d.audit.count, ?_⟩, ?_, fun h => ?_⟩
  · rw [htakes.only, ← hbefore]
    rfl
  · rw [htakes.only]
    rfl
  · have hhearth : t.hearth h = Tab.at Hearth.reset (Tab.remap Hearth.reset d.hearths fun x => { x.wiped with xab := [] }) h := by
      rw [htakes.only]
      rfl
    rw [hhearth]
    exact Tab.at_remap_of_forall (d := Hearth.reset) (P := fun x : Hearth => x.store = [] ∧ x.acc = [] ∧ x.xab = []) (f := fun x => { x.wiped with xab := [] })
      ⟨rfl, rfl, rfl⟩ (fun _ => ⟨rfl, rfl, rfl⟩) h

/-! ### A source that trips -/

/-- The event of an alarm waits in sleep, and is raised otherwise; the Seal's registers stand as before it. -/
theorem State.alarmEvent_raises (s : State) (i : Nat) (p : Policy) :
    ∃ q, Raises { s with pwr := { s.pwr with queuedAlarms := q } } (s.alarmEvent i p) ∧
      (s.pwr.block = .run → (s.alarmEvent i p).blk.blkEvent.getLsbD 6 = true) ∧
      (s.pwr.block = .doze ∨ s.pwr.block = .hibernate → q = s.pwr.queuedAlarms ++ [(i, p)]) := by
  rw [State.alarmEvent]
  split
  · next h =>
    refine ⟨s.pwr.queuedAlarms, s.event_raises .., fun _ => s.event_blkEvent .sealAlarm _ _, fun hasleep => ?_⟩
    rcases hasleep with h' | h' <;> simp [h'] at h
  · next h => exact ⟨_, .refl _, fun hrun => absurd (.inl hrun) h, fun _ => rfl⟩

/-- Where fuses are being programmed, some first fields were blown. -/
theorem State.cutFuses_eq (s : State) : ∃ k d, s.cutFuses = { s with
    draws := d, vault := if s.vault.blowing then { s.vault.blowFirst k with busy := false, blowing := false, goal := 0#3 } else s.vault } := by
  rw [State.cutFuses]
  split
  · exact ⟨_, _, rfl⟩
  · exact ⟨0, s.draws, rfl⟩

/-- The Seal with PEND, SENSE and the count of a source. -/
def Seal.noted (v : Seal) (i : Nat) : Seal :=
  { v with
    pend := setBit v.pend i true, sense := setBit v.sense i true,
    alarmCount := Tab.put 0#32 v.alarmCount i (satInc (Tab.at 0#32 v.alarmCount i)) }

/-- The Seal as a source that trips leaves it under LOG; `k` fields of a transition that is cut off were blown. -/
def Seal.tripped (v : Seal) (i : Nat) (k : Nat) : Seal :=
  if v.blowing then { (v.noted i).blowFirst k with busy := false, blowing := false, goal := 0#3 } else v.noted i

/-- A trip notes the source, raises or queues its event, and cuts off the programming of fuses. -/
def State.tripped (s : State) (i : Nat) (p : Policy) : State := ((s.noteAlarm i).alarmEvent i p).cutFuses

theorem State.tripped_frame (s : State) (i : Nat) (p : Policy) :
    ∃ k, (s.tripped i p).vault = s.vault.tripped i k ∧ (s.tripped i p).rings = s.rings ∧ (s.tripped i p).hearths = s.hearths ∧
      (s.tripped i p).mantel = s.mantel ∧ (s.tripped i p).audit = s.audit ∧ (s.tripped i p).pwr.block = s.pwr.block ∧
      (s.pwr.block = .run → (s.tripped i p).blk.blkEvent.getLsbD 6 = true) ∧
      (s.pwr.block = .doze ∨ s.pwr.block = .hibernate → (s.tripped i p).pwr.queuedAlarms = s.pwr.queuedAlarms ++ [(i, p)]) := by
  obtain ⟨q, hraises, hflag, hqueue⟩ := (s.noteAlarm i).alarmEvent_raises i p
  rw [State.tripped]
  generalize (s.noteAlarm i).alarmEvent i p = t at *
  have hvault : t.vault = s.vault.noted i := by
    rw [hraises.frame]
    rfl
  have hpwr : t.pwr = { s.pwr with queuedAlarms := q } := by
    rw [hraises.frame]
    rfl
  have hblock : t.pwr.block = s.pwr.block := by rw [hpwr]
  have hqueued : t.pwr.queuedAlarms = q := by rw [hpwr]
  have haudit : t.audit = s.audit := by
    rw [hraises.frame]
    rfl
  obtain ⟨k, d, hcut⟩ := t.cutFuses_eq
  rw [hcut]
  refine ⟨k, ?_, hraises.rings, hraises.hearths, hraises.mantel, haudit, ?_, hflag, fun hasleep => ?_⟩
  · dsimp only
    rw [hvault]
    rfl
  · exact hblock
  · exact hqueued.trans (hqueue hasleep)

theorem Seal.tripped_notes {s t : State} {i k : Nat} (hp : t.vault.pend = (s.vault.tripped i k).pend)
    (hs : t.vault.sense = (s.vault.tripped i k).sense) (hc : t.vault.alarmCount = (s.vault.tripped i k).alarmCount)
    (hb : t.vault.blowing = (s.vault.tripped i k).blowing) (hy : t.vault.busy = (s.vault.tripped i k).busy) : AlarmNoted s t i := by
  have hfields : (s.vault.tripped i k).pend = setBit s.vault.pend i true ∧ (s.vault.tripped i k).sense = setBit s.vault.sense i true ∧
      (s.vault.tripped i k).alarmCount = Tab.put 0#32 s.vault.alarmCount i (satInc (Tab.at 0#32 s.vault.alarmCount i)) ∧
      (s.vault.tripped i k).blowing = false ∧ (s.vault.blowing = true → (s.vault.tripped i k).busy = false) := by
    rw [Seal.tripped]
    split
    · exact ⟨rfl, rfl, rfl, rfl, fun _ => rfl⟩
    · next h => exact ⟨rfl, rfl, rfl, Bool.eq_false_iff.2 h, fun hb => absurd hb h⟩
  obtain ⟨hpend, hsense, hcount, hblowing, hbusy⟩ := hfields
  refine ⟨fun j hj => ⟨?_, ?_⟩, fun j => ?_, hb.trans hblowing, fun h => hy.trans (hbusy h)⟩
  · rw [hp, hpend, getLsbD_setBit_true _ _ _ hj]
  · rw [hs, hsense, getLsbD_setBit_true _ _ _ hj]
  · rw [hc, hcount, Tab.at_put]
    split
    · next h => rw [h]
    · rfl

/-! ### Policies above LOG -/

/-- The keys and fuses of a policy, and that the alarm is handled. -/
def State.handled (s : State) (p : Policy) : State :=
  { s.punish p with vault := { s.vault.punished p with handling := some (stronger s.vault.handling p) } }

theorem State.punish_handling (s : State) (p : Policy) : (s.punish p).vault.handling = s.vault.handling ∧
    (s.punish p).vault.halted = s.vault.halted ∧ (s.punish p).vault.resetting = s.vault.resetting := by
  rw [s.punish_vault p]
  exact ⟨rfl, rfl, rfl⟩

theorem State.enforce_of_halted {s : State} (h : s.vault.halted = true) (p : Policy) : s.enforce p = s.punish p := by
  rw [State.enforce, (s.punish_handling p).2.1]
  exact if_pos h

theorem State.enforce_of_running {s : State} (h : s.vault.halted = false) (p : Policy) : s.enforce p =
    if s.vault.handling.isSome || s.vault.resetting then s.handled p
    else if s.pwr.block = .run then (s.handled p).haltWork else (s.handled p).startWake 4#3 := by
  obtain ⟨hhandling, hhalted, hresetting⟩ := s.punish_handling p
  have hfirst : (!decide (s.vault.handling = none) || s.vault.resetting) = (s.vault.handling.isSome || s.vault.resetting) := by
    cases s.vault.handling <;> rfl
  have hpwr := s.punish_pwr p
  have hvault := s.punish_vault p
  rw [State.enforce, State.handled]
  generalize s.punish p = u at *
  rw [hhalted, if_neg (by simp [h]), hhandling, hvault]
  have hreset : (s.vault.punished p).resetting = s.vault.resetting := rfl
  have hblock : u.pwr.block = s.pwr.block := by rw [hpwr]
  dsimp only
  rw [hreset, hfirst, hblock]

/-- What a policy above LOG leaves of the Seal. -/
theorem State.enforce_vault (s : State) (p : Policy) : ∃ handling wiping start kind, (s.enforce p).vault =
    { s.vault.punished p with handling := handling, wiping := wiping, wipeStart := start, wipeKind := kind } := by
  by_cases hhalted : s.vault.halted = true
  · rw [State.enforce_of_halted hhalted, s.punish_vault p]
    exact ⟨_, _, _, _, rfl⟩
  · rw [State.enforce_of_running (Bool.eq_false_iff.2 hhalted)]
    split
    · exact ⟨_, _, _, _, rfl⟩
    · split
      · obtain ⟨⟨start, hvault⟩, -, -⟩ := (s.handled p).haltWork_wipes
        rw [hvault]
        exact ⟨_, _, _, _, rfl⟩
      · rw [(s.handled p).startWake_vault]
        exact ⟨_, _, _, _, rfl⟩

/-- How the handling of an alarm above LOG starts, or goes on. -/
theorem State.enforce_handles {s : State} (hhalted : s.vault.halted = false) (p : Policy) :
    (s.enforce p).vault.handling = some (stronger s.vault.handling p) ∧
      (s.vault.handling = none → s.vault.resetting = false → s.pwr.block = .run →
        (s.enforce p).vault.wiping = true ∧ (s.enforce p).vault.wipeKind = 3#3 ∧ (s.enforce p).mantel = [] ∧
          ∀ h, ((s.enforce p).hearth h).store = [] ∧ ((s.enforce p).hearth h).acc = [] ∧ ((s.enforce p).hearth h).xab = []) ∧
      (s.vault.handling = none → s.vault.resetting = false → (s.pwr.block = .doze ∨ s.pwr.block = .hibernate) →
        (s.enforce p).pwr.block = .waking ∧ (s.enforce p).pwr.lastWake = 4#3 ∧
          (s.enforce p).pwr.queuedAlarms = s.pwr.queuedAlarms) := by
  obtain ⟨⟨start, hvault⟩, hmantel, hhearths⟩ := (s.handled p).haltWork_wipes
  have hpwr : (s.handled p).pwr = s.pwr := s.punish_pwr p
  rw [State.enforce_of_running hhalted]
  refine ⟨?_, fun hnone hreset hrun => ?_, fun hnone hreset hasleep => ?_⟩
  · split
    · rfl
    · split
      · rw [hvault]
        rfl
      · rw [(s.handled p).startWake_vault]
        rfl
  · rw [if_neg (by simp [hnone, hreset]), if_pos hrun, hvault]
    exact ⟨rfl, rfl, hmantel, hhearths⟩
  · have hawake : s.pwr.block ≠ .run := by rcases hasleep with h | h <;> simp [h]
    obtain ⟨hwaking, hlast, -, -⟩ := State.startWake_of_asleep (s := s.handled p) (by rw [hpwr]; exact hasleep) 4#3
    rw [if_neg (by simp [hnone, hreset]), if_neg hawake]
    exact ⟨hwaking, hlast, ((s.handled p).startWake_queuedAlarms 4#3).trans (congrArg Power.queuedAlarms hpwr)⟩

theorem alarmsActByTheirPolicy : AlarmsActByTheirPolicy := by
  intro s i policy
  have hexec : exec (.alarmTrip i) s = execAlarmTrip i s := rfl
  refine ⟨fun hquiet => by rw [hexec, execAlarmTrip, if_pos hquiet], fun hseal hoff hnamed => ?_⟩
  obtain ⟨k, hvault, hrings, hhearths, hmantel, haudit, hblock, hflag, hqueue⟩ := s.tripped_frame i.toNat policy
  have htrip : exec (.alarmTrip i) s = if policy = polLog then .next (s.tripped i.toNat policy)
      else .next ((s.tripped i.toNat policy).enforce policy) := by
    rw [hexec, execAlarmTrip]
    exact if_neg (by simp [hseal, hoff, hnamed])
  have hkept : (s.vault.tripped i.toNat k).handling = s.vault.handling ∧ (s.vault.tripped i.toNat k).attest = s.vault.attest ∧
      (s.vault.tripped i.toNat k).halted = s.vault.halted ∧ (s.vault.tripped i.toNat k).resetting = s.vault.resetting ∧
      (s.vault.tripped i.toNat k).lcFuse = if s.vault.blowing then (s.vault.blowFirst k).lcFuse else s.vault.lcFuse := by
    rw [Seal.tripped]
    split
    · exact ⟨rfl, rfl, rfl, rfl, rfl⟩
    · exact ⟨rfl, rfl, rfl, rfl, rfl⟩
  obtain ⟨hhandling, hattest, hhalted, hresetting, hfuse⟩ := hkept
  rw [htrip]
  generalize s.tripped i.toNat policy = u at *
  by_cases hlog : policy = polLog
  · rw [if_pos hlog, hlog]
    refine ⟨u, rfl, Seal.tripped_notes (by rw [hvault]) (by rw [hvault]) (by rw [hvault]) (by rw [hvault]) (by rw [hvault]),
      fun _ => ⟨hrings, hhearths, hmantel, haudit, by rw [hvault, hhandling], by rw [hvault, hattest]⟩, fun hrun _ => hflag hrun,
      fun _ => ⟨k, by rw [hvault, hfuse]⟩, fun h => absurd h (by decide), fun h => absurd h (by decide), fun h => absurd rfl h⟩
  · rw [if_neg hlog]
    obtain ⟨handling, wiping, start, kind, hafter⟩ := u.enforce_vault policy
    refine ⟨_, rfl, Seal.tripped_notes (by rw [hafter, ← hvault]; rfl) (by rw [hafter, ← hvault]; rfl) (by rw [hafter, ← hvault]; rfl)
      (by rw [hafter, ← hvault]; rfl) (by rw [hafter, ← hvault]; rfl), fun h => absurd h hlog, fun _ h => absurd h hlog,
      fun hscrap => ⟨k, ?_⟩, fun hkeys => ?_, fun hscrap => ?_, fun _ hrunning => ?_⟩
    · rw [hafter, ← hfuse, ← hvault]
      exact if_neg hscrap
    · rw [hafter]
      simp only [Seal.punished, hkeys, decide_true, Bool.or_true, true_and, not_lt.2 hkeys, decide_false, Bool.and_false]
    · rw [hafter]
      exact if_pos hscrap
    · obtain ⟨hhandles, hwipes, hwakes⟩ := State.enforce_handles (s := u) (by rw [hvault, hhalted, hrunning]) policy
      rw [hvault, hhandling] at hhandles hwipes hwakes
      rw [hresetting, hblock] at hwipes hwakes
      refine ⟨fun q hq => ?_, fun hnone => ⟨?_, fun hreset hrun => hwipes hnone hreset hrun, fun hreset hasleep => ?_⟩⟩
      · rw [hhandles, hq]
        rfl
      · rw [hhandles, hnone]
        rfl
      · obtain ⟨hwaking, hlast, hqueued⟩ := hwakes hnone hreset hasleep
        exact ⟨hwaking, hlast, hqueued.trans (hqueue hasleep)⟩

/-! ### The end of an alarm -/

/-- A port from which no record, PHASE word or interrupt message waits to leave. -/
def Port.withoutRecords (x : Port) : Port :=
  { x with waiting := x.waiting.filter fun q => match q.purpose with
    | .recordBody => false
    | .phase => false
    | .interrupt _ => false
    | _ => true }

theorem Port.withoutRecords_waiting (x : Port) :
    ∀ r ∈ x.withoutRecords.waiting, r.purpose ≠ .recordBody ∧ r.purpose ≠ .phase ∧ ∀ v, r.purpose ≠ .interrupt v := by
  intro r hr
  have hkept := (List.mem_filter.1 hr).2
  refine ⟨fun h => ?_, fun h => ?_, fun v h => ?_⟩ <;> simp [h] at hkept

theorem alarmsAbandonRecordsAndEnd : AlarmsAbandonRecordsAndEnd := by
  intro s
  have hexec : exec .alarmRecordAbandon s = execAlarmRecordAbandon s := rfl
  refine ⟨fun hhandling hwiping hreset => ?_, fun hnot => ?_, fun i => ⟨_, rfl, rfl, fun j hj => ?_⟩⟩
  · rw [hexec, execAlarmRecordAbandon, if_pos ⟨hhandling, hwiping, hreset⟩]
    refine ⟨_, rfl, rfl, fun n => ?_, fun p => ?_⟩
    · exact State.ringsOff_ring _ n
    · intro r hr
      have hleft := Tab.at_remap_of_forall (d := Port.reset) (t := s.ports) (f := Port.withoutRecords)
        (P := fun x : Port => ∀ r ∈ x.waiting, r.purpose ≠ .recordBody ∧ r.purpose ≠ .phase ∧ ∀ v, r.purpose ≠ .interrupt v)
        (fun r hr => absurd hr List.not_mem_nil) Port.withoutRecords_waiting p
      exact hleft r hr
  · rw [hexec, execAlarmRecordAbandon, if_neg hnot]
  · refine (getLsbD_setBit_false _ _ _ hj).trans ?_
    simp

/-- Settles O33. -/
theorem alarmsFromTripToEnd : Obligations.AlarmsFromTripToEnd := ⟨alarmsActByTheirPolicy, alarmsAbandonRecordsAndEnd⟩

end Sys2Proof.Machine
end

section
/-! SUPPORT. COUNT and the soft errors of its time (R272), and the pulses of SYNC (R273, R374). -/

namespace Sys2Proof.Machine

/-! ### Soft errors -/

/-- What a soft error keeps of a hearth: its power and every byte and entry. -/
def Hearth.SameContents (x y : Hearth) : Prop :=
  y.power = x.power ∧ y.store = x.store ∧ y.acc = x.acc ∧ y.tiles = x.tiles ∧ y.live = x.live ∧ y.jobs = x.jobs ∧ y.shapes = x.shapes

/-- Of `s`, at most marks of the hearths and of the Mantel differ in `t`. -/
structure Strikes (s t : State) : Prop where
  only : t = { s with hearths := t.hearths, mantelPoison := t.mantelPoison, mantelBad := t.mantelBad, mantelSoft := t.mantelSoft }
  contents : ∀ h, (s.hearth h).SameContents (t.hearth h)

theorem Strikes.refl (s : State) : Strikes s s := ⟨rfl, fun _ => ⟨rfl, rfl, rfl, rfl, rfl, rfl, rfl⟩⟩

theorem Strikes.trans {s t u : State} (h : Strikes s t) (k : Strikes t u) : Strikes s u := by
  refine ⟨k.only.trans (by rw [h.only]), fun i => ?_⟩
  obtain ⟨h1, h2, h3, h4, h5, h6, h7⟩ := h.contents i
  obtain ⟨k1, k2, k3, k4, k5, k6, k7⟩ := k.contents i
  exact ⟨k1.trans h1, k2.trans h2, k3.trans h3, k4.trans h4, k5.trans h5, k6.trans h6, k7.trans h7⟩

theorem State.modHearth_strikes {s : State} {h : Nat} {f : Hearth → Hearth} (hf : ∀ x : Hearth, x.SameContents (f x)) : Strikes s (s.modHearth h f) := by
  refine ⟨rfl, fun i => ?_⟩
  rw [State.modHearth, State.hearth_setHearth]
  split
  · next hi => rw [hi]; exact hf _
  · exact ⟨rfl, rfl, rfl, rfl, rfl, rfl, rfl⟩

theorem State.strike_strikes (s : State) (u : Upset) : Strikes s (s.strike u) := by
  have hon (f : Hearth → Hearth) (hf : ∀ x : Hearth, x.SameContents (f x)) :
      Strikes s (if u.hearth.toNat < s.cfg.hearths ∧ (s.hearth u.hearth.toNat).power ≠ .shut then s.modHearth u.hearth.toNat f else s) := by
    split
    · exact State.modHearth_strikes hf
    · exact .refl s
  have hsame (x : Hearth) : x.SameContents x := ⟨rfl, rfl, rfl, rfl, rfl, rfl, rfl⟩
  unfold State.strike
  extract_lets h k add soft on slots
  cases u.place <;> dsimp only
  case live | shadow => exact hon _ hsame
  case stats | topk =>
    split
    · exact hon _ hsame
    · exact .refl s
  case store | acc =>
    split
    · exact hon _ hsame
    · exact .refl s
  case mantel =>
    split
    · exact ⟨rfl, fun _ => hsame _⟩
    · exact .refl s

/-! ### COUNT -/

/-- With no slew to apply, the counts advance by the period. -/
theorem Audit.tick_of_noSlew {a : Audit} (h : a.slew = 0) (d : Nat) : a.tick d = { a with
    count := a.count + BitVec.ofNat 64 d, powered := a.powered + BitVec.ofNat 64 d, syncOut := (a.tick d).syncOut } := by
  have hstep : (if crosses 2048 a.powered.toNat d then (if 0 < a.slew then (1 : Int) else if a.slew < 0 then -1 else 0) else 0) = 0 := by
    simp [h]
  rw [Audit.tick, hstep]
  simp [h]

/-- Settles O29. -/
theorem countAdvancesByTheStateOfTheBlock : Obligations.CountAdvancesByTheStateOfTheBlock := by
  intro s hslew
  have hexec : exec .countTick s = execCountTick s := rfl
  refine ⟨fun hoff => by rw [hexec, execCountTick, hoff], fun hoff => ?_⟩
  intro d
  have hstrikes : Strikes s ((Config.softErrors s.draws).foldl (fun s u => s.strike u) s) :=
    List.foldlRecOn (motive := fun t => Strikes s t) _ _ (.refl s) fun t ht u _ => ht.trans (t.strike_strikes u)
  have htick (k : Nat) (hk : BitVec.ofNat 64 k = d) (hrun : exec .countTick s =
      .next { (Config.softErrors s.draws).foldl (fun s u => s.strike u) s with audit := s.audit.tick k, draws := s.draws + 1 }) :
      ∃ t, exec .countTick s = .next t ∧
        t.audit = { s.audit with count := s.audit.count + d, powered := s.audit.powered + d, syncOut := t.audit.syncOut } ∧
        (∀ h, (t.hearth h).store = (s.hearth h).store ∧ (t.hearth h).acc = (s.hearth h).acc ∧ (t.hearth h).tiles = (s.hearth h).tiles ∧
          (t.hearth h).live = (s.hearth h).live ∧ (t.hearth h).jobs = (s.hearth h).jobs ∧ (t.hearth h).shapes = (s.hearth h).shapes) ∧
        t = { s with audit := t.audit, hearths := t.hearths, mantelPoison := t.mantelPoison, mantelBad := t.mantelBad,
                     mantelSoft := t.mantelSoft, draws := s.draws + 1 } := by
    rw [hrun]
    generalize (Config.softErrors s.draws).foldl (fun s u => s.strike u) s = u at *
    refine ⟨_, rfl, ?_, fun h => (hstrikes.contents h).2, ?_⟩
    · rw [← hk]
      exact Audit.tick_of_noSlew hslew k
    · rw [hstrikes.only]
  rw [execCountTick] at hexec
  cases hblock : s.pwr.block with
  | off => exact absurd hblock hoff
  | doze | hibernate => exact htick 40 (by simp [d, hblock]) (by rw [hexec, hblock])
  | run | entering | waking => exact htick 10 (by simp [d, hblock]) (by rw [hexec, hblock])

/-! ### SYNC -/

theorem roundTo64_bounds (x : Int) : ∃ m : Int, roundTo64 x = 64 * m ∧ -32 ≤ x - 64 * m ∧ x - 64 * m ≤ 32 := by
  refine ⟨(x + 32) / 64, by rw [roundTo64, Int.mul_comm], ?_, ?_⟩ <;> omega

/-- The audit registers after a follower's measurement of `diff`. -/
def Audit.measured (a : Audit) (diff : Int) : Audit :=
  let skew := if a.skewUnset then roundTo64 diff else a.skew.toInt
  let good := if a.skewUnset then 0 else if -16 ≤ diff - skew ∧ diff - skew ≤ 16 then a.goodPulses + 1 else 0
  { a with
    skew := BitVec.ofInt 64 skew, skewUnset := false, residual := BitVec.ofInt 32 (diff - skew),
    slew := if a.skewUnset then 0 else diff - skew, goodPulses := good, locked := a.locked || decide (4 ≤ good) }

theorem State.measure_eq (s : State) (leader : W64) (ns : Nat) :
    let diff := (leader - (s.audit.count + BitVec.ofNat 64 ns - s.audit.delay.setWidth 64)).toInt
    let res := diff - if s.audit.skewUnset then roundTo64 diff else s.audit.skew.toInt
    s.measure leader ns = if res < -256 ∨ 256 < res then State.loseLock { s with audit := s.audit.measured diff }
      else { s with audit := s.audit.measured diff } := rfl

/-- A pulse that the recorder neither holds nor records is counted, and measured by a follower. -/
theorem exec_syncPulse {s : State} (hon : s.pwr.block ≠ .off) (hrec : s.audit.recEnable = false) (leader : W64) (ns : BitVec 6) :
    exec (.syncPulse ⟨leader, ns⟩) s = .next
      (if s.audit.role = 2#2 then State.measure { s with audit := { s.audit with pulses := s.audit.pulses + 1#64 } } leader ns.toNat
        else { s with audit := { s.audit with pulses := s.audit.pulses + 1#64 } }) := by
  have hexec : exec (.syncPulse ⟨leader, ns⟩) s = execSyncPulse ⟨leader, ns⟩ s := rfl
  have hlive : s.audit.holdsInput 5 = false := by simp [Audit.holdsInput, Audit.replaying, hrec]
  rw [hexec, execSyncPulse, if_neg hon, hlive, if_neg Bool.false_ne_true, State.livePulse]
  dsimp only
  rw [State.recordInput_of_disabled (s := { s with audit := { s.audit with pulses := s.audit.pulses + 1#64 } }) hrec]

/-- The first pulse sets SYNC_SKEW. -/
theorem State.measure_first {s : State} (hunset : s.audit.skewUnset = true) (leader : W64) (ns : Nat) :
    let diff := (leader - (s.audit.count + BitVec.ofNat 64 ns - s.audit.delay.setWidth 64)).toInt
    ∃ m : Int, -32 ≤ diff - 64 * m ∧ diff - 64 * m ≤ 32 ∧ s.measure leader ns = { s with audit := { s.audit with
      skew := BitVec.ofInt 64 (64 * m), skewUnset := false, residual := BitVec.ofInt 32 (diff - 64 * m), slew := 0, goodPulses := 0 } } := by
  intro diff
  obtain ⟨m, hm, hlow, hhigh⟩ := roundTo64_bounds diff
  refine ⟨m, hlow, hhigh, ?_⟩
  have hdiff : (leader - (s.audit.count + BitVec.ofNat 64 ns - s.audit.delay.setWidth 64)).toInt = diff := rfl
  rw [State.measure_eq]
  dsimp only
  rw [hdiff]
  clear_value diff
  rw [if_pos hunset, hm, if_neg (by omega)]
  simp [Audit.measured, hunset, hm]

/-- A later pulse slews the residual, counts toward LOCKED where it is good, and loses the lock where it is out of bounds. -/
theorem State.measure_later {s : State} (hrole : s.audit.role = 2#2) (hset : s.audit.skewUnset = false) (leader : W64) (ns : Nat) :
    let res := (leader - (s.audit.count + BitVec.ofNat 64 ns - s.audit.delay.setWidth 64)).toInt - s.audit.skew.toInt
    ∃ t, s.measure leader ns = t ∧ t = { s with audit := t.audit } ∧ t.audit.residual = BitVec.ofInt 32 res ∧
      t.audit.count = s.audit.count ∧ t.audit.slew = res ∧
      (-16 ≤ res → res ≤ 16 → t.audit.goodPulses = s.audit.goodPulses + 1 ∧ t.audit.locked = (s.audit.locked || decide (3 ≤ s.audit.goodPulses))) ∧
      ((res < -16 ∨ 16 < res) → t.audit.goodPulses = 0) ∧
      (-256 ≤ res → res ≤ 256 → t.audit.lockLost = s.audit.lockLost ∧ (s.audit.locked = true → t.audit.locked = true)) ∧
      ((res < -256 ∨ 256 < res) → t.audit.locked = false ∧ t.audit.lockLost = true ∧ t.audit.lostCount = satInc s.audit.lostCount) := by
  intro res
  have hres : (leader - (s.audit.count + BitVec.ofNat 64 ns - s.audit.delay.setWidth 64)).toInt - s.audit.skew.toInt = res := rfl
  have hskew : (if s.audit.skewUnset then roundTo64 (leader - (s.audit.count + BitVec.ofNat 64 ns - s.audit.delay.setWidth 64)).toInt
      else s.audit.skew.toInt) = s.audit.skew.toInt := if_neg (by simp [hset])
  have hmeasured : s.audit.measured (leader - (s.audit.count + BitVec.ofNat 64 ns - s.audit.delay.setWidth 64)).toInt = { s.audit with
      skew := BitVec.ofInt 64 s.audit.skew.toInt, skewUnset := false, residual := BitVec.ofInt 32 res, slew := res,
      goodPulses := if -16 ≤ res ∧ res ≤ 16 then s.audit.goodPulses + 1 else 0,
      locked := s.audit.locked || decide (4 ≤ if -16 ≤ res ∧ res ≤ 16 then s.audit.goodPulses + 1 else 0) } := by
    simp only [Audit.measured, hset, Bool.false_eq_true, if_false]
    rfl
  rw [State.measure_eq, hskew, hres, hmeasured]
  clear_value res
  by_cases hout : res < -256 ∨ 256 < res
  · rw [if_pos hout, State.loseLock, if_pos hrole]
    have hbad : ¬(-16 ≤ res ∧ res ≤ 16) := by omega
    exact ⟨_, rfl, rfl, rfl, rfl, rfl, fun h1 h2 => absurd ⟨h1, h2⟩ hbad, fun _ => rfl, fun h1 h2 => by omega, fun _ => ⟨rfl, rfl, rfl⟩⟩
  · rw [if_neg hout]
    refine ⟨_, rfl, rfl, rfl, rfl, rfl, fun h1 h2 => ⟨if_pos ⟨h1, h2⟩, ?_⟩, fun h => if_neg (by omega), fun _ _ => ⟨rfl, fun hl => ?_⟩,
      fun h => absurd h hout⟩
    · dsimp only
      rw [if_pos ⟨h1, h2⟩]
      simp
    · simp [hl]

/-- A new ROLE starts the measurement anew (log entry 24). -/
theorem Audit.writeSync_of_new {a : Audit} {d : W64} (h : d.setWidth 2 ≠ a.role) : a.writeSync d.toNat = { a with
    delay := (d >>> 8).setWidth 16, role := d.setWidth 2, locked := false, goodPulses := 0, skewUnset := true, slew := 0,
    syncOut := a.syncOut && decide (d.setWidth 2 = 1#2), skew := if d.setWidth 2 = 1#2 then 0#64 else a.skew } := by
  have hrole : BitVec.ofNat 2 d.toNat = d.setWidth 2 := BitVec.ofNat_toNat ..
  have hdelay : BitVec.ofNat 16 (fld d.toNat 1 0 16) = (d >>> 8).setWidth 16 := by
    refine BitVec.eq_of_toNat_eq ?_
    simp [fld]
  rw [Audit.writeSync]
  dsimp only
  rw [hrole, hdelay, if_neg h]

/-- Settles O30. -/
theorem syncPulsesMeasureAndLock : Obligations.SyncPulsesMeasureAndLock := by
  intro s
  have hmissed : exec .syncPulseMissed s = .next (if s.pwr.block = .off then s else s.loseLock) := rfl
  have hout : exec .syncOutPulse s = .next (if s.audit.role = 1#2 ∧ s.audit.count.toNat % 2 ^ 20 < 64 ∧ s.pwr.block ≠ .off then
    { s with audit := { s.audit with syncOut := true } } else s) := rfl
  refine ⟨fun hoff => ⟨fun leader ns => ?_, ?_, ?_⟩, fun hon hrec leader ns => ?_, fun hon => ⟨fun hrole => ?_, fun hrole => ?_, fun hrole hedge => ?_,
    fun hnot => ?_⟩, fun hopen d hnew => ?_⟩
  · have hexec : exec (.syncPulse ⟨leader, ns⟩) s = execSyncPulse ⟨leader, ns⟩ s := rfl
    rw [hexec, execSyncPulse, if_pos hoff]
  · rw [hmissed, if_pos hoff]
  · rw [hout, if_neg fun h => h.2.2 hoff]
  · have hns : ns.setWidth 64 = BitVec.ofNat 64 ns.toNat := (BitVec.ofNat_toNat ..).symm
    rw [exec_syncPulse hon hrec, hns]
    intro diff
    refine ⟨fun hrole => by rw [if_neg hrole], fun hrole hunset => ?_, fun hrole hset => ?_⟩
    · obtain ⟨m, hlow, hhigh, hmeasure⟩ := State.measure_first (s := { s with audit := { s.audit with pulses := s.audit.pulses + 1#64 } }) hunset
        leader ns.toNat
      rw [if_pos hrole, hmeasure]
      exact ⟨_, rfl, rfl, rfl, ⟨m, rfl, hlow, hhigh, rfl⟩, rfl, rfl, rfl, rfl, rfl⟩
    · obtain ⟨t, ht, honly, h⟩ := State.measure_later (s := { s with audit := { s.audit with pulses := s.audit.pulses + 1#64 } }) hrole hset
        leader ns.toNat
      rw [if_pos hrole, ht]
      exact ⟨t, rfl, honly, h⟩
  · rw [hmissed, if_neg hon, State.loseLock, if_pos hrole]
    exact ⟨_, rfl, rfl, rfl, rfl, rfl, rfl⟩
  · rw [hmissed, if_neg hon, State.loseLock, if_neg hrole]
  · rw [hout, if_pos ⟨hrole, hedge, hon⟩]
  · refine hout.trans (congrArg Host.Outcome.next (if_neg ?_))
    rintro ⟨hrole, hedge, -⟩
    rcases hnot with h | h
    · exact h hrole
    · omega
  · have hexec : exec (.registerWrite 0x4010#20 d) s = .next { s with audit := s.audit.writeSync d.toNat }.answered := by
      have haccess : s.sashAccess true 0x4010#20 d = s.sashWrite 0x4010 d.toNat := by
        rw [State.sashWrite, BitVec.ofNat_toNat, BitVec.setWidth_eq]
      calc exec (.registerWrite 0x4010#20 d) s = .next (s.sashAccess true 0x4010#20 d) := rfl
        _ = _ := by
          rw [haccess, State.sashWrite_of_sashOpen hopen (by decide) (by decide) d.isLt]
          rfl
    rw [hexec, Audit.writeSync_of_new hnew]
    exact ⟨_, rfl, rfl, rfl, rfl, rfl, rfl, rfl, rfl⟩

end Sys2Proof.Machine
end

section
/-! SUPPORT. The recorder's gap records, and replay (R276 to R278, R283). -/

namespace Sys2Proof.Machine

/-! ### Gap records -/

theorem State.issuing_iff {s : State} : s.issuing = true ↔ s.pwr.block = .run ∧ s.err.stopped = false ∧ s.vault.halted = false ∧
    s.vault.handling = none ∧ s.vault.resetting = false := by
  simp [State.issuing, and_assoc]

/-- With nothing withheld, only the credit for packets is granted anew. -/
theorem State.takeWaiting_of_none {s : State} (h : NothingWithheld s) :
    s.takeWaiting = { s with xch := { s.xch with rxCredits := s.regrant.xch.rxCredits } } := by
  obtain ⟨hrings, hrows⟩ := h
  rw [State.takeWaiting, State.takeHeld_of_none hrings, hrows, List.length_nil, State.takeRows, ← s.regrant_credits]

theorem gapRecordsGoFirst : GapRecordsGoFirst := by
  intro s
  have hexec : exec .recorderGap s = .next (if s.issuing && s.audit.recEnable && !s.audit.recMode && !s.audit.recFull then s.putGap.takeWaiting else s) :=
    rfl
  refine ⟨fun hnot => ?_, fun hissuing hrec hmode hfull hnone => ⟨fun hzero => ?_, fun hgap hport hinflight hwaiting => ?_⟩⟩
  · rw [hexec, if_neg fun h => hnot (by simpa [and_assoc] using h)]
  · have hkept : s.putGap = s := by
      rw [State.putGap]
      exact if_neg (by simp [hzero])
    rw [hexec, if_pos (by simp [hissuing, hrec, hmode, hfull]), hkept, State.takeWaiting_of_none hnone]
    exact ⟨_, rfl, rfl⟩
  · have hgoes : s.putGap = State.putRecord { s with audit := { s.audit with recGap := 0#64 } } 6 0 s.audit.recGap 0#64 := by
      rw [State.putGap]
      exact if_pos (by simp [hrec, hmode, hgap, hfull])
    obtain ⟨hup, -, hcredits⟩ := hport
    obtain ⟨-, -, hhalted, -⟩ := State.issuing_iff.1 hissuing
    let d : State := { s with audit := { s.audit with recGap := 0#64, recTail := s.audit.recTail + 1#32, recIndex := s.audit.recIndex + 1#32 } }
    let q : Request := Request.mk' true (s.audit.recBase.toNat + 32 * (s.audit.recTail.toNat % 2 ^ s.audit.recLog2.toNat)) 32
      ([6#8, 0#8, 0#8, 0#8] ++ leBytes 4 s.audit.recIndex.toNat ++ leBytes 8 s.audit.count.toNat ++ leBytes 8 s.audit.recGap.toNat ++ leBytes 8 0)
      2#2 0 s.audit.recTail .recorder
    have hrequest : s.putGap = d.request 2 q := hgoes
    have hsends := d.request_sends 2 q
    have hhost : (d.request 2 q).host = s.host.store q.addr q.bytes := State.request_host (s := d) (p := 2) (r := q)
      (State.portAwake_iff.2 ⟨hup, hhalted⟩) hwaiting hinflight hcredits ⟨rfl, List.cons_ne_nil _ _⟩ (by intros; nofun)
    rw [hexec, if_pos (by simp [hissuing, hrec, hmode, hfull]), hrequest]
    generalize d.request 2 q = t at *
    have hnone' : NothingWithheld t := by
      refine ⟨fun n => ?_, ?_⟩
      · rw [hsends.ring]
        exact hnone.1 n
      · rw [hsends]
        exact hnone.2
    rw [State.takeWaiting_of_none hnone']
    refine ⟨_, rfl, ?_, hhost, ?_⟩
    · rw [hsends]
    · rw [hsends]

/-! ### Replay -/

theorem State.measure_frame (s : State) (leader : W64) (ns : Nat) : s.measure leader ns = { s with audit := (s.measure leader ns).audit } ∧
    (s.measure leader ns).audit.pulses = s.audit.pulses ∧ (s.measure leader ns).audit.recTail = s.audit.recTail ∧
    (s.measure leader ns).audit.replayWaiting = s.audit.replayWaiting := by
  have hmay (c : Prop) [Decidable c] (a : Audit) (u : State)
      (hu : u = if c then State.loseLock { s with audit := a } else { s with audit := a }) :
      u = { s with audit := u.audit } ∧ u.audit.pulses = a.pulses ∧ u.audit.recTail = a.recTail ∧ u.audit.replayWaiting = a.replayWaiting := by
    subst hu
    rw [State.loseLock]
    split_ifs <;> exact ⟨rfl, rfl, rfl, rfl⟩
  exact hmay _ (s.audit.measured (leader - (s.audit.count + BitVec.ofNat 64 ns - s.audit.delay.setWidth 64)).toInt) _ (s.measure_eq leader ns)

/-- A pulse that is replayed is counted and not recorded again. -/
theorem State.livePulse_of_replay {s : State} (hmode : s.audit.recMode = true) (leader : W64) (ns : Nat) :
    s.livePulse leader ns = { s with audit := (s.livePulse leader ns).audit } ∧ (s.livePulse leader ns).audit.pulses = s.audit.pulses + 1#64 ∧
      (s.livePulse leader ns).audit.recTail = s.audit.recTail ∧ (s.livePulse leader ns).audit.replayWaiting = s.audit.replayWaiting := by
  have hunrecorded (u : State) (hu : u.audit.recMode = true) (data : W64) (bytes : List W8) : u.recordInput 5 0 data bytes = u :=
    if_neg (by simp [Audit.records, hu])
  rw [State.livePulse, hunrecorded { s with audit := { s.audit with pulses := s.audit.pulses + 1#64 } } hmode]
  split
  · exact State.measure_frame { s with audit := { s.audit with pulses := s.audit.pulses + 1#64 } } leader ns
  · exact ⟨rfl, rfl, rfl, rfl⟩

/-- What replay does with the record at REC_TAIL, by its kind. -/
def State.replayNext (s : State) : State :=
  match fld s.replayRecord 0 0 8 with
  | 1 => (s.replayed s.audit.replayWaiting).takeDoorbell (fld s.replayRecord 1 0 8 % 128) (BitVec.ofNat 32 (fld s.replayRecord 16 0 32))
  | 2 => match s.audit.replayWaiting.find? fun c => s.packetMatches s.replayRecord c with
    | some c => (s.replayPacket c).regrant
    | none => s
  | 3 => s.replayGrant s.replayRecord
  | 4 => s.replayWarn s.replayRecord
  | 5 => s.replayPulse s.replayRecord
  | 6 => s.replayed s.audit.replayWaiting
  | _ => s

theorem State.replayNext_of_doorbell {s : State} (hkind : fld s.replayRecord 0 0 8 = 1) : s.replayNext =
    (s.replayed s.audit.replayWaiting).takeDoorbell (fld s.replayRecord 1 0 8 % 128) (BitVec.ofNat 32 (fld s.replayRecord 16 0 32)) := by
  rw [State.replayNext, hkind]
  rfl

theorem State.replayNext_of_gap {s : State} (hkind : fld s.replayRecord 0 0 8 = 6) : s.replayNext = s.replayed s.audit.replayWaiting := by
  rw [State.replayNext, hkind]
  rfl

section

variable {s : State} (hissuing : s.issuing = true) (hrec : s.audit.recEnable = true) (hmode : s.audit.recMode = true)
  (hlive : s.audit.replayLive = false)

include hrec hmode hlive

theorem Audit.replaying_of_mode : s.audit.replaying = true := by simp [Audit.replaying, hrec, hmode, hlive]

include hissuing

theorem State.replayStep_eq (hmore : s.audit.recTail ≠ s.audit.recLimit) : s.replayStep = s.replayNext := by
  rw [State.replayStep, if_pos (by simp [hissuing, Audit.replaying_of_mode hrec hmode hlive, hmore])]
  dsimp only
  unfold State.replayNext
  generalize s.replayRecord = r
  generalize fld r 0 0 8 = kind
  rfl

/-- With no input held, a record of an input that replay awaits stays where it is. -/
theorem State.replayStep_of_none (hmore : s.audit.recTail ≠ s.audit.recLimit) (hdoorbell : fld s.replayRecord 0 0 8 ≠ 1)
    (hgap : fld s.replayRecord 0 0 8 ≠ 6) (hwaiting : s.audit.replayWaiting = []) : s.replayStep = s := by
  rw [State.replayStep_eq hissuing hrec hmode hlive hmore, State.replayNext]
  split
  · next h => exact absurd h hdoorbell
  · rw [hwaiting]
    rfl
  · rw [State.replayGrant, hwaiting]
    rfl
  · rw [State.replayWarn, hwaiting]
    rfl
  · rw [State.replayPulse, hwaiting]
    rfl
  · next h => exact absurd h hgap
  · rfl

/-- The only input held is the pulse that the record names. -/
theorem State.replayStep_of_pulse (hmore : s.audit.recTail ≠ s.audit.recLimit) {leader : W64} {ns : BitVec 6} (hkind : fld s.replayRecord 0 0 8 = 5)
    (hwaiting : s.audit.replayWaiting = [.syncPulse ⟨leader, ns⟩]) (hdata : fld s.replayRecord 16 0 64 = (s.audit.pulses + 1#64).toNat)
    (hdigest : fld s.replayRecord 24 0 64 = (s.audit.digest (leBytes 8 (s.audit.pulses + 1#64).toNat)).toNat) :
    s.replayStep = (s.replayed []).livePulse leader ns.toNat := by
  have hmatches : s.matchesRecord s.replayRecord (s.audit.pulses + 1#64) (leBytes 8 (s.audit.pulses + 1#64).toNat) = true := by
    simp [State.matchesRecord, hdata, hdigest]
  have hpulse : s.replayPulse s.replayRecord = (s.replayed []).livePulse leader ns.toNat := by
    rw [State.replayPulse, hwaiting]
    simp only [List.find?, hmatches, List.erase_cons_head]
  rw [State.replayStep_eq hissuing hrec hmode hlive hmore, State.replayNext, hkind]
  exact hpulse

end

theorem replayFollowsTheRecords : ReplayFollowsTheRecords := by
  intro s
  have hstep : exec .replayStep s = .next s.replayStep := rfl
  have hdiverge : exec .replayDiverge s = .next s.diverge := rfl
  rw [hstep, hdiverge]
  refine ⟨fun hidle => ⟨?_, ?_⟩, fun hissuing hrec hmode hlive => ⟨fun hend => ?_, fun hmore => ?_⟩⟩
  · rw [State.replayStep, if_neg (by simp [hidle])]
  · rw [State.diverge]
    exact congrArg Host.Outcome.next (if_neg (by simp [hidle]))
  · rw [State.replayStep, if_neg (by simp [hend])]
  · have heq := State.replayStep_eq hissuing hrec hmode hlive hmore
    refine ⟨fun hkind => ?_, fun hkind => ?_, fun hdoorbell hgap hwaiting => ?_, fun leader ns hkind hwaiting hdata hdigest => ?_,
      fun htimeout hwaiting => ?_⟩
    · rw [heq, State.replayNext_of_doorbell hkind]
      rfl
    · rw [heq, State.replayNext_of_gap hkind]
      rfl
    · rw [State.replayStep_of_none hissuing hrec hmode hlive hmore hdoorbell hgap hwaiting]
    · rw [State.replayStep_of_pulse hissuing hrec hmode hlive hmore hkind hwaiting hdata hdigest]
      obtain ⟨honly, hpulses, htail, hnone⟩ := State.livePulse_of_replay (s := s.replayed []) hmode leader ns.toNat
      exact ⟨_, rfl, honly, hpulses, htail, hnone⟩
    · have hdone : s.diverge = State.regrant { s with audit := { s.audit with
          diverged := true, divergeCount := satInc s.audit.divergeCount,
          divergeAt := BitVec.ofNat 32 (fld s.replayRecord 4 0 32), replayLive := true, replayWaiting := [] } } := by
        rw [State.diverge]
        dsimp only
        rw [if_pos (by simp [hissuing, Audit.replaying_of_mode hrec hmode hlive, hmore, htimeout]), hwaiting]
        rfl
      rw [hdone, State.regrant_credits, ← hwaiting]
      exact ⟨_, rfl, rfl⟩

/-- Settles O31. -/
theorem recordingAndReplay : Obligations.RecordingAndReplay := ⟨gapRecordsGoFirst, replayFollowsTheRecords⟩

end Sys2Proof.Machine
end


section
/-! SUPPORT. A unit of work whose reads are sound, and a piece of work: ended, kept back, waiting for its host memory, or run. -/

namespace Sys2Proof.Machine

/-! ### Sound reads -/

/-- Reads that find no error change nothing. -/
theorem State.detect_of_sound {s : State} {rs : List Range} (h : s.readsSound rs) (n : Nat) (pos : W32) : s.detect n pos rs = s := by
  obtain ⟨-, hbad, hsoft⟩ := h
  simp [State.detect, hbad, hsoft]

theorem State.find?_tainted_of_sound {s : State} {rs : List Range} (h : s.readsSound rs) : (rs.find? fun r => s.tainted r) = none :=
  List.find?_eq_none.mpr fun r hr => by simp [h.1 r hr]

theorem State.meet_of_sound {s : State} {rs : List Range} (h : s.readsSound rs) (n : Nat) (pos : W32) : s.meet n pos rs = (s, false) := by
  simp only [State.meet, find?_tainted_of_sound h, detect_of_sound h]

/-- What a ring notes has no part in what a read finds. -/
theorem State.readsSound_modEntry {s : State} {rs : List Range} (h : s.readsSound rs) (n : Nat) (pos : W32) (f : Entry → Entry) :
    (s.modEntry n pos f).readsSound rs := h

/-! ### A piece of work -/

theorem State.ended_of_entry {s : State} {n : Nat} {pos : W32} {e : Entry} (h : s.entry n pos = some e) :
    s.ended n pos = (e.status != 0#8) := by
  simp only [State.ended, h]

section
variable {s : State} {n : Nat} {pos : W32} {e : Entry} (role : Option Nat) (own : List Range) {rs outs : List Range}
  (act : State → Bool → State)

/-- An error that has ended the descriptor ends the work, once no response is outstanding. -/
theorem State.piece_of_ended (he : s.entry n pos = some e) (h : e.status ≠ 0#8) :
    s.piece n pos role own rs outs act = if s.reading n pos then s else s.finish n pos := by
  rw [State.piece, if_pos (by simpa [ended_of_entry he] using h)]

/-- Work waits for a wipe of the bank that it writes. -/
theorem State.piece_of_wiping (he : s.entry n pos = some e) (h : e.status = 0#8) (hw : ∃ r ∈ outs, s.stalls r = true) :
    s.piece n pos role own rs outs act = s := by
  rw [State.piece, if_neg (by simp [ended_of_entry he, h]), if_pos (List.any_eq_true.mpr hw)]

/-- Work first requests the pieces of host memory that it has not requested. -/
theorem State.piece_of_fetch (he : s.entry n pos = some e) (h : e.status = 0#8) (hw : ∀ r ∈ outs, s.stalls r = false)
    (hm : ((hostPieces rs).filter fun g => !e.reads.contains g) ≠ []) :
    s.piece n pos role own rs outs act =
      (s.readHost n pos ((hostPieces rs).filter fun g => !e.reads.contains g)).modEntry n pos fun f =>
        { f with started := true, reads := e.reads ++ (hostPieces rs).filter fun g => !e.reads.contains g } := by
  rw [State.piece, if_neg (by simp [ended_of_entry he, h]), if_neg (by simpa using hw)]
  simp only [he, State.readiness]
  rw [if_pos hm]

theorem State.readiness_of_clear {done : List (Nat × Nat × Nat)} (hh : ∀ g ∈ hostPieces rs, g ∈ done)
    (hr : s.reading n pos = false) (hs : ∀ r ∈ rs, s.stalls r = false) (hsound : s.readsSound rs) :
    s.readiness n pos done rs = .go none := by
  have hm : ((hostPieces rs).filter fun g => !done.contains g) = [] := List.filter_eq_nil_iff.mpr fun g hg => by simp [hh g hg]
  have hany : (s.reading n pos || rs.any fun r => s.stalls r) = false := by simpa [hr] using hs
  rw [State.readiness, hm, if_neg (not_not_intro rfl), if_neg (by simp [hany]), find?_tainted_of_sound hsound]

/-- Work that nothing keeps runs, and finds no mark. -/
theorem State.piece_of_clear (he : s.entry n e.pos = some e) (h : s.clear n e e.reads rs outs) :
    s.piece n e.pos role own rs outs act = act s false := by
  obtain ⟨hstatus, hsealed, hh, hr, hs, hsound, hw⟩ := h
  have hseal : s.sealReads n e.pos role own = s := by simp [State.sealReads, State.sealing, he, hsealed]
  rw [State.piece, if_neg (by simp [ended_of_entry he, hstatus]), if_neg (by simpa using hw)]
  simp only [he, readiness_of_clear hh hr hs hsound, hseal, detect_of_sound hsound, Option.isSome_none]

end

/-- A command whose work of a position is a piece of work first requests the host memory that it reads. -/
theorem fetchesFirst_of_piece {c : Instr} {s : State} {n : Nat} {e : Entry} {rs outs : List Range} {role : Option Nat} {own : List Range}
    {act : State → Bool → State} (he : s.entry n e.pos = some e)
    (hc : exec c s = .next (s.piece n e.pos role own rs outs act)) : FetchesFirst c s n e rs outs := by
  intro hstatus hw hm
  rw [hc, State.piece_of_fetch role own act he hstatus hw hm]

end Sys2Proof.Machine

end


section
/-! SUPPORT. O49: dealing a MATMUL. -/

namespace Sys2Proof.Machine

/-! ### One item of a dealing -/

theorem mem_insertJob {j k : TileJob} {l : List TileJob} : j ∈ insertJob k l ↔ j = k ∨ j ∈ l := by
  induction l with
  | nil => simp [insertJob]
  | cons x rest ih =>
    rw [insertJob]
    split
    · simp
    · simp [ih, or_left_comm]

theorem Hearth.dropStaleLoad_frame (x : Hearth) :
    x.dropStaleLoad = { x with shadowUse := x.dropStaleLoad.shadowUse, shadow := x.dropStaleLoad.shadow,
                               shadowBad := x.dropStaleLoad.shadowBad } := by
  unfold Hearth.dropStaleLoad
  split
  · split <;> rfl
  · rfl

/-- A queue that a job joins: nothing else changes but what the shadow set holds. -/
theorem Hearth.addJob_frame (x : Hearth) (j : TileJob) :
    x.addJob j = { x with jobs := insertJob j x.jobs, shadowUse := (x.addJob j).shadowUse, shadow := (x.addJob j).shadow,
                          shadowBad := (x.addJob j).shadowBad } :=
  Hearth.dropStaleLoad_frame { x with jobs := insertJob j x.jobs }

theorem Hearth.mem_addJob (x : Hearth) {j k : TileJob} : j ∈ (x.addJob k).jobs ↔ j = k ∨ j ∈ x.jobs := by
  rw [x.addJob_frame k]
  exact mem_insertJob

/-- A hearth takes an item of a dealt MATMUL: its tile is taken, and its job joins the queue. -/
def Hearth.takeItem (b : Matmul) (job : TileJob) (a : Nat) (x : Hearth) : Hearth := (x.setTile a ((x.tile a).dealt b)).addJob job

theorem Hearth.takeItem_frame (b : Matmul) (job : TileJob) (a : Nat) (x : Hearth) :
    x.takeItem b job a = { x with
      tiles := Tab.put TileInfo.reset x.tiles a ((x.tile a).dealt b), jobs := insertJob job x.jobs,
      shadowUse := (x.takeItem b job a).shadowUse, shadow := (x.takeItem b job a).shadow, shadowBad := (x.takeItem b job a).shadowBad } :=
  Hearth.addJob_frame ..

theorem Hearth.mem_takeItem (b : Matmul) (job : TileJob) (a : Nat) (x : Hearth) {j : TileJob} :
    j ∈ (x.takeItem b job a).jobs ↔ j = job ∨ j ∈ x.jobs := Hearth.mem_addJob _

theorem Hearth.tile_takeItem (b : Matmul) (job : TileJob) (a : Nat) (x : Hearth) (c : Nat) :
    (x.takeItem b job a).tile c = if c = a then (x.tile a).dealt b else x.tile c := by
  rw [Hearth.takeItem_frame]
  exact Tab.at_put ..

theorem sameUnits_refl (x : Hearth) : SameUnits x x := ⟨rfl, rfl, rfl, rfl, rfl, rfl, rfl, rfl, rfl, rfl, rfl, rfl⟩

theorem sameUnits_trans {x y z : Hearth} (hxy : SameUnits x y) (hyz : SameUnits y z) : SameUnits x z := by
  obtain ⟨a1, a2, a3, a4, a5, a6, a7, a8, a9, a10, a11, a12⟩ := hxy
  obtain ⟨b1, b2, b3, b4, b5, b6, b7, b8, b9, b10, b11, b12⟩ := hyz
  exact ⟨b1.trans a1, b2.trans a2, b3.trans a3, b4.trans a4, b5.trans a5, b6.trans a6, b7.trans a7, b8.trans a8, b9.trans a9,
    b10.trans a10, b11.trans a11, b12.trans a12⟩

theorem Hearth.takeItem_sameUnits (b : Matmul) (job : TileJob) (a : Nat) (x : Hearth) : SameUnits x (x.takeItem b job a) := by
  rw [Hearth.takeItem_frame]
  exact ⟨rfl, rfl, rfl, rfl, rfl, rfl, rfl, rfl, rfl, rfl, rfl, rfl⟩

/-- A tile of a dealing that begins is opened once, by whichever of its parts. -/
theorem TileInfo.dealt_dealt {b : Matmul} (h : b.begins = true) (t : TileInfo) : (t.dealt b).dealt b = t.dealt b := by
  simp [TileInfo.dealt, h]

/-! ### All items of a dealing -/

/-- The items of a dealing, each with its job, on their hearths. -/
def State.takeItems (b : Matmul) (job : Item → TileJob) (items : List Item) (s : State) : State :=
  items.foldl (fun s i => s.modHearth i.hearth (Hearth.takeItem b (job i) i.atile)) s

section
variable (b : Matmul) (job : Item → TileJob)

theorem State.takeItems_frame (items : List Item) (s : State) : s.takeItems b job items = { s with hearths := (s.takeItems b job items).hearths } := by
  induction items generalizing s with
  | nil => rfl
  | cons i rest ih => exact ih (s.modHearth i.hearth (Hearth.takeItem b (job i) i.atile))

theorem State.mem_takeItems (items : List Item) (s : State) (h : Nat) (j : TileJob) :
    j ∈ ((s.takeItems b job items).hearth h).jobs ↔ j ∈ (s.hearth h).jobs ∨ ∃ i ∈ items, i.hearth = h ∧ j = job i := by
  induction items generalizing s with
  | nil => simp [State.takeItems]
  | cons i rest ih =>
    have hstep : j ∈ ((s.modHearth i.hearth (Hearth.takeItem b (job i) i.atile)).hearth h).jobs ↔
        j ∈ (s.hearth h).jobs ∨ (i.hearth = h ∧ j = job i) := by
      rw [State.modHearth, State.hearth_setHearth]
      split
      · next hh => subst hh; simp [Hearth.mem_takeItem, or_comm]
      · next hh => simp [Ne.symm hh]
    rw [show s.takeItems b job (i :: rest) = (s.modHearth i.hearth (Hearth.takeItem b (job i) i.atile)).takeItems b job rest from rfl, ih,
      hstep]
    simp [or_assoc]

theorem State.sameUnits_takeItems (items : List Item) (s : State) (h : Nat) :
    SameUnits (s.hearth h) ((s.takeItems b job items).hearth h) := by
  induction items generalizing s with
  | nil => exact sameUnits_refl _
  | cons i rest ih =>
    have hstep : SameUnits (s.hearth h) ((s.modHearth i.hearth (Hearth.takeItem b (job i) i.atile)).hearth h) := by
      rw [State.modHearth, State.hearth_setHearth]
      split
      · next hh => subst hh; exact Hearth.takeItem_sameUnits ..
      · exact sameUnits_refl _
    exact sameUnits_trans hstep (ih (s.modHearth i.hearth (Hearth.takeItem b (job i) i.atile)))

/-- A dealing that begins opens the tiles of its items, whatever else it deals. -/
theorem State.tile_takeItems (hb : b.begins = true) {items : List Item} {i : Item} (hi : i ∈ items) (s : State) :
    ((s.takeItems b job items).hearth i.hearth).tile i.atile = ((s.hearth i.hearth).tile i.atile).dealt b := by
  let T := (s.hearth i.hearth).tile i.atile
  have htile (t : State) (k : Item) : ((t.modHearth k.hearth (Hearth.takeItem b (job k) k.atile)).hearth i.hearth).tile i.atile =
      if i.hearth = k.hearth ∧ i.atile = k.atile then ((t.hearth i.hearth).tile i.atile).dealt b else (t.hearth i.hearth).tile i.atile := by
    rw [State.modHearth, State.hearth_setHearth]
    by_cases hh : i.hearth = k.hearth
    · by_cases ha : i.atile = k.atile
      · simp [hh, ha, Hearth.tile_takeItem]
      · simp [hh, ha, Hearth.tile_takeItem]
    · simp [hh]
  refine foldl_establishes (P := fun t => (t.hearth i.hearth).tile i.atile = T.dealt b)
    (Q := fun t => (t.hearth i.hearth).tile i.atile = T ∨ (t.hearth i.hearth).tile i.atile = T.dealt b) (h := i)
    (fun t k ht => ?_) (fun t k _ ht => ?_) (fun t ht => ?_) hi (.inl rfl)
  · rw [htile]
    split
    · rw [ht, TileInfo.dealt_dealt hb]
    · exact ht
  · rw [htile]
    split
    · rcases ht with ht | ht <;> simp [ht, TileInfo.dealt_dealt hb]
    · exact ht
  · rw [htile, if_pos ⟨rfl, rfl⟩]
    rcases ht with ht | ht <;> simp [ht, TileInfo.dealt_dealt hb]

end

theorem State.dealMatmul_eq (s : State) (n : Nat) (e : Entry) :
    s.dealMatmul n e =
      let b := matmulOf e.desc
      let sp := b.parts (s.workHearths e).length
      let items := b.working sp (s.matmulItems b (s.workHearths e))
      (s.takeItems b (itemJob n e b sp (decide (s.classOf n = 0#2))) items).modEntry n e.pos fun e =>
        { e with started := true, left := items.length + if sp = 1 then 0 else b.tiles } := rfl

theorem matmulDealsItsTiles : MatmulDealsItsTiles := by
  intro s n pos e hrun
  obtain ⟨he, -⟩ := State.running_iff.mp hrun
  obtain rfl := State.entry_pos he
  have hexec : exec (.matmul n e.pos) s = .next (if e.started then s else s.dealMatmul n.toNat e) := by
    rw [show exec (.matmul n e.pos) s = execMatmul n e.pos s from rfl, execMatmul, hrun]
  refine ⟨fun hstarted => ?_, fun hstarted => ?_⟩
  · rw [hexec, hstarted, if_pos rfl]
  · intro b sp items
    let job := itemJob n.toNat e b sp (decide (s.classOf n.toNat = 0#2))
    have hframe := s.takeItems_frame b job items
    have hdeal := s.dealMatmul_eq n.toNat e
    have hhearth (h : Nat) : (s.dealMatmul n.toNat e).hearth h = (s.takeItems b job items).hearth h := by rw [hdeal]; rfl
    have hentry : (s.takeItems b job items).entry n.toNat e.pos = some e := by rw [hframe]; exact he
    refine ⟨s.dealMatmul n.toNat e, ?_, ?_, fun m hm => ?_, ?_, fun h j => ?_, fun hb i hi => ?_, fun h => ?_⟩
    · rw [hexec, hstarted, if_neg (by decide)]
    · rw [hdeal]
      dsimp only
      rw [hframe]
      rfl
    · rw [hdeal]
      dsimp only
      rw [State.ring_modEntry_ne _ _ _ hm, hframe]
      rfl
    · rw [hdeal]
      exact State.entry_modEntry_of_entry (f := fun e => { e with started := true, left := items.length + if sp = 1 then 0 else b.tiles })
        hentry fun _ h => h
    · rw [hhearth]
      exact s.mem_takeItems b job items h j
    · rw [hhearth]
      refine (s.tile_takeItems b job hb hi).trans ?_
      rw [TileInfo.dealt, if_pos hb]
    · rw [hhearth]
      exact s.sameUnits_takeItems b job items h

/-! ### DRAIN -/

/-- A piece is taken on a hearth of the shares that has pieces left and may act. -/
theorem Entry.nextPiece_eq_none {e : Entry} {shares : List (Nat × Nat)} {may : Nat → Bool}
    (h : ∀ q ∈ shares, e.pieces q.1 < q.2 → may q.1 = false) : e.nextPiece shares may = none := by
  rw [Entry.nextPiece, Option.map_eq_none_iff, List.find?_eq_none]
  intro q hq
  by_cases hk : e.pieces q.1 < q.2 <;> simp [hk, h q hq]

theorem Entry.nextPiece_single {e : Entry} {h total : Nat} {may : Nat → Bool} (hk : e.pieces h < total) (hm : may h = true) :
    e.nextPiece [(h, total)] may = some (h, e.pieces h) := by
  simp [Entry.nextPiece, hk, hm]

theorem mem_drainShares {items : List Item} {q : Nat × Nat} (h : q ∈ drainShares items) : ∃ i ∈ items, i.hearth = q.1 := by
  have hsub (l : List Item) (acc : List Nat) (g : Nat)
      (hg : g ∈ l.foldl (fun acc i => if acc.contains i.hearth then acc else acc ++ [i.hearth]) acc) :
      g ∈ acc ∨ ∃ i ∈ l, i.hearth = g := by
    induction l generalizing acc with
    | nil => exact .inl hg
    | cons i rest ih =>
      rcases ih _ hg with hacc | ⟨j, hj, hjg⟩
      · dsimp only at hacc
        split at hacc
        · exact .inl hacc
        · rcases List.mem_append.mp hacc with hacc | hi
          · exact .inl hacc
          · exact .inr ⟨i, by simp, (List.mem_singleton.mp hi).symm⟩
      · exact .inr ⟨j, by simp [hj], hjg⟩
  obtain ⟨g, hg, rfl⟩ := List.mem_map.mp h
  simpa using hsub items [] g hg

theorem drainOwn_single (i : Item) : drainOwn [i] i.hearth = [i] := by simp [drainOwn]

theorem drainShares_single (i : Item) : drainShares [i] = [(i.hearth, 16)] := by
  simp [drainShares, drainOwn_single, tilePieces]

/-- A hearth whose tile is not through takes its next block where nothing keeps it. -/
theorem State.mayDrain_single {s : State} {n : Nat} {e : Entry} {i : Item} (hk : e.pieces i.hearth < 16) :
    s.mayDrain n e [i] i.hearth = (s.serves n i.hearth && !(s.hearth i.hearth).shadowUse.drains &&
      !(((drainOf e.desc).tilePass e [i] i.hearth i.tile).writes i.hearth).any fun r => s.stalls r) := by
  rw [State.mayDrain, drainOwn_single, tilePieces, Nat.div_eq_of_lt hk]
  rfl

/-- The block of a tile that a DRAIN of one tile passes, where its reads are sound. -/
theorem State.drainPiece_single {s : State} {n : Nat} {e : Entry} {i : Item} (hk : e.pieces i.hearth < 16) :
    let h := i.hearth
    let k := e.pieces h
    let t := (drainOf e.desc).tilePass e [i] h i.tile
    let own : Range := { tileRange h i.atile with lo := i.atile * tileBytes + 4096 * k, len := 512 * min 8 (t.rows - 8 * k) }
    let begun := if k = 0 then (s.act n e.pos h).startTopk h t else s.act n e.pos h
    let u := begun.epilogueBlock n e.pos h t (tileWords (begun.hearth h).acc i.atile) negZero32 false k
    s.readsSound [own] → s.readsSound (t.reads h) →
      s.drainPiece n e [i] h k =
        if t.blocks ≤ k + 1 then
          ((u.endTileRow n e.pos h t false).modEntry n e.pos fun e => e.taken h i.atile).advance n e.pos [(h, 16)] h 16 16
        else u.advance n e.pos [(h, 16)] h (k + 1) 16 := by
  intro h k t own begun u hown hin
  have hmod : k % tilePieces = k := Nat.mod_eq_of_lt hk
  have hdiv : k / tilePieces = 0 := Nat.div_eq_of_lt hk
  have hmeet : (s.act n e.pos h).meet n e.pos [own] = (s.act n e.pos h, false) :=
    State.meet_of_sound (s.readsSound_modEntry hown n e.pos _) n e.pos
  have hinputs : (s.act n e.pos h).epilogueInputs n e.pos h t = (s.act n e.pos h, false) :=
    State.meet_of_sound (s.readsSound_modEntry hin n e.pos _) n e.pos
  have hlist : (drainOwn [i] h)[k / tilePieces]? = some i := by rw [hdiv, drainOwn_single]; rfl
  rw [State.drainPiece, hlist]
  dsimp only
  rw [hmod, hdiv, drainOwn_single, drainShares_single, hmeet]
  dsimp only
  rw [hinputs]
  rw [List.length_singleton, Nat.zero_add, Nat.mul_one]
  by_cases hfinal : t.blocks ≤ k + 1
  · have hlast : decide (((drainOf e.desc).tilePass e [i] h i.tile).blocks ≤ k + 1) = true := decide_eq_true hfinal
    rw [if_pos hfinal, hlast]
    rfl
  · have hmore : decide (((drainOf e.desc).tilePass e [i] h i.tile).blocks ≤ k + 1) = false := decide_eq_false hfinal
    rw [if_neg hfinal, hmore]
    rfl

theorem State.acc_startTopk (s : State) (h : Nat) (t : TilePass) (g : Nat) : ((s.startTopk h t).hearth g).acc = (s.hearth g).acc := by
  rw [State.startTopk]
  split
  · rw [State.modHearth, State.hearth_setHearth]
    split
    · next hg => rw [hg]
    · rfl
  · rfl

theorem drainPassesItsTiles : DrainPassesItsTiles := by
  intro s n pos e hrun b items
  obtain ⟨he, -⟩ := State.running_iff.mp hrun
  obtain rfl := State.entry_pos he
  have hexec : exec (.drain n e.pos) s = .next (s.drain n.toNat e) := by
    rw [show exec (.drain n e.pos) s = execDrain n e.pos s from rfl, execDrain, hrun]
  have hwaits (hstatus : e.status = 0#8) (hmay : e.nextPiece (drainShares items) (s.mayDrain n.toNat e items) = none) :
      s.drain n.toNat e = s := by
    rw [State.drain, if_neg (not_not_intro hstatus), hmay]
  refine ⟨fun hstatus => ?_, fun hstatus hidle => ?_, ?_⟩
  · rw [hexec, State.drain, if_pos hstatus]
  · rw [hexec, hwaits hstatus (Entry.nextPiece_eq_none fun q hq _ => ?_)]
    obtain ⟨i, hi, hq⟩ := mem_drainShares hq
    have := hidle i hi
    rw [hq] at this
    rcases this with hs | hd
    · have hs' : (s.hearthRuns q.1 && !s.withheld q.1 (s.classOf n.toNat) && !s.yields n.toNat q.1) = false := hs
      rw [State.mayDrain, hs', Bool.false_and, Bool.false_and]
    · rw [State.mayDrain, hd, Bool.not_true, Bool.and_false, Bool.false_and]
  · intro i hitems hstatus
    have hlist : (drainOf e.desc).items (s.workHearths e) = [i] := hitems
    clear_value items
    subst hitems
    intro h k t own
    refine ⟨fun hstall => ?_, fun hk hserves hdrains hwrites hown hin => ?_⟩
    · rw [hexec, State.drain, if_neg (not_not_intro hstatus), hlist, drainShares_single, Entry.nextPiece_eq_none fun q hq hk => ?_]
      obtain rfl := List.mem_singleton.mp hq
      have hany : (t.writes h).any (fun r => s.stalls r) = true := List.any_eq_true.mpr hstall
      rw [State.mayDrain_single hk, Bool.and_eq_false_iff]
      exact .inr (by simpa using hany)
    · have hany : (t.writes h).any (fun r => s.stalls r) = false := List.any_eq_false.mpr fun r hr => by simp [hwrites r hr]
      have hmay : s.mayDrain n.toNat e [i] h = true := by
        rw [State.mayDrain_single hk, hserves, hdrains, hany]
        rfl
      have hpiece : s.drain n.toNat e = s.drainPiece n.toNat e [i] h k := by
        rw [State.drain, if_neg (not_not_intro hstatus), hlist, drainShares_single, Entry.nextPiece_single hk hmay]
      intro begun u
      have hacc : (begun.hearth h).acc = (s.hearth h).acc := by
        by_cases hk0 : k = 0
        · rw [show begun = (s.act n.toNat e.pos h).startTopk h t from if_pos hk0, State.acc_startTopk]
          rfl
        · rw [show begun = s.act n.toNat e.pos h from if_neg hk0]
          rfl
      have hsingle := State.drainPiece_single (s := s) (n := n.toNat) (e := e) hk hown hin
      rw [hexec, hpiece, hsingle]
      refine ⟨fun hmore => ?_, fun hlast => ?_⟩
      · rw [if_neg (Nat.not_le.mpr hmore), hacc]
      · rw [if_pos hlast, hacc]

/-- Settles O49. -/
theorem matmulsAreDealtAndDrainsPassTiles : Obligations.MatmulsAreDealtAndDrainsPassTiles :=
  ⟨matmulDealsItsTiles, drainPassesItsTiles⟩

end Sys2Proof.Machine

end


section
/-! SUPPORT. O52 and O55 fail: each quantifies over every state, and a state that is not sound breaks it. -/

namespace Sys2Proof.Machine

/-- A descriptor that runs at position `pos` on hearth 0. -/
def Entry.runsOnHearth0 (pos : W32) (desc : Nat) : Entry :=
  { Entry.start pos (BitVec.ofNat 1024 desc) with mask := 1#64, admitted := 1#64 }

/-- The block after reset with entries on ring 2, which runs. -/
def State.withEntries (es : List Entry) : State := State.reset.setRing 2 { Ring.reset with state := .run, enable := true, entries := es }

/-! ### GROUP: two entries of one position -/

/-- GROUP OPEN of tile 0 without KEEP: 16 pieces on hearth 0. -/
def openEntry : Entry := Entry.runsOnHearth0 0#32 (0x03 + 2 ^ (8 * 24))

/-- Another entry of the same position, which has finished 5 pieces of hearth 3. -/
def openTwin : Entry := { openEntry with prog := [(3, 5)] }

/-- The progress that ring 2 holds after a command. -/
def Entry.progsAfter (r : Result) : List (Tab Nat) := match r with
  | .next t => (t.ring 2).entries.map Entry.prog
  | _ => []

/-- A piece of a GROUP OPEN is noted in each of two entries by its own progress, and the statement notes that of the first in both. -/
theorem groupOpen_twin_progress :
    Entry.progsAfter (exec (.groupOpen 2#7 0#32) (State.withEntries [openEntry, openTwin])) = [[(0, 1)], [(0, 1), (3, 5)]] := by
  decide +kernel

theorem openEntry_clear :
    let s := State.withEntries [openEntry, openTwin]
    let b := groupOf openEntry.desc
    let ps := b.places (s.hearthsOf openEntry.mask)
    s.clear 2 openEntry openEntry.reads (ps.flatMap fun q => s.groupReads b q.1 q.2) (ps.flatMap fun q => s.groupOuts b q.1 q.2) := by
  unfold State.clear State.readsSound
  decide +kernel

/-- Refutes O52: ring 2 holds two entries of position 0 whose progress differs. After the first piece of a GROUP OPEN each has gone on from its own
progress, where the statement says that both hold the first one's. -/
theorem not_groupOperationsActOnEveryHearth : ¬ Obligations.GroupOperationsActOnEveryHearth := by
  unfold Obligations.GroupOperationsActOnEveryHearth
  rintro ⟨hacts, -⟩
  obtain ⟨hopen, -, -, -⟩ := hacts 2#7 0#32
  let s := State.withEntries [openEntry, openTwin]
  obtain ⟨-, -, hpiece⟩ := hopen s openEntry (by decide +kernel)
  obtain ⟨hmore, -, -⟩ := hpiece 0 0 (by decide +kernel) (by decide +kernel) openEntry_clear
  have hexec := hmore (by decide +kernel)
  have hprogs := congrArg Entry.progsAfter hexec
  rw [groupOpen_twin_progress] at hprogs
  exact absurd hprogs (by decide +kernel)

/-! ### SHAPE_RELOAD: a hearth listed twice -/

/-- A CHAIN of one stage SHAPE that reads bank 1 of hearth 0. -/
def shapeEntry : Entry := { Entry.runsOnHearth0 7#32 (0x10 + 2 ^ (8 * 16) + 0x52 * 2 ^ (8 * 56)) with banks := 1#64, started := true }

/-- Its run on hearth 0. -/
def shapeRun : ChainRun :=
  { ring := 2, pos := 7#32, first := 0, count := 1, pass := 0, passes := 2, record := 0, lines := [], marks := [], reads := [] }

/-- Hearth 0 is listed twice: with the run alone, and behind that with a shape entry. -/
def listedTwice : State :=
  { State.withEntries [shapeEntry] with
    hearths := [(0, { Hearth.reset with chains := [shapeRun] }), (0, { Hearth.reset with shapes := [(5, 1#64)] })] }

/-- The shape store of hearth 0 after a command. -/
def Hearth.shapesAfter (r : Result) : Tab W64 := match r with
  | .next t => (t.hearth 0).shapes
  | _ => []

/-- The failed read takes the run from the first listing, which then equals a hearth after reset and is no longer listed. -/
theorem shapeReload_listedTwice : Hearth.shapesAfter (exec (.shapeReload 0#6 true 0#10 1#2) listedTwice) = [(5, 1#64)] := by
  decide +kernel

/-- Refutes O55: a state whose table of hearths lists hearth 0 twice. A SHAPE_RELOAD whose read fails stops the CHAIN, and the second listing's shape
store takes the place of the first one's. -/
theorem not_shapeTablesLoadSwapAndReload : ¬ Obligations.ShapeTablesLoadSwapAndReload := by
  unfold Obligations.ShapeTablesLoadSwapAndReload
  rintro ⟨-, -, hreload⟩
  obtain ⟨-, hrun⟩ := hreload listedTwice 0#6 true 0#10 (by decide +kernel) (by decide +kernel) (by decide +kernel)
  obtain ⟨-, -, hfails⟩ := hrun shapeRun shapeEntry (by decide +kernel) (by decide +kernel)
  obtain ⟨t, -, hexec, -, -, -, -, hshapes, -⟩ := hfails (by decide +kernel)
  have hafter := shapeReload_listedTwice
  rw [hexec] at hafter
  have hbefore : (listedTwice.hearth 0).shapes = [] := by decide +kernel
  exact absurd (hafter.symm.trans (hshapes.trans hbefore)) (by decide)

end Sys2Proof.Machine

end


section
/-! SUPPORT. O54: NORM works row by row. -/

namespace Sys2Proof.Machine

/-! ### The work of a NORM -/

section
variable {c : Instr} {n : Nat} {pos : W32} {op : Nat} {act : State → State → Norm → NormRow → Bool → State}

/-- A NORM of one operation acts as the statement says. -/
theorem normActs (hc : ∀ s, exec c s = .next (s.norm n pos [op] act)) : NormActs c n pos op act := by
  intro s e hrun
  obtain ⟨he, -⟩ := State.running_iff.mp hrun
  obtain rfl := State.entry_pos he
  intro b lanes runs shares
  have hcontains : [op].contains b.op = decide (b.op = op) := by simp
  refine ⟨fun hop => ?_, fun hop hstatus hserves => ?_, fun h k q hop hstatus hnext hfind => ?_⟩
  · rw [hc, State.norm, hrun]
    dsimp only
    rw [hcontains, decide_eq_false hop]
    rfl
  · have hnone : e.nextPiece shares (fun h => s.hearthRuns h && !s.withheld h (s.classOf n) && !s.yields n h) = none :=
      Entry.nextPiece_eq_none fun p hp _ => by
        obtain ⟨q, hq, rfl⟩ := List.mem_map.mp hp
        exact hserves q hq
    rw [hc, State.norm, hrun]
    dsimp only
    rw [hcontains, decide_eq_true hop, if_neg (by decide), if_neg (not_not_intro hstatus), hnone]
  · intro row rows
    let reads := rows.flatMap b.rowReads
    have hpiece : exec c s = .next (s.piece n e.pos none reads reads (rows.flatMap b.rowOuts) fun s bad =>
        let s := rows.foldl (fun s r => s.normOne n e.pos act b bad r) s
        let s := s.modHearth h fun x => x.queueSfu (s.normRequests b (row (k / b.rowPasses lanes * b.rowsAtOnce lanes)) k)
        (s.act n e.pos h).advance n e.pos shares h (k + 1) (b.passes lanes q.2.2)) := by
      rw [hc, State.norm, hrun]
      dsimp only
      rw [hcontains, decide_eq_true hop, if_neg (by decide), if_neg (not_not_intro hstatus)]
      have hnext' : e.nextPiece (runs.map fun q => (q.1, b.passes lanes q.2.2))
          (fun h => s.hearthRuns h && !s.withheld h (s.classOf n) && !s.yields n h) = some (h, k) := hnext
      rw [hnext']
      dsimp only
      rw [hfind]
      rfl
    refine ⟨fetchesFirst_of_piece he hpiece, fun hclear => ?_⟩
    rw [hpiece, State.piece_of_clear none _ _ he hclear]

end

/-! ### Rows without elements, and with a NaN (Table 10-4) -/

/-- A row whose reads are all defined is computed from the values that stand. -/
theorem State.normOne_of_defined {s : State} {n : Nat} {pos : W32} {b : Norm} {q : NormRow} (h : s.rowVoid n pos b q = [])
    (act : State → State → Norm → NormRow → Bool → State) (bad : Bool) : s.normOne n pos act b bad q = act s s b q bad := by
  rw [State.normOne, h]
  rfl

theorem mapRow_replicate_none (f : W32 → W32 × Nat) (k : Nat) : mapRow f (List.replicate k none) = (List.replicate k none, 0) := by
  simp [mapRow, orFlags]

theorem softFinite_replicate_none (log : Bool) (lanes k : Nat) :
    softFinite log lanes (List.replicate k none) =
      (List.replicate k (restOut log), fRowEmpty, { m := negInf32, l := 0#32, a := negInf32, ninf := 0, rflags := 1 }) := by
  simp [softFinite]

theorem softRow_replicate_none (log : Bool) (lanes k : Nat) (mul : W32) :
    softRow log lanes mul (List.replicate k none) =
      (List.replicate k (restOut log), fRowEmpty, { m := negInf32, l := 0#32, a := negInf32, ninf := 0, rflags := 1 }) := by
  simp [softRow, mapRow_replicate_none, softFinite_replicate_none]

theorem normRow_replicate_none (b : Norm) (lanes k : Nat) (g h : Nat → W32) :
    normRow b lanes (List.replicate k none) g h = (List.replicate k 0#32, normRecord 0#32 0#32 0#32 0, fRowEmpty) := by
  simp [normRow]

theorem normRow_of_nan (b : Norm) (lanes : Nat) (g h : Nat → W32) {xs : List (Option W32)} {x : W32} (hx : some x ∈ xs)
    (hnan : (f32 x).isNan = true) :
    (normRow b lanes xs g h).1 = List.replicate xs.length qnan32 ∧ (normRow b lanes xs g h).2.2 = fRowNan ||| fNanSeen := by
  have hlive : (xs.filterMap id).any (fun x => (f32 x).isNan) = true :=
    List.any_eq_true.mpr ⟨x, List.mem_filterMap.mpr ⟨some x, hx, rfl⟩, hnan⟩
  rw [normRow]
  dsimp only
  rw [if_pos hlive]
  exact ⟨by simp, rfl⟩

/-- Records of empty rows merge into one of an empty row. -/
theorem mergeRecords_of_empty {ps : List StatsRec} (h : ∀ p ∈ ps, p.isEmpty = true ∧ p.isNan = false) :
    (mergeRecords ps).1.l = 0#32 ∧ (mergeRecords ps).1.isEmpty = true ∧ (mergeRecords ps).2 = fRowEmpty := by
  have hempty : ps.all StatsRec.isEmpty = true := List.all_eq_true.mpr fun p hp => (h p hp).1
  have hnan : ps.any StatsRec.isNan = false := List.any_eq_false.mpr fun p hp => by simp [(h p hp).2]
  unfold mergeRecords
  simp only [hempty, hnan, if_true]
  refine ⟨trivial, ?_, rfl⟩
  rw [StatsRec.isEmpty]
  dsimp only
  cases (ps.find? fun p => p.rflags.testBit 3).isSome <;> decide

theorem softFromRecord_of_nan (log anchored : Bool) (mul : W32) {r : StatsRec} (hr : r.isNan = true) (xs : List (Option W32)) :
    (softFromRecord log anchored mul r xs).1 = List.replicate xs.length qnan32 := by
  rw [softFromRecord, if_pos hr]
  simp

theorem rowsWithoutElements : RowsWithoutElements := by
  refine ⟨fun s n pos b bad q act hvoid => State.normOne_of_defined hvoid act bad, fun lanes k mul => ?_⟩
  exact ⟨by rw [softRow_replicate_none]; rfl, by rw [softRow_replicate_none]; rfl, fun log => by rw [softRow_replicate_none],
    fun b g h => normRow_replicate_none b lanes k g h, fun b g h xs x hx hnan => normRow_of_nan b lanes g h hx hnan,
    fun ps _ hps => mergeRecords_of_empty hps, fun log anchored r xs hr => softFromRecord_of_nan log anchored mul hr xs⟩

/-- Settles O54. -/
theorem normsWorkRowByRow : Obligations.NormsWorkRowByRow :=
  ⟨fun _ _ => ⟨normActs fun _ => rfl, normActs fun _ => rfl, normActs fun _ => rfl, normActs fun _ => rfl, normActs fun _ => rfl,
    normActs fun _ => rfl⟩, rowsWithoutElements⟩

end Sys2Proof.Machine

end


section
/-! SUPPORT. O58: DISPATCH and COMBINE start and go on. -/

namespace Sys2Proof.Machine

/-! ### The commands -/

theorem State.sendRows_of_noExchange {s : State} {n : Nat} {pos : W32} (b : XchDesc) (h : s.exchange n pos = none) : s.sendRows n pos b = s := by
  rw [State.sendRows, h]

section
variable {c : Instr} {n : BitVec 7} {pos : W32} {combine reverse : Bool}

/-- A command of an exchange works on its running descriptor. -/
theorem exec_exchange (hc : ∀ s, exec c s = .next (s.exchangeCommand n pos combine reverse)) {s : State} {e : Entry}
    (hrun : s.running n.toNat pos (if combine then 0x22 else 0x21) = some e) (hreverse : (xchOf e.desc).reverse = reverse) :
    exec c s = .next (s.exchangeWork n.toNat e) := by
  rw [hc, State.exchangeCommand, State.runningExchange, hrun]
  dsimp only
  rw [if_pos hreverse]

theorem exchangeActs (hc : ∀ s, exec c s = .next (s.exchangeCommand n pos combine reverse)) :
    ExchangeActs c n.toNat pos (if combine then 0x22 else 0x21) reverse := by
  intro s e hrun hreverse
  have hexec := exec_exchange hc hrun hreverse
  obtain ⟨he, -, hop, -⟩ := State.running_iff.mp hrun
  obtain rfl := State.entry_pos he
  have hcombine : (xchOf e.desc).combine = combine := by
    rw [show (xchOf e.desc).combine = (descOpcode e.desc == 0x22) from rfl, hop]
    cases combine <;> rfl
  have hwhen : ((if combine then 0x22 else 0x21) = 0x22 ∧ reverse = true) ↔ ((xchOf e.desc).combine && (xchOf e.desc).reverse) = true := by
    rw [hcombine, hreverse]
    cases combine <;> cases reverse <;> decide
  refine ⟨fun hstops => ?_, fun hruns hstarted => ?_, fun hnone hstarted => ?_, fun hruns hstarted x hx => ?_⟩
  · rw [hexec, State.exchangeWork, hstops, if_pos (by decide)]
  · rw [hexec, State.exchangeWork, hruns, if_neg (by decide), hstarted, if_pos (by decide)]
  · rw [hexec, State.exchangeWork]
    split
    · rfl
    · rw [hstarted, if_neg (by decide)]
      dsimp only
      rw [hnone]
      dsimp only
      rw [State.sendRows_of_noExchange _ hnone, hnone]
      dsimp only [State.gradRows]
      rw [ite_self, State.settleExchange_of_none hnone]
  · intro b u
    have hlen : ((u.exchange n.toNat e.pos).map fun x => x.grads.length).getD 0 = match u.exchange n.toNat e.pos with
        | some x => x.grads.length
        | none => 0 := by
      cases u.exchange n.toNat e.pos <;> rfl
    rw [hexec, State.exchangeWork, hruns, if_neg (by decide), hstarted, if_neg (by decide)]
    dsimp only
    rw [hx]
    by_cases hboth : ((if combine then 0x22 else 0x21) = 0x22 ∧ reverse = true)
    · rw [if_pos hboth, if_pos (hwhen.mp hboth), hlen] <;> rfl
    · rw [if_neg hboth, if_neg fun h => hboth (hwhen.mpr h)]

end

/-! ### The start -/

/-- What a start reads enters no seal session of a position that contributes to none. -/
theorem State.sealReads_of_notSealed {s : State} {n : Nat} {pos : W32} {e : Entry} (he : s.entry n pos = some e) (h : e.sealed = false)
    (role : Option Nat) (rs : List Range) : s.sealReads n pos role rs = s := by
  simp [State.sealReads, State.sealing, he, h]

/-- With nothing waiting, no packet is taken. -/
theorem State.takePending_of_none {s : State} (hpending : s.xch.pendingArea = []) (hreceived : s.xch.received = []) (x : Exchange) :
    s.takePending x = s := by
  have hxch : ({ s.xch with pendingArea := s.xch.pendingArea, received := s.xch.received } : Transom) = s.xch := rfl
  rw [hpending, hreceived] at hxch
  rw [State.takePending, hpending, hreceived]
  exact congrArg (fun t => { s with xch := t }) hxch

/-- An exchange enters the list of those in progress: its ring notes that it has started, and nothing else changes. -/
theorem State.enroll_only (s : State) (n : Nat) (e : Entry) (route : List RouteEntry) :
    s.enroll n e route = { s with rings := (s.enroll n e route).rings, xch := { s.xch with exchanges := (s.enroll n e route).xch.exchanges } } :=
  rfl

theorem State.enroll_exchanges (s : State) (n : Nat) (e : Entry) (route : List RouteEntry) :
    (s.enroll n e route).xch.exchanges = (s.xch.exchanges.filter fun y => !(y.closed && y.xid == (xchOf e.desc).xid &&
      y.combine == (xchOf e.desc).combine && y.reverse == (xchOf e.desc).reverse)) ++ [Exchange.start n e route] := rfl

theorem State.entry_enroll {s : State} {n : Nat} {e : Entry} (he : s.entry n e.pos = some e) (route : List RouteEntry) :
    (s.enroll n e route).entry n e.pos = some { e with started := true } :=
  State.entry_modEntry_of_entry (f := fun e => { e with started := true }) he fun _ h => h

theorem State.ring_enroll_ne (s : State) {n m : Nat} (e : Entry) (route : List RouteEntry) (h : m ≠ n) : (s.enroll n e route).ring m = s.ring m :=
  State.ring_modEntry_ne _ _ _ h

/-- A start whose reads are sound only enrols an exchange that returns rows. -/
theorem State.startExchange_of_returns {s : State} {n : Nat} {e : Entry} (he : s.entry n e.pos = some e) (hsealed : e.sealed = false)
    (hreturns : (xchOf e.desc).returns = true) (hruns : ∀ r ∈ s.startReads (xchOf e.desc), s.stalls r = false)
    (hsound : s.readsSound (s.startReads (xchOf e.desc))) (hpending : s.xch.pendingArea = []) (hreceived : s.xch.received = []) :
    s.startExchange n e = s.enroll n e (s.routeAt (xchOf e.desc).rrAddr ((xchOf e.desc).tokens * (xchOf e.desc).k)) := by
  have hany : (s.startReads (xchOf e.desc)).any (fun r => s.stalls r) = false := List.any_eq_false.mpr fun r hr => by simp [hruns r hr]
  rw [State.startExchange]
  generalize s.routeAt _ _ = route
  have hentered : (s.enroll n e route).readsSound (s.startReads (xchOf e.desc)) := hsound
  have hseal := State.sealReads_of_notSealed (State.entry_enroll he route) hsealed none (s.startReads (xchOf e.desc))
  have htake := State.takePending_of_none (s := s.enroll n e route) hpending hreceived (Exchange.start n e route)
  dsimp only
  rw [hany, if_neg (by decide), hseal, State.detect_of_sound hentered, State.find?_tainted_of_sound hentered]
  dsimp only
  rw [if_pos hreturns, htake]

theorem returningExchangesStart : ReturningExchangesStart := by
  intro s n e he hsealed b
  refine ⟨fun hstalls => ?_, fun hreturns hruns hsound hpending hreceived => ?_⟩
  · rw [State.startExchange]
    exact if_pos (List.any_eq_true.mpr hstalls)
  · intro x t
    have ht : t = s.enroll n e (s.routeAt b.rrAddr (b.tokens * b.k)) :=
      State.startExchange_of_returns he hsealed hreturns hruns hsound hpending hreceived
    rw [ht]
    exact ⟨State.enroll_only .., State.enroll_exchanges .., State.entry_enroll he _, fun m hm => State.ring_enroll_ne _ _ _ hm⟩

/-- Settles O58. -/
theorem exchangesStartAndGoOn : Obligations.ExchangesStartAndGoOn :=
  ⟨fun _ _ => ⟨exchangeActs (combine := false) fun _ => rfl, exchangeActs (combine := true) fun _ => rfl,
    exchangeActs (combine := false) fun _ => rfl, exchangeActs (combine := true) fun _ => rfl⟩, returningExchangesStart⟩

end Sys2Proof.Machine

end


section
/-! SUPPORT. O57: ROUTE_BUILD and EPOCH_INSTALL. -/

namespace Sys2Proof.Machine

/-! ### EPOCH_INSTALL -/

theorem epochsAreInstalled : EpochsAreInstalled := by
  have hexec (s : State) : exec .epochInstall s = .next s.epochInstall := rfl
  refine ⟨fun s hnone => ?_, fun s e hfence he htransom => ?_⟩
  · rw [hexec, State.epochInstall, hnone]
  · intro a c
    refine ⟨fun hwaits => ?_, fun hruns hbusy => ⟨fun v hv => ?_, fun hbreaches hsound => ?_⟩⟩
    · have hheld : (!s.transomRuns || s.exchangeBusy) = true := by rcases hwaits with h | h <;> simp [h]
      rw [hexec, State.epochInstall, hfence]
      dsimp only
      rw [htransom, if_neg (by decide), if_pos hheld]
    · rw [hexec, State.epochInstall, hfence]
      dsimp only
      rw [htransom, if_neg (by decide), hruns, hbusy, if_neg (by decide), show descVerdict (s.configBreaches s.xch.nextCfg.toNat) = some v from hv]
    · have hfree : descVerdict (s.configBreaches s.xch.nextCfg.toNat) = none := by
        rw [show s.configBreaches s.xch.nextCfg.toNat = [] from hbreaches]
        rfl
      have hmeet := State.meet_of_sound hsound 0 e.pos
      have hinstall : exec .epochInstall s = .next ({ s with xch := { s.xch with
            self := BitVec.ofNat 16 c.self, epoch := s.xch.epoch + 1#16, members := c.members, cfgAddr := s.xch.nextCfg } }.finish 0 e.pos) := by
        rw [hexec, State.epochInstall, hfence]
        dsimp only
        rw [htransom, if_neg (by decide), hruns, hbusy, if_neg (by decide), hfree]
        dsimp only
        rw [hmeet, if_neg Bool.false_ne_true]
      exact ⟨_, hinstall, rfl, fun m hm => State.ring_modEntry_ne _ _ _ hm, State.entry_finish he⟩

/-! ### Bytes written into an unmarked Mantel -/

theorem writeMarks_nil (unit a n : Nat) : writeMarks unit [] a n false = [] := by
  simp [writeMarks]

theorem State.entry_noteOutput {s : State} {n : Nat} {pos : W32} {e : Entry} (he : s.entry n pos = some e) (r : Range) :
    ∃ outs, (s.noteOutput n pos r).entry n pos = some { e with outs := outs } := by
  rw [State.noteOutput]
  split
  · exact ⟨e.outs, he⟩
  · exact ⟨_, State.entry_modEntry_of_entry (f := fun e => { e with outs := if e.outs.contains r then e.outs else e.outs ++ [r] }) he fun _ h => h⟩

theorem partialMark_nil (unit a n : Nat) : partialMark unit [] a n = none := by
  simp [partialMark]

theorem State.poke_rings (s : State) (space h a : Nat) (bytes : List W8) (bad : Bool) (hspace : space < 3) :
    (s.poke space h a bytes bad).rings = s.rings := by
  obtain rfl | rfl | rfl : space = 0 ∨ space = 1 ∨ space = 2 := by omega
  · rfl
  · rfl
  · rfl

/-- The range that an output covers. -/
def outputRange (space h a len : Nat) : Range := { space := space, hearth := if space = 0 ∨ space = 2 then h else 0, lo := a, len := len }

/-- Bytes written where nothing is marked, by a position that enters no seal session. -/
theorem State.put_of_unmarked {s : State} {n : Nat} {pos : W32} {e : Entry} (he : s.entry n pos = some e) (hsealed : e.sealed = false)
    {space h : Nat} (hspace : space < 3) (hmarks : s.poison space h = []) {bytes : List W8} (hbytes : bytes ≠ []) (a : Nat) (bad : Bool) :
    s.put n pos space h a bytes bad = (s.noteOutput n pos (outputRange space h a bytes.length)).poke space h a bytes bad := by
  obtain ⟨outs, hnoted⟩ := State.entry_noteOutput he (outputRange space h a bytes.length)
  have hpoison : (s.noteOutput n pos (outputRange space h a bytes.length)).poison space h = [] := by
    rw [s.noteOutput_only]
    exact hmarks
  have hseal : ((s.noteOutput n pos (outputRange space h a bytes.length)).poke space h a bytes bad).sealing n pos = false := by
    have hentry : ((s.noteOutput n pos (outputRange space h a bytes.length)).poke space h a bytes bad).entry n pos =
        some { e with outs := outs } := by
      rw [State.entry, State.ring, State.poke_rings _ _ _ _ _ _ hspace]
      exact hnoted
    simp only [State.sealing, hentry, hsealed, Bool.false_and]
  rw [State.put, if_neg hbytes]
  dsimp only
  rw [if_neg (by omega : ¬space = 3)]
  generalize hu : s.noteOutput n pos (outputRange space h a bytes.length) = u at *
  have hu' : s.noteOutput n pos { space := space, hearth := if space = 0 ∨ space = 2 then h else 0, lo := a, len := bytes.length } = u := hu
  rw [hu', hpoison, partialMark_nil]
  dsimp only
  rw [hseal, Bool.and_false, if_neg Bool.false_ne_true]

/-- Of a state and one that follows it: only the rings' notes and the Mantel differ, the Mantel holds these bytes and no mark, and the position has
no more than new outputs. -/
structure State.WritesMantel (s t : State) (n : Nat) (pos : W32) (e : Entry) (m : Memory) : Prop where
  frame : t = { s with rings := t.rings, mantel := t.mantel, mantelPoison := t.mantelPoison, mantelBad := t.mantelBad,
                       mantelSoft := t.mantelSoft }
  mantel : t.mantel = m
  marks : t.mantelPoison = []
  entry : ∃ outs, t.entry n pos = some { e with outs := outs }

theorem State.put_writesMantel {s t : State} {n : Nat} {pos : W32} {e : Entry} {m : Memory} (h : s.WritesMantel t n pos e m)
    (hsealed : e.sealed = false) {bytes : List W8} (hbytes : bytes ≠ []) (g a : Nat) :
    s.WritesMantel (t.put n pos 1 g a bytes false) n pos e (m.store a bytes) := by
  obtain ⟨hframe, hmantel, hmarks, outs, hentry⟩ := h
  obtain ⟨outs', hnoted⟩ := State.entry_noteOutput hentry (outputRange 1 g a bytes.length)
  have honly := t.noteOutput_only n pos (outputRange 1 g a bytes.length)
  rw [State.put_of_unmarked hentry (h := g) hsealed (by decide : 1 < 3) hmarks hbytes]
  generalize t.noteOutput n pos (outputRange 1 g a bytes.length) = u at *
  have hmantel' : u.mantel = m := by rw [honly]; exact hmantel
  have hmarks' : u.mantelPoison = [] := by rw [honly]; exact hmarks
  refine ⟨?_, congrArg (fun x : Memory => x.store a bytes) hmantel', ?_, outs', hnoted⟩
  · rw [honly, hframe]
    rfl
  · exact (congrArg (fun x => writeMarks 64 x a bytes.length false) hmarks').trans (writeMarks_nil ..)

/-! ### ROUTE_BUILD -/

/-- A walk enters one entry for each pair of words. -/
theorem RouteWalk.entry_length (w : RouteWalk) (map : List (Option Nat)) (t j : Nat) (value : W32) (p : Nat) :
    (w.entry map t j value p).entries.length = w.entries.length + 1 := by
  rw [RouteWalk.entry]
  split
  · rfl
  · split <;> rfl

theorem routeWalk_length (map : List (Option Nat)) (k : Nat) : ∀ (n i : Nat) (words : List Nat) (w : RouteWalk), words.length = 2 * n →
    (routeWalk map k n i words w).entries.length = w.entries.length + n
  | 0, _, _, _, _ => by simp [routeWalk]
  | n + 1, i, v :: p :: rest, w, h => by
    rw [routeWalk, routeWalk_length map k n (i + 1) rest _ (by simp at h; omega), RouteWalk.entry_length]
    omega
  | n + 1, i, [], w, h => by simp at h
  | n + 1, i, [v], w, h => by simp at h; omega

theorem numbersOf_length (w n : Nat) (bs : List W8) : (numbersOf w n bs).length = n := by
  induction n generalizing bs with
  | zero => rfl
  | succ n ih => simp [numbersOf, ih]

theorem RouteEntry.bytes_ne_nil (r : RouteEntry) : r.bytes ≠ [] := by
  intro h
  have := congrArg List.length h
  simp [RouteEntry.bytes, leBytes_length] at this

theorem State.countTable_ne_nil (s : State) (b : RouteDesc) (w : RouteWalk) : s.countTable b w ≠ [] := by
  intro h
  have := congrArg List.length h
  simp [State.countTable, leBytes_length] at this

theorem flatMap_bytes_ne_nil {l : List RouteEntry} (h : 0 < l.length) : l.reverse.flatMap RouteEntry.bytes ≠ [] := by
  intro hnil
  obtain ⟨r, hr⟩ := List.exists_mem_of_length_pos h
  exact r.bytes_ne_nil (List.flatMap_eq_nil_iff.mp hnil r (List.mem_reverse.mpr hr))

theorem routesAreBuilt : RoutesAreBuilt := by
  intro s n pos e hrun b c count reads outs
  obtain ⟨he, -⟩ := State.running_iff.mp hrun
  obtain rfl := State.entry_pos he
  have hexec : exec (.routeBuild n e.pos) s = .next (s.routeBuild n.toNat e) := by
    rw [show exec (.routeBuild n e.pos) s = execRouteBuild n e.pos s from rfl, execRouteBuild, hrun]
  have hpiece (hruns : s.transomRuns = true) : exec (.routeBuild n e.pos) s = .next (s.piece n.toNat e.pos none reads reads outs fun s bad =>
      let words := numbersOf 4 (2 * count) (s.peek b.space 0 b.inAddr (8 * count))
      let w := routeWalk (s.expertMap c) b.k count 0 words { entries := [], counts := [], valid := 0, nulled := 0 }
      let table := s.countTable b w
      let s := s.put n.toNat e.pos 1 transomUnit b.rrAddr (w.entries.reverse.flatMap RouteEntry.bytes) bad
      let s := s.put n.toNat e.pos 1 transomUnit b.ctAddr table bad
      (s.raise n.toNat e.pos (flagIf (decide (0 < w.nulled)) fPermOor)).finish n.toNat e.pos) := by
    rw [hexec, State.routeBuild, hruns, if_neg (by decide)]
    rfl
  refine ⟨fun hstops => ?_, fun hruns => fetchesFirst_of_piece he (hpiece hruns), fun hruns hmarks hcount hclear => ?_⟩
  · rw [hexec, State.routeBuild, hstops, if_pos (by decide)]
  · intro w
    have hstatus : e.status = 0#8 := hclear.1
    have hsealed : e.sealed = false := hclear.2.1
    have hentries : w.entries.length = count := (routeWalk_length _ _ _ _ _ _ (numbersOf_length ..)).trans (Nat.zero_add _)
    have hstart : s.WritesMantel s n.toNat e.pos e s.mantel := ⟨rfl, rfl, hmarks, e.outs, he⟩
    have hroute := State.put_writesMantel hstart hsealed (flatMap_bytes_ne_nil (by rw [hentries]; exact hcount)) transomUnit b.rrAddr
    have htable := State.put_writesMantel hroute hsealed (s.countTable_ne_nil b w) transomUnit b.ctAddr
    rw [hpiece hruns, State.piece_of_clear none _ _ he hclear]
    generalize hu : (s.put n.toNat e.pos 1 transomUnit b.rrAddr (w.entries.reverse.flatMap RouteEntry.bytes) false).put n.toNat e.pos 1 transomUnit
      b.ctAddr (s.countTable b w) false = u at htable
    obtain ⟨hframe, hmantel, -, out, hentry⟩ := htable
    let fl := flagIf (decide (0 < w.nulled)) fPermOor
    have hraised : (u.raise n.toNat e.pos fl).entry n.toNat e.pos = some { e with outs := out, flags := e.flags ||| BitVec.ofNat 16 fl } :=
      State.entry_modEntry_of_entry (f := fun e => { e with flags := e.flags ||| BitVec.ofNat 16 fl }) hentry fun _ h => h
    have hflags : BitVec.ofNat 16 fl = if 0 < w.nulled then BitVec.ofNat 16 fPermOor else 0#16 := by
      by_cases h : 0 < w.nulled <;> simp [fl, flagIf, h]
    refine ⟨(u.raise n.toNat e.pos fl).finish n.toNat e.pos, _, ?_, ?_, hmantel, State.entry_finish hraised, rfl, hstatus, ?_⟩
    · rw [← hu]
    · rw [State.finish, State.raise, hframe]
      rfl
    · rw [← hflags]
      rfl

/-- Settles O57. -/
theorem routesAndEpochsAreInstalled : Obligations.RoutesAndEpochsAreInstalled := ⟨routesAreBuilt, epochsAreInstalled⟩

end Sys2Proof.Machine

end


section
/-! SUPPORT. O53: a CHAIN is dealt, runs pass after pass, and uses the SFU. -/

namespace Sys2Proof.Machine

/-! ### Dealing -/

theorem State.hearth_modEntry (s : State) (n : Nat) (pos : W32) (f : Entry → Entry) (h : Nat) : (s.modEntry n pos f).hearth h = s.hearth h := rfl

/-- The run of one hearth's share of a CHAIN. -/
def State.runOf (s : State) (n : Nat) (pos : W32) (c : Chain) (q : Nat × Nat × Nat) : ChainRun :=
  { ring := n, pos := pos, first := q.2.1, count := q.2.2, pass := 0, passes := c.passes s.cfg.lanes q.2.2,
    record := s.streamRecord c q.1, lines := [], marks := [], reads := [] }

/-- A hearth's run joins its runs. -/
def State.joinRun (n : Nat) (pos : W32) (c : Chain) (s : State) (q : Nat × Nat × Nat) : State :=
  s.modHearth q.1 fun x => { x with chains := x.chains ++ [s.runOf n pos c q] }

section
variable (n : Nat) (pos : W32) (c : Chain)

theorem State.hearth_joinRun (s : State) (q : Nat × Nat × Nat) (h : Nat) :
    (s.joinRun n pos c q).hearth h =
      { s.hearth h with chains := (s.hearth h).chains ++ if q.1 = h then [s.runOf n pos c q] else [] } := by
  rw [State.joinRun, State.modHearth, State.hearth_setHearth]
  by_cases hq : q.1 = h
  · rw [if_pos hq.symm, if_pos hq, hq]
  · rw [if_neg (Ne.symm hq), if_neg hq, List.append_nil]

/-- What a run is dealt with does not depend on the runs that stand. -/
theorem State.runOf_joinRun (s : State) (q p : Nat × Nat × Nat) : (s.joinRun n pos c q).runOf n pos c p = s.runOf n pos c p := by
  have hstore : ((s.joinRun n pos c q).hearth p.1).store = (s.hearth p.1).store := by rw [State.hearth_joinRun]
  have hrecord : (s.joinRun n pos c q).streamRecord c p.1 = s.streamRecord c p.1 :=
    congrArg (fun m : Memory => leNat (m.read c.streamOff 256)) hstore
  rw [State.runOf, hrecord]
  rfl

theorem State.joinRuns_frame (runs : List (Nat × Nat × Nat)) (s : State) :
    runs.foldl (State.joinRun n pos c) s = { s with hearths := (runs.foldl (State.joinRun n pos c) s).hearths } := by
  induction runs generalizing s with
  | nil => rfl
  | cons q rest ih => exact ih (s.joinRun n pos c q)

theorem State.hearth_joinRuns (runs : List (Nat × Nat × Nat)) (s : State) (h : Nat) :
    (runs.foldl (State.joinRun n pos c) s).hearth h =
      { s.hearth h with chains := (s.hearth h).chains ++ (runs.filter fun q => q.1 == h).map (s.runOf n pos c) } := by
  induction runs generalizing s with
  | nil => simp
  | cons q rest ih =>
    rw [List.foldl_cons, ih, State.hearth_joinRun]
    have hruns : (s.joinRun n pos c q).runOf n pos c = s.runOf n pos c := funext fun p => s.runOf_joinRun n pos c q p
    rw [hruns]
    by_cases hq : q.1 = h <;> simp [hq]

end

theorem chainDealsItsRuns : ChainDealsItsRuns := by
  intro s n pos e hrun
  obtain ⟨he, -⟩ := State.running_iff.mp hrun
  obtain rfl := State.entry_pos he
  have hexec : exec (.chain n e.pos) s = .next (if e.started then s else s.dealChain n.toNat e) := by
    rw [show exec (.chain n e.pos) s = execChain n e.pos s from rfl, execChain, hrun]
  refine ⟨fun hstarted => ?_, fun hstarted => ?_⟩
  · rw [hexec, hstarted, if_pos rfl]
  · intro c runs hsound
    have hframe := State.joinRuns_frame n.toNat e.pos c runs s
    have hhearth := State.hearth_joinRuns n.toNat e.pos c runs s
    have hdeal : s.dealChain n.toNat e = (runs.foldl (State.joinRun n.toNat e.pos c) s).modEntry n.toNat e.pos fun e =>
        { e with started := true, left := runs.length } := by
      rw [State.dealChain]
      dsimp only
      rw [State.meet_of_sound hsound, if_neg Bool.false_ne_true]
      rfl
    rw [hexec, hstarted, if_neg Bool.false_ne_true, hdeal]
    generalize runs.foldl (State.joinRun n.toNat e.pos c) s = t at *
    have hentry : t.entry n.toNat e.pos = some e := by rw [hframe]; exact he
    refine ⟨_, rfl, ?_, fun m hm => ?_,
      State.entry_modEntry_of_entry (f := fun e => { e with started := true, left := runs.length }) hentry fun _ h => h, fun h => ?_⟩
    · rw [hframe]
      rfl
    · rw [State.ring_modEntry_ne _ _ _ hm, hframe]
      rfl
    · have hlist : (runs.filter fun q => q.1 == h).map (s.runOf n.toNat e.pos c) = (runs.filter fun q => q.1 == h).map fun q =>
          { ring := n.toNat, pos := e.pos, first := q.2.1, count := q.2.2, pass := 0, passes := c.passes s.cfg.lanes q.2.2,
            record := s.streamRecord c h, lines := [], marks := [], reads := [] } :=
        List.map_congr_left fun q hq => by
          rw [← (beq_iff_eq.mp (List.mem_filter.mp hq).2 : q.1 = h)]
          rfl
      rw [State.hearth_modEntry, hhearth h, hlist]

/-! ### Passes -/

theorem State.stopIfEnded_of_entry {s : State} {n : Nat} {pos : W32} {e : Entry} (he : s.entry n pos = some e) (h : e.status = 0#8) :
    s.stopIfEnded n pos = s := by
  rw [State.stopIfEnded, State.ended_of_entry he, h]
  rfl

/-- A hearth's lanes serve a run: it goes on where neither the Damper nor Flue keeps it. -/
theorem State.chainPass_of_serves {s : State} {h : Nat} {r : ChainRun} {e : Entry} (hnext : s.nextRun (s.hearth h).chains = some r)
    (he : s.entry r.ring r.pos = some e) (hdamper : s.withheld h (s.classOf r.ring) = false) (hflue : s.yields r.ring h = false) :
    s.chainPass h = if e.status ≠ 0#8 then s.stopWork r.ring r.pos else s.runPass h r e := by
  rw [State.chainPass, hnext]
  dsimp only
  rw [hdamper, hflue, if_neg (by decide), he]

theorem State.runPass_of_fetch {s : State} {h : Nat} {r : ChainRun} {e : Entry}
    (hmissing : ((hostPieces (s.planPass h r e).reads).filter fun g => !r.reads.contains g) ≠ []) :
    s.runPass h r e = (((s.readHost r.ring r.pos ((hostPieces (s.planPass h r e).reads).filter fun g => !r.reads.contains g)).advanceRun h r
      { r with reads := r.reads ++ (hostPieces (s.planPass h r e).reads).filter fun g => !r.reads.contains g }).stopIfEnded r.ring r.pos) := by
  rw [State.runPass, State.readiness, if_pos hmissing]

theorem State.runPass_of_clear {s : State} {h : Nat} {r : ChainRun} {e : Entry} (he : s.entry r.ring r.pos = some e)
    (hclear : s.clear r.ring e r.reads (s.planPass h r e).reads (s.planPass h r e).outs)
    (hadds : s.addsStall r.ring e h (s.planPass h r e).ctx (s.planPass h r e).run = false) :
    s.runPass h r e = s.commitPass r.ring e h r (s.planPass h r e).ctx (s.planPass h r e).lines (s.planPass h r e).run
      (s.planPass h r e).flags := by
  obtain ⟨-, hsealed, hhost, hreading, hstalls, hsound, houts⟩ := hclear
  have hpos := State.entry_pos he
  rw [hpos] at hreading
  rw [State.runPass]
  generalize s.planPass h r e = q at *
  have hany : q.outs.any (fun o => s.stalls o) = false := List.any_eq_false.mpr fun o ho => by simp [houts o ho]
  rw [State.readiness_of_clear hhost hreading hstalls hsound]
  dsimp only
  rw [hadds, hany, if_neg (by decide), State.sealReads_of_notSealed he hsealed, State.meet_of_sound hsound]

/-- What a pass without outputs, reductions and adds leaves: its flags, its SFU requests, and its run a pass further. -/
def State.quietPass (s : State) (n : Nat) (e : Entry) (h : Nat) (r : ChainRun) (p : PassRun) (fl : Nat) : State :=
  (((s.raise n e.pos (fl ||| p.flags ||| 0 ||| flagIf p.varied fVaried)).modHearth h fun y => y.queueSfu p.sfu).advanceRun h r
    { r with pass := r.pass + 1, reads := [] }).act n e.pos h

theorem State.commitPass_of_quiet (s : State) (n : Nat) (e : Entry) (h : Nat) {r : ChainRun} (x : PassCtx) (lines : List (List PassLane))
    {p : PassRun} (fl : Nat) (hadds : p.adds = []) (houts : p.outs = []) (hleaves : p.leaves = []) (hmore : r.pass + 1 ≠ r.passes) :
    s.commitPass n e h r x lines p fl =
      State.stopIfEnded { s.quietPass n e h r p fl with draws := (s.quietPass n e h r p fl).draws + 16 * x.vl } n e.pos := by
  have hnone : ((List.range x.vl).flatMap fun i => p.adds.filter fun a => a.1 == i) = [] := by simp [hadds]
  rw [State.commitPass, hnone, houts, hleaves]
  dsimp only [State.passWrites, State.reduceLines, List.map_nil, List.foldl_nil, List.flatMap_nil]
  rw [if_neg hmore]
  rfl

theorem State.hearth_quietPass (s : State) (n : Nat) (e : Entry) (h : Nat) {r : ChainRun} (p : PassRun) (fl : Nat)
    (hmore : r.pass + 1 ≠ r.passes) (g : Nat) :
    (s.quietPass n e h r p fl).hearth g = if g = h then { (s.hearth h).queueSfu p.sfu with
      chains := (s.hearth h).chains.map fun q => if q = r then { r with pass := r.pass + 1, reads := [] } else q } else s.hearth g := by
  rw [State.quietPass, State.act, State.hearth_modEntry, State.advanceRun, State.modHearth, State.hearth_setHearth]
  split
  · rw [State.modHearth, State.hearth_setHearth_self]
    rfl
  · next hg => rw [State.modHearth, State.hearth_setHearth, if_neg hg, State.raise, State.hearth_modEntry]

theorem State.entry_quietPass {s : State} {n : Nat} {e : Entry} (he : s.entry n e.pos = some e) (h : Nat) (r : ChainRun) (p : PassRun) (fl : Nat) :
    ∃ f, (s.quietPass n e h r p fl).entry n e.pos = some f ∧ f.status = e.status := by
  let raised := fl ||| p.flags ||| 0 ||| flagIf p.varied fVaried
  have hraised := State.entry_modEntry_of_entry (f := fun e => { e with flags := e.flags ||| BitVec.ofNat 16 raised }) he fun _ h => h
  refine ⟨_, State.entry_modEntry_of_entry (f := fun e => { e with acted := e.acted ||| BitVec.ofNat 64 (2 ^ h) })
    (e := { e with flags := e.flags ||| BitVec.ofNat 16 raised }) ?_ fun _ h => h, rfl⟩
  exact hraised

theorem State.quietPass_frame (s : State) (n : Nat) (e : Entry) (h : Nat) (r : ChainRun) (p : PassRun) (fl : Nat) :
    s.quietPass n e h r p fl = { s with rings := (s.quietPass n e h r p fl).rings, hearths := (s.quietPass n e h r p fl).hearths } := rfl

theorem passesRunTheProgram : PassesRunTheProgram := by
  intro s h hh hruns
  have hexec : exec (.chainPass h) s = .next (s.chainPass h.toNat) := by
    rw [show exec (.chainPass h) s = execChainPass h s from rfl, execChainPass, if_pos hh, hruns, if_pos rfl]
  refine ⟨fun hnone => ?_, fun r e hnext he => ⟨fun hheld => ?_, fun hdamper hflue => ?_⟩⟩
  · rw [hexec, State.chainPass, hnone]
    rfl
  · have hheld' : (s.withheld h.toNat (s.classOf r.ring) || s.yields r.ring h.toNat) = true := by rcases hheld with h | h <;> simp [h]
    rw [hexec, State.chainPass, hnext]
    dsimp only
    rw [if_pos hheld']
  · have hserves := State.chainPass_of_serves hnext he hdamper hflue
    intro q missing
    refine ⟨fun hstatus => ?_, fun hstatus hmissing => ?_, fun hclear hadds => ?_⟩
    · rw [hexec, hserves, if_pos hstatus]
    · rw [hexec, hserves, if_neg (not_not_intro hstatus), State.runPass_of_fetch hmissing]
    · have hstatus : e.status = 0#8 := hclear.1
      have hcommit : exec (.chainPass h) s = .next (s.commitPass r.ring e h.toNat r q.ctx q.lines q.run q.flags) := by
        rw [hexec, hserves, if_neg (not_not_intro hstatus), State.runPass_of_clear he hclear hadds]
      refine ⟨hcommit, fun hnoAdds hnoOuts hnoLeaves hmore => ?_⟩
      have hpos := State.entry_pos he
      obtain ⟨f, hentry, hf⟩ := State.entry_quietPass (s := s) (n := r.ring) (e := e) (by rw [hpos]; exact he) h.toNat r q.run q.flags
      have hhearth := State.hearth_quietPass s r.ring e h.toNat q.run q.flags hmore
      have hframe := State.quietPass_frame s r.ring e h.toNat r q.run q.flags
      rw [State.commitPass_of_quiet s r.ring e h.toNat q.ctx q.lines q.flags hnoAdds hnoOuts hnoLeaves hmore] at hcommit
      generalize s.quietPass r.ring e h.toNat r q.run q.flags = u at *
      rw [State.stopIfEnded_of_entry (s := { u with draws := u.draws + 16 * q.ctx.vl }) hentry (hf.trans hstatus)] at hcommit
      have hself := (hhearth h.toNat).trans (if_pos rfl)
      refine ⟨_, hcommit, ?_, fun g hg => (hhearth g).trans (if_neg hg), ?_, ?_, ?_⟩
      · rw [hframe]
      · change SameUnits _ (u.hearth h.toNat)
        rw [hself]
        exact ⟨rfl, rfl, rfl, rfl, rfl, rfl, rfl, rfl, rfl, rfl, rfl, rfl⟩
      · change (u.hearth h.toNat).jobs = _
        rw [hself]
        rfl
      · change (u.hearth h.toNat).chains = _
        rw [hself]

/-! ### The SFU (R175) -/

/-- The groups round from the last one granted. -/
def sfuRound (last : Nat) : List Nat := (List.range 8).map fun k => (last + 1 + k) % 8

theorem sfuRound_mod (last : Nat) : sfuRound last = sfuRound (last % 8) :=
  List.map_congr_left fun k _ => by omega

/-- Of one group only, that one is found from wherever the round begins. -/
theorem sfuRound_find (last : Nat) {g : Nat} (hg : g < 8) : ((sfuRound last).find? fun x => [g].contains x) = some g := by
  have hall : ∀ m < 8, ∀ g < 8, ((sfuRound m).find? fun x => [g].contains x) = some g := by decide
  rw [sfuRound_mod]
  exact hall _ (Nat.mod_lt _ (by decide)) g hg

/-- The request granted next, of the oldest pass `p`: one of its lowest stage `low`, of the group that the round finds. -/
theorem Hearth.sfuNext_eq {x : Hearth} {p k g : Nat} {rest : List (Nat × Nat × Nat)} (hq : x.sfuQueue = (p, k, g) :: rest) {low found : Nat}
    (hlow : (((((p, k, g) :: rest).filter fun r => r.1 == p).foldl (fun a r => min a r.2.1) k) = low))
    (hfound : ((sfuRound x.sfuLast).find? fun c =>
      (((((p, k, g) :: rest).filter fun r => r.1 == p).filter fun r => r.2.1 == low).map fun r => r.2.2).contains c) = some found) :
    x.sfuNext = some (p, low, found) := by
  rw [sfuRound] at hfound
  rw [Hearth.sfuNext, hq]
  dsimp only
  rw [hlow, hfound]

theorem Hearth.sfuGrant_of_next {x : Hearth} {q : Nat × Nat × Nat} (h : x.sfuNext = some q) :
    x.sfuGrant = { x with sfuQueue := x.sfuQueue.erase q, sfuLast := q.2.2 } := by
  rw [Hearth.sfuGrant, h]

theorem Hearth.sfuGrant_of_empty {x : Hearth} (h : x.sfuQueue = []) : x.sfuGrant = x := by
  rw [Hearth.sfuGrant, Hearth.sfuNext, h]

/-- A grant changes the queue, by one request at most, and notes the group. -/
theorem Hearth.sfuGrant_frame (x : Hearth) :
    x.sfuGrant = { x with sfuQueue := x.sfuGrant.sfuQueue, sfuLast := x.sfuGrant.sfuLast } ∧ x.sfuQueue.length ≤ x.sfuGrant.sfuQueue.length + 1 := by
  cases h : x.sfuNext with
  | none =>
    rw [show x.sfuGrant = x by rw [Hearth.sfuGrant, h]]
    exact ⟨rfl, Nat.le_succ _⟩
  | some q =>
    rw [Hearth.sfuGrant_of_next h]
    refine ⟨rfl, ?_⟩
    have := List.length_erase (a := q) (l := x.sfuQueue)
    dsimp only
    split at this <;> omega

/-- The only request is granted. -/
theorem Hearth.sfuGrant_single {x : Hearth} {q : Nat × Nat × Nat} (hq : x.sfuQueue = [q]) (hg : q.2.2 < 8) :
    x.sfuGrant = { x with sfuQueue := [], sfuLast := q.2.2 } := by
  obtain ⟨p, k, g⟩ := q
  have hnext : x.sfuNext = some (p, k, g) := by
    refine Hearth.sfuNext_eq hq (by simp) ?_
    have := sfuRound_find x.sfuLast hg
    simpa using this
  rw [Hearth.sfuGrant_of_next hnext, hq, List.erase_cons_head]

theorem grantsServeTheOldestPass : GrantsServeTheOldestPass := by
  intro s h hh hruns
  have hexec : exec (.sfuGrant h) s = .next (s.modHearth h.toNat fun x => x.sfuGrant.sfuGrant) := by
    rw [show exec (.sfuGrant h) s = execSfuGrant h s from rfl, execSfuGrant, if_pos hh, hruns, if_pos rfl]
  refine ⟨_, hexec, rfl, fun g hg => ?_, ?_⟩
  · rw [State.modHearth, State.hearth_setHearth, if_neg hg]
  · intro x y
    have hy : y = x.sfuGrant.sfuGrant := State.hearth_setHearth_self ..
    obtain ⟨hfirst, hlen⟩ := x.sfuGrant_frame
    obtain ⟨hsecond, hlen'⟩ := x.sfuGrant.sfuGrant_frame
    rw [hy]
    refine ⟨?_, by omega, fun hnone => ?_, fun q hq hg => ?_, fun p g hq hg => ?_, fun p g k l m hpk hg hl hm hq => ?_, fun p hlast hq => ?_⟩
    · rw [hsecond, hfirst]
    · rw [Hearth.sfuGrant_of_empty hnone, Hearth.sfuGrant_of_empty hnone]
    · rw [Hearth.sfuGrant_single hq hg, Hearth.sfuGrant_of_empty rfl]
      exact ⟨rfl, rfl⟩
    · have hnext : x.sfuNext = some (p, 0, g) := by
        refine Hearth.sfuNext_eq hq (by simp) ?_
        have := sfuRound_find x.sfuLast hg
        simpa using this
      rw [Hearth.sfuGrant_of_next hnext, hq, List.erase_cons_head, Hearth.sfuGrant_single (q := (p, 1, g)) rfl hg]
    · have hnext : x.sfuNext = some (p, 0, l) := by
        refine Hearth.sfuNext_eq hq (by simp [Ne.symm hpk]) ?_
        have := sfuRound_find x.sfuLast hl
        simpa [Ne.symm hpk] using this
      have hqueue : [(p, 1, g), (p, 0, l), (k, 0, m)].erase (p, 0, l) = [(p, 1, g), (k, 0, m)] := by simp
      rw [Hearth.sfuGrant_of_next hnext, hq, hqueue]
      generalize hu : ({ x with sfuQueue := [(p, 1, g), (k, 0, m)], sfuLast := (p, 0, l).2.2 } : Hearth) = u
      have hrest : u.sfuQueue = [(p, 1, g), (k, 0, m)] := by rw [← hu]
      have hthen : u.sfuNext = some (p, 1, g) := by
        refine Hearth.sfuNext_eq hrest (by simp [Ne.symm hpk]) ?_
        have := sfuRound_find u.sfuLast hg
        simpa [Ne.symm hpk] using this
      rw [Hearth.sfuGrant_of_next hthen, hrest]
      exact List.erase_cons_head ..
    · have hnext : x.sfuNext = some (p, 0, 5) := by
        refine Hearth.sfuNext_eq hq (by simp) ?_
        rw [hlast]
        simp [sfuRound, List.range, List.range.loop]
      have hqueue : [(p, 0, 2), (p, 0, 3), (p, 0, 5)].erase (p, 0, 5) = [(p, 0, 2), (p, 0, 3)] := by simp
      rw [Hearth.sfuGrant_of_next hnext, hq, hqueue]
      generalize hu : ({ x with sfuQueue := [(p, 0, 2), (p, 0, 3)], sfuLast := (p, 0, 5).2.2 } : Hearth) = u
      have hrest : u.sfuQueue = [(p, 0, 2), (p, 0, 3)] := by rw [← hu]
      have hturn : u.sfuLast = 5 := by rw [← hu]
      have hthen : u.sfuNext = some (p, 0, 2) := by
        refine Hearth.sfuNext_eq hrest (by simp) ?_
        rw [hturn]
        simp [sfuRound, List.range, List.range.loop]
      rw [Hearth.sfuGrant_of_next hthen, hrest]
      exact ⟨List.erase_cons_head .., rfl⟩

/-- Settles O53. -/
theorem chainsRunPassAfterPass : Obligations.ChainsRunPassAfterPass :=
  ⟨chainDealsItsRuns, passesRunTheProgram, grantsServeTheOldestPass⟩

end Sys2Proof.Machine

end


section
/-! SUPPORT. An exchange that a failure ends (R235). -/

namespace Sys2Proof.Machine

/-! ### Messages to the members -/

theorem State.toMembers_foldl_frame (f : Nat → Packet) (ms : List Nat) (s : State) :
    ms.foldl (fun s m => s.emit [f m]) s = { s with xch := { s.xch with
      txQueue := (ms.foldl (fun s m => s.emit [f m]) s).xch.txQueue, nextRow := (ms.foldl (fun s m => s.emit [f m]) s).xch.nextRow } } := by
  induction ms generalizing s with
  | nil => rfl
  | cons m rest ih => exact ih (s.emit [f m])

/-- Messages to every other member only join the queue. -/
theorem State.toMembers_frame (s : State) (f : Nat → Packet) :
    s.toMembers f = { s with xch := { s.xch with txQueue := (s.toMembers f).xch.txQueue, nextRow := (s.toMembers f).xch.nextRow } } :=
  State.toMembers_foldl_frame f _ s

theorem State.mem_foldl_emit (f : Nat → Packet) (ms : List Nat) (s : State) {i : TxItem} (h : i ∈ s.xch.txQueue) :
    i ∈ (ms.foldl (fun s m => s.emit [f m]) s).xch.txQueue := by
  induction ms generalizing s with
  | nil => exact h
  | cons m rest ih => exact ih (s.emit [f m]) (List.mem_append_left _ h)

/-- Every member of the list gets its message, with its CHECK. -/
theorem State.foldl_emit_sends (f : Nat → Packet) {ms : List Nat} {m : Nat} (hm : m ∈ ms) (s : State) :
    ∃ i ∈ (ms.foldl (fun s m => s.emit [f m]) s).xch.txQueue, i.pkt = { f m with check := packetCrc (f m) } := by
  induction ms generalizing s with
  | nil => exact absurd hm List.not_mem_nil
  | cons k rest ih =>
    rcases List.mem_cons.mp hm with rfl | hrest
    · exact ⟨_, State.mem_foldl_emit f rest (s.emit [f m]) (List.mem_append_right _ (List.mem_singleton.mpr rfl)), rfl⟩
    · exact ih hrest (s.emit [f k])

theorem State.toMembers_sends (s : State) (f : Nat → Packet) {m : Nat} (hm : m ∈ s.chips) (hother : m ≠ s.xch.self.toNat) :
    ∃ i ∈ (s.toMembers f).xch.txQueue, i.pkt = { f m with check := packetCrc (f m) } :=
  State.foldl_emit_sends f (List.mem_filter.mpr ⟨hm, by simpa using hother⟩) s

/-! ### The failure -/

theorem Exchange.isOf_close (x : Exchange) (n : Nat) (pos : W32) : ({ x with closed := true } : Exchange).isOf n pos = false := by
  simp [Exchange.isOf]

/-- A position whose exchanges are closed has none in progress. -/
theorem State.exchange_close (s : State) (n : Nat) (pos : W32) : (s.modExchange n pos fun x => { x with closed := true }).exchange n pos = none := by
  refine List.find?_eq_none.mpr fun x hx => ?_
  obtain ⟨y, -, rfl⟩ := List.mem_map.mp hx
  by_cases h : y.isOf n pos = true
  · rw [if_pos h, Exchange.isOf_close]
    decide
  · rw [if_neg h]
    exact h

/-- A failure is noted in XCH_LAST_ERR, and by an error record. -/
theorem State.noteFailure_logs (s : State) (n : Nat) (pos : W32) (x : Exchange) (status cause peer : Nat) :
    Logs { s with xch := { s.xch with
      lastXid := x.xid, lastCause := BitVec.ofNat 8 cause, lastStatus := BitVec.ofNat 8 status, lastPeer := BitVec.ofNat 16 peer } }
      (s.noteFailure n pos x status cause peer) := by
  rw [State.noteFailure]
  exact State.logError_logs ..

/-- The state in which a failure has been noted, its descriptor has failed, and its packets and requests are gone. -/
def State.failed (s : State) (n : Nat) (pos : W32) (x : Exchange) (status detail cause peer : Nat) : State :=
  (((s.fail n pos status detail).noteFailure n pos x status cause peer).dropPackets x).dropRequests x.order

theorem State.hardFail_eq {s : State} {n : Nat} {pos : W32} {x : Exchange} (hx : s.exchange n pos = some x) (status detail cause peer : Nat)
    (abort : Bool) : s.hardFail n pos status detail cause peer abort =
      ((if abort then (s.failed n pos x status detail cause peer).sendAborts x status
        else s.failed n pos x status detail cause peer).modExchange n pos fun x => { x with closed := true }).finish n pos := by
  rw [State.hardFail, hx]
  rfl

/-- XCH_LAST_ERR of a failure, and the queues without what the exchange had there. -/
def Transom.failed (t : Transom) (x : Exchange) (status cause peer : Nat) : Transom :=
  { t with
    lastXid := x.xid, lastCause := BitVec.ofNat 8 cause, lastStatus := BitVec.ofNat 8 status, lastPeer := BitVec.ofNat 16 peer,
    txQueue := t.txQueue.filter fun i => !x.owns i.pkt, pendingArea := t.pendingArea.filter fun q => !x.owns q.2.1,
    received := t.received.filter fun q => !x.owns q.2.1, unsent := t.unsent.filter fun r => r.id != x.order }

theorem State.failed_xch (s : State) (n : Nat) (pos : W32) (x : Exchange) (status detail cause peer : Nat) :
    (s.failed n pos x status detail cause peer).xch = s.xch.failed x status cause peer := by
  have hlogs := ((s.fail n pos status detail).noteFailure_logs n pos x status cause peer).xch
  rw [State.failed]
  generalize (s.fail n pos status detail).noteFailure n pos x status cause peer = u at *
  rw [State.dropRequests, State.dropPackets, hlogs]
  rfl

theorem State.failed_frame (s : State) (n : Nat) (pos : W32) (x : Exchange) (status detail cause peer : Nat) :
    (s.failed n pos x status detail cause peer).rings = (s.fail n pos status detail).rings ∧
      (s.failed n pos x status detail cause peer).mantel = s.mantel ∧ (s.failed n pos x status detail cause peer).hearths = s.hearths := by
  have hlogs := (s.fail n pos status detail).noteFailure_logs n pos x status cause peer
  rw [State.failed]
  generalize (s.fail n pos status detail).noteFailure n pos x status cause peer = u at *
  exact ⟨hlogs.rings, hlogs.mantel, hlogs.hearths⟩

/-- The members stand in the Mantel, where a failure changes nothing. -/
theorem State.failed_chips (s : State) (n : Nat) (pos : W32) (x : Exchange) (status detail cause peer : Nat) :
    (s.failed n pos x status detail cause peer).chips = s.chips := by
  have hxch := s.failed_xch n pos x status detail cause peer
  obtain ⟨-, hmantel, -⟩ := s.failed_frame n pos x status detail cause peer
  generalize s.failed n pos x status detail cause peer = u at *
  rw [State.chips, State.chips, State.installed, State.installed, State.memberList, State.memberList, State.configAt, State.configAt, hmantel, hxch]
  rfl

/-- A failure of an exchange in progress ends it. -/
theorem State.hardFail_ends {s : State} {n : Nat} {pos : W32} {x : Exchange} {e : Entry} (hx : s.exchange n pos = some x)
    (he : s.entry n pos = some e) (hstatus : e.status = 0#8) (status detail cause peer : Nat) (abort : Bool) :
    EndsTheExchange s (s.hardFail n pos status detail cause peer abort) n pos x.xid status detail cause peer := by
  have hxch := s.failed_xch n pos x status detail cause peer
  obtain ⟨hrings, hmantel, hhearths⟩ := s.failed_frame n pos x status detail cause peer
  have hentry : (s.failed n pos x status detail cause peer).entry n pos =
      some { e with status := BitVec.ofNat 8 status, detail := BitVec.ofNat 16 detail } := by
    rw [State.entry, State.ring, hrings]
    exact State.entry_fail he hstatus status detail
  have htold : ∃ q k, (if abort then (s.failed n pos x status detail cause peer).sendAborts x status else s.failed n pos x status detail cause peer) =
      { s.failed n pos x status detail cause peer with
        xch := { (s.failed n pos x status detail cause peer).xch with txQueue := q, nextRow := k } } := by
    cases abort
    · exact ⟨_, _, rfl⟩
    · exact ⟨_, _, State.toMembers_frame ..⟩
  obtain ⟨q, k, htold⟩ := htold
  rw [State.hardFail_eq hx, htold]
  generalize s.failed n pos x status detail cause peer = u at *
  refine ⟨_, State.entry_finish (s := State.modExchange { u with xch := { u.xch with txQueue := q, nextRow := k } } n pos fun x => { x with closed := true }) hentry,
    rfl, rfl, rfl, State.exchange_close { u with xch := { u.xch with txQueue := q, nextRow := k } } n pos, ?_, ?_, ?_, ?_, hmantel, hhearths⟩
  · exact congrArg Transom.lastXid hxch
  · exact congrArg Transom.lastCause hxch
  · exact congrArg Transom.lastStatus hxch
  · exact congrArg Transom.lastPeer hxch

theorem failuresEndExchanges : FailuresEndExchanges := by
  intro s n pos x e status detail cause peer abort hx he hstatus t
  have hxch := s.failed_xch n pos x status detail cause peer
  refine ⟨State.hardFail_ends hx he hstatus status detail cause peer abort, fun habort => ?_, fun habort m hm hother => ?_⟩
  · rw [show t = _ from State.hardFail_eq hx status detail cause peer abort, habort, if_neg Bool.false_ne_true]
    exact congrArg Transom.txQueue hxch
  · rw [show t = _ from State.hardFail_eq hx status detail cause peer abort, habort, if_pos rfl]
    have hchips := s.failed_chips n pos x status detail cause peer
    generalize s.failed n pos x status detail cause peer = u at *
    have hself : u.xch.self = s.xch.self := by rw [hxch, Transom.failed]
    obtain ⟨i, hi, hpkt⟩ := u.toMembers_sends (fun m => { u.packet x pkAbort 0 m with offset := BitVec.ofNat 32 status }) (by rw [hchips]; exact hm)
      (by rw [hself]; exact hother)
    refine ⟨i, hi, ?_⟩
    rw [hpkt]
    exact ⟨rfl, rfl, rfl, rfl, rfl⟩

/-- A failure of a descriptor whose exchange has not started enrols the exchange, and ends it. -/
theorem State.failUnstarted_ends {s : State} {n : Nat} {e : Entry} (he : s.entry n e.pos = some e) (hnone : s.exchange n e.pos = none)
    (hstatus : e.status = 0#8) (status detail cause peer : Nat) (abort : Bool) :
    EndsTheExchange s (s.failUnstarted n e status detail cause peer abort) n e.pos (xchOf e.desc).xid status detail cause peer := by
  have hx : (s.enroll n e []).exchange n e.pos = some (Exchange.start n e []) := by
    rw [State.exchange, State.enroll_exchanges, List.find?_append]
    have hkeep : (s.xch.exchanges.filter fun y => !(y.closed && y.xid == (xchOf e.desc).xid &&
        y.combine == (xchOf e.desc).combine && y.reverse == (xchOf e.desc).reverse)).find? (fun x => x.isOf n e.pos) = none := by
      rw [State.exchange] at hnone
      exact List.find?_eq_none.mpr fun y hy => List.find?_eq_none.mp hnone y (List.mem_of_mem_filter hy)
    rw [hkeep]
    simp [Exchange.isOf, Exchange.start]
  exact State.hardFail_ends (e := { e with started := true }) hx (State.entry_enroll he []) hstatus status detail cause peer abort

end Sys2Proof.Machine

end


section
/-! SUPPORT. O59: packets act by epoch, exchange and type. -/

namespace Sys2Proof.Machine

/-! ### Arrival -/

theorem State.recordInput_of_not_records {s : State} {kind : Nat} (h : s.audit.records kind = false) (source : Nat) (data : W64) (bytes : List W8) :
    s.recordInput kind source data bytes = s := by
  rw [State.recordInput, h, if_neg Bool.false_ne_true]

theorem Audit.holds_of_not_records {a : Audit} {kind : Nat} (h : a.records kind = false) : a.holds kind = false := by
  simp [Audit.holds, h]

/-- A packet that nothing records is received at once. -/
theorem State.livePacket_of_not_records {s : State} (h : s.audit.records 2 = false) (port : Nat) (p : Packet) :
    s.livePacket port p = s.receivePacket port p true := by
  rw [State.livePacket, State.recordInput_of_not_records h, ite_self]

theorem State.grantPort_audit (s : State) (port : Nat) : (s.grantPort port).audit = s.audit := rfl

theorem packetsAreReceived {c : Packet → Instr} {port : BitVec 3} {types : List Nat}
    (hc : ∀ (s : State) (p : Packet), port.toNat < s.cfg.stoves → exec (c p) s = .next (s.packetIn port.toNat p types (c p))) :
    PacketsAreReceived c port types := by
  intro s p hport
  have hexec := hc s p hport
  refine ⟨fun hidle => ?_, fun hruns htype => ?_⟩
  · have hidle' : (s.transomRuns && types.contains p.type.toNat) = false := by rcases hidle with h | h <;> simp [h]
    rw [hexec, State.packetIn, hidle', if_neg Bool.false_ne_true]
  · have hacts : (s.transomRuns && types.contains p.type.toNat) = true := by simp [hruns, htype]
    intro u rx
    refine ⟨fun hnone => ?_, fun left hleft => ?_⟩
    · have htake : s.takeUnits port.toNat p = none := by
        rw [State.takeUnits]
        dsimp only
        rw [show Credit.take _ _ _ = none from hnone]
      rw [hexec, State.packetIn, hacts, if_pos rfl, htake]
    · intro v
      have htake : s.takeUnits port.toNat p = some v := by
        rw [State.takeUnits]
        dsimp only
        rw [show Credit.take _ _ _ = some left from hleft]
      have haudit : v.audit = s.audit := rfl
      rw [hexec, State.packetIn, hacts, if_pos rfl, htake]
      dsimp only
      rw [haudit]
      refine ⟨fun hholds => ?_, fun hholds hwaits => ?_, fun hholds hwithheld hrecords => ?_⟩
      · rw [hholds]
        rfl
      · rw [hholds, if_neg Bool.false_ne_true, State.arrivePacket, haudit, if_pos (by rcases hwaits with h | h <;> simp [h])]
      · rw [hholds, if_neg Bool.false_ne_true, State.arrivePacket, haudit,
          if_neg (by simp [Audit.holds_of_not_records hrecords, hwithheld]), State.livePacket_of_not_records (haudit ▸ hrecords)]

theorem exec_xchCountReceive (port : BitVec 3) (s : State) (p : Packet) (h : port.toNat < s.cfg.stoves) :
    exec (.xchCountReceive port p) s = .next (s.packetIn port.toNat p [pkCount] (.xchCountReceive port p)) := if_pos h

theorem exec_xchReadyReceive (port : BitVec 3) (s : State) (p : Packet) (h : port.toNat < s.cfg.stoves) :
    exec (.xchReadyReceive port p) s = .next (s.packetIn port.toNat p [pkReady] (.xchReadyReceive port p)) := if_pos h

theorem exec_xchRowReceive (port : BitVec 3) (s : State) (p : Packet) (h : port.toNat < s.cfg.stoves) :
    exec (.xchRowReceive port p) s = .next (s.packetIn port.toNat p [pkOut, pkRet] (.xchRowReceive port p)) := if_pos h

theorem exec_xchDoneReceive (port : BitVec 3) (s : State) (p : Packet) (h : port.toNat < s.cfg.stoves) :
    exec (.xchDoneReceive port p) s = .next (s.packetIn port.toNat p [pkDone] (.xchDoneReceive port p)) := if_pos h

theorem exec_xchDwReceive (port : BitVec 3) (s : State) (p : Packet) (h : port.toNat < s.cfg.stoves) :
    exec (.xchDwReceive port p) s = .next (s.packetIn port.toNat p [pkDw] (.xchDwReceive port p)) := if_pos h

theorem exec_xchStaleReceive (port : BitVec 3) (s : State) (p : Packet) (h : port.toNat < s.cfg.stoves) :
    exec (.xchStaleReceive port p) s = .next (s.packetIn port.toNat p [pkStale] (.xchStaleReceive port p)) := if_pos h

theorem exec_xchAbortReceive (port : BitVec 3) (s : State) (p : Packet) (h : port.toNat < s.cfg.stoves) :
    exec (.xchAbortReceive port p) s = .next (s.packetIn port.toNat p [pkAbort] (.xchAbortReceive port p)) := if_pos h

/-! ### Credit -/

theorem Credit.take_ctrl (c : Credit) (k : Nat) : c.take 0 k = if k ≤ c.ctrl then some { c with ctrl := c.ctrl - k } else Option.none := rfl

theorem Credit.take_out (c : Credit) (k : Nat) : c.take 1 k = if k ≤ c.out then some { c with out := c.out - k } else Option.none := rfl

theorem Credit.take_ret (c : Credit) (k : Nat) : c.take 2 k =
    if k ≤ c.ret + c.out then some { c with ret := c.ret - min k c.ret, out := c.out - (k - min k c.ret) } else Option.none := rfl

theorem State.grantPort_rxCredits (s : State) (port : Nat) : Tab.at Credit.none (s.grantPort port).xch.rxCredits port =
    if s.xchAwake port then
      { ctrl := if s.xch.pendingFull then (Tab.at Credit.none s.xch.rxCredits port).ctrl else (s.freeUnits port).ctrl,
        out := max (Tab.at Credit.none s.xch.rxCredits port).out
          (if s.xch.warnLevel = 1 then min (s.freeUnits port).out sharedHalf else (s.freeUnits port).out),
        ret := (s.freeUnits port).ret }
    else Credit.none := Tab.at_put_self ..

theorem portsGrantTheirBuffers : PortsGrantTheirBuffers := by
  refine ⟨fun c k => ⟨c.take_ctrl k, c.take_out k, fun h => ?_, fun hmore hfits => ?_, fun h => ?_, rfl⟩, fun s port => ?_⟩
  · rw [Credit.take_ret, if_pos (by omega), Nat.min_eq_left h, Nat.sub_self, Nat.sub_zero]
  · rw [Credit.take_ret, if_pos hfits, Nat.min_eq_right hmore.le, Nat.sub_self]
    congr 2
    omega
  · rw [Credit.take_ret, if_neg (by omega)]
  · intro c old
    have hc : c = _ := s.grantPort_rxCredits port
    refine ⟨fun hdown => ?_, fun hawake hempty => ?_⟩
    · rw [hc, hdown, if_neg Bool.false_ne_true]
    · have hfree : s.freeUnits port = Credit.granted := by rw [State.freeUnits, hempty]; rfl
      rw [hc, hawake, if_pos rfl, hfree]
      refine ⟨rfl, fun hroom => ?_, fun hfull => ?_, fun hwarn => ?_, fun hwarn => ?_⟩
      · rw [hroom]
        rfl
      · rw [hfull]
        rfl
      · rw [if_neg hwarn]
        rfl
      · rw [if_pos hwarn]
        rfl

/-! ### A packet of another epoch -/

/-- The state after a packet of another epoch is counted and, unless it is a STALE itself, answered. -/
def State.answerStale (s : State) (p : Packet) : State :=
  if p.type.toNat = pkStale then { s with xch := { s.xch with stale := satInc s.xch.stale } }
  else State.emit { s with xch := { s.xch with stale := satInc s.xch.stale } }
    [{ p with type := BitVec.ofNat 8 pkStale, last := true, vc := 0#2, len := 0#16, srcChip := s.xch.self, dstChip := p.srcChip,
              epoch := s.xch.epoch, expert := 0#16, pktIndex := 0#16, tokenSlot := 0#32, offset := 0#32, weight := 0#32,
              payload := [], poison := false }]

/-- The answer only joins the queue. -/
theorem State.answerStale_frame (s : State) (p : Packet) :
    ∃ q k, s.answerStale p = { s with xch := { s.xch with stale := satInc s.xch.stale, txQueue := q, nextRow := k } } := by
  rw [State.answerStale]
  split <;> exact ⟨_, _, rfl⟩

theorem State.stalePacket_of_live {s : State} {p : Packet} {x : Exchange} (h : s.xch.exchanges.find? (fun x => !x.closed && x.owns p) = some x) :
    s.stalePacket p = (s.answerStale p).hardFail x.ring x.pos stEpoch p.srcChip.toNat 2 p.srcChip.toNat true := by
  obtain ⟨q, k, hanswer⟩ := s.answerStale_frame p
  have hx : (s.answerStale p).xch.exchanges.find? (fun x => !x.closed && x.owns p) = some x := by rw [hanswer]; exact h
  rw [State.stalePacket, ← State.answerStale, hx]

theorem State.stalePacket_of_unstarted {s : State} {p : Packet} {n : Nat} {e : Entry}
    (h : s.xch.exchanges.find? (fun x => !x.closed && x.owns p) = none) (hu : s.unstarted p.xid p.combine p.reverse = some (n, e)) :
    s.stalePacket p = (s.answerStale p).failUnstarted n e stEpoch p.srcChip.toNat 2 p.srcChip.toNat true := by
  obtain ⟨q, k, hanswer⟩ := s.answerStale_frame p
  have hx : (s.answerStale p).xch.exchanges.find? (fun x => !x.closed && x.owns p) = none := by rw [hanswer]; exact h
  have hn : (s.answerStale p).unstarted p.xid p.combine p.reverse = some (n, e) := by rw [hanswer]; exact hu
  rw [State.stalePacket, ← State.answerStale, hx, hn]

theorem State.stalePacket_of_unknown {s : State} {p : Packet}
    (h : s.xch.exchanges.find? (fun x => !x.closed && x.owns p) = none) (hu : s.unstarted p.xid p.combine p.reverse = none) :
    s.stalePacket p = s.answerStale p := by
  obtain ⟨q, k, hanswer⟩ := s.answerStale_frame p
  have hx : (s.answerStale p).xch.exchanges.find? (fun x => !x.closed && x.owns p) = none := by rw [hanswer]; exact h
  have hn : (s.answerStale p).unstarted p.xid p.combine p.reverse = none := by rw [hanswer]; exact hu
  rw [State.stalePacket, ← State.answerStale, hx, hn]

/-- A failure leaves the count of stale packets. -/
theorem State.hardFail_stale (s : State) (n : Nat) (pos : W32) (status detail cause peer : Nat) (abort : Bool) :
    (s.hardFail n pos status detail cause peer abort).xch.stale = s.xch.stale := by
  cases hx : s.exchange n pos with
  | none => rw [State.hardFail, hx]
  | some x =>
    have hxch := s.failed_xch n pos x status detail cause peer
    rw [State.hardFail_eq hx]
    generalize s.failed n pos x status detail cause peer = u at *
    have hstale : u.xch.stale = s.xch.stale := by rw [hxch, Transom.failed]
    cases abort
    · exact hstale
    · rw [if_pos rfl, State.sendAborts, State.toMembers_frame]
      exact hstale

theorem State.unstarted_xid {s : State} {xid : W16} {combine reverse : Bool} {n : Nat} {e : Entry}
    (h : s.unstarted xid combine reverse = some (n, e)) : (xchOf e.desc).xid = xid := by
  have hfound := List.find?_some h
  simp only [Bool.and_eq_true, beq_iff_eq] at hfound
  exact hfound.1.1.2

theorem find?_live_eq_none {xs : List Exchange} {p : Packet} (h : ∀ x ∈ xs, x.closed = true ∨ x.owns p = false) :
    xs.find? (fun x => !x.closed && x.owns p) = none :=
  List.find?_eq_none.mpr fun x hx => by rcases h x hx with h | h <;> simp [h]

theorem stalePacketsAreAnswered : StalePacketsAreAnswered := by
  intro s port p sent hepoch t peer
  have ht : t = s.stalePacket p := if_neg hepoch
  obtain ⟨q, k, hanswer⟩ := s.answerStale_frame p
  have hstale : (s.answerStale p).xch.stale = satInc s.xch.stale := by rw [hanswer]
  refine ⟨?_, fun hnone hu => ⟨fun htype => ?_, fun htype => ?_⟩, fun x e hx hlive he hstatus => ?_, fun n e hnone hu he hfree hstatus => ?_⟩
  · rw [ht]
    cases hx : s.xch.exchanges.find? (fun x => !x.closed && x.owns p) with
    | some x => rw [State.stalePacket_of_live hx, State.hardFail_stale, hstale]
    | none =>
      cases hu : s.unstarted p.xid p.combine p.reverse with
      | none => rw [State.stalePacket_of_unknown hx hu, hstale]
      | some r => rw [State.stalePacket_of_unstarted hx hu, State.failUnstarted, State.hardFail_stale, State.enroll_only, hstale]
  · rw [ht, State.stalePacket_of_unknown (find?_live_eq_none hnone) hu, State.answerStale, if_pos htype]
  · rw [ht, State.stalePacket_of_unknown (find?_live_eq_none hnone) hu, State.answerStale, if_neg htype]
    exact ⟨_, rfl, rfl, rfl, rfl, rfl, rfl, rfl, rfl⟩
  · rw [ht, State.stalePacket_of_live hx, hanswer]
    exact State.hardFail_ends (s := { s with xch := { s.xch with stale := satInc s.xch.stale, txQueue := q, nextRow := k } }) hlive he hstatus ..
  · rw [ht, State.stalePacket_of_unstarted (find?_live_eq_none hnone) hu, hanswer, ← State.unstarted_xid hu]
    exact State.failUnstarted_ends (s := { s with xch := { s.xch with stale := satInc s.xch.stale, txQueue := q, nextRow := k } }) he hfree hstatus ..

/-! ### A packet whose exchange is not in progress -/

theorem State.receivePacket_of_early {s : State} {p : Packet} (hepoch : p.epoch = s.xch.epoch)
    (h : s.xch.exchanges.find? (fun x => !x.closed && x.owns p) = none) (port : Nat) (sent : Bool) :
    s.receivePacket port p sent = s.takeEarly port p sent := by
  rw [State.receivePacket, if_pos hepoch, State.takePacket, h]

theorem earlyPacketsWait : EarlyPacketsWait := by
  intro s port p sent hepoch hnone t owed whole waits
  have ht : t = s.takeEarly port p sent := State.receivePacket_of_early hepoch hnone port sent
  have hwhole : (sent && decide (packetCrc p = p.check)) = decide whole := by simp [whole]
  rw [ht, State.takeEarly]
  refine ⟨fun hu => ⟨fun hw howed => ?_, fun hnot => ⟨fun hfailed => ?_, fun hnew => ?_⟩⟩,
    fun n e hu => ⟨fun hw he hfree hstatus => ⟨fun htype => ?_, fun htype => ?_⟩, fun hnot => ?_⟩⟩
  · rw [hu]
    dsimp only
    rw [hwhole, decide_eq_true hw, if_pos (by simpa using howed)]
  · rw [hu]
    dsimp only
    rw [hwhole, if_neg (by simpa using hnot), if_pos (by simpa using hfailed)]
  · rw [hu]
    have hclosed : ∀ x ∈ s.xch.exchanges, x.closed = true → x.owns p = false := fun x hx hc => (hnew x hx).resolve_left (by simp [hc])
    dsimp only
    rw [hwhole, if_neg (by simpa using hnot), if_neg (by simpa only [List.any_eq_true, Bool.and_eq_true, not_exists, not_and, Bool.not_eq_true] using hclosed)]
  · rw [hu, ← State.unstarted_xid hu]
    dsimp only
    rw [hwhole, decide_eq_true hw, if_pos (by simp [htype])]
    exact State.failUnstarted_ends he hfree hstatus ..
  · rw [hu, ← State.unstarted_xid hu]
    dsimp only
    rw [hwhole, decide_eq_true hw, if_neg (by simp [htype, pkAbort, pkStale]), if_pos (by simp [htype])]
    exact State.failUnstarted_ends he hfree hstatus ..
  · rw [hu]
    dsimp only
    rw [hwhole, if_neg (by simp at hnot ⊢; tauto), if_neg (by simp at hnot ⊢; tauto)]

/-! ### A packet of an exchange in progress -/

theorem State.receivePacket_of_live {s : State} {p : Packet} {x : Exchange} {e : Entry} (hepoch : p.epoch = s.xch.epoch)
    (h : s.xch.exchanges.find? (fun x => !x.closed && x.owns p) = some x) (he : s.entry x.ring x.pos = some e) (port : Nat) (sent : Bool) :
    s.receivePacket port p sent = s.takeLive port p sent x.ring e := by
  rw [State.receivePacket, if_pos hepoch, State.takePacket, h]
  dsimp only
  rw [he]

theorem State.modExchange_modExchange (s : State) (n : Nat) (pos : W32) {f g : Exchange → Exchange}
    (hf : ∀ x, (f x).isOf n pos = x.isOf n pos) :
    (s.modExchange n pos f).modExchange n pos g = s.modExchange n pos fun x => g (f x) := by
  have hmap : (s.xch.exchanges.map fun x => if x.isOf n pos then f x else x).map (fun x => if x.isOf n pos then g x else x) =
      s.xch.exchanges.map fun x => if x.isOf n pos then g (f x) else x := by
    rw [List.map_map]
    refine List.map_congr_left fun x _ => ?_
    by_cases hx : x.isOf n pos = true
    · simp [hx, hf]
    · simp [hx]
  rw [State.modExchange, State.modExchange, State.modExchange]
  dsimp only
  rw [hmap]

/-- What a sound packet does once its member has been heard, by its type. -/
def State.actOnHeard (s : State) (n : Nat) (pos : W32) (b : XchDesc) (p : Packet) : State :=
  let t := p.type.toNat
  let src := p.srcChip.toNat
  if (t = pkOut ∧ b.allocates) ∨ (t = pkRet ∧ b.returns) then s.takeRow n pos b p p.poison true
  else if t = pkDw ∧ b.combine ∧ b.reverse then s.takeDw n pos b p p.poison
  else if t = pkCount ∧ b.combine = false ∧ b.reverse = false then s.takeCount n pos b p
  else if t = pkReady ∧ b.allocates then s.modExchange n pos fun x => { x with readyFrom := x.readyFrom ++ [src] }
  else if t = pkDone then s.modExchange n pos fun x => { x with doneFrom := x.doneFrom ++ [src] }
  else if t = pkStale then s.hardFail n pos stEpoch src 2 src true
  else if t = pkAbort then s.hardFail n pos p.offset.toNat (abortDetail p.offset.toNat src) 5 src false
  else s

theorem State.actOnPacket_sound (s : State) (n : Nat) (pos : W32) (b : XchDesc) (p : Packet) :
    s.actOnPacket n pos b p true true = (s.modExchange n pos fun x => x.hears p.srcChip.toNat).actOnHeard n pos b p := by
  have hbad : (!true || p.poison || !true) = p.poison := by simp
  rw [State.actOnPacket, hbad]
  rfl

theorem livePacketsAct : LivePacketsAct := by
  refine ⟨fun s port p sent x e hepoch hx he => ?_, fun s n pos b p => ?_⟩
  · intro t b sound
    have ht : t = s.takeLive port p sent x.ring e := State.receivePacket_of_live hepoch hx he port sent
    have hsound : (!decide (packetCrc p = p.check) || !sent) = !decide sound := by simp [sound]
    rw [ht, State.takeLive, State.entry_pos he]
    dsimp only
    rw [hsound]
    refine ⟨fun hstalls => if_pos hstalls, fun hstalls => ?_⟩
    rw [if_neg (by rw [hstalls]; exact Bool.false_ne_true)]
    refine ⟨fun hs hp => ?_, fun hs hp => ?_, fun hs hv => ?_, fun hs hv => ?_⟩
    · simp [hs.1, hs.2, sound, hp, b]
    · simp [hs.1, hs.2, sound, hp, b]
    · rw [if_pos (by simp [hs, hv])]
    · rw [if_neg (by simp [hv]), if_pos (by simp [hs]), if_pos (by simp [hs])]
  · intro src u t
    rw [show t = u.actOnHeard n pos b p from s.actOnPacket_sound n pos b p]
    refine ⟨fun ht hb => ?_, fun ht hb => ?_, fun ht hc hr => ?_, fun ht hc hr => ?_, fun ht hb => ?_, fun ht => ?_, fun ht => ?_, fun ht => ?_⟩
    · exact if_pos (Or.inl ⟨ht, hb⟩)
    · exact if_pos (Or.inr ⟨ht, hb⟩)
    · simp [State.actOnHeard, ht, hc, hr, pkOut, pkRet, pkDw]
    · simp [State.actOnHeard, ht, hc, hr, pkOut, pkRet, pkDw, pkCount]
    · have hdo : u.actOnHeard n pos b p = u.modExchange n pos fun x => { x with readyFrom := x.readyFrom ++ [src] } := by
        simp [State.actOnHeard, ht, hb, pkOut, pkRet, pkDw, pkCount, pkReady, src]
      rw [hdo]
      exact s.modExchange_modExchange n pos (f := fun x => x.hears src) (g := fun x => { x with readyFrom := x.readyFrom ++ [src] }) fun _ => rfl
    · have hdo : u.actOnHeard n pos b p = u.modExchange n pos fun x => { x with doneFrom := x.doneFrom ++ [src] } := by
        simp [State.actOnHeard, ht, pkOut, pkRet, pkDw, pkCount, pkReady, pkDone, src]
      rw [hdo]
      exact s.modExchange_modExchange n pos (f := fun x => x.hears src) (g := fun x => { x with doneFrom := x.doneFrom ++ [src] }) fun _ => rfl
    · simp [State.actOnHeard, ht, pkOut, pkRet, pkDw, pkCount, pkReady, pkDone, pkStale, src]
    · simp [State.actOnHeard, ht, pkOut, pkRet, pkDw, pkCount, pkReady, pkDone, pkStale, pkAbort, src]

/-- Settles O59. -/
theorem packetsActOnTheirExchange : Obligations.PacketsActOnTheirExchange :=
  ⟨fun port =>
    ⟨packetsAreReceived (exec_xchCountReceive port), packetsAreReceived (exec_xchReadyReceive port), packetsAreReceived (exec_xchRowReceive port),
      packetsAreReceived (exec_xchDoneReceive port), packetsAreReceived (exec_xchDwReceive port), packetsAreReceived (exec_xchStaleReceive port),
      packetsAreReceived (exec_xchAbortReceive port)⟩,
    portsGrantTheirBuffers, failuresEndExchanges, stalePacketsAreAnswered, earlyPacketsWait, livePacketsAct⟩

end Sys2Proof.Machine

end


section
/-! SUPPORT. O60: credit, pools, timeouts and releases of the Transom. -/

namespace Sys2Proof.Machine

/-! ### The lanes of a packet (R370) -/

theorem packetHeader_length (p : Packet) : (packetHeader p).length = 28 := by
  simp [packetHeader, leBytes_length]

theorem packetBytes_length (p : Packet) : (packetBytes p).length = 32 + p.payload.length := by
  rw [packetBytes, List.length_append, List.length_append, packetHeader_length, leBytes_length]

/-- The bytes of one lane: those from `32 i` on, with zeros up to a whole lane. -/
def laneData (bytes : List W8) (i : Nat) : List W8 :=
  (bytes.drop (32 * i)).take 32 ++ List.replicate (32 - ((bytes.drop (32 * i)).take 32).length) 0#8

theorem laneData_length (bytes : List W8) (i : Nat) : (laneData bytes i).length = 32 := by
  rw [laneData, List.length_append, List.length_replicate, List.length_take]
  omega

theorem laneData_succ (bytes : List W8) (i : Nat) : laneData bytes (i + 1) = laneData (bytes.drop 32) i := by
  rw [laneData, laneData, List.drop_drop, show 32 * (i + 1) = 32 + 32 * i by omega]

/-- Lanes that are all full but the last hold the bytes, and zeros after them. -/
theorem flatMap_laneData (n : Nat) (bytes : List W8) (hroom : bytes.length ≤ 32 * n) (hfull : 32 * n < bytes.length + 32) :
    (List.range n).flatMap (laneData bytes) = bytes ++ List.replicate (32 * n - bytes.length) 0#8 := by
  induction n generalizing bytes with
  | zero => simp [List.eq_nil_of_length_eq_zero (Nat.le_zero.mp hroom)]
  | succ n ih =>
    have hdrop : (bytes.drop 32).length = bytes.length - 32 := List.length_drop
    have hrest := ih (bytes.drop 32) (by omega) (by omega)
    rw [List.range_succ_eq_map, List.flatMap_cons, List.flatMap_map, List.flatMap_congr fun i _ => laneData_succ bytes i, hrest, laneData,
      Nat.mul_zero, List.drop_zero, List.length_take, hdrop]
    rcases Nat.le_total 32 bytes.length with h | h
    · rw [Nat.min_eq_left h, Nat.sub_self, List.replicate_zero, List.append_nil, ← List.append_assoc, List.take_append_drop,
        show 32 * n - (bytes.length - 32) = 32 * (n + 1) - bytes.length by omega]
    · rw [Nat.min_eq_right h, List.take_of_length_le h, List.drop_of_length_le h, List.nil_append, List.append_assoc, List.replicate_append_replicate,
        show 32 - bytes.length + (32 * n - (bytes.length - 32)) = 32 * (n + 1) - bytes.length by omega]

theorem packetLanes_length (first : Nat) (p : Packet) : (packetLanes first p).length = (32 + p.len.toNat + 31) / 32 := by
  rw [packetLanes, List.length_map, List.length_range, ceilDiv]
  omega

theorem getElem?_packetLanes {first : Nat} {p : Packet} {k : Nat} {l : TxLane} (h : (packetLanes first p)[k]? = some l) :
    l = { lane := BitVec.ofNat 2 (first + k), data := laneData (packetBytes p) k, sop := decide (k = 0),
          eop := decide (k + 1 = (packetLanes first p).length), vc := p.vc, poison := p.poison && decide (k ≠ 0) } := by
  have hn : (packetLanes first p).length = ceilDiv (32 + p.len.toNat) 32 := by rw [packetLanes, List.length_map, List.length_range]
  rw [hn]
  rw [packetLanes, List.getElem?_map, Option.map_eq_some_iff] at h
  obtain ⟨i, hi, rfl⟩ := h
  obtain ⟨-, rfl⟩ := List.getElem?_eq_some_iff.mp hi
  rw [List.getElem_range]
  rfl

theorem flatMap_packetLanes (first : Nat) (p : Packet) :
    (packetLanes first p).flatMap TxLane.data = (List.range (ceilDiv (32 + p.len.toNat) 32)).flatMap (laneData (packetBytes p)) := by
  rw [packetLanes, List.flatMap_map]
  rfl

/-! ### Sending -/

theorem exec_xchPacketSend (port : BitVec 3) {s : State} (hport : port.toNat < s.cfg.stoves) (hawake : s.xchAwake port.toNat = true) :
    exec (.xchPacketSend port) s = .next (((s.xch.txQueue.find? fun i => s.maySend port.toNat i).map (s.sendItem port.toNat)).getD s) := by
  rw [show exec (.xchPacketSend port) s = execXchPacketSend port s from rfl, execXchPacketSend, if_pos hport, if_pos hawake]
  cases s.xch.txQueue.find? fun i => s.maySend port.toNat i <;> rfl

theorem exec_xchCreditReturn (port : BitVec 3) (ctrl out ret : BitVec 4) {s : State} (hport : port.toNat < s.cfg.stoves)
    (hawake : s.xchAwake port.toNat = true) :
    exec (.xchCreditReturn port ctrl out ret) s = .next { s with xch := { s.xch with
      txCredits := Tab.put Credit.none s.xch.txCredits port.toNat
        { ctrl := (s.credit port.toNat).ctrl + ctrl.toNat, out := (s.credit port.toNat).out + out.toNat,
          ret := (s.credit port.toNat).ret + ret.toNat } } } := by
  rw [show exec (.xchCreditReturn port ctrl out ret) s = execXchCreditReturn port ctrl out ret s from rfl, execXchCreditReturn, if_pos hport,
    if_pos hawake]

/-- What stays of the queue keeps its packets, and the rest of a row takes the port. -/
theorem State.sendItem_txQueue (s : State) (port : Nat) (i : TxItem) : (s.sendItem port i).xch.txQueue =
    (s.xch.txQueue.erase i).map fun j => if j.row = i.row ∧ isRow i.pkt then { j with port := some port } else j := rfl

theorem State.sendItem_sent (s : State) (port : Nat) (i : TxItem) :
    (s.sendItem port i).xch.sent = Tab.put none s.xch.sent port (some i.pkt) := rfl

theorem State.sendItem_sentLanes (s : State) (port : Nat) (i : TxItem) :
    (s.sendItem port i).xch.sentLanes = Tab.put [] s.xch.sentLanes port (packetLanes (s.nextLane port) i.pkt) := rfl

/-- Only the port that sends pays. -/
theorem State.sendItem_credit (s : State) (port : Nat) (i : TxItem) (q : Nat) : (s.sendItem port i).credit q =
    if q = port then (s.credit port).spend i.pkt.vc.toNat (packetUnits i.pkt) else s.credit q := Tab.at_put ..

theorem packetsLeaveOnCredit : PacketsLeaveOnCredit := by
  refine ⟨fun s port hport hdown => ⟨?_, fun ctrl out ret => ?_⟩, fun s port hport hawake => ⟨fun hnone => ?_, fun i hi => ?_, fun ctrl out ret => ?_⟩⟩
  · rw [show exec (.xchPacketSend port) s = execXchPacketSend port s from rfl, execXchPacketSend, if_pos hport, hdown, if_neg Bool.false_ne_true]
  · rw [show exec (.xchCreditReturn port ctrl out ret) s = execXchCreditReturn port ctrl out ret s from rfl, execXchCreditReturn, if_pos hport,
      hdown, if_neg Bool.false_ne_true]
  · rw [exec_xchPacketSend port hport hawake, List.find?_eq_none.mpr fun i hi => by rw [hnone i hi]; exact Bool.false_ne_true]
    rfl
  · refine ⟨s.sendItem port.toNat i, by rw [exec_xchPacketSend port hport hawake, hi]; rfl, rfl, ?_, ?_, fun q hq => ⟨?_, ?_, ?_⟩, ?_, fun hrow j hj hsame => ?_, fun hrow => ⟨?_, ?_⟩, ?_⟩
    · rw [State.sendItem_sent, Tab.at_put_self]
    · rw [State.sendItem_credit, if_pos rfl]
    · rw [State.sendItem_credit, if_neg hq]
    · rw [State.sendItem_sent, Tab.at_put_ne _ hq]
    · rw [State.sendItem_sentLanes, Tab.at_put_ne _ hq]
    · rw [State.sendItem_txQueue, List.map_map]
      refine List.map_congr_left fun j _ => ?_
      rw [Function.comp_apply]
      split <;> rfl
    · rw [State.sendItem_txQueue] at hj
      obtain ⟨k, -, rfl⟩ := List.mem_map.mp hj
      by_cases hk : k.row = i.row
      · rw [if_pos ⟨hk, hrow⟩]
      · rw [if_neg fun h => hk h.1] at hsame
        exact absurd hsame hk
    · rw [State.sendItem_txQueue, hrow]
      simp
    · show (if isRow i.pkt ∧ i.port = none then _ else _) = _
      rw [hrow, if_neg (by simp)]
    · intro lanes
      have hlanes : lanes = packetLanes (s.nextLane port.toNat) i.pkt := by
        have hput := congrArg (fun t => Tab.at [] t port.toNat) (s.sendItem_sentLanes port.toNat i)
        exact hput.trans (Tab.at_put_self ..)
      rw [hlanes]
      refine ⟨packetLanes_length .., fun k l hl => ?_, fun hlen => ?_⟩
      · rw [getElem?_packetLanes hl]
        exact ⟨rfl, laneData_length .., rfl, decide_eq_true_iff, decide_eq_true_iff, by simp⟩
      · have hbytes : (packetBytes i.pkt).length = 32 + i.pkt.len.toNat := by rw [packetBytes_length, hlen]
        rw [flatMap_packetLanes, flatMap_laneData _ _ (by rw [ceilDiv, hbytes]; omega) (by rw [ceilDiv, hbytes]; omega), ← hbytes]
        refine ⟨List.take_left, fun z hz => ?_⟩
        rw [List.drop_left] at hz
        exact List.eq_of_mem_replicate hz
  · exact ⟨_, exec_xchCreditReturn port ctrl out ret hport hawake, rfl, fun q hq => Tab.at_put_ne _ hq, Tab.at_put_self ..⟩

/-! ### Pools -/

theorem State.pumpRequests_of_none {s : State} (h : s.xch.unsent = []) : s.pumpRequests = s := by
  rw [State.pumpRequests, State.sendRequests, h]

theorem exec_poolGrant {s : State} {tag : W8} {pool : BitVec 2} {index : BitVec 24} {base : BitVec 52} (hruns : s.transomRuns = true)
    (hawake : s.poolAwake = true) (hholds : s.audit.holdsInput 3 = false) (hrecords : s.audit.records 3 = false) :
    exec (.poolGrant tag pool index base) s = .next (s.grantBuffer tag pool index base) := by
  rw [show exec (.poolGrant tag pool index base) s = execPoolGrant tag pool index base s from rfl, execPoolGrant, hruns, hawake, Bool.true_and, if_pos rfl, hholds,
    if_neg Bool.false_ne_true, State.liveGrant, State.recordInput_of_not_records hrecords]

theorem State.allocate_of_none {s : State} (h : s.xch.exchanges = []) : s.allocate = s := by
  rw [State.allocate, h, List.length_nil, State.serveAllocs, State.nextAlloc, h]
  rfl

theorem foldl_recordInput_of_not_records {s : State} {kind : Nat} (h : s.audit.records kind = false) (same : Nat → Prop) [DecidablePred same]
    (data : Nat → W64) (bytes : Nat → List W8) (ps : List Nat) :
    ps.foldl (fun s p => if same p then s else s.recordInput kind p (data p) (bytes p)) s = s := by
  induction ps with
  | nil => rfl
  | cons p rest ih => rw [List.foldl_cons, State.recordInput_of_not_records h, ite_self, ih]

theorem State.liveWarn_of_not_records {s : State} (h : s.audit.records 4 = false) (warn : W8) : s.liveWarn warn = s.setWarn warn := by
  rw [State.liveWarn, foldl_recordInput_of_not_records h]

theorem find?_owner_eq_none {xs : List Exchange} {id : Nat} (h : ∀ x ∈ xs, x.closed = true ∨ x.order ≠ id) :
    xs.find? (fun x => !x.closed && x.order == id) = none :=
  List.find?_eq_none.mpr fun x hx => by rcases h x hx with h | h <;> simp [h]

theorem poolsGrantAndWarn : PoolsGrantAndWarn := by
  intro s
  refine ⟨fun tag pool index base => ⟨fun hdown => ?_, fun hruns hawake hholds => ?_⟩,
    fun tag pool index base hruns hawake hholds hrecords => ⟨fun hnone => ?_, fun r hr hunsent => ?_⟩,
    fun warn => ⟨fun hdown => ?_, fun hruns hholds => ?_, fun hruns hholds hrecords hnone => ?_⟩⟩
  · rw [show exec (.poolGrant tag pool index base) s = execPoolGrant tag pool index base s from rfl, execPoolGrant,
      if_neg (by rcases hdown with h | h <;> simp [h])]
  · rw [show exec (.poolGrant tag pool index base) s = execPoolGrant tag pool index base s from rfl, execPoolGrant, hruns, hawake, Bool.true_and, if_pos rfl,
      hholds, if_pos rfl]
    rfl
  · rw [exec_poolGrant hruns hawake hholds hrecords, State.grantBuffer, List.find?_eq_none.mpr fun r hr => by simpa using hnone r hr]
  · intro u freed
    have hpump : u.pumpRequests = u := State.pumpRequests_of_none hunsent
    rw [exec_poolGrant hruns hawake hholds hrecords, State.grantBuffer, hr]
    dsimp only
    rw [hpump]
    refine ⟨fun hdead => ?_, fun v g hv hid hg => ?_⟩
    · cases hv : s.bufferSet r.set with
      | none =>
        rw [show u.bufferSet r.set = none from hv]
        rfl
      | some v =>
        rw [show u.bufferSet r.set = some v from hv]
        dsimp only
        rw [if_pos (hdead v hv)]
        rfl
    · rw [show u.bufferSet r.set = some v from hv]
      dsimp only
      rw [if_neg (not_not.mpr hid), hg]
      dsimp only
      rw [show u.grantFits r g.space pool base.toNat = s.grantFits r g.space pool base.toNat from rfl]
      refine ⟨fun hfits => ?_, fun hfits => ?_⟩
      · rw [hfits, if_pos rfl]
        refine ⟨fun hgone => ?_, fun x hx => ?_⟩
        · rw [show u.xch.exchanges.find? (fun x => !x.closed && x.order == r.id) = none from find?_owner_eq_none hgone]
        · rw [show u.xch.exchanges.find? (fun x => !x.closed && x.order == r.id) = some x from hx]
      · rw [hfits, if_neg Bool.false_ne_true]
        refine ⟨fun hgone => ?_, fun x hx => ?_⟩
        · rw [show u.xch.exchanges.find? (fun x => !x.closed && x.order == r.id) = none from find?_owner_eq_none hgone]
          rfl
        · rw [show u.xch.exchanges.find? (fun x => !x.closed && x.order == r.id) = some x from hx]
          rfl
  · rw [show exec (.poolWarnChange warn) s = .next (s.warnIn warn) from rfl, State.warnIn, hdown, if_neg Bool.false_ne_true]
  · rw [show exec (.poolWarnChange warn) s = .next (s.warnIn warn) from rfl, State.warnIn, hruns, if_pos rfl, hholds, if_pos rfl]
    rfl
  · intro now
    rw [show exec (.poolWarnChange warn) s = .next (s.warnIn warn) from rfl, State.warnIn, hruns, if_pos rfl, hholds, if_neg Bool.false_ne_true,
      State.liveWarn_of_not_records hrecords, State.setWarn]
    dsimp only
    rw [State.allocate_of_none (by exact hnone)]

/-! ### Timeouts -/

theorem silentMembersEndTheExchange : SilentMembersEndTheExchange := by
  intro s combine reverse xid peer late watched live
  have hexec : exec (.xchTimeout combine reverse xid peer) s = execXchTimeout combine reverse xid peer s := rfl
  refine ⟨fun hnot => ?_, fun x e hlive hx he hstatus hw => ⟨fun hquiet => ?_, fun hsilent hlate => ?_⟩, fun hlive hw => ⟨fun hu => ?_, fun n e hu he hfree hstatus => ?_⟩⟩
  · rw [hexec, execXchTimeout, if_neg (by simpa [watched] using hnot)]
  · rw [hexec, execXchTimeout, if_pos (by simpa using hw), show List.find? _ _ = some x from hlive]
    dsimp only
    rw [if_neg fun h => ?_]
    obtain ⟨hunheard, hdue⟩ := h
    rcases hquiet with hheard | hearly
    · simp [hheard] at hunheard
    · exact hearly (of_decide_eq_true hdue)
  · have hxid : x.xid = xid := by
      have hfound := List.find?_some hlive
      simp only [Bool.and_eq_true, beq_iff_eq] at hfound
      exact hfound.1.1.2
    refine ⟨_, ?_, hxid ▸ State.hardFail_ends hx he hstatus stAborted 3 3 peer.toNat true⟩
    rw [hexec, execXchTimeout, if_pos (by simpa using hw), show List.find? _ _ = some x from hlive]
    dsimp only
    rw [if_pos ⟨by simpa using hsilent, decide_eq_true hlate⟩]
  · rw [hexec, execXchTimeout, if_pos (by simpa using hw), show List.find? _ _ = none from hlive, hu]
  · intro came
    have hcame : (s.xch.pendingArea.any fun q =>
        q.2.1.srcChip == peer && q.2.1.xid == xid && q.2.1.combine == combine && q.2.1.reverse == reverse) = decide came := by
      rw [Bool.eq_iff_iff, decide_eq_true_iff]
      simp [came, and_assoc]
    have hrun : exec (.xchTimeout combine reverse xid peer) s =
        if decide came = false ∧ decide (late e.issued) = true then .next (s.failUnstarted n e stAborted 3 3 peer.toNat true) else .next s := by
      rw [hexec, execXchTimeout, if_pos (by simpa using hw), show List.find? _ _ = none from hlive, hu]
      dsimp only
      rw [hcame]
    refine ⟨fun hquiet => ?_, fun hnot hlate => ⟨_, ?_, State.unstarted_xid hu ▸ State.failUnstarted_ends he hfree hstatus stAborted 3 3 peer.toNat true⟩⟩
    · rw [hrun, if_neg fun h => hquiet.elim (of_decide_eq_false h.1) fun hearly => hearly (of_decide_eq_true h.2)]
    · rw [hrun, if_pos ⟨decide_eq_false hnot, decide_eq_true hlate⟩]

/-! ### Releases -/

/-- The buffers that a segment holds. -/
def Segment.buffers (g : Segment) : List (BitVec 2 × BitVec 24) :=
  (if g.granted then [(g.pool, g.index)] else []) ++ if g.twinGranted then [(g.pool, g.twinIndex)] else []

theorem foldl_releaseBuffer (gs : List Segment) (s : State) :
    gs.foldl (fun s g =>
      let s := if g.granted then s.releaseBuffer g.pool g.index else s
      if g.twinGranted then s.releaseBuffer g.pool g.twinIndex else s) s =
    { s with xch := { s.xch with releases := s.xch.releases ++ gs.flatMap Segment.buffers } } := by
  induction gs generalizing s with
  | nil => simp
  | cons g rest ih =>
    rw [List.foldl_cons, ih, List.flatMap_cons, Segment.buffers]
    cases g.granted <;> cases g.twinGranted <;> simp [State.releaseBuffer]

theorem releasesGiveBuffersBack : ReleasesGiveBuffersBack := by
  intro s k hopen htransom
  have hk := k.isLt
  have hexec : exec (.xchBsetRelease k) s = .next (s.bsetRelease k.toNat).answered := by
    rw [show exec (.xchBsetRelease k) s = .next (s.sashWrite 0x30050 k.toNat) from rfl,
      State.sashWrite_of_sashOpen hopen (by decide) (by decide) (by omega)]
    rw [show s.writeReg 0x30050 k.toNat = s.writeTransom 0x30050 k.toNat from rfl, State.writeTransom, htransom, if_pos rfl,
      if_neg (by decide), if_neg (by decide), if_neg (by decide), if_pos rfl, Nat.mod_eq_of_lt hk]
  rw [hexec, State.bsetRelease]
  refine ⟨fun hnone => ?_, fun v hv => ⟨fun hread => ?_, fun hread => ?_⟩⟩
  · rw [hnone]
    dsimp only
    rw [State.releaseSet, hnone]
  · rw [hv]
    dsimp only
    rw [hread, if_pos rfl]
  · rw [hv]
    dsimp only
    rw [hread, if_neg Bool.false_ne_true, State.releaseSet, hv]
    dsimp only
    rw [foldl_releaseBuffer]
    rfl

/-- Settles O60. -/
theorem creditPoolsTimeoutsAndReleases : Obligations.CreditPoolsTimeoutsAndReleases :=
  ⟨packetsLeaveOnCredit, poolsGrantAndWarn, silentMembersEndTheExchange, releasesGiveBuffersBack⟩

end Sys2Proof.Machine

end


section
/-! SUPPORT. O51: panels fill the stage, and the parts of a K split combine at their home. -/

namespace Sys2Proof.Machine

/-! ### Panels -/

theorem exec_stagePanelFetch {s : State} {h : BitVec 6} (hh : h.toNat < s.cfg.hearths) (hruns : s.hearthRuns h.toNat = true) :
    exec (.stagePanelFetch h) s = .next (s.fetchPanel h.toNat) := by
  rw [show exec (.stagePanelFetch h) s = execStagePanelFetch h s from rfl, execStagePanelFetch, if_pos hh, hruns, if_pos rfl]

theorem State.drawBytes_eq (s : State) (n : Nat) :
    s.drawBytes n = ((List.range n).map fun i => Config.freeByte (s.draws + i), { s with draws := s.draws + n }) := rfl

/-- The draws have no part in what a read finds. -/
theorem State.readsSound_draws {s : State} {rs : List Range} (h : s.readsSound rs) (k : Nat) : State.readsSound { s with draws := k } rs := h

/-- The state with the bytes of a panel in the first half of the stage. -/
def State.staged (s : State) (n : Nat) (pos : W32) (h : Nat) (a k : Nat) : State :=
  State.poke { s.act n pos h with draws := s.draws + k } 0 h a ((List.range k).map fun i => Config.freeByte (s.draws + i)) false

theorem State.staged_frame (s : State) (n : Nat) (pos : W32) (h a k : Nat) : s.staged n pos h a k =
    { s with rings := (s.staged n pos h a k).rings, hearths := (s.staged n pos h a k).hearths, draws := (s.staged n pos h a k).draws } := rfl

theorem State.hearth_staged_ne (s : State) (n : Nat) (pos : W32) (h a k : Nat) {g : Nat} (hg : g ≠ h) :
    (s.staged n pos h a k).hearth g = s.hearth g := by
  rw [State.staged, State.poke, State.modHearth, State.hearth_setHearth, if_neg hg]
  rfl

/-- The stage takes free bytes; nothing else of the hearth's memories changes. -/
theorem State.hearth_staged (s : State) (n : Nat) (pos : W32) (h a k : Nat) : ∃ poison bad soft, (s.staged n pos h a k).hearth h =
    { s.hearth h with store := (s.hearth h).store.store a ((List.range k).map fun i => Config.freeByte (s.draws + i)),
                      storePoison := poison, storeBad := bad, storeSoft := soft } := by
  rw [State.staged, State.poke, State.modHearth, State.hearth_setHearth_self]
  exact ⟨_, _, _, rfl⟩

/-- The panel that a job needs, in the first half of the stage. -/
def TileJob.firstPanel (j : TileJob) (b : Matmul) (p : Placed) (m : Memory) : Panel :=
  { ring := j.ring, pos := j.pos, id := b.panelOf j, half := 0, data := snapshot m (b.panelReads p (b.panelOf j)) }

theorem State.fetchPanel_of_first {s : State} {h : Nat} {j : TileJob} {rest : List TileJob} {e : Entry} {p : Placed}
    (hjobs : (s.hearth h).grateJobs = j :: rest) (he : s.entry j.ring j.pos = some e) (hp : (matmulOf e.desc).streamed = some p)
    (hempty : (s.hearth h).panels = []) (hstatus : e.status = 0#8) (hsealed : e.sealed = false)
    (hstalls : ∀ r ∈ (matmulOf e.desc).panelReads p ((matmulOf e.desc).panelOf j), s.stalls r = false)
    (hsound : s.readsSound ((matmulOf e.desc).panelReads p ((matmulOf e.desc).panelOf j))) :
    s.fetchPanel h = (s.staged j.ring j.pos h (matmulOf e.desc).stageBase ((matmulOf e.desc).panelBytes p)).modHearth h fun x =>
      { x with panels := x.panels ++ [j.firstPanel (matmulOf e.desc) p s.mantel] } := by
  have hof : j.of j.ring j.pos = true := by simp [TileJob.of]
  have hended : s.ended j.ring j.pos = false := by rw [State.ended_of_entry he, hstatus]; rfl
  have hfirst : (((j :: rest).filter fun k => k.of j.ring j.pos).map (matmulOf e.desc).panelOf).find? (fun id => !(([] : List Panel).any fun q => q.id == id)) =
      some ((matmulOf e.desc).panelOf j) := by
    simp [hof]
  have hact : (s.act j.ring j.pos h).entry j.ring j.pos = some { e with acted := e.acted ||| BitVec.ofNat 64 (2 ^ h) } :=
    State.entry_modEntry_of_entry (f := fun e => { e with acted := e.acted ||| BitVec.ofNat 64 (2 ^ h) }) he fun _ h => h
  have hseal : (s.act j.ring j.pos h).sealReads j.ring j.pos none ((matmulOf e.desc).panelReads p ((matmulOf e.desc).panelOf j)) =
      s.act j.ring j.pos h := State.sealReads_of_notSealed hact hsealed _ _
  have hacted : (s.act j.ring j.pos h).readsSound ((matmulOf e.desc).panelReads p ((matmulOf e.desc).panelOf j)) :=
    State.readsSound_modEntry hsound _ _ _
  have hmeet : State.meet { s.act j.ring j.pos h with draws := s.draws + (matmulOf e.desc).panelBytes p } j.ring j.pos
      ((matmulOf e.desc).panelReads p ((matmulOf e.desc).panelOf j)) =
      ({ s.act j.ring j.pos h with draws := s.draws + (matmulOf e.desc).panelBytes p }, false) :=
    State.meet_of_sound (State.readsSound_draws hacted _) _ _
  rw [State.fetchPanel, hjobs]
  dsimp only
  rw [he]
  dsimp only
  rw [hp]
  dsimp only
  rw [hempty, List.filter_nil, hfirst]
  dsimp only
  rw [if_neg (by simpa using hstalls), hended, if_neg Bool.false_ne_true, hseal, State.drawBytes_eq]
  dsimp only
  rw [show (s.act j.ring j.pos h).draws = s.draws from rfl, hmeet]
  dsimp only
  rw [if_neg Bool.false_ne_true, List.head?_nil]
  dsimp only
  rw [Nat.zero_mul, Nat.add_zero]
  rfl

theorem panelsFillTheStage : PanelsFillTheStage := by
  intro s h hh hruns x
  have hexec := exec_stagePanelFetch hh hruns
  refine ⟨fun hnone => ?_, fun j rest e hjobs he => ?_⟩
  · rw [hexec, State.fetchPanel, hnone]
  · intro b own
    refine ⟨fun hnone => ?_, fun hfull => ?_, fun p hp hempty hstatus hsealed => ?_⟩
    · rw [hexec, State.fetchPanel, hjobs]
      dsimp only
      rw [he]
      dsimp only
      rw [hnone]
    · rw [hexec, State.fetchPanel, hjobs]
      dsimp only
      rw [he]
      dsimp only
      cases hp : (matmulOf e.desc).streamed with
      | none => rfl
      | some p =>
        dsimp only
        rcases hfull with htwo | hall
        · split
          · rfl
          · rw [decide_eq_true (show 2 ≤ (((s.hearth h.toNat).panels.filter fun q => q.ring == j.ring && q.pos == j.pos)).length from htwo),
              Bool.true_or, if_pos rfl]
        · rw [List.find?_eq_none.mpr fun id hid => ?_]
          obtain ⟨k, hk, rfl⟩ := List.mem_map.mp hid
          obtain ⟨hmem, hof⟩ := List.mem_filter.mp hk
          obtain ⟨q, hq, hsame⟩ := hall k (hjobs ▸ hmem) hof
          have hhere : own.any (fun q => q.id == b.panelOf k) = true := List.any_eq_true.mpr ⟨q, hq, by simpa using hsame⟩
          exact fun hmissing => Bool.false_ne_true (((Bool.not_eq_true' _).mp hmissing).symm.trans hhere)
    · intro reads hstalls hsound
      rw [hexec, State.fetchPanel_of_first hjobs he hp hempty hstatus hsealed hstalls hsound]
      obtain ⟨poison, bad, soft, hstaged⟩ := s.hearth_staged j.ring j.pos h.toNat b.stageBase (b.panelBytes p)
      have hother := fun (g : Nat) => s.hearth_staged_ne (g := g) j.ring j.pos h.toNat b.stageBase (b.panelBytes p)
      have hframe := s.staged_frame j.ring j.pos h.toNat b.stageBase (b.panelBytes p)
      generalize s.staged j.ring j.pos h.toNat b.stageBase (b.panelBytes p) = u at *
      refine ⟨_, rfl, by rw [hframe]; rfl, fun g hg => ?_, ?_⟩
      · rw [State.modHearth, State.hearth_setHearth, if_neg hg, hother g hg]
      · rw [State.modHearth, State.hearth_setHearth_self, hstaged]
        refine ⟨by rw [hempty]; rfl, fun a ha => ?_, rfl, rfl, rfl, rfl⟩
        exact Memory.byte_store_of_not (by simpa using ha)

/-! ### Parts of a K split -/

theorem exec_kSplitCombine (n : BitVec 7) (pos : W32) (tile : BitVec 32) {s : State} {e : Entry} (he : s.running n.toNat pos 0x01 = some e)
    (hstarted : e.started = true) (hstatus : e.status = 0#8) :
    exec (.kSplitCombine n pos tile) s = .next (s.combine n.toNat e tile.toNat) := by
  rw [show exec (.kSplitCombine n pos tile) s = execKSplitCombine n pos tile s from rfl, execKSplitCombine, he]
  dsimp only
  rw [hstarted, Bool.not_true, if_neg Bool.false_ne_true, if_neg (not_not.mpr hstatus)]

/-- The parts of a tile, as the dealing gives them. -/
def State.tileParts (s : State) (e : Entry) (tile : Nat) : List Item :=
  ((matmulOf e.desc).working ((matmulOf e.desc).parts (s.workHearths e).length) (s.matmulItems (matmulOf e.desc) (s.workHearths e))).filter
    fun i => i.tile == tile

/-- Whether a combination waits: for a part, for an earlier tile of its home, for the home, or for a wipe. -/
def State.combineWaits (s : State) (e : Entry) (tile : Nat) (home : Item) : Bool :=
  let b := matmulOf e.desc
  let sp := b.parts (s.workHearths e).length
  let items := b.working sp (s.matmulItems b (s.workHearths e))
  let here := (items.filter fun i => i.hearth == home.hearth && i.part == 0).map Item.tile
  sp = 1 || (((b.tilePass e items home.hearth tile).writes home.hearth).any fun r => s.stalls r) ||
    !(((s.tileParts e tile).map Item.part).all fun p => e.arrived.contains (tile, p)) || e.arrived.contains (tile, sp) ||
    !((here.filter fun t => decide (t < tile)).all fun t => e.arrived.contains (t, sp)) || !s.hearthRuns home.hearth

/-- The words of a part of a tile. -/
def State.partWords (s : State) (mine : List Item) (p : Nat) : Tab W32 := match mine.find? fun i => i.part == p with
  | some i => tileWords (s.hearth i.hearth).acc i.atile
  | none => []

/-- The sum of the parts of a tile in their order, with its flags. -/
def State.partSum (s : State) (b : Matmul) (mine : List Item) (tile : Nat) (order : List Nat) : Tab W32 × Nat :=
  let ij := tileAt b.order b.tm b.tn tile
  (order.drop 1).foldl (fun acc p =>
    let (t, f) := addTables b ij.1 ij.2 acc.1 (s.partWords mine p)
    (t, acc.2 ||| f)) (s.partWords mine (nth 0 order 0), 0)

/-- The sum of two parts. -/
theorem State.partSum_two (s : State) (b : Matmul) {i k : Item} (hi : i.part = 0) (hk : k.part = 1) (tile : Nat) :
    s.partSum b [i, k] tile [0, 1] = addTables b (tileAt b.order b.tm b.tn tile).1 (tileAt b.order b.tm b.tn tile).2
      (tileWords (s.hearth i.hearth).acc i.atile) (tileWords (s.hearth k.hearth).acc k.atile) := by
  have hfirst : s.partWords [i, k] 0 = tileWords (s.hearth i.hearth).acc i.atile := by
    rw [State.partWords, List.find?_cons_of_pos (by simp [hi])]
  have hsecond : s.partWords [i, k] 1 = tileWords (s.hearth k.hearth).acc k.atile := by
    rw [State.partWords, List.find?_cons_of_neg (by simp [hi]), List.find?_cons_of_pos (by simp [hk])]
  rw [State.partSum, show nth 0 [0, 1] 0 = 0 from rfl, hfirst]
  simp only [List.drop_succ_cons, List.drop_zero, List.foldl_cons, List.foldl_nil, hsecond, Nat.zero_or]

/-- The combination of the parts of a tile at its home. -/
def State.combineAt (s : State) (n : Nat) (e : Entry) (tile : Nat) (home : Item) : State :=
  let b := matmulOf e.desc
  let sp := b.parts (s.workHearths e).length
  let items := b.working sp (s.matmulItems b (s.workHearths e))
  let mine := s.tileParts e tile
  let parts := mine.map Item.part
  let t := b.tilePass e items home.hearth tile
  let draught := decide (s.classOf n = 2#2) || decide (s.classOf n = 3#2)
  let order := combineOrder e draught tile parts
  let (result, fl) := s.partSum b mine tile order
  let (s, bad) := s.meet n e.pos (mine.map fun i => tileRange i.hearth i.atile)
  let s := s.storeTile home.hearth home.atile result
  let s := if bad then s.markTile home.hearth home.atile else s
  let s := s.raise n e.pos (fl ||| flagIf (draught && decide (3 ≤ sp) && order != parts) fVaried)
  let s := s.modEntry n e.pos fun e => { e with arrived := e.arrived ++ [(tile, sp)] }
  let s := s.epilogue n e.pos home.hearth t result negZero32 bad
  if s.ended n e.pos then s.stopWork n e.pos
  else (s.modEntry n e.pos fun e => mine.foldl (fun e i => e.committed i.hearth i.atile) e).shareDone n e.pos

theorem State.combine_eq (s : State) (n : Nat) (e : Entry) (tile : Nat) : s.combine n e tile =
    ((s.tileParts e tile).find? fun i => i.part == 0).elim s fun home =>
      if s.combineWaits e tile home then s else s.combineAt n e tile home := by
  rw [State.combine]
  split
  · next hnone => rw [show (s.tileParts e tile).find? (fun i => i.part == 0) = none from hnone]; rfl
  · next home hhome => rw [show (s.tileParts e tile).find? (fun i => i.part == 0) = some home from hhome]; rfl

theorem State.combine_of_waits {s : State} {n : Nat} {e : Entry} {tile : Nat}
    (h : ∀ home ∈ s.tileParts e tile, s.combineWaits e tile home = true) : s.combine n e tile = s := by
  rw [State.combine_eq]
  cases hfound : (s.tileParts e tile).find? fun i => i.part == 0 with
  | none => rfl
  | some home => exact if_pos (h home (List.mem_of_find?_eq_some hfound))

theorem partsCombineAtTheirHome : PartsCombineAtTheirHome := by
  intro s n pos tile e hrun hstarted hstatus b sp items
  have hexec := exec_kSplitCombine n pos tile hrun hstarted hstatus
  obtain ⟨he, -, -⟩ := State.running_iff.mp hrun
  have hpos := State.entry_pos he
  refine ⟨fun hwaits => ?_, fun i k hitems hi hk hpi hpk hsp => ?_⟩
  · rw [hexec, State.combine_of_waits fun home hhome => ?_]
    rw [State.combineWaits]
    rcases hwaits with hone | ⟨i, hi, htile, harrived⟩
    · simp [show (matmulOf e.desc).parts (s.workHearths e).length = 1 from hone]
    · have hmissing : ((s.tileParts e tile.toNat).map Item.part).all (fun p => e.arrived.contains (tile.toNat, p)) = false := by
        refine List.all_eq_false.mpr ⟨i.part, List.mem_map_of_mem (List.mem_filter.mpr ⟨hi, by simpa using htile⟩), by simpa using harrived⟩
      simp only [hmissing, Bool.not_false, Bool.or_true, Bool.true_or]
  · have hmine : s.tileParts e tile.toNat = [i, k] := by
      rw [show s.tileParts e tile.toNat = items.filter (fun i => i.tile == tile.toNat) from rfl, hitems]
      simp [hi, hk]
    intro pass
    refine ⟨fun hheld => ?_, fun h0 h1 hnot hruns hstalls hclass2 hclass3 hsound => ?_⟩
    · rw [hexec, State.combine_eq, hmine, List.find?_cons_of_pos (by simp [hpi]), Option.elim_some, if_pos ?_]
      rw [State.combineWaits]
      rcases hheld with hstill | hwipe
      · simp only [hstill, Bool.not_false, Bool.or_true]
      · simp only [Bool.or_eq_true]
        exact Or.inl (Or.inl (Or.inl (Or.inl (Or.inr (List.any_eq_true.mpr hwipe)))))
    · intro ij sum t
      rw [hexec, State.combine_eq, hmine, List.find?_cons_of_pos (by simp [hpi]), Option.elim_some, if_neg ?_]
      · rw [State.combineAt, hmine]
        have hdraught : (decide (s.classOf n.toNat = 2#2) || decide (s.classOf n.toNat = 3#2)) = false := by simp [hclass2, hclass3]
        have hmeet : s.meet n.toNat e.pos ([i, k].map fun i => tileRange i.hearth i.atile) = (s, false) := State.meet_of_sound hsound _ _
        have hsum : s.partSum (matmulOf e.desc) [i, k] tile.toNat [0, 1] = sum := State.partSum_two s _ hpi hpk tile.toNat
        have horder : combineOrder e false tile.toNat ([i, k].map Item.part) = [0, 1] := by
          rw [combineOrder, if_neg Bool.false_ne_true, List.map_cons, List.map_cons, List.map_nil, hpi, hpk]
        dsimp only
        rw [hdraught, horder, hsum, hmeet]
        simp only [Bool.false_and, Bool.false_eq_true, ite_false, List.foldl_cons, List.foldl_nil]
        rw [hpos, show flagIf false fVaried = 0 from rfl, Nat.or_zero]
      · have hearlier : ((((items.filter fun j => j.hearth == i.hearth && j.part == 0).map Item.tile).filter fun t => decide (t < tile.toNat)).all
            fun t => e.arrived.contains (t, sp)) = true := by
          rw [hitems]
          simp [hi, hpi, hpk]
        have harrived : (([i, k].map Item.part).all fun p => e.arrived.contains (tile.toNat, p)) = true := by simpa [hpi, hpk] using ⟨h0, h1⟩
        rw [State.combineWaits, hmine]
        simp only [Bool.or_eq_true, not_or]
        refine ⟨⟨⟨⟨⟨?_, ?_⟩, ?_⟩, ?_⟩, ?_⟩, ?_⟩
        · simpa using hsp
        · rw [List.any_eq_true]
          rintro ⟨r, hr, hs⟩
          exact Bool.false_ne_true ((hstalls r hr).symm.trans hs)
        · rw [harrived]
          exact Bool.false_ne_true
        · simpa using hnot
        · rw [Bool.not_eq_true', Bool.not_eq_false]
          exact hearlier
        · rw [hruns]
          exact Bool.false_ne_true

/-- Settles O51. -/
theorem panelsAndPartsMeetTheirTiles : Obligations.PanelsAndPartsMeetTheirTiles := ⟨panelsFillTheStage, partsCombineAtTheirHome⟩

end Sys2Proof.Machine

end


section
/-! SUPPORT. O56: COPY and FILL write their rows. -/

namespace Sys2Proof.Machine

/-! ### The work of a mover -/

section
variable {c : Instr} {n : Nat} {pos : W32} {op : Nat} {body : DescBits → Mover}

/-- The source ranges of a piece. -/
def Mover.sourceReads (b : Mover) (h k : Nat) (q : Nat × Nat × Nat) : List Range := match b.src with
  | some p => (b.spans q.2.2 k).flatMap fun x => p.spanReads h q.2.1 x
  | none => []

/-- A piece of a mover's share is moved, and the share goes on. -/
def State.movePiece (s : State) (n : Nat) (pos : W32) (b : Mover) (shares : List (Nat × Nat)) (h k : Nat) (q : Nat × Nat × Nat) (bad : Bool) : State :=
  let view := s.blur b.void
  let s := { s with draws := view.draws }
  let s := (b.spans q.2.2 k).foldl (fun s x => s.moveSpan n pos b h q.2.1 view bad x) s
  (s.act n pos h).advance n pos shares h (k + 1) (b.pieces q.2.2)

/-- The piece of a mover's share that the model works on. -/
theorem State.mover_of_next {s : State} {e : Entry} {b : Mover} {h k : Nat} {q : Nat × Nat × Nat} (hstatus : e.status = 0#8)
    (hnext : e.nextPiece ((b.deal (s.hearthsOf e.mask) (s.workHearths e)).map fun q => (q.1, b.pieces q.2.2)) (fun h => s.serves n h) = some (h, k))
    (hfind : (b.deal (s.hearthsOf e.mask) (s.workHearths e)).find? (fun q => q.1 == h) = some q) :
    s.mover n e b = s.piece n e.pos none
      (if b.readsFor (b.deal (s.hearthsOf e.mask) (s.workHearths e)) h then b.sourceReads h k q else []) (b.sourceReads h k q)
      ((b.spans q.2.2 k).flatMap fun x => b.dst.spanReads h q.2.1 x) fun u bad =>
        u.movePiece n e.pos b ((b.deal (s.hearthsOf e.mask) (s.workHearths e)).map fun q => (q.1, b.pieces q.2.2)) h k q bad := by
  rw [State.mover, if_neg (not_not_intro hstatus)]
  have hnext' : e.nextPiece ((b.deal (s.hearthsOf e.mask) (s.workHearths e)).map fun q => (q.1, b.pieces q.2.2))
      (fun h => s.hearthRuns h && !s.withheld h (s.classOf n) && !s.yields n h) = some (h, k) := hnext
  rw [hnext']
  dsimp only
  rw [hfind]
  rfl

theorem State.blur_nil (s : State) : s.blur [] = s := rfl

/-- COPY and FILL act as the statement says. -/
theorem moverActs (hc : ∀ s e, s.running n pos op = some e → exec c s = .next (s.mover n e (body e.desc))) : MoverActs c n pos op body := by
  intro s e hrun
  obtain ⟨he, -⟩ := State.running_iff.mp hrun
  obtain rfl := State.entry_pos he
  intro b runs shares
  have hexec := hc s e hrun
  refine ⟨fun hstatus hserves => ?_, fun h k q hstatus hnext hfind => ?_⟩
  · have hnone : e.nextPiece shares (fun h => s.hearthRuns h && !s.withheld h (s.classOf n) && !s.yields n h) = none :=
      Entry.nextPiece_eq_none fun p hp _ => by
        obtain ⟨q, hq, rfl⟩ := List.mem_map.mp hp
        exact hserves q hq
    rw [hexec, State.mover, if_neg (not_not_intro hstatus), show Entry.nextPiece e _ _ = none from hnone]
  · intro spans reads outs
    rw [State.mover_of_next hstatus hnext hfind] at hexec
    refine ⟨fetchesFirst_of_piece he hexec, fun hclear hvoid => ?_⟩
    rw [hexec, State.piece_of_clear (rs := b.sourceReads h k q) (outs := (b.spans q.2.2 k).flatMap fun x => b.dst.spanReads h q.2.1 x) none _ _ he
      hclear, State.movePiece, show (body e.desc).void = [] from hvoid, State.blur_nil]

end

/-! ### A row of one word (R301) -/

/-- Pieces that lie one after the other are one. -/
theorem joinPieces_words (bs : List W8) (hbs : bs.length = 4) (k a : Nat) :
    joinPieces ((List.range (k + 1)).map fun i => (a + 4 * i, bs)) = [(a, (List.replicate (k + 1) bs).flatten)] := by
  induction k generalizing a with
  | zero => simp [joinPieces]
  | succ k ih =>
    have hmap : (List.range (k + 1 + 1)).map (fun i => (a + 4 * i, bs)) =
        (a, bs) :: (List.range (k + 1)).map fun i => (a + 4 + 4 * i, bs) := by
      rw [List.range_succ_eq_map, List.map_cons, List.map_map]
      refine congrArg₂ List.cons rfl (List.map_congr_left fun i _ => ?_)
      simp only [Function.comp_apply, Prod.mk.injEq, and_true]
      omega
    rw [hmap, joinPieces, ih (a + 4)]
    dsimp only
    rw [if_pos (by rw [hbs])]
    rfl

theorem orFlags_replicate_zero (k : Nat) : orFlags (List.replicate k 0) = 0 := by
  induction k with
  | zero => rfl
  | succ k ih => rw [List.replicate_succ]; exact ih

theorem packCodes_word (v : W32) : packCodes 32 [v.toNat] = leBytes 4 v.toNat := by
  simp [packCodes, packGroup, nth]

/-- A column of a row of equal words. -/
theorem State.bareGroup_raw (s : State) (cvt : Nat) (r : Row) (k : Nat) (v : W32) (mode : Nat → Rounding) {i : Nat} (hi : i < k) :
    s.bareGroup cvt true r { col := 0, vals := (List.replicate k v).map some, len := k, mode := mode } i =
      ([(r.base + 4 * i, leBytes 4 v.toNat)], 0) := by
  have hat : RowWrite.at { col := 0, vals := (List.replicate k v).map some, len := k, mode := mode } i = some v := by
    simp [RowWrite.at, nth, hi]
  rw [State.bareGroup, show cvtBits cvt true = 32 from rfl, show packGroup 32 = 1 from rfl]
  simp only [List.range_one, List.map_cons, List.map_nil, one_mul, add_zero, List.any_cons, List.any_nil, hat, Option.isSome_some, Bool.true_or,
    if_true, packCodes_word]
  rfl

/-- A row whose words are all the same is one piece of bytes. -/
theorem State.encodeRow_raw (s : State) (cvt : Nat) (r : Row) {k : Nat} (hk : 0 < k) (v : W32) (mode : Nat → Rounding) :
    s.encodeRow cvt true r { col := 0, vals := (List.replicate k v).map some, len := k, mode := mode } =
      ([(r.base, (List.replicate k (leBytes 4 v.toNat)).flatten)], 0) := by
  obtain ⟨k, rfl⟩ := Nat.exists_eq_succ_of_ne_zero hk.ne'
  have hgroups : (List.range (k + 1)).map (fun i => s.bareGroup cvt true r
      { col := 0, vals := (List.replicate (k + 1) v).map some, len := k + 1, mode := mode } i) =
      (List.range (k + 1)).map fun i => ([(r.base + 4 * i, leBytes 4 v.toNat)], 0) :=
    List.map_congr_left fun i hi => s.bareGroup_raw cvt r (k + 1) v mode (List.mem_range.mp hi)
  have hpieces : ((List.range (k + 1)).map fun i => ([(r.base + 4 * i, leBytes 4 v.toNat)], 0)).flatMap (Prod.fst (β := Nat)) =
      (List.range (k + 1)).map fun i => (r.base + 4 * i, leBytes 4 v.toNat) := by
    rw [List.flatMap_map]
    exact List.flatMap_pure_eq_map ..
  have hflags : orFlags (((List.range (k + 1)).map fun i => ([(r.base + 4 * i, leBytes 4 v.toNat)], 0)).map (Prod.snd (β := Nat))) = 0 := by
    simp [Function.comp_def, orFlags_replicate_zero]
  rw [State.encodeRow]
  dsimp only
  rw [List.length_map, List.length_replicate, if_neg (Nat.succ_ne_zero k), Bool.not_true, Bool.and_false, if_neg Bool.false_ne_true,
    show packGroup (cvtBits cvt true) = 1 from rfl]
  simp only [Nat.zero_add, Nat.div_one, Nat.sub_zero, Nat.succ_eq_add_one, Nat.add_sub_cancel]
  rw [hgroups, hpieces, hflags, joinPieces_words _ (leBytes_length ..)]

theorem Mover.rowData_raw {b : Mover} (h : b.dst.raw = true) : b.rowData = 4 * b.elems := by
  rw [Mover.rowData, h, rowBytes]
  simp [cvtBits, packGroup, ceilDiv]
  omega

theorem Mover.pieces_raw {b : Mover} (h : b.dst.raw = true) (hsmall : b.elems ≤ 1024) : b.pieces 1 = 1 := by
  have hpos : 0 < b.rowsAtOnce := by rw [Mover.rowsAtOnce]; omega
  rw [Mover.pieces, if_pos (by rw [Mover.rowData_raw h]; omega), ceilDiv, Nat.add_sub_cancel_left, Nat.div_self hpos]

theorem Mover.spans_raw {b : Mover} (h : b.dst.raw = true) (hsmall : b.elems ≤ 1024) : b.spans 1 0 = [(0, 0, b.elems)] := by
  have hpos : 0 < b.rowsAtOnce := by rw [Mover.rowsAtOnce]; omega
  rw [Mover.spans, if_pos (by rw [Mover.rowData_raw h]; omega), Nat.zero_mul, Nat.sub_zero, Nat.min_eq_right hpos]
  rfl

/-- A row of one word is written as one piece of bytes, and raises no flag. -/
theorem State.moveSpan_raw {b : Mover} (hsrc : b.src = none) (hraw : b.dst.raw = true) (hpos : 0 < b.elems) (s : State) (n : Nat) (pos : W32)
    (h : Nat) (view : State) (bad : Bool) : s.moveSpan n pos b h 0 view bad (0, 0, b.elems) =
      ((s.put n pos b.dst.space h b.dst.base ((List.replicate b.elems (leBytes 4 b.value.toNat)).flatten) false).raise n pos 0).raise n pos 0 := by
  rw [State.moveSpan, hsrc]
  dsimp only
  rw [State.storeSpan, hraw]
  dsimp only
  rw [State.encodeRow_raw _ _ _ hpos]
  simp only [Plane.row, Plane.index, ite_self, Nat.zero_mul, Nat.add_zero]
  rfl

/-- Rows in a hearth's store wait for no wipe. -/
theorem State.stalls_spanReads {p : Plane} (hraw : p.raw = true) (hspace : p.space = 0) (s : State) (h first : Nat) (x : Nat × Nat × Nat) :
    ∀ r ∈ p.spanReads h first x, s.stalls r = false := by
  intro r hr
  rw [Plane.spanReads, rowReads, hraw, Bool.not_true, Bool.and_false, if_neg Bool.false_ne_true] at hr
  split at hr
  · exact absurd hr List.not_mem_nil
  · rw [List.mem_singleton.mp hr]
    simp [State.stalls, Plane.row, hspace]

/-- The last piece of the only share ends the position. -/
theorem State.advance_of_last {s : State} {n : Nat} {pos : W32} {e : Entry} (he : s.entry n pos = some e) (h : Nat) :
    s.advance n pos [(h, 1)] h 1 1 = (s.modEntry n pos fun f => f.advance h 1 1).finish n pos := by
  have hentry : (s.modEntry n pos fun f => f.advance h 1 1).entry n pos = some (e.advance h 1 1) :=
    State.entry_modEntry_of_entry (f := fun f => f.advance h 1 1) he fun _ h => h
  have hdone : ([(h, 1)].all fun q => decide (q.2 ≤ (e.advance h 1 1).pieces q.1)) = true := by
    simp [Entry.advance, Entry.leave, Entry.pieces]
  rw [State.advance, hentry]
  dsimp only
  rw [if_pos (Or.inr hdone)]

theorem State.entry_raise {s : State} {n : Nat} {pos : W32} {e : Entry} (he : s.entry n pos = some e) (fl : Nat) :
    (s.raise n pos fl).entry n pos = some { e with flags := e.flags ||| BitVec.ofNat 16 fl } :=
  State.entry_modEntry_of_entry (f := fun e => { e with flags := e.flags ||| BitVec.ofNat 16 fl }) he fun _ h => h

theorem State.entry_act {s : State} {n : Nat} {pos : W32} {e : Entry} (he : s.entry n pos = some e) (h : Nat) :
    (s.act n pos h).entry n pos = some { e with acted := e.acted ||| BitVec.ofNat 64 (2 ^ h) } :=
  State.entry_modEntry_of_entry (f := fun e => { e with acted := e.acted ||| BitVec.ofNat 64 (2 ^ h) }) he fun _ h => h

/-- Flags and the note of the hearth leave the status of a position. -/
theorem State.entry_raised_acted {s : State} {n : Nat} {pos : W32} {e : Entry} (he : s.entry n pos = some e) (h : Nat) :
    ∃ f, (((s.raise n pos 0).raise n pos 0).act n pos h).entry n pos = some f ∧ f.status = e.status :=
  ⟨_, State.entry_act (State.entry_raise (State.entry_raise he 0) 0) h, rfl⟩

theorem State.raised_acted_frame (s : State) (n : Nat) (pos : W32) (h : Nat) : ((s.raise n pos 0).raise n pos 0).act n pos h =
    { s with rings := (((s.raise n pos 0).raise n pos 0).act n pos h).rings } := rfl

/-- A row of one word in a hearth's store. -/
def State.fillRow (s : State) (n : Nat) (pos : W32) (b : Mover) (h : Nat) : State :=
  s.put n pos 0 h b.dst.addr ((List.replicate b.elems (leBytes 4 b.value.toNat)).flatten) false

section
variable {s : State} {n : Nat} {pos : W32} {e : Entry} {b : Mover} {h : Nat} (he : s.entry n pos = some e) (hsealed : e.sealed = false)
  (hmarks : (s.hearth h).storePoison = []) (hpos : 0 < b.elems)
include he hsealed hmarks hpos

theorem State.fillRow_eq : s.fillRow n pos b h =
    (s.noteOutput n pos (outputRange 0 h b.dst.addr ((List.replicate b.elems (leBytes 4 b.value.toNat)).flatten).length)).poke 0 h b.dst.addr
      ((List.replicate b.elems (leBytes 4 b.value.toNat)).flatten) false := by
  have hbytes : (List.replicate b.elems (leBytes 4 b.value.toNat)).flatten ≠ [] := by
    obtain ⟨k, hk⟩ := Nat.exists_eq_succ_of_ne_zero hpos.ne'
    rw [hk, List.replicate_succ, List.flatten_cons, leBytes]
    exact List.cons_ne_nil _ _
  exact State.put_of_unmarked (space := 0) (h := h) he hsealed (by decide) hmarks hbytes _ _

theorem State.entry_fillRow : ∃ outs, (s.fillRow n pos b h).entry n pos = some { e with outs := outs } := by
  rw [State.fillRow_eq he hsealed hmarks hpos, State.entry, State.ring, State.poke_rings _ _ _ _ _ _ (by decide)]
  exact State.entry_noteOutput he _

theorem State.fillRow_frame :
    s.fillRow n pos b h = { s with rings := (s.fillRow n pos b h).rings, hearths := (s.fillRow n pos b h).hearths } := by
  rw [State.fillRow_eq he hsealed hmarks hpos, State.noteOutput_only]
  rfl

theorem State.hearth_fillRow : ((s.fillRow n pos b h).hearth h).store =
    (s.hearth h).store.store b.dst.addr ((List.replicate b.elems (leBytes 4 b.value.toNat)).flatten) ∧
    ((s.fillRow n pos b h).hearth h).acc = (s.hearth h).acc := by
  rw [State.fillRow_eq he hsealed hmarks hpos, State.noteOutput_only, State.poke, State.modHearth, State.hearth_setHearth_self]
  exact ⟨rfl, rfl⟩

theorem State.hearth_fillRow_ne {g : Nat} (hg : g ≠ h) : (s.fillRow n pos b h).hearth g = s.hearth g := by
  rw [State.fillRow_eq he hsealed hmarks hpos, State.noteOutput_only, State.poke, State.modHearth, State.hearth_setHearth, if_neg hg]
  rfl

end

theorem fillWritesItsWord : FillWritesItsWord := by
  intro s n pos e h hrun hprog b hraw hspace hrows hdeal hserves hclear hmarks hpos hsmall
  obtain ⟨he, -⟩ := State.running_iff.mp hrun
  obtain rfl := State.entry_pos he
  obtain ⟨hstatus, hsealed, -, hreading, -, -, -⟩ := hclear
  have hdst : ∀ r ∈ (b.spans 1 0).flatMap fun x => b.dst.spanReads h 0 x, s.stalls r = false := by
    rw [Mover.spans_raw hraw hsmall]
    intro r hr
    obtain ⟨x, -, hx⟩ := List.mem_flatMap.mp hr
    exact s.stalls_spanReads hraw hspace h 0 x r hx
  have hshares : (b.deal (s.hearthsOf e.mask) (s.workHearths e)).map (fun q => (q.1, b.pieces q.2.2)) = [(h, 1)] := by
    rw [hdeal, List.map_singleton, Mover.pieces_raw hraw hsmall]
  have hpieces : e.pieces h = 0 := by rw [Entry.pieces, hprog]; rfl
  have hexec : exec (.fill n e.pos) s = .next (s.movePiece n.toNat e.pos b [(h, 1)] h 0 (h, 0, 1) false) := by
    have hnext : e.nextPiece ((b.deal (s.hearthsOf e.mask) (s.workHearths e)).map fun q => (q.1, b.pieces q.2.2)) (fun h => s.serves n.toNat h) =
        some (h, 0) := by
      rw [hshares, Entry.nextPiece_single (by omega) hserves, hpieces]
    have hfind : (b.deal (s.hearthsOf e.mask) (s.workHearths e)).find? (fun q => q.1 == h) = some (h, 0, 1) := by
      rw [hdeal, List.find?_cons_of_pos (by simp)]
    have hclear : s.clear n.toNat e e.reads (b.sourceReads h 0 (h, 0, 1)) ((b.spans 1 0).flatMap fun x => b.dst.spanReads h 0 x) :=
      ⟨hstatus, hsealed, fun _ hg => absurd hg List.not_mem_nil, hreading, fun _ hr => absurd hr List.not_mem_nil,
        ⟨fun _ hr => absurd hr List.not_mem_nil, rfl, rfl⟩, hdst⟩
    rw [show exec (.fill n e.pos) s = execFill n e.pos s from rfl, execFill, hrun]
    dsimp only
    rw [State.mover_of_next (b := b) hstatus hnext hfind, hshares, State.piece_of_clear _ _ _ he hclear]
  have hmoved : s.movePiece n.toNat e.pos b [(h, 1)] h 0 (h, 0, 1) false =
      ((((s.fillRow n.toNat e.pos b h).raise n.toNat e.pos 0).raise n.toNat e.pos 0).act n.toNat e.pos h).advance n.toNat e.pos [(h, 1)] h 1 1 := by
    rw [State.movePiece, show b.void = [] from rfl, State.blur_nil]
    dsimp only
    rw [Mover.spans_raw hraw hsmall, Mover.pieces_raw hraw hsmall, List.foldl_cons, List.foldl_nil, State.moveSpan_raw rfl hraw hpos, hspace,
      Plane.base, hspace]
    rfl
  obtain ⟨outs, hentry⟩ := State.entry_fillRow he hsealed hmarks hpos
  have hframe := State.fillRow_frame he hsealed hmarks hpos
  obtain ⟨hstore, hacc⟩ := State.hearth_fillRow he hsealed hmarks hpos
  have hother := fun (g : Nat) => State.hearth_fillRow_ne (g := g) he hsealed hmarks hpos
  rw [hexec, hmoved]
  generalize s.fillRow n.toNat e.pos b h = u at *
  obtain ⟨f, hacted, hfstatus⟩ := State.entry_raised_acted hentry h
  have hadvanced := State.entry_modEntry_of_entry (f := fun f => f.advance h 1 1) hacted fun _ h => h
  rw [State.advance_of_last hacted]
  have hrest := State.raised_acted_frame u n.toNat e.pos h
  generalize ((u.raise n.toNat e.pos 0).raise n.toNat e.pos 0).act n.toNat e.pos h = v at *
  have hfinished : ((v.modEntry n.toNat e.pos fun f => f.advance h 1 1).finish n.toNat e.pos).hearths = u.hearths := by rw [hrest]; rfl
  refine ⟨_, _, rfl, ?_, fun g hg => ?_, State.entry_finish hadvanced, rfl, hfstatus.trans hstatus, ?_, ?_⟩
  · rw [hrest, hframe]
    rfl
  · rw [State.hearth, hfinished]
    exact hother g hg
  · rw [State.hearth, hfinished]
    exact hstore
  · rw [State.hearth, hfinished]
    exact hacc

/-- Settles O56. -/
theorem moversWriteTheirRows : Obligations.MoversWriteTheirRows := by
  refine ⟨fun n pos => ⟨moverActs fun s e h => ?_, moverActs fun s e h => ?_⟩, fillWritesItsWord⟩
  · rw [show exec (.copy n pos) s = execCopy n pos s from rfl, execCopy, h]
  · rw [show exec (.fill n pos) s = execFill n pos s from rfl, execFill, h]

end Sys2Proof.Machine

end


section
/-! SUPPORT. The tiles of a hearth's Grate: what a store of a whole tile leaves, loads (R69, R101). -/

namespace Sys2Proof.Machine

/-! ### Whole tiles -/

theorem rowWords_length (t : Tab W32) (r : Nat) : (rowWords t r).length = 128 := by
  rw [rowWords, cellRow, Tab.list, List.length_map, List.length_range]

theorem length_flatMap_of_forall {α β : Type} {xs : List α} {f : α → List β} {k : Nat} (h : ∀ x ∈ xs, (f x).length = k) :
    (xs.flatMap f).length = xs.length * k := by
  rw [List.length_flatMap, List.map_congr_left h, List.map_const', List.sum_replicate, smul_eq_mul]

theorem tableBytes_length (t : Tab W32) : (tableBytes t).length = tileBytes := by
  have hrow (r : Nat) : ((rowWords t r).flatMap fun w => leBytes 4 w.toNat).length = 512 := by
    rw [length_flatMap_of_forall fun w _ => leBytes_length 4 w.toNat, rowWords_length]
  rw [tableBytes, length_flatMap_of_forall fun r _ => hrow r, List.length_range, tileBytes]

/-- A store of a whole tile in accumulator memory clears every mark there. -/
theorem State.hearth_storeTile (s : State) (h a : Nat) (t : Tab W32) : (s.storeTile h a t).hearth h = { s.hearth h with
    acc := (s.hearth h).acc.store (a * tileBytes) (tableBytes t),
    accPoison := writeMarks 8 (s.hearth h).accPoison (a * tileBytes) tileBytes false,
    accBad := writeBad 8 (s.hearth h).accBad (a * tileBytes) tileBytes,
    accSoft := writeBad 8 (s.hearth h).accSoft (a * tileBytes) tileBytes } := by
  rw [State.storeTile, State.poke, tableBytes_length, State.modHearth, State.hearth_setHearth_self]

theorem State.hearth_storeTile_ne (s : State) {h g : Nat} (hg : g ≠ h) (a : Nat) (t : Tab W32) : (s.storeTile h a t).hearth g = s.hearth g := by
  rw [State.storeTile, State.poke, State.modHearth, State.hearth_setHearth, if_neg hg]

theorem State.storeTile_frame (s : State) (h a : Nat) (t : Tab W32) : s.storeTile h a t = { s with hearths := (s.storeTile h a t).hearths } := rfl

theorem marked_writeMarks_tile (m : List Nat) (a : Nat) : marked 8 (writeMarks 8 m (a * tileBytes) tileBytes false) (a * tileBytes) tileBytes = false := by
  rw [marked, writeMarks, if_neg Bool.false_ne_true, if_neg (by decide), Bool.and_eq_false_imp]
  refine fun _ => List.any_eq_false.mpr fun i hi => ?_
  have hout := (List.mem_filter.mp hi).2
  simp only [Bool.not_eq_true', Bool.and_eq_false_iff, decide_eq_false_iff_not] at hout
  rw [Bool.and_eq_true, decide_eq_true_iff, decide_eq_true_iff]
  rintro ⟨hlo, hhi⟩
  simp only [tileBytes] at *
  omega

theorem unitsAmong_of_clear {pick : Nat → Nat → List Nat} {r : Range}
    (h : ∀ u ∈ pick r.space r.hearth, ¬(r.lo / markUnit r.space ≤ u ∧ u ≤ (r.lo + r.len - 1) / markUnit r.space)) : unitsAmong pick [r] = [] := by
  rw [unitsAmong, List.foldl_cons, List.foldl_nil]
  dsimp only
  rw [List.filter_eq_nil_iff.mpr fun u hu => by simpa using h u hu, List.foldl_nil, ite_self]

theorem writeBad_tile {m : List Nat} {a u : Nat} (hu : u ∈ writeBad 8 m (a * tileBytes) tileBytes) :
    ¬(a * tileBytes / 8 ≤ u ∧ u ≤ (a * tileBytes + tileBytes - 1) / 8) := by
  rw [writeBad, if_neg (by decide)] at hu
  have hout := (List.mem_filter.mp hu).2
  simp only [Bool.not_eq_true', Bool.and_eq_false_iff, decide_eq_false_iff_not] at hout
  omega

theorem State.readsSound_storeTile (s : State) (h a : Nat) (t : Tab W32) : (s.storeTile h a t).readsSound [tileRange h a] := by
  refine ⟨fun r hr => ?_, unitsAmong_of_clear fun u hu => ?_, unitsAmong_of_clear fun u hu => ?_⟩
  · rw [List.mem_singleton.mp hr]
    show marked 8 ((s.storeTile h a t).hearth h).accPoison (a * tileBytes) tileBytes = false
    rw [State.hearth_storeTile]
    exact marked_writeMarks_tile _ a
  · have hbad : u ∈ ((s.storeTile h a t).hearth h).accBad := hu
    rw [State.hearth_storeTile] at hbad
    exact writeBad_tile hbad
  · have hsoft : u ∈ ((s.storeTile h a t).hearth h).accSoft := hu
    rw [State.hearth_storeTile] at hsoft
    exact writeBad_tile hsoft

/-! ### Loads -/

theorem exec_tileLoad {s : State} {h : BitVec 6} (hh : h.toNat < s.cfg.hearths) (hruns : s.hearthRuns h.toNat = true) :
    exec (.tileLoad h) s = .next (s.tileLoad h.toNat) := by
  rw [show exec (.tileLoad h) s = execTileLoad h s from rfl, execTileLoad, if_pos hh, hruns, if_pos rfl]

/-- The tile of a job stands in the shadow set of a hearth. -/
def Hearth.withLoad (x : Hearth) (j : TileJob) : Hearth :=
  { x with shadow := tileWords x.acc j.atile, shadowFill := negZero32, shadowBad := false, shadowUse := .loaded { j with preload := false },
           jobs := { j with preload := false } :: x.jobs.drop 1 }

theorem TileJob.with_preload {j : TileJob} (h : j.preload = false) : { j with preload := false } = j := by
  cases j
  subst h
  rfl

section
variable {s : State} {h : Nat} {j : TileJob} {rest : List TileJob} {e : Entry}
  (hjobs : (s.hearth h).jobs = j :: rest) (he : s.entry j.ring j.pos = some e)
include hjobs he

theorem State.tileLoad_of_ended (hstatus : e.status ≠ 0#8) : s.tileLoad h = s.stopWork j.ring j.pos := by
  rw [State.tileLoad, hjobs]
  dsimp only
  rw [he]
  dsimp only
  rw [if_pos (by simpa [State.ended_of_entry he] using hstatus)]

/-- A job that needs no load waits, and so does one whose set is not free or whose tile is live. -/
theorem State.tileLoad_of_waits (hstatus : e.status = 0#8)
    (hwaits : j.load = false ∨ ((s.hearth h).tile j.atile).fresh = true ∨ (s.hearth h).shadowUse ≠ .free ∨
      ∃ l, (s.hearth h).liveJob = some l ∧ l.atile = j.atile) : s.tileLoad h = s := by
  rw [State.tileLoad, hjobs]
  dsimp only
  rw [he]
  dsimp only
  rw [if_neg (by simp [State.ended_of_entry he, hstatus]), if_neg ?_]
  rcases hwaits with hload | hfresh | huse | ⟨l, hl, hsame⟩
  · simp [hload]
  · simp [hfresh]
  · simp [huse]
  · simp [hl, hsame]

theorem State.tileLoad_of_free (hstatus : e.status = 0#8) (hload : j.load = true) (hfresh : ((s.hearth h).tile j.atile).fresh = false)
    (huse : (s.hearth h).shadowUse = .free) (hlive : ∀ l, (s.hearth h).liveJob = some l → l.atile ≠ j.atile)
    (hheld : s.grateHeld h = false ∨ j.flue = true) {u : State} (hu : (s.act j.ring j.pos h).writePreload h (matmulOf e.desc) j = u)
    (hended : u.ended j.ring j.pos = false) (hsound : u.readsSound [tileRange h j.atile]) :
    s.tileLoad h = u.modHearth h fun x => x.withLoad j := by
  rw [State.tileLoad, hjobs]
  dsimp only
  rw [he]
  dsimp only
  rw [if_neg (by simp [State.ended_of_entry he, hstatus]), if_pos ?_, hu, hended, if_neg Bool.false_ne_true, State.meet_of_sound hsound]
  · dsimp only
    rw [if_neg Bool.false_ne_true, hended, if_neg Bool.false_ne_true]
    rfl
  · have hgrate : (s.grateHeld h && !j.flue) = false := by rcases hheld with h | h <;> simp [h]
    cases hl : (s.hearth h).liveJob with
    | none => simp [hload, hfresh, huse, hgrate]
    | some l => simp [hload, hfresh, huse, hgrate, hlive l hl]

end

theorem State.preloadTable_act (s : State) (n : Nat) (pos : W32) (h g : Nat) (b : Matmul) (j : TileJob) :
    (s.act n pos g).preloadTable h b j = s.preloadTable h b j := rfl

/-- Preload values are written into the tile's place, which holds no mark then. -/
theorem State.writePreload_of_sound {s : State} {h : Nat} {b : Matmul} {j : TileJob} (hpreload : j.preload = true)
    (hsound : s.readsSound (preloadReads h b j)) : s.writePreload h b j = s.storeTile h j.atile (s.preloadTable h b j) := by
  rw [State.writePreload, if_pos hpreload, State.meet_of_sound hsound]
  rfl

theorem loadsCopyTheNextTile : LoadsCopyTheNextTile := by
  intro s h hh hruns x
  have hexec := exec_tileLoad hh hruns
  refine ⟨fun hnone => ?_, fun j rest e hjobs he => ⟨fun hstatus => ?_, fun hstatus hwaits => ?_, fun hstatus hload hfresh huse hlive hheld => ?_⟩⟩
  · rw [hexec, State.tileLoad, hnone]
  · rw [hexec, State.tileLoad_of_ended hjobs he hstatus]
  · rw [hexec, State.tileLoad_of_waits hjobs he hstatus hwaits]
  · have hact := State.entry_act he h.toNat
    refine ⟨fun hpreload hsound => ?_, fun hpreload hsound => ?_⟩
    · have hu : (s.act j.ring j.pos h.toNat).writePreload h.toNat (matmulOf e.desc) j = s.act j.ring j.pos h.toNat := by
        rw [State.writePreload, hpreload, if_neg Bool.false_ne_true]
      have hended : (s.act j.ring j.pos h.toNat).ended j.ring j.pos = false := by rw [State.ended_of_entry hact, hstatus]; rfl
      rw [hexec, State.tileLoad_of_free hjobs he hstatus hload hfresh huse hlive hheld hu hended (State.readsSound_modEntry hsound ..)]
      refine ⟨_, rfl, rfl, fun g hg => ?_, ?_⟩
      · rw [State.modHearth, State.hearth_setHearth, if_neg hg]
        rfl
      · rw [State.modHearth, State.hearth_setHearth_self, show (s.act j.ring j.pos h.toNat).hearth h.toNat = x from rfl, Hearth.withLoad,
          show x.jobs = j :: rest from hjobs, List.drop_one, List.tail_cons, TileJob.with_preload hpreload, ← hjobs]
    · have hu := State.writePreload_of_sound (s := s.act j.ring j.pos h.toNat) hpreload (State.readsSound_modEntry hsound ..)
      rw [State.preloadTable_act] at hu
      have hframe := (s.act j.ring j.pos h.toNat).storeTile_frame h.toNat j.atile (s.preloadTable h.toNat (matmulOf e.desc) j)
      have hself := (s.act j.ring j.pos h.toNat).hearth_storeTile h.toNat j.atile (s.preloadTable h.toNat (matmulOf e.desc) j)
      have hother := fun (g : Nat) (hg : g ≠ h.toNat) =>
        (s.act j.ring j.pos h.toNat).hearth_storeTile_ne hg j.atile (s.preloadTable h.toNat (matmulOf e.desc) j)
      have hsound' := (s.act j.ring j.pos h.toNat).readsSound_storeTile h.toNat j.atile (s.preloadTable h.toNat (matmulOf e.desc) j)
      generalize (s.act j.ring j.pos h.toNat).storeTile h.toNat j.atile (s.preloadTable h.toNat (matmulOf e.desc) j) = u at *
      have hended : u.ended j.ring j.pos = false := by
        rw [hframe, State.ended_of_entry (s := { s.act j.ring j.pos h.toNat with hearths := u.hearths }) hact, hstatus]
        rfl
      have hrest : { j with preload := false } :: x.jobs.drop 1 = { j with preload := false } :: rest := by
        rw [show x.jobs = j :: rest from hjobs, List.drop_one, List.tail_cons]
      rw [hexec, State.tileLoad_of_free hjobs he hstatus hload hfresh huse hlive hheld hu hended hsound']
      refine ⟨_, rfl, by rw [hframe]; rfl, fun g hg => ?_, ?_⟩
      · rw [State.modHearth, State.hearth_setHearth, if_neg hg, hother g hg]
        rfl
      · rw [show (s.act j.ring j.pos h.toNat).hearth h.toNat = x from rfl] at hself
        have hjobs' : (u.hearth h.toNat).jobs = x.jobs := by rw [hself]
        rw [State.modHearth, State.hearth_setHearth_self]
        have hacc : (u.hearth h.toNat).acc =
            x.acc.store (j.atile * tileBytes) (tableBytes (s.preloadTable h.toNat (matmulOf e.desc) j)) := by rw [hself]
        have hstore : (u.hearth h.toNat).store = x.store := by rw [hself]
        have hlive : (u.hearth h.toNat).live = x.live := by rw [hself]
        have hliveJob : (u.hearth h.toNat).liveJob = x.liveJob := by rw [hself]
        generalize u.hearth h.toNat = v at *
        simp only [Hearth.withLoad, hacc, hstore, hlive, hliveJob, hjobs', hrest, and_self]

end Sys2Proof.Machine

end


section
/-! SUPPORT. Swaps of the live and the shadow set (R66, R67, R69, R73, R267). -/

namespace Sys2Proof.Machine

theorem Hearth.tile_setTile (x : Hearth) (a : Nat) (t : TileInfo) : (x.setTile a t).tile a = t := Tab.at_put_self ..

/-- The body of the descriptor of a job. -/
def State.jobBody (s : State) (j : TileJob) : Matmul := match s.entry j.ring j.pos with
  | some e => matmulOf e.desc
  | none => matmulOf 0#1024

theorem State.jobBody_of_entry {s : State} {j : TileJob} {e : Entry} (he : s.entry j.ring j.pos = some e) : s.jobBody j = matmulOf e.desc := by
  rw [State.jobBody, he]

/-! ### The next job -/

section
variable {x : Hearth} {body : TileJob → Matmul} {j : TileJob} {busy : Option Nat} {held : Bool}

theorem Hearth.takeNext_of_none (hnone : x.jobs = []) (loaded : Option (TileJob × Tab W32 × Bool)) : x.takeNext body loaded busy held = x := by
  rw [Hearth.takeNext, hnone]
  rfl

theorem Hearth.takeNext_of_loaded {rest : List TileJob} (hjobs : x.jobs = j :: rest) (hheld : held = false ∨ j.flue = true) (words : Tab W32)
    (bad : Bool) : x.takeNext body (some (j, words, bad)) busy held = x.goLive (body j) j words bad := by
  rw [Hearth.takeNext, hjobs, List.head?_cons]
  dsimp only
  rw [if_neg (by rcases hheld with h | h <;> simp [h]), if_pos rfl]

theorem Hearth.takeNext_of_noLoad {rest : List TileJob} (hjobs : x.jobs = j :: rest) (hheld : held = false ∨ j.flue = true)
    (hload : x.noLoad j = true) (hbusy : busy ≠ some j.atile) : x.takeNext body none busy held = x.goLive (body j) j [] false := by
  rw [Hearth.takeNext, hjobs, List.head?_cons]
  dsimp only
  rw [if_neg (by rcases hheld with h | h <;> simp [h]), if_pos ⟨hload, hbusy⟩]

/-- A job whose tile is on its way out is not taken. -/
theorem Hearth.takeNext_of_busy {rest : List TileJob} (hjobs : x.jobs = j :: rest) (hbusy : busy = some j.atile) :
    x.takeNext body none busy held = x := by
  rw [Hearth.takeNext, hjobs, List.head?_cons]
  dsimp only
  split
  · rfl
  · rw [if_neg fun h => h.2 hbusy]

end

/-! ### TILE_SWAP -/

/-- The next job goes on with the live tile. -/
def Hearth.goesOn (x : Hearth) (k : TileJob) : Hearth := { x with liveJob := some k, jobs := x.jobs.drop 1, yielding := false }

section
variable {s : State} {h : Nat} {j : TileJob}

theorem State.tileSwap_of_waits (hwaits : (s.hearth h).shadowUse.drains = true ∨ (s.hearth h).spillDue = true) : s.tileSwap h = s := by
  rw [State.tileSwap]
  dsimp only
  rw [if_pos (by rcases hwaits with h | h <;> simp [h])]

variable (hdrains : (s.hearth h).shadowUse.drains = false) (hspill : (s.hearth h).spillDue = false)
include hdrains hspill

/-- A hearth without a live tile takes its next job. -/
theorem State.tileSwap_of_idle (hlive : (s.hearth h).liveJob = none) {rest : List TileJob} (hjobs : (s.hearth h).jobs = j :: rest)
    (hheld : s.grateHeld h = false ∨ j.flue = true) : s.tileSwap h =
      s.setHearth h ((s.hearth h).freeShadow.takeNext s.jobBody (s.hearth h).loadedTile none (s.grateHeld h)) := by
  rw [State.tileSwap]
  dsimp only
  rw [if_neg (by simp [hdrains, hspill]), hlive, hjobs, List.head?_cons]
  dsimp only
  rw [if_neg (by rcases hheld with h | h <;> simp [h])]
  rfl

theorem State.tileSwap_of_chunks (hlive : (s.hearth h).liveJob = some j) (hmore : j.kNext ≠ j.kEnd) (hyielding : (s.hearth h).yielding = false) :
    s.tileSwap h = s := by
  rw [State.tileSwap]
  dsimp only
  rw [if_neg (by simp [hdrains, hspill]), hlive]
  dsimp only
  rw [if_neg hmore, hyielding, if_neg Bool.false_ne_true]

/-- A tile whose chunks are done leaves for the shadow set. -/
theorem State.tileSwap_of_done (hlive : (s.hearth h).liveJob = some j) (hdone : j.kNext = j.kEnd)
    (hnext : (s.hearth h).continues s.jobBody j = none) : s.tileSwap h = s.setHearth h
      (((s.hearth h).swapOut j).takeNext s.jobBody (s.hearth h).loadedTile (some j.atile) (s.grateHeld h)) := by
  rw [State.tileSwap]
  dsimp only
  rw [if_neg (by simp [hdrains, hspill]), hlive]
  dsimp only
  rw [if_pos hdone]
  split
  · next k hk => exact absurd ((show (s.hearth h).continues s.jobBody j = some k from hk).symm.trans hnext) (Option.some_ne_none k)
  · rfl

/-- A tile that the next job goes on with stays live. -/
theorem State.tileSwap_of_continues (hlive : (s.hearth h).liveJob = some j) (hdone : j.kNext = j.kEnd) {k : TileJob}
    (hnext : (s.hearth h).continues s.jobBody j = some k) : s.tileSwap h =
      (s.setHearth h ((s.hearth h).goesOn k)).tileDone j.ring j.pos h j.atile := by
  rw [State.tileSwap]
  dsimp only
  rw [if_neg (by simp [hdrains, hspill]), hlive]
  dsimp only
  rw [if_pos hdone]
  split
  · next k' hk =>
    obtain rfl := Option.some.inj ((show (s.hearth h).continues s.jobBody j = some k' from hk).symm.trans hnext)
    rfl
  · next hk => exact absurd (hnext.symm.trans (show (s.hearth h).continues s.jobBody j = none from hk)) (Option.some_ne_none k)

/-- A tile that yields leaves, to be loaded again. -/
theorem State.tileSwap_of_yields (hlive : (s.hearth h).liveJob = some j) (hmore : j.kNext ≠ j.kEnd) (hyielding : (s.hearth h).yielding = true) :
    s.tileSwap h = (s.setHearth h (Hearth.takeNext { (s.hearth h).swapOut j with jobs := insertJob { j with load := true } (s.hearth h).jobs }
      s.jobBody (s.hearth h).loadedTile (some j.atile) (s.grateHeld h))).raise j.ring j.pos fPreempted := by
  rw [State.tileSwap]
  dsimp only
  rw [if_neg (by simp [hdrains, hspill]), hlive]
  dsimp only
  rw [if_neg hmore, hyielding, if_pos rfl]
  rfl

end

theorem exec_tileSwap {s : State} {h : BitVec 6} (hh : h.toNat < s.cfg.hearths) (hruns : s.hearthRuns h.toNat = true) :
    exec (.tileSwap h) s = .next (s.tileSwap h.toNat) := by
  rw [show exec (.tileSwap h) s = execTileSwap h s from rfl, execTileSwap, if_pos hh, hruns, if_pos rfl]

theorem Hearth.goLive_tile (x : Hearth) (b : Matmul) (j : TileJob) (words : Tab W32) (bad : Bool) : (x.goLive b j words bad).tile j.atile =
    { x.tile j.atile with
      state := .live, fresh := false,
      chunk := if b.begins = true ∧ j.kNext = j.part * b.partLen j.parts then b.firstChunk j else (x.tile j.atile).chunk } := by
  have htiles : (x.goLive b j words bad).tiles = Tab.put TileInfo.reset x.tiles j.atile { x.tile j.atile with
      state := .live, fresh := false,
      chunk := if b.begins && decide (j.kNext = j.part * b.partLen j.parts) then b.firstChunk j else (x.tile j.atile).chunk } := rfl
  rw [Hearth.tile, htiles, Tab.at_put_self]
  simp only [Bool.and_eq_true, decide_eq_true_eq]

/-- A hearth whose shadow set is given up and whose next job goes live. -/
theorem Hearth.goLive_of_freeShadow {x : Hearth} {j : TileJob} {rest : List TileJob} (hjobs : x.jobs = j :: rest) (b : Matmul) (words : Tab W32)
    (bad : Bool) :
    (x.freeShadow.goLive b j words bad).live = words ∧ (x.freeShadow.goLive b j words bad).liveFill = negZero32 ∧
      (x.freeShadow.goLive b j words bad).liveJob = some j ∧ (x.freeShadow.goLive b j words bad).jobs = rest ∧
      (x.freeShadow.goLive b j words bad).shadowUse = .free ∧ (x.freeShadow.goLive b j words bad).tile j.atile = { x.tile j.atile with
        state := .live, fresh := false,
        chunk := if b.begins = true ∧ j.kNext = j.part * b.partLen j.parts then b.firstChunk j else (x.tile j.atile).chunk } :=
  ⟨rfl, rfl, rfl, by rw [show (x.freeShadow.goLive b j words bad).jobs = x.jobs.drop 1 from rfl, hjobs, List.drop_one, List.tail_cons], rfl,
    x.freeShadow.goLive_tile b j words bad⟩

/-- The live tile leaves, to be loaded again as the only job. -/
def Hearth.leaves (x : Hearth) (j : TileJob) : Hearth := { x.swapOut j with jobs := [{ j with load := true }] }

theorem State.hearth_raise (s : State) (n : Nat) (pos : W32) (fl g : Nat) : (s.raise n pos fl).hearth g = s.hearth g := rfl

theorem State.shareDone_only (s : State) (n : Nat) (pos : W32) : s.shareDone n pos = { s with rings := (s.shareDone n pos).rings } := by
  rw [State.shareDone]
  split
  · split <;> rfl
  · rfl

theorem State.tileDone_only (s : State) (n : Nat) (pos : W32) (h a : Nat) :
    s.tileDone n pos h a = { s with rings := (s.tileDone n pos h a).rings } := State.shareDone_only ..

theorem Hearth.swapOut_tile (x : Hearth) (j : TileJob) : (x.swapOut j).tile j.atile = { x.tile j.atile with state := .draining } := by
  have htiles : (x.swapOut j).tiles = Tab.put TileInfo.reset x.tiles j.atile { x.tile j.atile with state := .draining } := rfl
  rw [Hearth.tile, htiles, Tab.at_put_self]

/-- A swap that only changes what the Grate of a hearth holds. -/
theorem State.swap_of_setHearth {s : State} {c : Instr} {h : Nat} {y : Hearth} (hexec : exec c s = .next (s.setHearth h y))
    (hacc : y.acc = (s.hearth h).acc) (hstore : y.store = (s.hearth h).store) (hxab : y.xab = (s.hearth h).xab) :
    exec c s = .next (s.setHearth h y) ∧ OnlyHearth s (s.setHearth h y) h ∧ ((s.setHearth h y).hearth h).acc = (s.hearth h).acc ∧
      ((s.setHearth h y).hearth h).store = (s.hearth h).store ∧ ((s.setHearth h y).hearth h).xab = (s.hearth h).xab := by
  refine ⟨hexec, fun g hg => by rw [State.hearth_setHearth, if_neg hg], ?_, ?_, ?_⟩
  · rw [State.hearth_setHearth_self, hacc]
  · rw [State.hearth_setHearth_self, hstore]
  · rw [State.hearth_setHearth_self, hxab]

theorem swapsExchangeTheSets : SwapsExchangeTheSets := by
  intro s h hh hruns x moved
  have hexec := exec_tileSwap hh hruns
  refine ⟨fun hwaits => by rw [hexec, State.tileSwap_of_waits hwaits], fun j rest e hdrains hspill he => ?_⟩
  intro b first goes
  refine ⟨fun hlive hjobs hheld => ⟨fun hloaded => ?_, fun hfree hload => ?_⟩, fun hlive hmore hyielding => ?_, fun hlive hdone hnone => ?_,
    fun k f hlive hdone hends hjobs hsame hf hbegins => ?_, fun hlive hmore hyielding hnone hfree => ?_⟩
  · have hnext : x.freeShadow.takeNext s.jobBody x.loadedTile none (s.grateHeld h.toNat) = x.freeShadow.goLive b j x.shadow x.shadowBad := by
      rw [Hearth.loadedTile, hloaded, Hearth.takeNext_of_loaded (x := x.freeShadow) hjobs hheld, State.jobBody_of_entry he]
    rw [State.tileSwap_of_idle hdrains hspill hlive hjobs hheld, hnext] at hexec
    exact ⟨_, State.swap_of_setHearth hexec rfl rfl rfl, rfl, by rw [State.hearth_setHearth_self]; exact Hearth.goLive_of_freeShadow hjobs ..⟩
  · have hnoLoad : x.freeShadow.noLoad j = true := by
      rcases hload with hl | hf
      · rw [Hearth.noLoad, hl]
        rfl
      · rw [Hearth.noLoad, show (x.freeShadow.tile j.atile).fresh = true from hf, Bool.or_true]
    have hnext : x.freeShadow.takeNext s.jobBody x.loadedTile none (s.grateHeld h.toNat) = x.freeShadow.goLive b j [] false := by
      rw [Hearth.loadedTile, hfree, Hearth.takeNext_of_noLoad (x := x.freeShadow) hjobs hheld hnoLoad (Option.some_ne_none _).symm,
        State.jobBody_of_entry he]
    rw [State.tileSwap_of_idle hdrains hspill hlive hjobs hheld, hnext] at hexec
    exact ⟨_, State.swap_of_setHearth hexec rfl rfl rfl, rfl, by rw [State.hearth_setHearth_self]; exact Hearth.goLive_of_freeShadow hjobs ..⟩
  · rw [hexec, State.tileSwap_of_chunks hdrains hspill hlive hmore hyielding]
  · have hstays : x.continues s.jobBody j = none := by rw [Hearth.continues, hnone, List.head?_nil]
    have hnext : (x.swapOut j).takeNext s.jobBody x.loadedTile (some j.atile) (s.grateHeld h.toNat) = x.swapOut j :=
      Hearth.takeNext_of_none (x := x.swapOut j) hnone _
    rw [State.tileSwap_of_done hdrains hspill hlive hdone hstays, hnext] at hexec
    refine ⟨_, State.swap_of_setHearth hexec rfl rfl rfl, rfl, ?_⟩
    rw [State.hearth_setHearth_self]
    exact ⟨rfl, rfl, rfl, rfl, rfl, rfl, by rw [Hearth.swapOut_tile], hnone⟩
  · have hgoes : x.continues s.jobBody j = some k := by
      rw [Hearth.continues, hjobs, List.head?_cons]
      dsimp only
      rw [State.jobBody_of_entry hf]
      simp [hends, hsame, hbegins]
    rw [State.tileSwap_of_continues hdrains hspill hlive hdone hgoes, show (s.hearth h.toNat).goesOn k = x.goesOn k from rfl] at hexec
    have hframe := (s.setHearth h.toNat (x.goesOn k)).tileDone_only j.ring j.pos h.toNat j.atile
    have hhearth : ∀ g, ((s.setHearth h.toNat (x.goesOn k)).tileDone j.ring j.pos h.toNat j.atile).hearth g =
        (s.setHearth h.toNat (x.goesOn k)).hearth g := fun g => by rw [hframe]; rfl
    generalize (s.setHearth h.toNat (x.goesOn k)).tileDone j.ring j.pos h.toNat j.atile = t at *
    have hself : t.hearth h.toNat = x.goesOn k := by rw [hhearth, State.hearth_setHearth_self]
    refine ⟨t, ⟨hexec, fun g hg => by rw [hhearth, State.hearth_setHearth, if_neg hg], by rw [hself]; rfl, by rw [hself]; rfl, by rw [hself]; rfl⟩,
      by rw [hframe]; rfl, by rw [hself]; rfl, by rw [hself]; rfl, ?_⟩
    rw [hself, show (x.goesOn k).jobs = x.jobs.drop 1 from rfl, hjobs, List.drop_one, List.tail_cons]
  · have hbusy : Hearth.takeNext { x.swapOut j with jobs := insertJob { j with load := true } x.jobs } s.jobBody x.loadedTile (some j.atile)
        (s.grateHeld h.toNat) = x.leaves j := by
      rw [hnone, Hearth.loadedTile, hfree]
      exact Hearth.takeNext_of_busy rfl rfl
    rw [State.tileSwap_of_yields hdrains hspill hlive hmore hyielding, hbusy] at hexec
    have hraised := State.entry_raise (s := s.setHearth h.toNat (x.leaves j)) he fPreempted
    have hself : ((s.setHearth h.toNat (x.leaves j)).raise j.ring j.pos fPreempted).hearth h.toNat = x.leaves j := by
      rw [State.hearth_raise, State.hearth_setHearth_self]
    refine ⟨_, _, ⟨hexec, fun g hg => ?_, by rw [hself]; rfl, by rw [hself]; rfl, by rw [hself]; rfl⟩, rfl, hraised, rfl, ?_⟩
    · rw [State.hearth_raise, State.hearth_setHearth, if_neg hg]
    · rw [hself]
      exact ⟨rfl, rfl, rfl, rfl⟩

end Sys2Proof.Machine

end


section
/-! SUPPORT. Chunk steps (R49 to R62, R84, R267). -/

namespace Sys2Proof.Machine

/-! ### The hearth after a chunk -/

/-- The hearth after a chunk step of its live job. -/
def Hearth.afterChunk (x : Hearth) (b : Matmul) (hasMantel : Bool) (j : TileJob) (k' : Nat) (live : Tab W32) : Hearth :=
  let t := x.tile j.atile
  let j' := { j with kNext := k' }
  let stops := x.flueDue && !j.flue && (decide ((t.chunk + 1) % 256 = 0) || decide (k' = j.kEnd))
  let x' := { ((x.setTile j.atile { t with chunk := t.chunk + 1 }).touch b) with
    live := live, liveJob := some j', spillDue := b.spills hasMantel j t.chunk k',
    yielding := stops && decide (k' ≠ j.kEnd), flueDue := x.flueDue && !stops }
  if k' = j.kEnd then x'.dropPanels b j' else x'

theorem Hearth.touch_eq (x : Hearth) (b : Matmul) :
    ∃ gs, x.touch b = { x with groups := gs } ∧ (b.group = true → (Tab.at Group.reset gs b.gid).touched = true) := by
  rw [Hearth.touch]
  split
  · exact ⟨_, rfl, fun _ => by rw [Tab.at_put_self]⟩
  · next h => exact ⟨_, rfl, fun hgroup => absurd hgroup h⟩

/-- A chunk step changes the live set and its job, the tile's chunk number, the marks of the yield and the spill, panels and groups. -/
theorem Hearth.afterChunk_eq (x : Hearth) (b : Matmul) (hasMantel : Bool) (j : TileJob) (k' : Nat) (live : Tab W32) :
    ∃ ps gs due, x.afterChunk b hasMantel j k' live = { x with
        panels := ps, groups := gs, flueDue := due, live := live, liveJob := some { j with kNext := k' },
        tiles := Tab.put TileInfo.reset x.tiles j.atile { x.tile j.atile with chunk := (x.tile j.atile).chunk + 1 },
        spillDue := b.spills hasMantel j (x.tile j.atile).chunk k',
        yielding := x.flueDue && !j.flue && decide (((x.tile j.atile).chunk + 1) % 256 = 0) && !decide (k' = j.kEnd) } ∧
      (b.group = true → (Tab.at Group.reset gs b.gid).touched = true) := by
  obtain ⟨gs, htouch, hgroup⟩ := (x.setTile j.atile { x.tile j.atile with chunk := (x.tile j.atile).chunk + 1 }).touch_eq b
  have hyields : (x.flueDue && !j.flue && (decide (((x.tile j.atile).chunk + 1) % 256 = 0) || decide (k' = j.kEnd)) && decide (k' ≠ j.kEnd)) =
      (x.flueDue && !j.flue && decide (((x.tile j.atile).chunk + 1) % 256 = 0) && !decide (k' = j.kEnd)) := by
    by_cases h : k' = j.kEnd <;> simp [h]
  rw [Hearth.afterChunk]
  dsimp only
  rw [htouch, hyields]
  split
  · exact ⟨_, gs, _, rfl, hgroup⟩
  · exact ⟨_, gs, _, rfl, hgroup⟩

/-! ### CHUNK_STEP -/

/-- What a chunk step notes of its descriptor: the hearth, its flags, and the reads that its last chunk gives back. -/
def State.noteChunk (s : State) (h : Nat) (j : TileJob) (k' fl : Nat) (more : Bool) : State :=
  let s := (s.act j.ring j.pos h).raise j.ring j.pos fl
  if k' = j.kEnd ∧ more = false then s.modEntry j.ring j.pos fun e => e.takenAll h else s

theorem State.noteChunk_only (s : State) (h : Nat) (j : TileJob) (k' fl : Nat) (more : Bool) :
    s.noteChunk h j k' fl more = { s with rings := (s.noteChunk h j k' fl more).rings } := by
  rw [State.noteChunk]
  split <;> rfl

theorem State.entry_noteChunk {s : State} {j : TileJob} {e : Entry} (he : s.entry j.ring j.pos = some e) (h k' fl : Nat) (more : Bool) :
    ∃ f, (s.noteChunk h j k' fl more).entry j.ring j.pos = some f ∧ f.status = e.status ∧ f.flags = e.flags ||| BitVec.ofNat 16 fl := by
  have hraised := State.entry_raise (State.entry_act he h) fl
  rw [State.noteChunk]
  split
  · exact ⟨_, State.entry_modEntry_of_entry (f := fun e => e.takenAll h) hraised fun _ h => h, rfl, rfl⟩
  · exact ⟨_, hraised, rfl, rfl⟩

theorem State.chunkOf_of_sound {s : State} {h : Nat} {j : TileJob} {b : Matmul} {ma mb : Memory} (ha : (s.hearth h).operandBytes b j b.a = some ma)
    (hb : (s.hearth h).operandBytes b j b.b = some mb) {kn : Nat} (hkn : kn = min (pairWidth b.a.fmt b.b.fmt) (j.kEnd - j.kNext))
    (hsound : s.readsSound (b.chunkReads h j kn)) {step : Tab W32 × Nat}
    (hstep : b.stepCells h ((s.hearth h).tile j.atile).chunk j (s.hearth h).liveFill (s.hearth h).live
      (b.placedA.slice ma (128 * j.ti) b.m j.kNext kn) (b.placedB.slice mb (128 * j.tj) b.n j.kNext kn) = step) :
    s.chunkOf h j b = (s.setHearth h ((s.hearth h).afterChunk b s.cfg.hasMantel j (j.kNext + kn) step.1)).noteChunk h j (j.kNext + kn)
      (step.2 ||| flagIf (decide (j.kNext + kn = j.kEnd) && b.boundVoid s.cfg.hasMantel j (((s.hearth h).tile j.atile).chunk + 1)) fBoundVoid)
      ((s.hearth h).jobs.any fun q => q.of j.ring j.pos) := by
  subst hkn
  rw [State.chunkOf]
  dsimp only
  rw [ha, hb]
  dsimp only
  rw [State.meet_of_sound hsound]
  dsimp only
  rw [if_neg Bool.false_ne_true, hstep]
  rfl

theorem exec_chunkStep {s : State} {h : BitVec 6} (hh : h.toNat < s.cfg.hearths) (hruns : s.hearthRuns h.toNat = true) :
    exec (.chunkStep h) s = .next (s.chunk h.toNat) := by
  rw [show exec (.chunkStep h) s = execChunkStep h s from rfl, execChunkStep, if_pos hh, hruns, if_pos rfl]

theorem State.chunk_of_held {s : State} {h : Nat} {j : TileJob} (hlive : (s.hearth h).liveJob = some j)
    (hheld : j.kNext = j.kEnd ∨ (s.hearth h).spillDue = true ∨ (s.hearth h).yielding = true ∨ (j.flue = false ∧ s.withheld h 1#2 = true)) :
    s.chunk h = s := by
  rw [State.chunk, hlive]
  dsimp only
  rw [if_pos (by rcases hheld with h | h | h | ⟨hf, hw⟩ <;> simp [*])]

theorem State.chunk_of_free {s : State} {h : Nat} {j : TileJob} {e : Entry} (hlive : (s.hearth h).liveJob = some j)
    (hfree : ¬(j.kNext = j.kEnd ∨ (s.hearth h).spillDue = true ∨ (s.hearth h).yielding = true ∨ (j.flue = false ∧ s.withheld h 1#2 = true)))
    (he : s.entry j.ring j.pos = some e) :
    s.chunk h = if e.status ≠ 0#8 then s.stopWork j.ring j.pos else s.chunkOf h j (matmulOf e.desc) := by
  have hopen : (decide (j.kNext = j.kEnd) || (s.hearth h).spillDue || (s.hearth h).yielding || (!j.flue && s.withheld h 1#2)) = false := by
    simp only [not_or, not_and, Bool.not_eq_true] at hfree
    obtain ⟨hmore, hspill, hyield, hdamper⟩ := hfree
    cases hflue : j.flue <;> simp [hmore, hspill, hyield, hflue] at hdamper ⊢
    exact hdamper
  rw [State.chunk, hlive]
  dsimp only
  rw [hopen, if_neg Bool.false_ne_true, he]

theorem chunksAdvanceTheLiveSet : ChunksAdvanceTheLiveSet := by
  intro s h j e hh hruns x b kn held
  have hexec := exec_chunkStep hh hruns
  refine ⟨fun hnone => ?_, fun hlive hheld => by rw [hexec, State.chunk_of_held hlive hheld], fun hlive hfree he => ?_⟩
  · rw [hexec, State.chunk, hnone]
  · rw [State.chunk_of_free hlive hfree he] at hexec
    refine ⟨fun hstatus => by rw [hexec, if_pos hstatus], fun ma mb hstatus ha hb hsound => ?_⟩
    obtain ⟨step, hstep⟩ : ∃ step, b.stepCells h.toNat (x.tile j.atile).chunk j x.liveFill x.live
      (b.placedA.slice ma (128 * j.ti) b.m j.kNext kn) (b.placedB.slice mb (128 * j.tj) b.n j.kNext kn) = step := ⟨_, rfl⟩
    rw [if_neg (not_not_intro hstatus), State.chunkOf_of_sound ha hb rfl hsound hstep] at hexec
    obtain ⟨ps, gs, due, hafter, hgroup⟩ := x.afterChunk_eq b s.cfg.hasMantel j (j.kNext + kn) step.1
    have hchunked : (s.setHearth h.toNat (x.afterChunk b s.cfg.hasMantel j (j.kNext + kn) step.1)).hearth h.toNat = _ :=
      (State.hearth_setHearth_self ..).trans hafter
    have hother : ∀ g, g ≠ h.toNat → (s.setHearth h.toNat (x.afterChunk b s.cfg.hasMantel j (j.kNext + kn) step.1)).hearth g = s.hearth g :=
      fun g hg => (State.hearth_setHearth ..).trans (if_neg hg)
    have hentry : (s.setHearth h.toNat (x.afterChunk b s.cfg.hasMantel j (j.kNext + kn) step.1)).entry j.ring j.pos = some e := he
    have hkeep : s.setHearth h.toNat (x.afterChunk b s.cfg.hasMantel j (j.kNext + kn) step.1) = { s with
      hearths := (s.setHearth h.toNat (x.afterChunk b s.cfg.hasMantel j (j.kNext + kn) step.1)).hearths } := rfl
    rw [show s.hearth h.toNat = x from rfl] at hexec
    generalize s.setHearth h.toNat (x.afterChunk b s.cfg.hasMantel j (j.kNext + kn) step.1) = u at *
    obtain ⟨f, hf, hfstatus, hflags⟩ := State.entry_noteChunk hentry h.toNat (j.kNext + kn)
      (step.2 ||| flagIf (decide (j.kNext + kn = j.kEnd) && b.boundVoid s.cfg.hasMantel j ((x.tile j.atile).chunk + 1)) fBoundVoid)
      (x.jobs.any fun q => q.of j.ring j.pos)
    have hframe := u.noteChunk_only h.toNat j (j.kNext + kn)
      (step.2 ||| flagIf (decide (j.kNext + kn = j.kEnd) && b.boundVoid s.cfg.hasMantel j ((x.tile j.atile).chunk + 1)) fBoundVoid)
      (x.jobs.any fun q => q.of j.ring j.pos)
    generalize u.noteChunk h.toNat j (j.kNext + kn) _ _ = t at *
    have hhearth : ∀ g, t.hearth g = u.hearth g := fun g => by rw [hframe]; rfl
    refine ⟨t, f, hexec, by rw [hframe, hkeep], fun g hg => (hhearth g).trans (hother g hg), ?_⟩
    intro y c step' last yields
    have hy : y = _ := (hhearth h.toNat).trans hchunked
    have hs : step' = step := hstep
    clear_value y step'
    subst hy hs
    refine ⟨rfl, rfl, rfl, ?_, rfl, rfl, rfl, rfl, rfl, rfl, rfl, rfl, hgroup, hf, hfstatus.trans hstatus, hflags⟩
    rw [Hearth.tile, Tab.at_put_self]

end Sys2Proof.Machine

end


section
/-! SUPPORT. Spills and commits of a tile, and a cell that has lost its parity (R59, R68, R73, R354, Table 17-1). -/

namespace Sys2Proof.Machine

/-! ### Work that stops -/

/-- A listed value that stays listed is changed in place. -/
theorem Tab.at_remap_of_ne {α : Type} [DecidableEq α] {d : α} {t : Tab α} {k : Nat} {f : α → α} (h : Tab.at d t k ≠ d)
    (hf : f (Tab.at d t k) ≠ d) : Tab.at d (Tab.remap d t f) k = f (Tab.at d t k) := by
  induction t with
  | nil => exact absurd rfl h
  | cons p rest ih =>
    obtain ⟨i, v⟩ := p
    by_cases hi : i = k
    · have hv : Tab.at d ((i, v) :: rest) k = v := if_pos hi
      rw [hv] at hf ⊢
      rw [Tab.remap, List.map_cons, List.filter_cons_of_pos (by simpa using hf)]
      exact if_pos hi
    · have hv : Tab.at d ((i, v) :: rest) k = Tab.at d rest k := if_neg hi
      rw [hv] at h hf ⊢
      rw [← ih h hf, Tab.remap, List.map_cons, List.filter_cons]
      split
      · exact if_neg hi
      · rfl

theorem Hearth.purge_accPoison (n : Nat) (pos : W32) (x : Hearth) : (x.purge n pos).accPoison = x.accPoison := by
  rw [Hearth.purge]
  dsimp only
  repeat' split
  all_goals rfl

/-- A mark in accumulator memory outlasts the work that stops. -/
theorem State.accPoison_stopWork {s : State} {h : Nat} (hmarked : (s.hearth h).accPoison ≠ []) (n : Nat) (pos : W32) :
    ((s.stopWork n pos).hearth h).accPoison = (s.hearth h).accPoison := by
  have hreset : ∀ x : Hearth, x.accPoison ≠ [] → x ≠ Hearth.reset := fun x hx heq => hx (by rw [heq]; rfl)
  have hpurged : Hearth.purge n pos (s.hearth h) ≠ Hearth.reset := hreset _ (by rwa [Hearth.purge_accPoison])
  rw [show (s.stopWork n pos).hearth h = Tab.at Hearth.reset (Tab.remap Hearth.reset s.hearths (Hearth.purge n pos)) h from rfl,
    Tab.at_remap_of_ne (hreset _ hmarked) hpurged]
  exact Hearth.purge_accPoison n pos _

theorem State.entry_stopWork {s : State} {n : Nat} {pos : W32} {e : Entry} (he : s.entry n pos = some e) :
    (s.stopWork n pos).entry n pos = some e.finished := by
  rw [State.stopWork]
  exact State.entry_finish he

/-! ### A cell that has lost its parity -/

theorem mem_writeMarks_tile (m : List Nat) (a : Nat) : a * tileBytes / 8 ∈ writeMarks 8 m (a * tileBytes) tileBytes true := by
  rw [writeMarks, if_pos rfl, foldl_insert_marks]
  refine .inl ?_
  rw [unitsOf, if_neg (by decide)]
  exact List.mem_map.mpr ⟨0, List.mem_range.mpr (Nat.succ_pos _), rfl⟩

theorem marked_of_mem {m : List Nat} {a : Nat} (h : a * tileBytes / 8 ∈ m) : marked 8 m (a * tileBytes) tileBytes = true := by
  rw [marked, Bool.and_eq_true]
  refine ⟨by decide, List.any_eq_true.mpr ⟨_, h, ?_⟩⟩
  rw [Bool.and_eq_true, decide_eq_true_iff, decide_eq_true_iff, tileBytes]
  omega

/-- The tile is marked, and its descriptor ends with E_MEM. -/
theorem State.cellParity_ends {s : State} {h : Nat} {j : TileJob} {e : Entry} (he : s.entry j.ring j.pos = some e) (hstatus : e.status = 0#8)
    (words : Tab W32) : ∃ f, (s.cellParity h j words).entry j.ring j.pos = some f ∧ f.stage = .finished ∧ f.status = 0x0A#8 ∧
      f.detail = BitVec.ofNat 16 (0x300 + h) ∧ (s.cellParity h j words).tainted (tileRange h j.atile) = true ∧
      (s.cellParity h j words).mantel = s.mantel := by
  have hentry : (((s.act j.ring j.pos h).storeTile h j.atile words).markTile h j.atile).entry j.ring j.pos = _ := State.entry_act he h
  have hmark : j.atile * tileBytes / 8 ∈ ((((s.act j.ring j.pos h).storeTile h j.atile words).markTile h j.atile).hearth h).accPoison := by
    rw [State.markTile, State.modHearth, State.hearth_setHearth_self]
    exact mem_writeMarks_tile ..
  have hmantel : (((s.act j.ring j.pos h).storeTile h j.atile words).markTile h j.atile).mantel = s.mantel := rfl
  rw [State.cellParity]
  generalize ((s.act j.ring j.pos h).storeTile h j.atile words).markTile h j.atile = t at *
  have hlogs := t.logError_logs ((ErrorEvent.plain 3 0x03 3 h (BitVec.ofNat 64 j.atile)).of j.ring j.pos 0x01 stMem)
  generalize t.logError _ = u at *
  have hlogged : u.entry j.ring j.pos = _ := (show u.entry j.ring j.pos = t.entry j.ring j.pos by rw [State.entry, State.ring, hlogs.rings]; rfl).trans hentry
  have hmarked : j.atile * tileBytes / 8 ∈ ((u.fail j.ring j.pos stMem (0x300 + h)).hearth h).accPoison := by
    rw [show ((u.fail j.ring j.pos stMem (0x300 + h)).hearth h) = u.hearth h from rfl, State.hearth, hlogs.hearths]
    exact hmark
  refine ⟨_, State.entry_stopWork (State.entry_fail hlogged hstatus stMem (0x300 + h)), rfl, rfl, rfl, ?_, hlogs.mantel.trans hmantel⟩
  show marked 8 (((u.fail j.ring j.pos stMem (0x300 + h)).stopWork j.ring j.pos).hearth h).accPoison (j.atile * tileBytes) tileBytes = true
  rw [State.accPoison_stopWork (List.ne_nil_of_mem hmarked)]
  exact marked_of_mem hmarked

/-! ### Spills -/

theorem exec_autoSpill {s : State} {h : BitVec 6} {j : TileJob} (hh : h.toNat < s.cfg.hearths) (hruns : s.hearthRuns h.toNat = true)
    (hlive : (s.hearth h.toNat).liveJob = some j) : exec (.autoSpill h) s = .next
      (if (s.hearth h.toNat).spillDue && !(s.hearth h.toNat).shadowUse.drains && !s.bankWiping (h.toNat * 2 ^ 28) then
        if (s.hearth h.toNat).liveBad then s.cellParity h.toNat j (s.hearth h.toNat).live
        else s.setHearth h.toNat ((s.hearth h.toNat).autoSpill j)
      else s) := by
  rw [show exec (.autoSpill h) s = execAutoSpill h s from rfl, execAutoSpill, if_pos hh]
  dsimp only
  rw [hlive]
  dsimp only
  rw [hruns, Bool.true_and]
  split <;> rfl

theorem Hearth.autoSpill_xab (x : Hearth) (j : TileJob) : (x.autoSpill j).xab =
    x.xab.store (j.atile * xabBytes) ((List.range 128).flatMap fun r => ((rowWords x.live r).zip (List.range 128)).flatMap fun w =>
      leBytes 8 (spillAdd (x.xabAt j.atile (128 * r + w.2)) w.1).toNat) := by
  rw [Hearth.autoSpill]
  dsimp only
  rw [List.flatMap_map]

theorem Hearth.autoSpill_tile (x : Hearth) (j : TileJob) : (x.autoSpill j).tile j.atile = { x.tile j.atile with spilled := true } := by
  have htiles : (x.autoSpill j).tiles = Tab.put TileInfo.reset x.tiles j.atile { x.tile j.atile with spilled := true } := rfl
  rw [Hearth.tile, htiles, Tab.at_put_self]

theorem spillsRestartTheCells : SpillsRestartTheCells := by
  intro s h j hh hruns x hlive
  have hexec := exec_autoSpill hh hruns hlive
  refine ⟨fun hwaits => ?_, fun hdue hdrains hbank => ?_⟩
  · rw [hexec, show s.hearth h.toNat = x from rfl, if_neg ?_]
    rcases hwaits with hw | hw | hw <;>
      simp only [hw, Bool.not_true, Bool.and_false, Bool.false_and, Bool.false_eq_true, not_false_eq_true]
  · rw [show s.hearth h.toNat = x from rfl, hdue, hdrains, hbank, if_pos (by decide)] at hexec
    refine ⟨fun hgood => ?_, fun hbad e he hstatus => ?_⟩
    · rw [hgood, if_neg Bool.false_ne_true] at hexec
      refine ⟨_, hexec, rfl, fun g hg => by rw [State.hearth_setHearth, if_neg hg], ?_⟩
      rw [State.hearth_setHearth_self]
      exact ⟨rfl, rfl, rfl, by rw [Hearth.autoSpill_tile], hlive, rfl, rfl, rfl, rfl, Hearth.autoSpill_xab x j⟩
    · rw [hbad, if_pos rfl] at hexec
      obtain ⟨f, hf⟩ := State.cellParity_ends he hstatus x.live (h := h.toNat)
      exact ⟨_, f, hexec, hf⟩

end Sys2Proof.Machine

end


section
/-! SUPPORT. O50: a tile's way through the Grate; its commit (R68, R73, R354). -/

namespace Sys2Proof.Machine

/-! ### Shares that end -/

theorem State.entry_shareDone {s : State} {n : Nat} {pos : W32} {e : Entry} (he : s.entry n pos = some e) :
    ∃ f, (s.shareDone n pos).entry n pos = some f ∧ f.left = e.left - 1 := by
  have hleft := State.entry_modEntry_of_entry (f := fun e => { e with left := e.left - 1 }) he fun _ h => h
  rw [State.shareDone, hleft]
  dsimp only
  split
  · next hnone => exact ⟨_, State.entry_finish hleft, hnone.symm⟩
  · exact ⟨_, hleft, rfl⟩

theorem State.entry_tileDone {s : State} {n : Nat} {pos : W32} {e : Entry} (he : s.entry n pos = some e) (h a : Nat) :
    ∃ f, (s.tileDone n pos h a).entry n pos = some f ∧ f.left = e.left - 1 := by
  have hcommitted := State.entry_modEntry_of_entry
    (f := fun e => if ((s.hearth h).jobsOf n pos).isEmpty then (e.committed h a).leave h else e.committed h a) he
    fun _ hp => by split <;> exact hp
  obtain ⟨f, hf, hleft⟩ := State.entry_shareDone hcommitted
  refine ⟨f, hf, hleft.trans ?_⟩
  split <;> rfl

/-! ### A tile that parks -/

/-- The words of a tile stand in accumulator memory, and its accumulation stays open. -/
def State.parked (s : State) (h : Nat) (j : TileJob) (words : Tab W32) : State :=
  (s.storeTile h j.atile words).modTile h j.atile fun t => { t with state := .parked }

theorem State.parked_frame (s : State) (h : Nat) (j : TileJob) (words : Tab W32) :
    s.parked h j words = { s with hearths := (s.parked h j words).hearths } := rfl

theorem State.hearth_parked_ne (s : State) {h g : Nat} (hg : g ≠ h) (j : TileJob) (words : Tab W32) : (s.parked h j words).hearth g = s.hearth g := by
  rw [State.parked, State.modTile, State.modHearth, State.hearth_setHearth, if_neg hg, State.hearth_storeTile_ne s hg]

theorem State.hearth_parked (s : State) (h : Nat) (j : TileJob) (words : Tab W32) : ∃ poison bad soft, (s.parked h j words).hearth h =
    { s.hearth h with
      acc := (s.hearth h).acc.store (j.atile * tileBytes) (tableBytes words), accPoison := poison, accBad := bad, accSoft := soft,
      tiles := Tab.put TileInfo.reset (s.hearth h).tiles j.atile { (s.hearth h).tile j.atile with state := .parked } } := by
  rw [State.parked, State.modTile, State.modHearth, State.hearth_setHearth_self, State.hearth_storeTile]
  exact ⟨_, _, _, rfl⟩

/-- A hearth whose draining tile has parked: its words stand in accumulator memory, and its shadow set is free. -/
def Hearth.Parked (x : Hearth) (j : TileJob) (y : Hearth) : Prop :=
  y.acc = x.acc.store (j.atile * tileBytes) (tableBytes x.shadow) ∧ y.shadow = [] ∧ y.shadowUse = .free ∧
    y.tile j.atile = { x.tile j.atile with state := .parked } ∧ y.store = x.store ∧ y.xab = x.xab ∧ y.live = x.live ∧
    y.liveJob = x.liveJob ∧ y.jobs = x.jobs

theorem State.commitPark_eq (s : State) (h : Nat) (j : TileJob) (words : Tab W32) : s.commitPark h j words =
    if j.kNext = j.kEnd then (s.parked h j words).tileDone j.ring j.pos h j.atile else s.parked h j words := rfl

theorem Hearth.parked_of_free {u : State} {h : Nat} {x : Hearth} (hfree : u.hearth h = x.freeShadow) (j : TileJob) :
    x.Parked j ((u.parked h j x.shadow).hearth h) := by
  obtain ⟨poison, bad, soft, hself⟩ := u.hearth_parked h j x.shadow
  rw [hself, hfree]
  refine ⟨rfl, rfl, rfl, ?_, rfl, rfl, rfl, rfl, rfl⟩
  rw [Hearth.tile, Tab.at_put_self]
  rfl

/-- A tile whose accumulation goes on is parked; where its chunks are done its share ends. `u` is `s` with the shadow set of the hearth free. -/
theorem State.commitPark_acts {s u : State} {h : Nat} {j : TileJob} {e : Entry} {x : Hearth} (hframe : u = { s with hearths := u.hearths })
    (hother : ∀ g, g ≠ h → u.hearth g = s.hearth g) (hfree : u.hearth h = x.freeShadow) (hentry : u.entry j.ring j.pos = some e) :
    u.commitPark h j x.shadow = { s with rings := (u.commitPark h j x.shadow).rings, hearths := (u.commitPark h j x.shadow).hearths } ∧
      OnlyHearth s (u.commitPark h j x.shadow) h ∧ x.Parked j ((u.commitPark h j x.shadow).hearth h) ∧
      (j.kNext ≠ j.kEnd → u.commitPark h j x.shadow = { s with hearths := (u.commitPark h j x.shadow).hearths }) ∧
      (j.kNext = j.kEnd → ∃ f, (u.commitPark h j x.shadow).entry j.ring j.pos = some f ∧ f.left = e.left - 1) := by
  have hparked := Hearth.parked_of_free hfree j
  have hframe' : u.parked h j x.shadow = { s with hearths := (u.parked h j x.shadow).hearths } := by
    rw [u.parked_frame, hframe]
  have hother' : ∀ g, g ≠ h → (u.parked h j x.shadow).hearth g = s.hearth g := fun g hg => (u.hearth_parked_ne hg ..).trans (hother g hg)
  have hentry' : (u.parked h j x.shadow).entry j.ring j.pos = some e := hentry
  rw [State.commitPark_eq]
  generalize u.parked h j x.shadow = v at *
  split
  · next hk =>
    obtain ⟨f, hf, hleft⟩ := State.entry_tileDone hentry' h j.atile
    have hdone := v.tileDone_only j.ring j.pos h j.atile
    generalize v.tileDone j.ring j.pos h j.atile = t at *
    have hhearth (g : Nat) : t.hearth g = v.hearth g := by
      rw [hdone]
      rfl
    exact ⟨by rw [hdone, hframe'], fun g hg => (hhearth g).trans (hother' g hg), (hhearth h).symm ▸ hparked, fun hne => absurd hk hne,
      fun _ => ⟨f, hf, hleft⟩⟩
  · next hk => exact ⟨by rw [hframe'], hother', hparked, fun _ => hframe', fun heq => absurd heq hk⟩

/-! ### TILE_DRAIN_COMMIT -/

theorem exec_tileDrainCommit {s : State} {h : BitVec 6} (hh : h.toNat < s.cfg.hearths) (hruns : s.hearthRuns h.toNat = true) :
    exec (.tileDrainCommit h) s = .next (s.drainCommit h.toNat) := by
  rw [show exec (.tileDrainCommit h) s = execTileDrainCommit h s from rfl, execTileDrainCommit, if_pos hh, hruns, if_pos rfl]

theorem State.drainCommit_of_draining {s : State} {h : Nat} {j : TileJob} {e : Entry} (huse : (s.hearth h).shadowUse = .draining j)
    (he : s.entry j.ring j.pos = some e) : s.drainCommit h =
      if e.status ≠ 0#8 then (s.setHearth h (s.hearth h).freeShadow).stopWork j.ring j.pos
      else if s.drainStalls h j e then s
      else if (s.hearth h).shadowBad then (s.setHearth h (s.hearth h).freeShadow).cellParity h j (s.hearth h).shadow
      else if j.ends && decide (j.kNext = j.kEnd) then (s.setHearth h (s.hearth h).freeShadow).commitEnd h j e (s.hearth h).shadow
      else (s.setHearth h (s.hearth h).freeShadow).commitPark h j (s.hearth h).shadow := by
  rw [State.drainCommit]
  dsimp only
  rw [huse]
  dsimp only
  rw [show (s.setHearth h (s.hearth h).freeShadow).entry j.ring j.pos = some e from he]

theorem commitsWriteTheTile : CommitsWriteTheTile := by
  intro s h hh hruns x
  have hexec := exec_tileDrainCommit hh hruns
  refine ⟨fun hnone => ?_, fun j e huse he => ?_⟩
  · rw [hexec, State.drainCommit]
    dsimp only
    split
    · next j hj => exact absurd hj (hnone j)
    · rfl
  · intro freed
    rw [State.drainCommit_of_draining huse he, show s.setHearth h.toNat (s.hearth h.toNat).freeShadow = freed from rfl,
      show s.hearth h.toNat = x from rfl] at hexec
    have hentry : freed.entry j.ring j.pos = some e := he
    refine ⟨fun hstatus => by rw [hexec, if_pos hstatus], fun hstatus hstalls => ?_, fun hstatus hstalls => ?_⟩
    · rw [hexec, if_neg (not_not_intro hstatus), hstalls, if_pos rfl]
    · rw [if_neg (not_not_intro hstatus), hstalls, if_neg Bool.false_ne_true] at hexec
      refine ⟨fun hbad => ?_, fun hgood hparks => ?_, fun hgood hends hdone => ?_⟩
      · rw [hbad, if_pos rfl] at hexec
        obtain ⟨f, hf, hstage, hst, hdetail, htainted, -⟩ := State.cellParity_ends hentry hstatus x.shadow (h := h.toNat)
        exact ⟨_, f, hexec, hf, hstage, hst, hdetail, htainted⟩
      · have hparks' : ¬(j.ends && decide (j.kNext = j.kEnd)) = true := by
          rcases hparks with hp | hp <;> simp [hp]
        rw [hgood, if_neg Bool.false_ne_true, if_neg hparks'] at hexec
        have hother : ∀ g, g ≠ h.toNat → freed.hearth g = s.hearth g := fun g hg => (State.hearth_setHearth ..).trans (if_neg hg)
        have hfree : freed.hearth h.toNat = x.freeShadow := State.hearth_setHearth_self ..
        exact ⟨_, hexec, State.commitPark_acts rfl hother hfree hentry⟩
      · rw [hexec, hgood, if_neg Bool.false_ne_true, if_pos (by simp [hends, hdone])]

/-- Settles O50. -/
theorem tilesPassThroughTheGrate : Obligations.TilesPassThroughTheGrate :=
  ⟨loadsCopyTheNextTile, swapsExchangeTheSets, chunksAdvanceTheLiveSet, spillsRestartTheCells, commitsWriteTheTile⟩

end Sys2Proof.Machine

end

section
/-! SUPPORT. What no operation outside the steps of sleep and wake changes: the state of the block, the wake code, COUNT and the
accesses that stall. One lemma for each operation, as for `Keeps`; here the state's parts, the rings, the Seal and the data. -/

namespace Sys2Proof.Machine

/-- The state of the block, its wake code, COUNT and the accesses that stall, kept. -/
structure KeepsWake (s t : State) : Prop where
  block : t.pwr.block = s.pwr.block
  lastWake : t.pwr.lastWake = s.pwr.lastWake
  count : t.audit.count = s.audit.count
  stalled : t.sash.stalled = s.sash.stalled

theorem keepsWake_iff (s t : State) : KeepsWake s t ↔ t.pwr.block = s.pwr.block ∧ t.pwr.lastWake = s.pwr.lastWake ∧
    t.audit.count = s.audit.count ∧ t.sash.stalled = s.sash.stalled :=
  ⟨fun h => ⟨h.1, h.2, h.3, h.4⟩, fun h => ⟨h.1, h.2.1, h.2.2.1, h.2.2.2⟩⟩

theorem KeepsWake.refl (s : State) : KeepsWake s s := ⟨rfl, rfl, rfl, rfl⟩

theorem KeepsWake.trans {s t u : State} (h : KeepsWake s t) (k : KeepsWake t u) : KeepsWake s u :=
  ⟨k.1.trans h.1, k.2.trans h.2, k.3.trans h.3, k.4.trans h.4⟩

theorem KeepsWake.foldl {β : Type} {f : State → β → State} (h : ∀ s b, KeepsWake s (f s b)) (l : List β) (s : State) :
    KeepsWake s (l.foldl f s) := by
  induction l generalizing s with
  | nil => exact KeepsWake.refl s
  | cons b l ih => exact (h s b).trans (ih _)

theorem KeepsWake.foldlPair {β γ : Type} {f : State × γ → β → State × γ} (h : ∀ p b, KeepsWake p.1 (f p b).1) (l : List β)
    (p : State × γ) : KeepsWake p.1 (List.foldl f p l).1 := by
  induction l generalizing p with
  | nil => exact KeepsWake.refl p.1
  | cons b l ih => exact (h p b).trans (ih _)

theorem KeepsWake.ite {s t u : State} {c : Prop} [Decidable c] (h : KeepsWake s t) (k : KeepsWake s u) :
    KeepsWake s (if c then t else u) := by
  split
  · exact h
  · exact k

grind_pattern KeepsWake.foldl => List.foldl f s l

/-! ### Parts of the state, requests and events -/

theorem State.setRing_keepsWake (s : State) (n : Nat) (r : Ring) : KeepsWake s (State.setRing s n r) := by
  grind -ring -linarith -lia -ac -order [State.setRing, keepsWake_iff]
grind_pattern State.setRing_keepsWake => State.setRing s n r

theorem State.modRing_keepsWake (s : State) (n : Nat) (f : Ring → Ring) : KeepsWake s (State.modRing s n f) := by
  grind -ring -linarith -lia -ac -order [State.modRing, keepsWake_iff]
grind_pattern State.modRing_keepsWake => State.modRing s n f

theorem State.setHearth_keepsWake (s : State) (h : Nat) (x : Hearth) : KeepsWake s (State.setHearth s h x) := by
  grind -ring -linarith -lia -ac -order [State.setHearth, keepsWake_iff]
grind_pattern State.setHearth_keepsWake => State.setHearth s h x

theorem State.modHearth_keepsWake (s : State) (h : Nat) (f : Hearth → Hearth) : KeepsWake s (State.modHearth s h f) := by
  grind -ring -linarith -lia -ac -order [State.modHearth, keepsWake_iff]
grind_pattern State.modHearth_keepsWake => State.modHearth s h f

theorem State.setPort_keepsWake (s : State) (p : Nat) (x : Port) : KeepsWake s (State.setPort s p x) := by
  grind -ring -linarith -lia -ac -order [State.setPort, keepsWake_iff]
grind_pattern State.setPort_keepsWake => State.setPort s p x

theorem State.setStove_keepsWake (s : State) (v : Nat) (x : Stove) : KeepsWake s (State.setStove s v x) := by
  grind -ring -linarith -lia -ac -order [State.setStove, keepsWake_iff]
grind_pattern State.setStove_keepsWake => State.setStove s v x

theorem State.draw64_keepsWake (s : State) : KeepsWake s s.draw64.2 := ⟨rfl, rfl, rfl, rfl⟩
grind_pattern State.draw64_keepsWake => s.draw64

theorem State.drawBytes_keepsWake (s : State) (n : Nat) : KeepsWake s (s.drawBytes n).2 := ⟨rfl, rfl, rfl, rfl⟩
grind_pattern State.drawBytes_keepsWake => s.drawBytes n

theorem State.storeHost_keepsWake (s : State) (a : Nat) (bytes : List W8) (poisoned : Bool) :
    KeepsWake s (State.storeHost s a bytes poisoned) := by
  grind -ring -linarith -lia -ac -order [State.storeHost, keepsWake_iff]
grind_pattern State.storeHost_keepsWake => State.storeHost s a bytes poisoned

theorem State.performRequest_keepsWake (s : State) (r : Request) : KeepsWake s (State.performRequest s r) := by
  grind -ring -linarith -lia -ac -order [State.performRequest, keepsWake_iff]
grind_pattern State.performRequest_keepsWake => State.performRequest s r

theorem State.dispatchRequest_keepsWake (s : State) (p : Nat) (r : Request) (shared : Bool) :
    KeepsWake s (State.dispatchRequest s p r shared) := by
  grind -ring -linarith -lia -ac -order [State.dispatchRequest, keepsWake_iff]
grind_pattern State.dispatchRequest_keepsWake => State.dispatchRequest s p r shared

theorem State.pumpList_keepsWake (p : Nat) (l : List Request) (s : State) : KeepsWake s (State.pumpList p l s) := by
  induction l generalizing s with
  | nil => exact KeepsWake.refl s
  | cons r rest ih => grind -ring -linarith -lia -ac -order [State.pumpList, keepsWake_iff]
grind_pattern State.pumpList_keepsWake => State.pumpList p l s

theorem State.pump_keepsWake (s : State) (p : Nat) : KeepsWake s (State.pump s p) := by
  grind -ring -linarith -lia -ac -order [State.pump, keepsWake_iff]
grind_pattern State.pump_keepsWake => State.pump s p

theorem State.request_keepsWake (s : State) (p : Nat) (r : Request) : KeepsWake s (State.request s p r) := by
  grind -ring -linarith -lia -ac -order [State.request, keepsWake_iff]
grind_pattern State.request_keepsWake => State.request s p r

theorem State.logError_keepsWake (s : State) (e : ErrorEvent) : KeepsWake s (State.logError s e) := by
  grind -ring -linarith -lia -ac -order [State.logError, keepsWake_iff]
grind_pattern State.logError_keepsWake => State.logError s e

theorem State.irqLost_keepsWake (s : State) (port vec response : Nat) (addr : Nat) :
    KeepsWake s (State.irqLost s port vec response addr) := by
  grind -ring -linarith -lia -ac -order [State.irqLost, keepsWake_iff]
grind_pattern State.irqLost_keepsWake => State.irqLost s port vec response addr

theorem State.message_keepsWake (s : State) (v : Nat) (cls : BitVec 2) : KeepsWake s (State.message s v cls) := by
  grind -ring -linarith -lia -ac -order [State.message, keepsWake_iff]
grind_pattern State.message_keepsWake => State.message s v cls

theorem State.eventFlag_keepsWake (s : State) (b : Nat) : KeepsWake s (State.eventFlag s b) := by
  grind -ring -linarith -lia -ac -order [State.eventFlag, keepsWake_iff]
grind_pattern State.eventFlag_keepsWake => State.eventFlag s b

theorem State.event_keepsWake (s : State) (e : BlockEvent) (source detail : Nat) :
    KeepsWake s (State.event s e source detail) := by
  grind -ring -linarith -lia -ac -order [State.event, keepsWake_iff]
grind_pattern State.event_keepsWake => State.event s e source detail

theorem State.spoilHost_keepsWake (s : State) (a n : Nat) : KeepsWake s (State.spoilHost s a n) := by
  grind -ring -linarith -lia -ac -order [State.spoilHost, keepsWake_iff]
grind_pattern State.spoilHost_keepsWake => State.spoilHost s a n

/-! ### Rings and records -/

theorem State.putRecord_keepsWake (s : State) (kind source : Nat) (data : W64) (digest : W64) :
    KeepsWake s (State.putRecord s kind source data digest) := by
  grind -ring -linarith -lia -ac -order [State.putRecord, keepsWake_iff]
grind_pattern State.putRecord_keepsWake => State.putRecord s kind source data digest

theorem State.putGap_keepsWake (s : State) : KeepsWake s (State.putGap s) := by
  grind -ring -linarith -lia -ac -order [State.putGap, keepsWake_iff]
grind_pattern State.putGap_keepsWake => State.putGap s

theorem State.recordInput_keepsWake (s : State) (kind source : Nat) (data : W64) (bytes : List W8) :
    KeepsWake s (State.recordInput s kind source data bytes) := by
  grind -ring -linarith -lia -ac -order [State.recordInput, keepsWake_iff]
grind_pattern State.recordInput_keepsWake => State.recordInput s kind source data bytes

theorem State.modEntry_keepsWake (s : State) (n : Nat) (pos : W32) (f : Entry → Entry) :
    KeepsWake s (State.modEntry s n pos f) := by
  grind -ring -linarith -lia -ac -order [State.modEntry, keepsWake_iff]
grind_pattern State.modEntry_keepsWake => State.modEntry s n pos f

theorem State.raise_keepsWake (s : State) (n : Nat) (pos : W32) (flags : Nat) : KeepsWake s (State.raise s n pos flags) := by
  grind -ring -linarith -lia -ac -order [State.raise, keepsWake_iff]
grind_pattern State.raise_keepsWake => State.raise s n pos flags

theorem State.fail_keepsWake (s : State) (n : Nat) (pos : W32) (status detail : Nat) :
    KeepsWake s (State.fail s n pos status detail) := by
  grind -ring -linarith -lia -ac -order [State.fail, keepsWake_iff]
grind_pattern State.fail_keepsWake => State.fail s n pos status detail

theorem State.finish_keepsWake (s : State) (n : Nat) (pos : W32) : KeepsWake s (State.finish s n pos) := by
  grind -ring -linarith -lia -ac -order [State.finish, keepsWake_iff]
grind_pattern State.finish_keepsWake => State.finish s n pos

theorem State.ringFault_keepsWake (s : State) (n cause : Nat) : KeepsWake s (State.ringFault s n cause) := by
  grind -ring -linarith -lia -ac -order [State.ringFault, keepsWake_iff]
grind_pattern State.ringFault_keepsWake => State.ringFault s n cause

theorem State.forgetReads_keepsWake (s : State) (n : Nat) : KeepsWake s (State.forgetReads s n) := by
  grind -ring -linarith -lia -ac -order [State.forgetReads, keepsWake_iff]
grind_pattern State.forgetReads_keepsWake => State.forgetReads s n

theorem State.ringEnable_keepsWake (s : State) (n : Nat) : KeepsWake s (State.ringEnable s n) := by
  grind -ring -linarith -lia -ac -order [State.ringEnable, keepsWake_iff]
grind_pattern State.ringEnable_keepsWake => State.ringEnable s n

theorem State.ringDisable_keepsWake (s : State) (n : Nat) : KeepsWake s (State.ringDisable s n) := by
  grind -ring -linarith -lia -ac -order [State.ringDisable, keepsWake_iff]
grind_pattern State.ringDisable_keepsWake => State.ringDisable s n

theorem State.writeRingCfg_keepsWake (s : State) (n v : Nat) : KeepsWake s (State.writeRingCfg s n v) := by
  grind -ring -linarith -lia -ac -order [State.writeRingCfg, keepsWake_iff]
grind_pattern State.writeRingCfg_keepsWake => State.writeRingCfg s n v

theorem State.ringResume_keepsWake (s : State) (n : Nat) : KeepsWake s (State.ringResume s n) := by
  grind -ring -linarith -lia -ac -order [State.ringResume, keepsWake_iff]
grind_pattern State.ringResume_keepsWake => State.ringResume s n

theorem State.takeDoorbell_keepsWake (s : State) (n : Nat) (t : W32) : KeepsWake s (State.takeDoorbell s n t) := by
  grind -ring -linarith -lia -ac -order [State.takeDoorbell, keepsWake_iff]
grind_pattern State.takeDoorbell_keepsWake => State.takeDoorbell s n t

theorem State.doorbell_keepsWake (s : State) (n : Nat) (t : W32) : KeepsWake s (State.doorbell s n t) := by
  grind -ring -linarith -lia -ac -order [State.doorbell, keepsWake_iff]
grind_pattern State.doorbell_keepsWake => State.doorbell s n t

theorem State.takeWithheld_keepsWake (n k : Nat) (s : State) : KeepsWake s (State.takeWithheld n k s) := by
  induction k generalizing s with
  | zero => exact KeepsWake.refl s
  | succ k ih => grind -ring -linarith -lia -ac -order [State.takeWithheld, keepsWake_iff]
grind_pattern State.takeWithheld_keepsWake => State.takeWithheld n k s

theorem State.takeHeld_keepsWake (s : State) : KeepsWake s (State.takeHeld s) := by
  grind -ring -linarith -lia -ac -order [State.takeHeld, keepsWake_iff]
grind_pattern State.takeHeld_keepsWake => State.takeHeld s

theorem State.recordFailed_keepsWake (s : State) (n : Nat) (pos : W32) (port : Nat) :
    KeepsWake s (State.recordFailed s n pos port) := by
  grind -ring -linarith -lia -ac -order [State.recordFailed, keepsWake_iff]
grind_pattern State.recordFailed_keepsWake => State.recordFailed s n pos port

theorem State.errStop_keepsWake (s : State) (n : Nat) (e : Entry) : KeepsWake s (State.errStop s n e) := by
  grind -ring -linarith -lia -ac -order [State.errStop, keepsWake_iff]
grind_pattern State.errStop_keepsWake => State.errStop s n e

theorem State.sendRecord_keepsWake (s : State) (n : Nat) (e : Entry) : KeepsWake s (State.sendRecord s n e) := by
  grind -ring -linarith -lia -ac -order [State.sendRecord, keepsWake_iff]
grind_pattern State.sendRecord_keepsWake => State.sendRecord s n e

theorem State.writeRecord_keepsWake (s : State) (n : Nat) (e : Entry) : KeepsWake s (State.writeRecord s n e) := by
  grind -ring -linarith -lia -ac -order [State.writeRecord, keepsWake_iff]
grind_pattern State.writeRecord_keepsWake => State.writeRecord s n e

/-! ### The Seal -/

theorem State.deny_keepsWake (s : State) : KeepsWake s (State.deny s) := by
  grind -ring -linarith -lia -ac -order [State.deny, keepsWake_iff]
grind_pattern State.deny_keepsWake => State.deny s

theorem State.drbg_keepsWake (s : State) : KeepsWake s s.drbg.2 := by
  grind -ring -linarith -lia -ac -order [State.drbg, keepsWake_iff]
grind_pattern State.drbg_keepsWake => s.drbg

theorem State.endSessions_keepsWake (s : State) : KeepsWake s (State.endSessions s) := by
  grind -ring -linarith -lia -ac -order [State.endSessions, keepsWake_iff]
grind_pattern State.endSessions_keepsWake => State.endSessions s

theorem State.zeroiseKeys_keepsWake (s : State) : KeepsWake s (State.zeroiseKeys s) := by
  grind -ring -linarith -lia -ac -order [State.zeroiseKeys, keepsWake_iff]
grind_pattern State.zeroiseKeys_keepsWake => State.zeroiseKeys s

theorem State.eraseKeys_keepsWake (s : State) : KeepsWake s (State.eraseKeys s) := by
  grind -ring -linarith -lia -ac -order [State.eraseKeys, keepsWake_iff]
grind_pattern State.eraseKeys_keepsWake => State.eraseKeys s

theorem State.freshNonce_keepsWake (s : State) : KeepsWake s (State.freshNonce s) := by
  grind -ring -linarith -lia -ac -order [State.freshNonce, keepsWake_iff]
grind_pattern State.freshNonce_keepsWake => State.freshNonce s

theorem State.sealRange_keepsWake (s : State) (n : Nat) (role : Option Nat) (space lo len : Nat) :
    KeepsWake s (State.sealRange s n role space lo len) := by
  grind -ring -linarith -lia -ac -order [State.sealRange, keepsWake_iff]
grind_pattern State.sealRange_keepsWake => State.sealRange s n role space lo len

theorem State.sealWritten_keepsWake (s : State) (n space lo : Nat) (bytes : List W8) :
    KeepsWake s (State.sealWritten s n space lo bytes) := by
  grind -ring -linarith -lia -ac -order [State.sealWritten, keepsWake_iff]
grind_pattern State.sealWritten_keepsWake => State.sealWritten s n space lo bytes

theorem State.lcEnd_keepsWake (s : State) (res : Nat) : KeepsWake s (State.lcEnd s res) := by
  grind -ring -linarith -lia -ac -order [State.lcEnd, keepsWake_iff]
grind_pattern State.lcEnd_keepsWake => State.lcEnd s res

theorem State.forgetAuthorisation_keepsWake (s : State) : KeepsWake s (State.forgetAuthorisation s) := by
  grind -ring -linarith -lia -ac -order [State.forgetAuthorisation, keepsWake_iff]
grind_pattern State.forgetAuthorisation_keepsWake => State.forgetAuthorisation s

theorem State.lcRead_keepsWake (s : State) (intact : Bool) : KeepsWake s (State.lcRead s intact) := by
  grind -ring -linarith -lia -ac -order [State.lcRead, keepsWake_iff]
grind_pattern State.lcRead_keepsWake => State.lcRead s intact

theorem State.sealRefused_keepsWake (s : State) (a : Nat) : KeepsWake s (State.sealRefused s a) := by
  grind -ring -linarith -lia -ac -order [State.sealRefused, keepsWake_iff]
grind_pattern State.sealRefused_keepsWake => State.sealRefused s a

theorem State.sealRead_keepsWake (s : State) (a n : Nat) (purpose : Purpose) (lost : State → State) (k : ∀ t, KeepsWake t (lost t)) :
    KeepsWake s (State.sealRead s a n purpose lost) := by
  unfold State.sealRead
  exact KeepsWake.ite ((State.sealRefused_keepsWake ..).trans (k _)) (KeepsWake.foldl (fun s g => State.request_keepsWake ..) _ _)
grind_pattern State.sealRead_keepsWake => State.sealRead s a n purpose lost

theorem State.lcGo_keepsWake (s : State) (target : BitVec 3) : KeepsWake s (State.lcGo s target) := by
  grind -ring -linarith -lia -ac -order [State.lcGo, keepsWake_iff]
grind_pattern State.lcGo_keepsWake => State.lcGo s target

theorem State.keyGo_keepsWake (s : State) (index : BitVec 3) : KeepsWake s (State.keyGo s index) := by
  grind -ring -linarith -lia -ac -order [State.keyGo, keepsWake_iff]
grind_pattern State.keyGo_keepsWake => State.keyGo s index

theorem State.writePolicy_keepsWake (s : State) (d : W64) : KeepsWake s (State.writePolicy s d) := by
  grind -ring -linarith -lia -ac -order [State.writePolicy, keepsWake_iff]
grind_pattern State.writePolicy_keepsWake => State.writePolicy s d

theorem State.reportFault_keepsWake (s : State) : KeepsWake s (State.reportFault s) := by
  grind -ring -linarith -lia -ac -order [State.reportFault, keepsWake_iff]
grind_pattern State.reportFault_keepsWake => State.reportFault s

theorem State.attGo_keepsWake (s : State) (pub : Bool) : KeepsWake s (State.attGo s pub) := by
  grind -ring -linarith -lia -ac -order [State.attGo, keepsWake_iff]
grind_pattern State.attGo_keepsWake => State.attGo s pub

/-! ### Bytes read and written -/

theorem State.logSource_keepsWake (s : State) (cause : Nat) (n : Nat) (pos : W32) (status : Nat) (space h a : Nat) :
    KeepsWake s (State.logSource s cause n pos status space h a) := by
  grind -ring -linarith -lia -ac -order [State.logSource, keepsWake_iff]
grind_pattern State.logSource_keepsWake => State.logSource s cause n pos status space h a

theorem State.countCoded_keepsWake (s : State) (n : Nat) (pos : W32) (double : Bool) (q : Range) :
    KeepsWake s (State.countCoded s n pos double q) := by
  grind -ring -linarith -lia -ac -order [State.countCoded, keepsWake_iff]
grind_pattern State.countCoded_keepsWake => State.countCoded s n pos double q

theorem State.detect_keepsWake (s : State) (n : Nat) (pos : W32) (rs : List Range) : KeepsWake s (State.detect s n pos rs) := by
  grind -ring -linarith -lia -ac -order [State.detect, keepsWake_iff]
grind_pattern State.detect_keepsWake => State.detect s n pos rs

theorem State.logPoison_keepsWake (s : State) (n : Nat) (pos : W32) (r : Range) : KeepsWake s (State.logPoison s n pos r) := by
  grind -ring -linarith -lia -ac -order [State.logPoison, keepsWake_iff]
grind_pattern State.logPoison_keepsWake => State.logPoison s n pos r

theorem State.consumed_keepsWake (s : State) (n : Nat) (pos : W32) (r : Range) : KeepsWake s (State.consumed s n pos r) := by
  grind -ring -linarith -lia -ac -order [State.consumed, keepsWake_iff]
grind_pattern State.consumed_keepsWake => State.consumed s n pos r

theorem State.consumePoison_keepsWake (s : State) (n : Nat) (pos : W32) (r : Range) :
    KeepsWake s (State.consumePoison s n pos r) := by
  grind -ring -linarith -lia -ac -order [State.consumePoison, keepsWake_iff]
grind_pattern State.consumePoison_keepsWake => State.consumePoison s n pos r

theorem State.poke_keepsWake (s : State) (space h a : Nat) (bytes : List W8) (poisoned : Bool) :
    KeepsWake s (State.poke s space h a bytes poisoned) := by
  unfold State.poke
  split <;> grind -ring -linarith -lia -ac -order [keepsWake_iff]
grind_pattern State.poke_keepsWake => State.poke s space h a bytes poisoned

theorem State.send_keepsWake (s : State) (p : Nat) (r : Request) : KeepsWake s (State.send s p r) := by
  grind -ring -linarith -lia -ac -order [State.send, keepsWake_iff]
grind_pattern State.send_keepsWake => State.send s p r

theorem State.sendWrite_keepsWake (s : State) (n : Nat) (pos : W32) (h a : Nat) (bytes : List W8) (poisoned : Bool) :
    KeepsWake s (State.sendWrite s n pos h a bytes poisoned) := by
  grind -ring -linarith -lia -ac -order [State.sendWrite, keepsWake_iff]
grind_pattern State.sendWrite_keepsWake => State.sendWrite s n pos h a bytes poisoned

theorem State.noteOutput_keepsWake (s : State) (n : Nat) (pos : W32) (r : Range) : KeepsWake s (State.noteOutput s n pos r) := by
  grind -ring -linarith -lia -ac -order [State.noteOutput, keepsWake_iff]
grind_pattern State.noteOutput_keepsWake => State.noteOutput s n pos r

theorem State.put_keepsWake (s : State) (n : Nat) (pos : W32) (space h a : Nat) (bytes : List W8) (poisoned : Bool) :
    KeepsWake s (State.put s n pos space h a bytes poisoned) := by
  grind -ring -linarith -lia -ac -order [State.put, keepsWake_iff]
grind_pattern State.put_keepsWake => State.put s n pos space h a bytes poisoned

theorem State.putLines_keepsWake (s : State) (n : Nat) (pos : W32) (space h : Nat) (ws : List (Nat × List W8)) (bad : Nat → Nat → Bool) :
    KeepsWake s (State.putLines s n pos space h ws bad) := by
  grind -ring -linarith -lia -ac -order [State.putLines, keepsWake_iff]
grind_pattern State.putLines_keepsWake => State.putLines s n pos space h ws bad

theorem State.sealReads_keepsWake (s : State) (n : Nat) (pos : W32) (role : Option Nat) (rs : List Range) :
    KeepsWake s (State.sealReads s n pos role rs) := by
  grind -ring -linarith -lia -ac -order [State.sealReads, keepsWake_iff]
grind_pattern State.sealReads_keepsWake => State.sealReads s n pos role rs

theorem State.readHost_keepsWake (s : State) (n : Nat) (pos : W32) (pieces : List (Nat × Nat × Nat)) :
    KeepsWake s (State.readHost s n pos pieces) := by
  grind -ring -linarith -lia -ac -order [State.readHost, keepsWake_iff]
grind_pattern State.readHost_keepsWake => State.readHost s n pos pieces

theorem State.readiness_keepsWake {s t : State} {n : Nat} {pos : W32} {done d : List (Nat × Nat × Nat)} {rs : List Range}
    (h : s.readiness n pos done rs = .fetch t d) : KeepsWake s t := by
  grind -ring -linarith -lia -ac -order [State.readiness]
grind_pattern State.readiness_keepsWake => s.readiness n pos done rs, Readiness.fetch t d

/-! ### Power and the end of a wake -/

theorem State.writeTarget_keepsWake (s : State) (v : Nat) (t : BitVec 3) : KeepsWake s (State.writeTarget s v t) := by
  grind -ring -linarith -lia -ac -order [State.writeTarget, keepsWake_iff]
grind_pattern State.writeTarget_keepsWake => State.writeTarget s v t

theorem State.writeCode_keepsWake (s : State) (v : Nat) (c : W8) : KeepsWake s (State.writeCode s v c) := by
  grind -ring -linarith -lia -ac -order [State.writeCode, keepsWake_iff]
grind_pattern State.writeCode_keepsWake => State.writeCode s v c

theorem State.requestPower_keepsWake (s : State) (d : Nat) (on : Bool) : KeepsWake s (State.requestPower s d on) := by
  grind -ring -linarith -lia -ac -order [State.requestPower, keepsWake_iff]
grind_pattern State.requestPower_keepsWake => State.requestPower s d on

theorem State.railsOn_keepsWake (s : State) : KeepsWake s (State.railsOn s) := by
  grind -ring -linarith -lia -ac -order [State.railsOn, keepsWake_iff]
grind_pattern State.railsOn_keepsWake => State.railsOn s

theorem State.wakeHearth_keepsWake (s : State) (h : Nat) : KeepsWake s (State.wakeHearth s h) := by
  grind -ring -linarith -lia -ac -order [State.wakeHearth, keepsWake_iff]
grind_pattern State.wakeHearth_keepsWake => State.wakeHearth s h

theorem State.wakeWithBlock_keepsWake (s : State) (hs : List Nat) : KeepsWake s (State.wakeWithBlock s hs) := by
  grind -ring -linarith -lia -ac -order [State.wakeWithBlock, keepsWake_iff]
grind_pattern State.wakeWithBlock_keepsWake => State.wakeWithBlock s hs

theorem State.sampleCredits_keepsWake (s : State) (credits : List (BitVec 13 × BitVec 13)) :
    KeepsWake s (State.sampleCredits s credits) := by
  grind -ring -linarith -lia -ac -order [State.sampleCredits, keepsWake_iff]
grind_pattern State.sampleCredits_keepsWake => State.sampleCredits s credits

theorem State.startTargets_keepsWake (s : State) : KeepsWake s (State.startTargets s) := by
  grind -ring -linarith -lia -ac -order [State.startTargets, keepsWake_iff]
grind_pattern State.startTargets_keepsWake => State.startTargets s

theorem State.loseLock_keepsWake (s : State) : KeepsWake s (State.loseLock s) := by
  grind -ring -linarith -lia -ac -order [State.loseLock, keepsWake_iff]
grind_pattern State.loseLock_keepsWake => State.loseLock s

theorem State.releaseAlarms_keepsWake (s : State) : KeepsWake s (State.releaseAlarms s) := by
  grind -ring -linarith -lia -ac -order [State.releaseAlarms, keepsWake_iff]
grind_pattern State.releaseAlarms_keepsWake => State.releaseAlarms s

end Sys2Proof.Machine
end

section
/-! SUPPORT. What the Transom, the recorder and replay keep of sleep and wake. -/

namespace Sys2Proof.Machine

/-! ### Exchanges and their packets -/

theorem State.modExchange_keepsWake (s : State) (n : Nat) (pos : W32) (f : Exchange → Exchange) :
    KeepsWake s (State.modExchange s n pos f) := by
  grind -ring -linarith -lia -ac -order [State.modExchange, keepsWake_iff]
grind_pattern State.modExchange_keepsWake => State.modExchange s n pos f

theorem State.emit_keepsWake (s : State) (ps : List Packet) : KeepsWake s (State.emit s ps) := by
  grind -ring -linarith -lia -ac -order [State.emit, keepsWake_iff]
grind_pattern State.emit_keepsWake => State.emit s ps

theorem State.toMembers_keepsWake (s : State) (f : Nat → Packet) : KeepsWake s (State.toMembers s f) := by
  grind -ring -linarith -lia -ac -order [State.toMembers, keepsWake_iff]
grind_pattern State.toMembers_keepsWake => State.toMembers s f

theorem State.noteFailure_keepsWake (s : State) (n : Nat) (pos : W32) (x : Exchange) (status cause peer : Nat) :
    KeepsWake s (State.noteFailure s n pos x status cause peer) := by
  grind -ring -linarith -lia -ac -order [State.noteFailure, keepsWake_iff]
grind_pattern State.noteFailure_keepsWake => State.noteFailure s n pos x status cause peer

theorem State.softFail_keepsWake (s : State) (n : Nat) (pos : W32) (status detail cause peer : Nat) :
    KeepsWake s (State.softFail s n pos status detail cause peer) := by
  grind -ring -linarith -lia -ac -order [State.softFail, keepsWake_iff]
grind_pattern State.softFail_keepsWake => State.softFail s n pos status detail cause peer

theorem State.readRows_keepsWake (s : State) (n : Nat) (pos : W32) (rs : List Range) :
    KeepsWake s (State.readRows s n pos rs) := by
  grind -ring -linarith -lia -ac -order [State.readRows, keepsWake_iff]
grind_pattern State.readRows_keepsWake => State.readRows s n pos rs

theorem State.dropPackets_keepsWake (s : State) (x : Exchange) : KeepsWake s (State.dropPackets s x) := by
  grind -ring -linarith -lia -ac -order [State.dropPackets, keepsWake_iff]
grind_pattern State.dropPackets_keepsWake => State.dropPackets s x

theorem State.dropRequests_keepsWake (s : State) (id : Nat) : KeepsWake s (State.dropRequests s id) := by
  grind -ring -linarith -lia -ac -order [State.dropRequests, keepsWake_iff]
grind_pattern State.dropRequests_keepsWake => State.dropRequests s id

theorem State.sendAborts_keepsWake (s : State) (x : Exchange) (status : Nat) : KeepsWake s (State.sendAborts s x status) := by
  grind -ring -linarith -lia -ac -order [State.sendAborts, keepsWake_iff]
grind_pattern State.sendAborts_keepsWake => State.sendAborts s x status

theorem State.hardFail_keepsWake (s : State) (n : Nat) (pos : W32) (status detail cause peer : Nat) (abort : Bool) :
    KeepsWake s (State.hardFail s n pos status detail cause peer abort) := by
  grind -ring -linarith -lia -ac -order [State.hardFail, keepsWake_iff]
grind_pattern State.hardFail_keepsWake => State.hardFail s n pos status detail cause peer abort

theorem State.releaseBuffer_keepsWake (s : State) (pool : BitVec 2) (index : BitVec 24) :
    KeepsWake s (State.releaseBuffer s pool index) := by
  grind -ring -linarith -lia -ac -order [State.releaseBuffer, keepsWake_iff]
grind_pattern State.releaseBuffer_keepsWake => State.releaseBuffer s pool index

theorem State.releaseSet_keepsWake (s : State) (k : Nat) : KeepsWake s (State.releaseSet s k) := by
  grind -ring -linarith -lia -ac -order [State.releaseSet, keepsWake_iff]
grind_pattern State.releaseSet_keepsWake => State.releaseSet s k

theorem State.bsetRelease_keepsWake (s : State) (k : Nat) : KeepsWake s (State.bsetRelease s k) := by
  grind -ring -linarith -lia -ac -order [State.bsetRelease, keepsWake_iff]
grind_pattern State.bsetRelease_keepsWake => State.bsetRelease s k

theorem State.sendRequests_keepsWake (k : Nat) (s : State) : KeepsWake s (s.sendRequests k) := by
  induction k generalizing s with
  | zero => exact KeepsWake.refl s
  | succ k ih => grind -ring -linarith -lia -ac -order [State.sendRequests, keepsWake_iff]
grind_pattern State.sendRequests_keepsWake => s.sendRequests k

theorem State.pumpRequests_keepsWake (s : State) : KeepsWake s (State.pumpRequests s) := by
  grind -ring -linarith -lia -ac -order [State.pumpRequests, keepsWake_iff]
grind_pattern State.pumpRequests_keepsWake => State.pumpRequests s

theorem State.beginAlloc_keepsWake (s : State) (x : Exchange) (e : Entry) (parts : List ExpertPart) :
    KeepsWake s (State.beginAlloc s x e parts) := by
  grind -ring -linarith -lia -ac -order [State.beginAlloc, keepsWake_iff]
grind_pattern State.beginAlloc_keepsWake => State.beginAlloc s x e parts

theorem State.sendReady_keepsWake (s : State) (x : Exchange) (k : Nat) : KeepsWake s (State.sendReady s x k) := by
  grind -ring -linarith -lia -ac -order [State.sendReady, keepsWake_iff]
grind_pattern State.sendReady_keepsWake => State.sendReady s x k

theorem State.serveAllocs_keepsWake (k : Nat) (s : State) : KeepsWake s (s.serveAllocs k) := by
  induction k generalizing s with
  | zero => exact KeepsWake.refl s
  | succ k ih => grind -ring -linarith -lia -ac -order [State.serveAllocs, keepsWake_iff]
grind_pattern State.serveAllocs_keepsWake => s.serveAllocs k

theorem State.allocate_keepsWake (s : State) : KeepsWake s (State.allocate s) := by
  grind -ring -linarith -lia -ac -order [State.allocate, keepsWake_iff]
grind_pattern State.allocate_keepsWake => State.allocate s

theorem State.setLayout_keepsWake (s : State) (n : Nat) (pos : W32) (b : XchDesc) (parts : List ExpertPart) :
    KeepsWake s (State.setLayout s n pos b parts) := by
  grind -ring -linarith -lia -ac -order [State.setLayout, keepsWake_iff]
grind_pattern State.setLayout_keepsWake => State.setLayout s n pos b parts

theorem State.tryLayout_keepsWake (s : State) (n : Nat) (pos : W32) (b : XchDesc) : KeepsWake s (State.tryLayout s n pos b) := by
  grind -ring -linarith -lia -ac -order [State.tryLayout, keepsWake_iff]
grind_pattern State.tryLayout_keepsWake => State.tryLayout s n pos b

theorem State.takeCount_keepsWake (s : State) (n : Nat) (pos : W32) (b : XchDesc) (p : Packet) :
    KeepsWake s (State.takeCount s n pos b p) := by
  grind -ring -linarith -lia -ac -order [State.takeCount, keepsWake_iff]
grind_pattern State.takeCount_keepsWake => State.takeCount s n pos b p

theorem State.tookPiece_keepsWake (s : State) (n : Nat) (pos : W32) (b : XchDesc) (row pkt src : Nat) :
    KeepsWake s (State.tookPiece s n pos b row pkt src) := by
  grind -ring -linarith -lia -ac -order [State.tookPiece, keepsWake_iff]
grind_pattern State.tookPiece_keepsWake => State.tookPiece s n pos b row pkt src

theorem State.xchPut_keepsWake (s : State) (n : Nat) (pos : W32) (space a : Nat) (bytes : List W8) (bad : Bool) :
    KeepsWake s (State.xchPut s n pos space a bytes bad) := by
  grind -ring -linarith -lia -ac -order [State.xchPut, keepsWake_iff]
grind_pattern State.xchPut_keepsWake => State.xchPut s n pos space a bytes bad

theorem State.xchLines_keepsWake (s : State) (n : Nat) (pos : W32) (space a : Nat) (bytes : List W8) (bad : Nat → Nat → Bool) :
    KeepsWake s (State.xchLines s n pos space a bytes bad) := by
  grind -ring -linarith -lia -ac -order [State.xchLines, keepsWake_iff]
grind_pattern State.xchLines_keepsWake => State.xchLines s n pos space a bytes bad

theorem State.placeRow_keepsWake (s : State) (n : Nat) (pos : W32) (b : XchDesc) (p : Packet) (bad write : Bool) :
    KeepsWake s (State.placeRow s n pos b p bad write) := by
  unfold State.placeRow
  repeat' first | exact KeepsWake.refl _ | exact State.stopWork_keepsWake .. | refine KeepsWake.ite ?_ ?_ | split
  all_goals grind (splits := 20) (ematch := 15) (gen := 15) -ring -linarith -lia -ac -order [keepsWake_iff]
grind_pattern State.placeRow_keepsWake => State.placeRow s n pos b p bad write

theorem State.stageRow_keepsWake (s : State) (n : Nat) (pos : W32) (x : Exchange) (b : XchDesc) (p : Packet) (bad write : Bool) :
    KeepsWake s (State.stageRow s n pos x b p bad write) := by
  grind -ring -linarith -lia -ac -order [State.stageRow, keepsWake_iff]
grind_pattern State.stageRow_keepsWake => State.stageRow s n pos x b p bad write

theorem State.tokenOut_keepsWake (s : State) (n : Nat) (pos : W32) (x : Exchange) (b : XchDesc) (t : Nat) :
    KeepsWake s (State.tokenOut s n pos x b t) := by
  unfold State.tokenOut
  generalize decide (s.classOf n = 2#2) = draught
  extract_lets -lift js zero d ranges
  clear_value ranges d
  split
  split
  refine KeepsWake.ite (KeepsWake.refl s) ?_
  exact ((((State.sealReads_keepsWake ..).trans (State.readRows_keepsWake ..)).trans (State.putLines_keepsWake ..)).trans (State.raise_keepsWake ..)).trans
    (State.modExchange_keepsWake ..)
grind_pattern State.tokenOut_keepsWake => State.tokenOut s n pos x b t

theorem State.tokensOut_keepsWake (s : State) (n : Nat) (pos : W32) (b : XchDesc) : KeepsWake s (State.tokensOut s n pos b) := by
  grind -ring -linarith -lia -ac -order [State.tokensOut, keepsWake_iff]
grind_pattern State.tokensOut_keepsWake => State.tokensOut s n pos b

theorem State.writeDw_keepsWake (s : State) (n : Nat) (pos : W32) (b : XchDesc) (tokenSlot : W32) (dw : W32) (bad : Bool) :
    KeepsWake s (State.writeDw s n pos b tokenSlot dw bad) := by
  grind -ring -linarith -lia -ac -order [State.writeDw, keepsWake_iff]
grind_pattern State.writeDw_keepsWake => State.writeDw s n pos b tokenSlot dw bad

theorem State.gradDone_keepsWake (s : State) (n : Nat) (pos : W32) (x : Exchange) (b : XchDesc) (lb : BufferSet) (a : Nat) (row : List (Packet × Bool)) :
    KeepsWake s (State.gradDone s n pos x b lb a row) := by
  unfold State.gradDone
  repeat' first | exact KeepsWake.refl _ | exact State.stopWork_keepsWake .. | refine KeepsWake.ite ?_ ?_ | split
  all_goals grind (splits := 20) (ematch := 15) (gen := 15) -ring -linarith -lia -ac -order [keepsWake_iff]
grind_pattern State.gradDone_keepsWake => State.gradDone s n pos x b lb a row

theorem State.gradStep_keepsWake (s : State) (n : Nat) (pos : W32) (b : XchDesc) : KeepsWake s (State.gradStep s n pos b) := by
  unfold State.gradStep
  split
  · split
    · exact KeepsWake.refl s
    · extract_lets -lift reads out
      refine KeepsWake.ite (KeepsWake.refl s) ?_
      split
      · exact (State.readiness_keepsWake ‹_›).trans (State.modEntry_keepsWake ..)
      · exact KeepsWake.refl s
      · exact (State.readRows_keepsWake ..).trans (State.gradDone_keepsWake ..)
  · exact KeepsWake.refl s
grind_pattern State.gradStep_keepsWake => State.gradStep s n pos b

theorem State.gradRows_keepsWake (n : Nat) (pos : W32) (b : XchDesc) (k : Nat) (s : State) :
    KeepsWake s (State.gradRows n pos b k s) := by
  induction k generalizing s with
  | zero => exact KeepsWake.refl s
  | succ k ih => grind -ring -linarith -lia -ac -order [State.gradRows, keepsWake_iff]
grind_pattern State.gradRows_keepsWake => State.gradRows n pos b k s

theorem State.takeRow_keepsWake (s : State) (n : Nat) (pos : W32) (b : XchDesc) (p : Packet) (bad write : Bool) :
    KeepsWake s (State.takeRow s n pos b p bad write) := by
  grind -ring -linarith -lia -ac -order [State.takeRow, keepsWake_iff]
grind_pattern State.takeRow_keepsWake => State.takeRow s n pos b p bad write

theorem State.sendDws_keepsWake (s : State) (n : Nat) (pos : W32) (b : XchDesc) (m : Nat) :
    KeepsWake s (State.sendDws s n pos b m) := by
  grind -ring -linarith -lia -ac -order [State.sendDws, keepsWake_iff]
grind_pattern State.sendDws_keepsWake => State.sendDws s n pos b m

theorem State.sendDones_keepsWake (s : State) (n : Nat) (pos : W32) (b : XchDesc) : KeepsWake s (State.sendDones s n pos b) := by
  grind -ring -linarith -lia -ac -order [State.sendDones, keepsWake_iff]
grind_pattern State.sendDones_keepsWake => State.sendDones s n pos b

theorem State.endExchange_keepsWake (s : State) (n : Nat) (pos : W32) (x : Exchange) (b : XchDesc) :
    KeepsWake s (State.endExchange s n pos x b) := by
  grind -ring -linarith -lia -ac -order [State.endExchange, keepsWake_iff]
grind_pattern State.endExchange_keepsWake => State.endExchange s n pos x b

theorem State.nullDws_keepsWake (s : State) (n : Nat) (pos : W32) (b : XchDesc) : KeepsWake s (State.nullDws s n pos b) := by
  grind -ring -linarith -lia -ac -order [State.nullDws, keepsWake_iff]
grind_pattern State.nullDws_keepsWake => State.nullDws s n pos b

theorem State.settleExchange_keepsWake (s : State) (n : Nat) (pos : W32) : KeepsWake s (State.settleExchange s n pos) := by
  grind -ring -linarith -lia -ac -order [State.settleExchange, keepsWake_iff]
grind_pattern State.settleExchange_keepsWake => State.settleExchange s n pos

theorem State.takeDw_keepsWake (s : State) (n : Nat) (pos : W32) (b : XchDesc) (p : Packet) (bad : Bool) :
    KeepsWake s (State.takeDw s n pos b p bad) := by
  grind -ring -linarith -lia -ac -order [State.takeDw, keepsWake_iff]
grind_pattern State.takeDw_keepsWake => State.takeDw s n pos b p bad

theorem State.actOnPacket_keepsWake (s : State) (n : Nat) (pos : W32) (b : XchDesc) (p : Packet) (ok sent : Bool) :
    KeepsWake s (State.actOnPacket s n pos b p ok sent) := by
  grind -ring -linarith -lia -ac -order [State.actOnPacket, keepsWake_iff]
grind_pattern State.actOnPacket_keepsWake => State.actOnPacket s n pos b p ok sent

theorem State.logCrc_keepsWake (s : State) (n : Nat) (pos : W32) (port : Nat) (p : Packet) :
    KeepsWake s (State.logCrc s n pos port p) := by
  grind -ring -linarith -lia -ac -order [State.logCrc, keepsWake_iff]
grind_pattern State.logCrc_keepsWake => State.logCrc s n pos port p

theorem State.enroll_keepsWake (s : State) (n : Nat) (e : Entry) (route : List RouteEntry) :
    KeepsWake s (State.enroll s n e route) := by
  grind -ring -linarith -lia -ac -order [State.enroll, keepsWake_iff]
grind_pattern State.enroll_keepsWake => State.enroll s n e route

theorem State.failUnstarted_keepsWake (s : State) (n : Nat) (e : Entry) (status detail cause peer : Nat) (abort : Bool) :
    KeepsWake s (State.failUnstarted s n e status detail cause peer abort) := by
  grind -ring -linarith -lia -ac -order [State.failUnstarted, keepsWake_iff]
grind_pattern State.failUnstarted_keepsWake => State.failUnstarted s n e status detail cause peer abort

theorem State.takeLive_keepsWake (s : State) (port : Nat) (p : Packet) (sent : Bool) (n : Nat) (e : Entry) :
    KeepsWake s (State.takeLive s port p sent n e) := by
  grind -ring -linarith -lia -ac -order [State.takeLive, keepsWake_iff]
grind_pattern State.takeLive_keepsWake => State.takeLive s port p sent n e

theorem State.takeEarly_keepsWake (s : State) (port : Nat) (p : Packet) (sent : Bool) :
    KeepsWake s (State.takeEarly s port p sent) := by
  grind -ring -linarith -lia -ac -order [State.takeEarly, keepsWake_iff]
grind_pattern State.takeEarly_keepsWake => State.takeEarly s port p sent

theorem State.takePacket_keepsWake (s : State) (port : Nat) (p : Packet) (sent : Bool) :
    KeepsWake s (State.takePacket s port p sent) := by
  grind -ring -linarith -lia -ac -order [State.takePacket, keepsWake_iff]
grind_pattern State.takePacket_keepsWake => State.takePacket s port p sent

theorem State.stalePacket_keepsWake (s : State) (p : Packet) : KeepsWake s (State.stalePacket s p) := by
  grind -ring -linarith -lia -ac -order [State.stalePacket, keepsWake_iff]
grind_pattern State.stalePacket_keepsWake => State.stalePacket s p

theorem State.receivePacket_keepsWake (s : State) (port : Nat) (p : Packet) (sent : Bool) :
    KeepsWake s (State.receivePacket s port p sent) := by
  grind -ring -linarith -lia -ac -order [State.receivePacket, keepsWake_iff]
grind_pattern State.receivePacket_keepsWake => State.receivePacket s port p sent

theorem State.holdInput_keepsWake (s : State) (c : Instr) : KeepsWake s (State.holdInput s c) := by
  grind -ring -linarith -lia -ac -order [State.holdInput, keepsWake_iff]
grind_pattern State.holdInput_keepsWake => State.holdInput s c

theorem State.grantPort_keepsWake (s : State) (port : Nat) : KeepsWake s (State.grantPort s port) := by
  grind -ring -linarith -lia -ac -order [State.grantPort, keepsWake_iff]
grind_pattern State.grantPort_keepsWake => State.grantPort s port

/-! ### Inputs that the recorder or replay takes -/

theorem State.regrant_keepsWake (s : State) : KeepsWake s (State.regrant s) := by
  grind -ring -linarith -lia -ac -order [State.regrant, keepsWake_iff]
grind_pattern State.regrant_keepsWake => State.regrant s

theorem State.livePacket_keepsWake (s : State) (port : Nat) (p : Packet) : KeepsWake s (State.livePacket s port p) := by
  grind -ring -linarith -lia -ac -order [State.livePacket, keepsWake_iff]
grind_pattern State.livePacket_keepsWake => State.livePacket s port p

theorem State.takeRows_keepsWake (k : Nat) (s : State) : KeepsWake s (State.takeRows k s) := by
  induction k generalizing s with
  | zero => exact KeepsWake.refl s
  | succ k ih => grind -ring -linarith -lia -ac -order [State.takeRows, keepsWake_iff]
grind_pattern State.takeRows_keepsWake => State.takeRows k s

theorem State.grantBuffer_keepsWake (s : State) (tag : W8) (pool : BitVec 2) (index : BitVec 24) (base : BitVec 52) :
    KeepsWake s (State.grantBuffer s tag pool index base) := by
  unfold State.grantBuffer
  repeat' first | exact KeepsWake.refl _ | exact State.stopWork_keepsWake .. | refine KeepsWake.ite ?_ ?_ | split
  all_goals grind (splits := 20) (ematch := 15) (gen := 15) -ring -linarith -lia -ac -order [keepsWake_iff]
grind_pattern State.grantBuffer_keepsWake => State.grantBuffer s tag pool index base

theorem State.liveGrant_keepsWake (s : State) (tag : W8) (pool : BitVec 2) (index : BitVec 24) (base : BitVec 52) :
    KeepsWake s (State.liveGrant s tag pool index base) := by
  grind -ring -linarith -lia -ac -order [State.liveGrant, keepsWake_iff]
grind_pattern State.liveGrant_keepsWake => State.liveGrant s tag pool index base

theorem State.setWarn_keepsWake (s : State) (warn : W8) : KeepsWake s (State.setWarn s warn) := by
  grind -ring -linarith -lia -ac -order [State.setWarn, keepsWake_iff]
grind_pattern State.setWarn_keepsWake => State.setWarn s warn

theorem State.liveWarn_keepsWake (s : State) (warn : W8) : KeepsWake s (State.liveWarn s warn) := by
  grind -ring -linarith -lia -ac -order [State.liveWarn, keepsWake_iff]
grind_pattern State.liveWarn_keepsWake => State.liveWarn s warn

theorem State.warnIn_keepsWake (s : State) (warn : W8) : KeepsWake s (State.warnIn s warn) := by
  grind -ring -linarith -lia -ac -order [State.warnIn, keepsWake_iff]
grind_pattern State.warnIn_keepsWake => State.warnIn s warn

theorem State.measure_keepsWake (s : State) (leader : W64) (ns : Nat) : KeepsWake s (State.measure s leader ns) := by
  grind -ring -linarith -lia -ac -order [State.measure, keepsWake_iff]
grind_pattern State.measure_keepsWake => State.measure s leader ns

theorem State.livePulse_keepsWake (s : State) (leader : W64) (ns : Nat) : KeepsWake s (State.livePulse s leader ns) := by
  grind -ring -linarith -lia -ac -order [State.livePulse, keepsWake_iff]
grind_pattern State.livePulse_keepsWake => State.livePulse s leader ns

theorem State.takeWaiting_keepsWake (s : State) : KeepsWake s (State.takeWaiting s) := by
  grind -ring -linarith -lia -ac -order [State.takeWaiting, keepsWake_iff]
grind_pattern State.takeWaiting_keepsWake => State.takeWaiting s

theorem State.enableRecorder_keepsWake (s : State) : KeepsWake s (State.enableRecorder s) := by
  grind -ring -linarith -lia -ac -order [State.enableRecorder, keepsWake_iff]
grind_pattern State.enableRecorder_keepsWake => State.enableRecorder s

theorem State.takeInput_keepsWake (s : State) (c : Instr) : KeepsWake s (State.takeInput s c) := by
  unfold State.takeInput
  split
  · exact State.liveGrant_keepsWake ..
  · exact State.liveWarn_keepsWake ..
  · exact State.livePulse_keepsWake ..
  · split
    · exact State.livePacket_keepsWake ..
    · exact KeepsWake.refl s
grind_pattern State.takeInput_keepsWake => State.takeInput s c

end Sys2Proof.Machine
end

section
/-! SUPPORT. What the registers, and the work that an alarm halts, keep of sleep and wake. -/

namespace Sys2Proof.Machine

/-! ### Registers -/

theorem arrayWrite_keepsWake {s : State} {o base step n : Nat} {f : Nat → State} {other : State} (h : ∀ i, KeepsWake s (f i))
    (k : KeepsWake s other) : KeepsWake s (arrayWrite o base step n f other) := by
  unfold arrayWrite
  split
  · exact h _
  · exact k

theorem State.patchGo_keepsWake (s : State) : KeepsWake s (State.patchGo s) := by
  grind -ring -linarith -lia -ac -order [State.patchGo, keepsWake_iff]
grind_pattern State.patchGo_keepsWake => State.patchGo s

theorem State.writeIrqMask_keepsWake (s : State) (mask : W16) : KeepsWake s (State.writeIrqMask s mask) := by
  grind -ring -linarith -lia -ac -order [State.writeIrqMask, keepsWake_iff]
grind_pattern State.writeIrqMask_keepsWake => State.writeIrqMask s mask

theorem State.writeBlock_keepsWake (s : State) (o d : Nat) : KeepsWake s (State.writeBlock s o d) := by
  unfold State.writeBlock
  extract_lets
  iterate 5 refine KeepsWake.ite (by grind -ring -linarith -lia -ac -order [keepsWake_iff]) ?_
  refine arrayWrite_keepsWake (fun _ => by grind -ring -linarith -lia -ac -order [keepsWake_iff]) ?_
  refine arrayWrite_keepsWake (fun _ => by grind -ring -linarith -lia -ac -order [keepsWake_iff]) ?_
  refine arrayWrite_keepsWake (fun _ => by grind -ring -linarith -lia -ac -order [keepsWake_iff]) ?_
  exact KeepsWake.refl s
grind_pattern State.writeBlock_keepsWake => State.writeBlock s o d

theorem State.isoRelease_keepsWake (s : State) (d : Nat) : KeepsWake s (State.isoRelease s d) := by
  grind -ring -linarith -lia -ac -order [State.isoRelease, keepsWake_iff]
grind_pattern State.isoRelease_keepsWake => State.isoRelease s d

theorem State.writePstate_keepsWake (s : State) (v d : Nat) : KeepsWake s (State.writePstate s v d) := by
  grind -ring -linarith -lia -ac -order [State.writePstate, keepsWake_iff]
grind_pattern State.writePstate_keepsWake => State.writePstate s v d

theorem State.writePower_keepsWake (s : State) (o d : Nat) : KeepsWake s (State.writePower s o d) := by
  unfold State.writePower
  extract_lets
  iterate 3 refine KeepsWake.ite (by grind -ring -linarith -lia -ac -order [keepsWake_iff]) ?_
  refine arrayWrite_keepsWake (fun _ => by grind -ring -linarith -lia -ac -order [keepsWake_iff]) ?_
  refine arrayWrite_keepsWake (fun _ => by grind -ring -linarith -lia -ac -order [keepsWake_iff]) ?_
  refine arrayWrite_keepsWake (fun _ => by grind -ring -linarith -lia -ac -order [keepsWake_iff]) ?_
  exact KeepsWake.refl s
grind_pattern State.writePower_keepsWake => State.writePower s o d

theorem State.disableRecorder_keepsWake (s : State) : KeepsWake s (State.disableRecorder s) := by
  grind -ring -linarith -lia -ac -order [State.disableRecorder, keepsWake_iff]
grind_pattern State.disableRecorder_keepsWake => State.disableRecorder s

theorem State.writeRecCtl_keepsWake (s : State) (d : Nat) : KeepsWake s (State.writeRecCtl s d) := by
  grind -ring -linarith -lia -ac -order [State.writeRecCtl, keepsWake_iff]
grind_pattern State.writeRecCtl_keepsWake => State.writeRecCtl s d

theorem Audit.writeSync_count (a : Audit) (d : Nat) : (a.writeSync d).count = a.count := by
  unfold Audit.writeSync
  extract_lets role b
  split <;> rfl

theorem State.writeAudit_keepsWake (s : State) (o d : Nat) : KeepsWake s (State.writeAudit s o d) := by
  unfold State.writeAudit
  extract_lets
  refine KeepsWake.ite ⟨rfl, rfl, Audit.writeSync_count .., rfl⟩ ?_
  iterate 6 refine KeepsWake.ite (by grind -ring -linarith -lia -ac -order [keepsWake_iff]) ?_
  refine arrayWrite_keepsWake (fun _ => by grind -ring -linarith -lia -ac -order [keepsWake_iff]) ?_
  refine arrayWrite_keepsWake (fun _ => by grind -ring -linarith -lia -ac -order [keepsWake_iff]) ?_
  refine arrayWrite_keepsWake (fun _ => by grind -ring -linarith -lia -ac -order [keepsWake_iff]) ?_
  exact KeepsWake.refl s
grind_pattern State.writeAudit_keepsWake => State.writeAudit s o d

theorem State.writeRing_keepsWake (s : State) (n o d : Nat) : KeepsWake s (State.writeRing s n o d) := by
  grind -ring -linarith -lia -ac -order [State.writeRing, keepsWake_iff]
grind_pattern State.writeRing_keepsWake => State.writeRing s n o d

/-- In Run a doorbell is taken; elsewhere it would wake the block. -/
theorem State.writeDoorbell_keepsWake (s : State) (n d : Nat) (run : s.pwr.block = .run) : KeepsWake s (State.writeDoorbell s n d) := by
  simp only [State.writeDoorbell, run, if_true]
  exact State.doorbell_keepsWake ..

theorem State.writeHearth_keepsWake (s : State) (h o d : Nat) : KeepsWake s (State.writeHearth s h o d) := by
  grind -ring -linarith -lia -ac -order [State.writeHearth, keepsWake_iff]
grind_pattern State.writeHearth_keepsWake => State.writeHearth s h o d

theorem State.writeTransom_keepsWake (s : State) (o d : Nat) : KeepsWake s (State.writeTransom s o d) := by
  grind -ring -linarith -lia -ac -order [State.writeTransom, keepsWake_iff]
grind_pattern State.writeTransom_keepsWake => State.writeTransom s o d

theorem State.forgetErrors_keepsWake (s : State) : KeepsWake s (State.forgetErrors s) := by
  grind -ring -linarith -lia -ac -order [State.forgetErrors, keepsWake_iff]
grind_pattern State.forgetErrors_keepsWake => State.forgetErrors s

theorem State.enableErrors_keepsWake (s : State) : KeepsWake s (State.enableErrors s) := by
  grind -ring -linarith -lia -ac -order [State.enableErrors, keepsWake_iff]
grind_pattern State.enableErrors_keepsWake => State.enableErrors s

theorem State.writeErrCtl_keepsWake (s : State) (d : Nat) : KeepsWake s (State.writeErrCtl s d) := by
  grind -ring -linarith -lia -ac -order [State.writeErrCtl, keepsWake_iff]
grind_pattern State.writeErrCtl_keepsWake => State.writeErrCtl s d

theorem State.writeErrors_keepsWake (s : State) (o d : Nat) : KeepsWake s (State.writeErrors s o d) := by
  grind -ring -linarith -lia -ac -order [State.writeErrors, keepsWake_iff]
grind_pattern State.writeErrors_keepsWake => State.writeErrors s o d

theorem State.allow_keepsWake (s : State) (ok : Bool) (f : Seal → Seal) : KeepsWake s (State.allow s ok f) := by
  grind -ring -linarith -lia -ac -order [State.allow, keepsWake_iff]
grind_pattern State.allow_keepsWake => State.allow s ok f

theorem State.writeSealCtl_keepsWake (s : State) (d : Nat) : KeepsWake s (State.writeSealCtl s d) := by
  grind -ring -linarith -lia -ac -order [State.writeSealCtl, keepsWake_iff]
grind_pattern State.writeSealCtl_keepsWake => State.writeSealCtl s d

theorem State.writeSeal_keepsWake (s : State) (o d : Nat) : KeepsWake s (State.writeSeal s o d) := by
  unfold State.writeSeal
  extract_lets v
  refine KeepsWake.ite ?_ (KeepsWake.refl s)
  refine KeepsWake.ite (KeepsWake.ite (State.lcGo_keepsWake ..) (State.allow_keepsWake ..)) ?_
  refine KeepsWake.ite (State.allow_keepsWake ..) ?_
  refine KeepsWake.ite (State.writeSealCtl_keepsWake ..) ?_
  refine KeepsWake.ite ⟨rfl, rfl, rfl, rfl⟩ ?_
  refine KeepsWake.ite (State.writePolicy_keepsWake ..) ?_
  refine KeepsWake.ite (KeepsWake.ite (State.keyGo_keepsWake ..) (State.allow_keepsWake ..)) ?_
  refine KeepsWake.ite (State.allow_keepsWake ..) ?_
  refine KeepsWake.ite (KeepsWake.ite (State.attGo_keepsWake ..) (State.allow_keepsWake ..)) ?_
  exact arrayWrite_keepsWake (fun _ => State.allow_keepsWake ..) (KeepsWake.refl s)
grind_pattern State.writeSeal_keepsWake => State.writeSeal s o d

theorem State.writeMirror_keepsWake (s : State) (o : Nat) (w : W64) : KeepsWake s (State.writeMirror s o w) := by
  unfold State.writeMirror
  refine arrayWrite_keepsWake (fun _ => by grind -ring -linarith -lia -ac -order [keepsWake_iff]) ?_
  exact KeepsWake.refl s
grind_pattern State.writeMirror_keepsWake => State.writeMirror s o w

theorem State.writeReg_keepsWake (s : State) (o d : Nat) (run : s.pwr.block = .run) : KeepsWake s (State.writeReg s o d) := by
  unfold State.writeReg
  refine KeepsWake.ite (KeepsWake.refl s) ?_
  refine KeepsWake.ite (State.writeBlock_keepsWake ..) ?_
  refine KeepsWake.ite (State.writePower_keepsWake ..) ?_
  refine KeepsWake.ite (State.writeAudit_keepsWake ..) ?_
  refine KeepsWake.ite (State.writeRing_keepsWake ..) ?_
  refine KeepsWake.ite (State.writeDoorbell_keepsWake s _ d run) ?_
  refine KeepsWake.ite (KeepsWake.ite (State.writeHearth_keepsWake ..) (KeepsWake.refl s)) ?_
  refine KeepsWake.ite (State.writeTransom_keepsWake ..) ?_
  refine KeepsWake.ite (State.writeErrors_keepsWake ..) ?_
  refine KeepsWake.ite (State.writeSeal_keepsWake ..) ?_
  exact KeepsWake.ite (State.writeMirror_keepsWake ..) (KeepsWake.refl s)
grind_pattern State.writeReg_keepsWake => State.writeReg s o d

theorem State.popEvent_keepsWake (s : State) : KeepsWake s s.popEvent.2 := by
  grind -ring -linarith -lia -ac -order [State.popEvent, keepsWake_iff]
grind_pattern State.popEvent_keepsWake => s.popEvent

theorem State.sashRead_keepsWake (s : State) (o : Nat) : KeepsWake s (s.sashRead o).2 := by
  grind -ring -linarith -lia -ac -order [State.sashRead, keepsWake_iff]
grind_pattern State.sashRead_keepsWake => s.sashRead o

theorem State.respond_keepsWake (s : State) (error : Bool) (data : W64) : KeepsWake s (State.respond s error data) := by
  grind -ring -linarith -lia -ac -order [State.respond, keepsWake_iff]
grind_pattern State.respond_keepsWake => State.respond s error data

theorem State.access_keepsWake (s : State) (write : Bool) (o d : Nat) (run : s.pwr.block = .run) : KeepsWake s (State.access s write o d) := by
  grind -ring -linarith -lia -ac -order [State.access, keepsWake_iff]
grind_pattern State.access_keepsWake => State.access s write o d

/-! ### What an alarm halts -/

theorem State.wipeMemories_keepsWake (s : State) : KeepsWake s (State.wipeMemories s) := ⟨rfl, rfl, rfl, rfl⟩
grind_pattern State.wipeMemories_keepsWake => State.wipeMemories s

theorem State.startWipe_keepsWake (s : State) (kind : BitVec 3) : KeepsWake s (State.startWipe s kind) := by
  grind -ring -linarith -lia -ac -order [State.startWipe, keepsWake_iff]
grind_pattern State.startWipe_keepsWake => State.startWipe s kind

theorem State.abortExchanges_keepsWake (s : State) : KeepsWake s (State.abortExchanges s) := by
  grind -ring -linarith -lia -ac -order [State.abortExchanges, keepsWake_iff]
grind_pattern State.abortExchanges_keepsWake => State.abortExchanges s

theorem State.dropWork_keepsWake (s : State) : KeepsWake s (State.dropWork s) := by
  grind -ring -linarith -lia -ac -order [State.dropWork, keepsWake_iff]
grind_pattern State.dropWork_keepsWake => State.dropWork s

theorem State.abortRing_keepsWake (s : State) (n : Nat) : KeepsWake s (State.abortRing s n) := by
  grind -ring -linarith -lia -ac -order [State.abortRing, keepsWake_iff]
grind_pattern State.abortRing_keepsWake => State.abortRing s n

theorem State.spoilOutputs_keepsWake (s : State) : KeepsWake s (State.spoilOutputs s) := by
  grind -ring -linarith -lia -ac -order [State.spoilOutputs, keepsWake_iff]
grind_pattern State.spoilOutputs_keepsWake => State.spoilOutputs s

theorem State.haltWork_keepsWake (s : State) : KeepsWake s (State.haltWork s) := by
  grind -ring -linarith -lia -ac -order [State.haltWork, keepsWake_iff]
grind_pattern State.haltWork_keepsWake => State.haltWork s

end Sys2Proof.Machine
end

section
/-! SUPPORT. The entry to Doze and Hibernate: what the domains that stop leave (R311, R313, R316). -/

namespace Sys2Proof.Machine

/-- Of `s`, at most the hearths, the requests of the power switches and the test wrappers differ in `t`. -/
structure StopsHearths (s t : State) : Prop where
  only : t = { s with pwr := { s.pwr with pswReq := t.pwr.pswReq }, hearths := t.hearths, jtag := t.jtag }

theorem StopsHearths.refl (s : State) : StopsHearths s s := ⟨rfl⟩

theorem StopsHearths.trans {s t u : State} (h : StopsHearths s t) (k : StopsHearths t u) : StopsHearths s u :=
  ⟨k.only.trans (by rw [h.only])⟩

theorem StopsHearths.pwr {s t : State} (h : StopsHearths s t) : t.pwr = { s.pwr with pswReq := t.pwr.pswReq } := by rw [h.only]

theorem StopsHearths.dozeHearth {s t : State} (h : StopsHearths s t) : t.pwr.dozeHearth = s.pwr.dozeHearth := by rw [h.pwr]

/-- A hearth that loses its power. -/
def Hearth.shutDown (x : Hearth) : Hearth := { x.wiped with power := .shut, fromShut := false }

/-- A hearth at the entry to Doze; `all` says that DOZE_HEARTH asks for SHUT. -/
def Hearth.dozed (all : Bool) (x : Hearth) : Hearth :=
  if all || x.fromShut || decide (x.power = .shut) then x.shutDown else { x with power := .retain }

theorem Hearth.dozed_dozed (all : Bool) (x : Hearth) : (x.dozed all).dozed all = x.dozed all := by
  by_cases h : (all || x.fromShut || decide (x.power = .shut)) = true
  · have hx : x.dozed all = x.shutDown := if_pos h
    rw [hx]
    exact if_pos (by simp [Hearth.shutDown])
  · have hx : x.dozed all = { x with power := .retain } := if_neg h
    have hkept : (all || x.fromShut) = false := by simp_all
    rw [hx]
    exact if_neg (by simp [hkept])

theorem Hearth.dozed_power (all : Bool) (x : Hearth) : (x.dozed all).power = .shut ∨ (x.dozed all).power = .retain := by
  rw [Hearth.dozed]
  split
  · exact .inl rfl
  · exact .inr rfl

theorem State.shutHearth_stops (s : State) (h : Nat) : StopsHearths s (s.shutHearth h) := ⟨rfl⟩

theorem State.dozeHearth_stops (s : State) (h : Nat) : StopsHearths s (s.dozeHearth h) := by
  rw [State.dozeHearth]
  split
  · exact s.shutHearth_stops h
  · exact ⟨rfl⟩

theorem State.hearth_dozeHearth (s : State) (h k : Nat) :
    (s.dozeHearth h).hearth k = if k = h then (s.hearth h).dozed s.pwr.dozeHearth else s.hearth k := by
  rw [State.dozeHearth, Hearth.dozed]
  split
  · exact s.hearth_shutHearth h k
  · exact State.hearth_setHearth ..

/-- Hearths that stop one after another: each is the function of its record at the start. -/
theorem State.stopHearths {s : State} {f : State → Nat → State} {g : Hearth → Hearth} (hstops : ∀ t k, StopsHearths t (f t k))
    (hf : ∀ t k j, StopsHearths s t → (f t k).hearth j = if j = k then g (t.hearth k) else t.hearth j) (hg : ∀ x, g (g x) = g x) :
    StopsHearths s (s.allHearths.foldl f s) ∧ ∀ h < s.cfg.hearths, (s.allHearths.foldl f s).hearth h = g (s.hearth h) := by
  refine ⟨List.foldlRecOn _ _ (.refl s) fun t ht k _ => ht.trans (hstops t k), fun h hh => ?_⟩
  refine (foldl_establishes (P := fun t => StopsHearths s t ∧ t.hearth h = g (s.hearth h))
    (Q := fun t => StopsHearths s t ∧ t.hearth h = s.hearth h) (fun t k ht => ⟨ht.1.trans (hstops t k), ?_⟩)
    (fun t k hk ht => ⟨ht.1.trans (hstops t k), ?_⟩) (fun t ht => ⟨ht.1.trans (hstops t h), ?_⟩)
    (List.mem_range.2 hh) ⟨.refl s, rfl⟩).2
  · rw [hf t k h ht.1]
    split
    · next hk => rw [← hk, ht.2, hg]
    · exact ht.2
  · rw [hf t k h ht.1, if_neg (Ne.symm hk), ht.2]
  · rw [hf t h h ht.1, if_pos rfl, ht.2]

/-- The hearths at the entry to Doze. -/
def State.dozeHearths (s : State) : State := s.allHearths.foldl (fun s h => s.dozeHearth h) s

theorem State.dozeHearths_stops (s : State) :
    StopsHearths s s.dozeHearths ∧ ∀ h < s.cfg.hearths, s.dozeHearths.hearth h = (s.hearth h).dozed s.pwr.dozeHearth :=
  State.stopHearths (fun t k => t.dozeHearth_stops k) (fun t k j ht => by rw [State.hearth_dozeHearth, ht.dozeHearth])
    (Hearth.dozed_dozed _)

/-- The hearths at the entry to Hibernate. -/
def State.shutHearths (s : State) : State := s.allHearths.foldl (fun s h => s.shutHearth h) s

theorem State.shutHearths_stops (s : State) :
    StopsHearths s s.shutHearths ∧ ∀ h < s.cfg.hearths, s.shutHearths.hearth h = (s.hearth h).shutDown :=
  State.stopHearths (fun t k => t.shutHearth_stops k) (fun t k j _ => t.hearth_shutHearth k j) (fun _ => rfl)

/-! ### A wake that is due -/

/-- A hearth that does no work. -/
def Hearth.Stands (x : Hearth) : Prop := x.power ≠ .active ∧ x.power ≠ .gated

theorem Hearth.woken_stands {x : Hearth} (h : x.Stands) (on : Bool) : (x.woken on).Stands := by
  obtain ⟨hactive, hgated⟩ := h
  rw [Hearth.Stands, Hearth.woken]
  split
  · next hp => exact absurd hp hgated
  · exact ⟨nofun, nofun⟩
  · dsimp only
    split <;> exact ⟨nofun, nofun⟩
  · exact ⟨hactive, hgated⟩

theorem State.wakeHearth_stands {s : State} {h : Nat} (hs : (s.hearth h).Stands) (k : Nat) : ((s.wakeHearth k).hearth h).Stands := by
  by_cases hk : h = k
  · subst hk
    rw [State.hearth_wakeHearth]
    exact Hearth.woken_stands hs _
  · rw [State.hearth_wakeHearth_ne _ hk]
    exact hs

theorem State.wakeWithBlock_stands {s : State} {h : Nat} (hs : (s.hearth h).Stands) (l : List Nat) : ((s.wakeWithBlock l).hearth h).Stands := by
  rw [State.wakeWithBlock]
  split
  · refine List.foldlRecOn (motive := fun t : State => (t.hearth h).Stands) _ _ hs fun t ht k _ => ?_
    split
    · exact State.wakeHearth_stands ht k
    · exact ht
  · exact hs

theorem State.startWake_stands {s : State} {h : Nat} (hs : (s.hearth h).Stands) (code : BitVec 3) : ((s.startWake code).hearth h).Stands := by
  rw [State.startWake]
  cases s.pwr.block
  case doze =>
    exact State.wakeWithBlock_stands (s := { s with pwr := { s.pwr with
      sleeping := .doze, block := .waking, lastWake := code, wakeCount := satInc s.pwr.wakeCount } }) hs _
  all_goals exact hs

theorem State.dueWake_of_none {s : State} (h : s.pwr.dueWake = none) : s.dueWake = s := by rw [State.dueWake, h]

theorem State.dueWake_of_some {s : State} {code : BitVec 3} (h : s.pwr.dueWake = some code) :
    s.dueWake = State.startWake { s with pwr := { s.pwr with dueWake := none } } code := by rw [State.dueWake, h]

/-- The wake of a source that came during the entry. -/
theorem State.dueWake_asleep {s : State} (h : s.pwr.block = .doze ∨ s.pwr.block = .hibernate) :
    s.dueWake = { s with pwr := s.dueWake.pwr, hearths := s.dueWake.hearths } ∧
      ∀ code, s.pwr.dueWake = some code → s.dueWake.pwr.block = .waking ∧ s.dueWake.pwr.lastWake = code := by
  cases hdue : s.pwr.dueWake with
  | none =>
    rw [State.dueWake_of_none hdue]
    exact ⟨rfl, nofun⟩
  | some code =>
    obtain ⟨hblock, hlast, -, hframe⟩ := State.startWake_of_asleep (s := { s with pwr := { s.pwr with dueWake := none } }) h code
    rw [State.dueWake_of_some hdue]
    refine ⟨hframe, fun c hc => ?_⟩
    cases hc
    exact ⟨hblock, hlast⟩

theorem State.dueWake_stands {s : State} {h : Nat} (hs : (s.hearth h).Stands) : (s.dueWake.hearth h).Stands := by
  cases hdue : s.pwr.dueWake with
  | none =>
    rw [State.dueWake_of_none hdue]
    exact hs
  | some code =>
    rw [State.dueWake_of_some hdue]
    exact State.startWake_stands (s := { s with pwr := { s.pwr with dueWake := none } }) hs code

end Sys2Proof.Machine
end

section
/-! SUPPORT. LOW_POWER_ENTER as the sum of its parts (R311, R313, R314, R364). -/

namespace Sys2Proof.Machine

/-! ### Doze -/

/-- The block in Doze, before a wake that is due. -/
def State.inDoze (s : State) : State :=
  { s.dozeHearths with
    pwr := { s.dozeHearths.pwr with block := .doze, committed := false }, xch := { s.dozeHearths.xch with rxCredits := [] } }

theorem State.inDoze_frame (s : State) :
    s.inDoze = { s with
      pwr := { s.pwr with block := .doze, committed := false, pswReq := s.dozeHearths.pwr.pswReq }, hearths := s.dozeHearths.hearths,
      jtag := s.dozeHearths.jtag, xch := { s.xch with rxCredits := [] } } := by
  rw [State.inDoze, s.dozeHearths_stops.1.only]

theorem State.inDoze_hearth {s : State} {h : Nat} (hh : h < s.cfg.hearths) : s.inDoze.hearth h = (s.hearth h).dozed s.pwr.dozeHearth :=
  s.dozeHearths_stops.2 h hh

/-! ### Hibernate -/

/-- The block in Hibernate, before a wake that is due. -/
def State.inHibernate (s : State) : State :=
  let t := s.shutHearths.loseCore.railsOff
  { t with pwr := { t.pwr with block := .hibernate, committed := false, isoStoves := 0#8, isoPool := false, pswReq := 0#73 } }

/-- Every register of Ember and of the key island, and the Mantel, stay. -/
structure State.KeepsEmber (s t : State) : Prop where
  ring : Tab.wf Ring.reset s.rings = true → ∀ n, t.ring n = { Ring.reset with held := (s.ring n).held }
  blk : t.blk = Block.reset
  mantel : t.mantel = s.mantel
  mantelPoison : t.mantelPoison = s.mantelPoison
  count : t.audit.count = s.audit.count
  powered : t.audit.powered = s.audit.powered
  host : t.host = s.host
  keySlots : t.vault.keySlots = s.vault.keySlots
  pend : t.vault.pend = s.vault.pend

theorem State.loseCore_hearth {s : State} {h : Nat} (hh : s.hearth h ≠ Hearth.reset) : (s.loseCore.hearth h) = (s.hearth h).unpowered := by
  have hpower : (s.hearth h).unpowered ≠ Hearth.reset := fun hr => nomatch congrArg Hearth.power hr
  rw [State.loseCore, (State.freshNonce_cases _).1]
  exact Tab.at_remap_of_ne hh hpower

theorem State.inHibernate_hearth {s : State} {h : Nat} (hh : h < s.cfg.hearths) : s.inHibernate.hearth h = (s.hearth h).shutDown.unpowered := by
  have hshut := s.shutHearths_stops.2 h hh
  have hreset : s.shutHearths.hearth h ≠ Hearth.reset := by
    rw [hshut]
    exact fun hr => nomatch congrArg Hearth.power hr
  rw [← hshut]
  exact State.loseCore_hearth hreset

theorem State.loseCore_keepsEmber (s : State) : s.KeepsEmber s.loseCore := by
  rw [State.loseCore, (State.freshNonce_cases _).1]
  exact ⟨fun hwf n => Tab.at_remap (f := fun r : Ring => { Ring.reset with held := r.held }) rfl hwf n, rfl, rfl, rfl, rfl, rfl, rfl, rfl, rfl⟩

theorem State.inHibernate_keepsEmber (s : State) : s.KeepsEmber s.inHibernate := by
  have hstops := s.shutHearths_stops.1
  have hember := s.shutHearths.loseCore_keepsEmber
  rw [State.inHibernate]
  generalize s.shutHearths = u at *
  generalize u.loseCore = v at *
  rw [hstops.only] at hember
  exact ⟨hember.1, hember.2, hember.3, hember.4, hember.5, hember.6, hember.7, hember.8, hember.9⟩

theorem State.inHibernate_rails {s : State} {v : Nat} (hv : v < s.cfg.stoves) : (s.inHibernate.stove v).railOn = false := by
  have hcfg : s.shutHearths.loseCore.cfg = s.cfg := (s.shutHearths.loseCore_keeps.cfg).trans (by rw [s.shutHearths_stops.1.only])
  exact State.stove_railsOff _ (hcfg ▸ hv)

theorem State.inHibernate_dueWake (s : State) : s.inHibernate.pwr.dueWake = s.pwr.dueWake := by
  have hpwr : s.shutHearths.loseCore.pwr = s.shutHearths.pwr := by rw [State.loseCore, (State.freshNonce_cases _).1]
  have hdue : s.inHibernate.pwr.dueWake = s.shutHearths.loseCore.pwr.dueWake := rfl
  rw [hdue, hpwr, s.shutHearths_stops.1.pwr]

/-! ### A wake that is due keeps what the entry leaves -/

/-- A wake from Hibernate turns the rails on; hearths and requests stay. -/
theorem State.dueWake_hibernate {s : State} (h : s.pwr.block = .hibernate) :
    s.dueWake.hearths = s.hearths ∧ s.dueWake.pwr.pswReq = s.pwr.pswReq ∧ s.dueWake.pwr.isoStoves = s.pwr.isoStoves ∧
      s.dueWake.pwr.isoPool = s.pwr.isoPool := by
  cases hdue : s.pwr.dueWake with
  | none =>
    rw [State.dueWake_of_none hdue]
    exact ⟨rfl, rfl, rfl, rfl⟩
  | some code =>
    rw [State.dueWake_of_some hdue, State.startWake, h]
    exact ⟨rfl, rfl, rfl, rfl⟩

theorem execLowPowerEnter_of_doze {s : State} (hblock : s.pwr.block = .entering) (hrecord : (s.ring 0).entries = []) (hmode : s.pwr.mode = 1#2) :
    exec .lowPowerEnter s = .next s.inDoze.dueWake :=
  (if_pos ⟨hblock, by rw [hrecord]; rfl⟩).trans (if_neg (by rw [hmode]; decide))

theorem execLowPowerEnter_of_hibernate {s : State} (hblock : s.pwr.block = .entering) (hrecord : (s.ring 0).entries = [])
    (hmode : s.pwr.mode = 2#2) : exec .lowPowerEnter s = .next s.inHibernate.dueWake :=
  (if_pos ⟨hblock, by rw [hrecord]; rfl⟩).trans (if_pos hmode)

/-- What a hearth is in Doze (R311). -/
theorem Hearth.dozed_retain {x : Hearth} (hfrom : x.fromShut = false) :
    (x.power ≠ .shut → x.dozed false = { x with power := .retain }) ∧ (x.power = .shut → (x.dozed false).power = .shut) := by
  refine ⟨fun hp => if_neg (by simp [hfrom, hp]), fun hp => ?_⟩
  rw [Hearth.dozed, if_pos (by simp [hp])]
  rfl

theorem lowPowerEntry_doze {s : State} (hdoze : s.inDoze.pwr.block = .doze) :
    (∀ h < s.cfg.hearths, (s.inDoze.dueWake.hearth h).power ≠ .active ∧ (s.inDoze.dueWake.hearth h).power ≠ .gated) ∧
      s.inDoze.dueWake = { s with
        pwr := s.inDoze.dueWake.pwr, hearths := s.inDoze.dueWake.hearths, jtag := s.inDoze.dueWake.jtag,
        xch := { s.xch with rxCredits := [] } } ∧
      (s.pwr.dueWake = none →
        s.inDoze.dueWake.pwr = { s.pwr with block := .doze, committed := false, pswReq := s.inDoze.dueWake.pwr.pswReq } ∧
        ∀ h < s.cfg.hearths, s.inDoze.dueWake.hearth h = (s.hearth h).dozed s.pwr.dozeHearth) ∧
      ∀ code, s.pwr.dueWake = some code → s.inDoze.dueWake.pwr.block = .waking ∧ s.inDoze.dueWake.pwr.lastWake = code := by
  have hframe := s.inDoze_frame
  have hdue : s.inDoze.pwr.dueWake = s.pwr.dueWake := by rw [hframe]
  obtain ⟨hwake, hcode⟩ := State.dueWake_asleep (.inl hdoze)
  rw [hdue] at hcode
  refine ⟨fun h hh => ?_, ?_, fun hnone => ?_, hcode⟩
  · refine State.dueWake_stands ?_
    rw [State.inDoze_hearth hh, Hearth.Stands]
    rcases (s.hearth h).dozed_power s.pwr.dozeHearth with hp | hp <;> rw [hp] <;> exact ⟨nofun, nofun⟩
  · rw [hwake]
    rw [hframe]
  · rw [State.dueWake_of_none (hdue.trans hnone)]
    exact ⟨by rw [hframe], fun h hh => State.inDoze_hearth hh⟩

theorem State.lowPowerEntry_hibernate (s : State) :
    (s.pwr.dueWake = none → s.inHibernate.dueWake.pwr.block = .hibernate ∧
        ∀ v < s.cfg.stoves, (s.inHibernate.dueWake.stove v).railOn = false) ∧
      (∀ code, s.pwr.dueWake = some code → s.inHibernate.dueWake.pwr.block = .waking ∧ s.inHibernate.dueWake.pwr.lastWake = code) ∧
      s.inHibernate.dueWake.pwr.pswReq = 0#73 ∧ s.inHibernate.dueWake.pwr.isoStoves = 0#8 ∧ s.inHibernate.dueWake.pwr.isoPool = false ∧
      (∀ h < s.cfg.hearths, (s.inHibernate.dueWake.hearth h).power = .shut ∧ (s.inHibernate.dueWake.hearth h).store = [] ∧
        (s.inHibernate.dueWake.hearth h).xab = (s.hearth h).xab) ∧
      s.KeepsEmber s.inHibernate.dueWake := by
  obtain ⟨hhearths, hreq, hstoves, hpool⟩ := State.dueWake_hibernate (s := s.inHibernate) rfl
  obtain ⟨hframe, hcode⟩ := State.dueWake_asleep (s := s.inHibernate) (.inr rfl)
  have hember := s.inHibernate_keepsEmber
  rw [s.inHibernate_dueWake] at hcode
  refine ⟨fun hnone => ?_, hcode, hreq.trans rfl, hstoves.trans rfl, hpool.trans rfl, fun h hh => ?_, ?_⟩
  · rw [State.dueWake_of_none (s.inHibernate_dueWake.trans hnone)]
    exact ⟨rfl, fun v hv => State.inHibernate_rails hv⟩
  · have hsame : s.inHibernate.dueWake.hearth h = s.inHibernate.hearth h := congrArg (Tab.at Hearth.reset · h) hhearths
    rw [hsame, State.inHibernate_hearth hh]
    exact ⟨rfl, rfl, rfl⟩
  · rw [hframe]
    exact ⟨hember.1, hember.2, hember.3, hember.4, hember.5, hember.6, hember.7, hember.8, hember.9⟩

/-- What Doze and Hibernate keep of the block (R311, R313, R314). -/
theorem lowPowerEntryKeepsWhatTheStateKeeps : LowPowerEntryKeepsWhatTheStateKeeps := by
  intro s
  refine ⟨fun hnot => if_neg fun h => hnot ⟨h.1, List.isEmpty_iff.1 h.2⟩, fun hblock hrecord => ⟨fun hmode => ?_, fun hmode => ?_⟩⟩
  · obtain ⟨hstands, hframe, hnone, hcode⟩ := lowPowerEntry_doze (s := s) rfl
    refine ⟨_, execLowPowerEnter_of_doze hblock hrecord hmode, hstands, hframe, fun hdue => ?_, hcode⟩
    obtain ⟨hpwr, hhearth⟩ := hnone hdue
    refine ⟨hpwr, fun hall h hh => ?_, fun hall h hh hfrom => ?_⟩
    · rw [hhearth h hh, hall]
      exact ⟨rfl, rfl⟩
    · rw [hhearth h hh, hall]
      exact Hearth.dozed_retain hfrom
  · obtain ⟨hnone, hcode, hreq, hstoves, hpool, hhearth, hember⟩ := s.lowPowerEntry_hibernate
    exact ⟨_, execLowPowerEnter_of_hibernate hblock hrecord hmode, hnone, hcode, hreq, hstoves, hpool, hhearth, hember.ring, hember.blk,
      hember.mantel, hember.mantelPoison, hember.count, hember.powered, hember.host, hember.keySlots, hember.pend⟩

end Sys2Proof.Machine
end

section
/-! SUPPORT. The end of a wake: Run is reached, and the accesses that stalled complete (R311, R314, R342, R367, R371). -/

namespace Sys2Proof.Machine

/-! ### The accesses that stalled -/

theorem State.gate_of_run {s : State} (run : s.pwr.block = .run) (write : Bool) (o : Nat) : s.gate write o = .zero ∨ s.gate write o = .answer := by
  rw [State.gate, if_neg (by rw [run]; exact nofun), if_pos run]
  split
  · exact .inl rfl
  · exact .inr rfl

theorem State.sashAccess_keepsWake {s : State} (run : s.pwr.block = .run) (hstalled : s.sash.stalled = []) (write : Bool) (off : BitVec 20)
    (d : W64) : KeepsWake s (s.sashAccess write off d) := by
  rw [State.sashAccess]
  split
  · rw [State.badAccess, if_neg (by rw [run]; exact nofun), if_pos (by rw [hstalled]; rfl)]
    exact s.respond_keepsWake true 0#64
  · rcases State.gate_of_run run write off.toNat with hgate | hgate <;> rw [hgate]
    · exact s.respond_keepsWake false 0#64
    · exact s.access_keepsWake write _ _ run

/-- In Run every access that stalled completes, and none stalls again. -/
theorem State.completeStalled_keepsWake {s : State} (run : s.pwr.block = .run) :
    KeepsWake { s with sash := { s.sash with stalled := [] } } s.completeStalled := by
  refine List.foldlRecOn _ _ (KeepsWake.refl _) fun t ht a _ => ht.trans ?_
  split
  · exact t.respond_keepsWake true 0#64
  · exact State.sashAccess_keepsWake (ht.block.trans run) ht.stalled a.write a.off a.data

/-! ### Run is reached -/

/-- The block in Run, with no credit of the exchange ports. -/
def State.toRun (s : State) : State :=
  { s with pwr := { s.pwr with block := .run, sleeping := .run }, xch := { s.xch with txCredits := [], rxCredits := [] } }

/-- The block in Run; after Hibernate a follower has lost its lock. -/
def State.inRun (s : State) : State := if s.pwr.sleeping = .hibernate then s.toRun.loseLock else s.toRun

theorem State.wakeUp_eq (s : State) (credits : List (BitVec 13 × BitVec 13)) : s.wakeUp credits = s.inRun.refreshed credits := by
  simp only [State.wakeUp, State.inRun, State.toRun, State.refreshed, decide_eq_true_eq]

/-- The wake's code, COUNT and the stalled accesses as at the wake; the block in Run. -/
structure ReachesRun (s t : State) : Prop where
  block : t.pwr.block = .run
  lastWake : t.pwr.lastWake = s.pwr.lastWake
  count : t.audit.count = s.audit.count
  stalled : t.sash.stalled = s.sash.stalled

theorem ReachesRun.keepsWake {s t u : State} (h : ReachesRun s t) (k : KeepsWake t u) : ReachesRun s u :=
  ⟨k.block.trans h.block, k.lastWake.trans h.lastWake, k.count.trans h.count, k.stalled.trans h.stalled⟩

theorem State.inRun_reachesRun (s : State) : ReachesRun s s.inRun := by
  have hrun : ReachesRun s s.toRun := ⟨rfl, rfl, rfl, rfl⟩
  rw [State.inRun]
  split
  · exact hrun.keepsWake (State.loseLock_keepsWake _)
  · exact hrun

theorem State.refreshed_keepsWake (s : State) (credits : List (BitVec 13 × BitVec 13)) : KeepsWake s (s.refreshed credits) :=
  ((State.sampleCredits_keepsWake ..).trans (State.startTargets_keepsWake _)).trans (State.releaseAlarms_keepsWake _)

theorem State.wakeUp_reachesRun (s : State) (credits : List (BitVec 13 × BitVec 13)) : ReachesRun s (s.wakeUp credits) := by
  rw [s.wakeUp_eq]
  exact s.inRun_reachesRun.keepsWake (State.refreshed_keepsWake ..)

/-- A wake up to its stalled accesses: the held doorbells and POOL_WARN are taken. -/
def State.takenUp (s : State) (credits : List (BitVec 13 × BitVec 13)) (warn : W8) : State :=
  let t := s.reachRun credits
  if warn = t.xch.warn then t else t.warnIn warn

/-- The ports send what waited. -/
def State.pumpAll (s : State) : State := (List.range s.portCount).foldl (fun s p => s.pump p) s

theorem State.resume_eq (s : State) (credits : List (BitVec 13 × BitVec 13)) (warn : W8) :
    s.resume credits warn = (s.takenUp credits warn).completeStalled.pumpAll.regrant := rfl

theorem State.pumpAll_keepsWake (s : State) : KeepsWake s s.pumpAll := KeepsWake.foldl (fun s p => s.pump_keepsWake p) _ _

theorem State.takenUp_reachesRun (s : State) (credits : List (BitVec 13 × BitVec 13)) (warn : W8) : ReachesRun s (s.takenUp credits warn) := by
  have hreach : ReachesRun s (s.reachRun credits) :=
    (s.wakeUp_reachesRun credits).keepsWake ((State.event_keepsWake ..).trans (State.takeHeld_keepsWake _))
  rw [State.takenUp]
  split
  · exact hreach
  · exact hreach.keepsWake (State.warnIn_keepsWake _ warn)

/-- The block reaches Run; no access stalls any longer, and LAST_WAKE and COUNT stay. -/
theorem State.resume_reachesRun (s : State) (credits : List (BitVec 13 × BitVec 13)) (warn : W8) :
    (s.resume credits warn).pwr.block = .run ∧ (s.resume credits warn).pwr.lastWake = s.pwr.lastWake ∧
      (s.resume credits warn).sash.stalled = [] ∧ (s.resume credits warn).audit.count = s.audit.count := by
  have htaken := s.takenUp_reachesRun credits warn
  rw [State.resume_eq]
  generalize s.takenUp credits warn = t at *
  have hkeeps := ((State.completeStalled_keepsWake htaken.block).trans (State.pumpAll_keepsWake _)).trans (State.regrant_keepsWake _)
  exact ⟨hkeeps.block.trans htaken.block, hkeeps.lastWake.trans htaken.lastWake, hkeeps.stalled, hkeeps.count.trans htaken.count⟩

/-! ### A wake with nothing that waits -/

/-- A wake's transmit credit at zero, with the hearths, the rings, the Mantel and the register port as they were. -/
structure WakesQuietly (s t : State) : Prop where
  txCredits : t.xch.txCredits = []
  warn : t.xch.warn = s.xch.warn
  mantel : t.mantel = s.mantel
  hearths : t.hearths = s.hearths
  rings : t.rings = s.rings
  sash : t.sash = s.sash

theorem WakesQuietly.raises {s t u : State} (h : WakesQuietly s t) (k : Raises t u) : WakesQuietly s u := by
  obtain ⟨htx, hwarn, hmantel, hhearths, hrings, hsash⟩ := h
  rw [k.frame]
  exact ⟨htx, hwarn, hmantel, hhearths, hrings, hsash⟩

theorem State.inRun_wakesQuietly (s : State) : WakesQuietly s s.inRun := by
  rw [State.inRun, State.loseLock]
  split
  · split <;> exact ⟨rfl, rfl, rfl, rfl, rfl, rfl⟩
  · exact ⟨rfl, rfl, rfl, rfl, rfl, rfl⟩

theorem State.releaseAlarms_raises (s : State) : Raises { s with pwr := { s.pwr with queuedAlarms := [] } } s.releaseAlarms :=
  Raises.foldl (fun s _ => s.event_raises ..) _ _

theorem State.wakeUp_wakesQuietly (s : State) (credits : List (BitVec 13 × BitVec 13)) : WakesQuietly s (s.wakeUp credits) := by
  obtain ⟨htx, hwarn, hmantel, hhearths, hrings, hsash⟩ := s.inRun_wakesQuietly
  have hsends := s.inRun.sampleCredits_sends credits
  rw [s.wakeUp_eq, State.refreshed]
  refine WakesQuietly.raises ?_ (State.releaseAlarms_raises _)
  rw [State.startTargets]
  generalize s.inRun.sampleCredits credits = t at *
  rw [hsends]
  exact ⟨htx, hwarn, hmantel, hhearths, hrings, hsash⟩

theorem State.pumpAll_raises (s : State) : Raises s s.pumpAll := Raises.foldl (fun s p => s.pump_raises p) _ _

/-- Where nothing waits, only the event of the wake and receive credit come with it (R371). -/
theorem State.resume_quietly {s : State} (hstalled : s.sash.stalled = []) (hrings : ∀ n, (s.ring n).held = none ∧ (s.ring n).withheld = [])
    (credits : List (BitVec 13 × BitVec 13)) :
    WakesQuietly s (s.resume credits s.xch.warn) ∧ (s.resume credits s.xch.warn).blk.blkEvent.getLsbD 4 = true := by
  have hup := s.wakeUp_wakesQuietly credits
  have hevent := (s.wakeUp credits).event_raises .wakeDone 0 (s.wakeUp credits).pwr.lastWake.toNat
  have hbit := (s.wakeUp credits).event_blkEvent .wakeDone 0 (s.wakeUp credits).pwr.lastWake.toNat
  have hdone := hup.raises hevent
  have hreach : s.reachRun credits = (s.wakeUp credits).event .wakeDone 0 (s.wakeUp credits).pwr.lastWake.toNat :=
    State.takeHeld_of_none fun n => by
      rw [State.ring, hdone.rings]
      exact hrings n
  have htaken : s.takenUp credits s.xch.warn = (s.wakeUp credits).event .wakeDone 0 (s.wakeUp credits).pwr.lastWake.toNat := by
    rw [State.takenUp, hreach]
    exact if_pos hdone.warn.symm
  rw [State.resume_eq, htaken, State.completeStalled_of_none (by rw [hdone.sash]; exact hstalled), State.regrant_credits]
  generalize (s.wakeUp credits).event .wakeDone 0 (s.wakeUp credits).pwr.lastWake.toNat = t at *
  obtain ⟨htx, hwarn, hmantel, hhearths, hkept, hsash⟩ := hdone.raises t.pumpAll_raises
  exact ⟨⟨htx, hwarn, hmantel, hhearths, hkept, hsash⟩, t.pumpAll_raises.flags 4 hbit⟩

/-! ### WAKE_DONE -/

theorem State.wakesHearths_eq_false (s : State) :
    s.wakesHearths = false ↔ ∀ h < s.cfg.hearths, (s.hearth h).power = .waking → (s.hearth h).fromShut = true := by
  simp [State.wakesHearths, State.allHearths]

/-- The block is awake once its core has power and the hearths that wake with it are ACTIVE. -/
def State.wakeReady (s : State) : Prop :=
  s.pwr.block = .waking ∧ s.coreUp = true ∧ s.vault.resetting = false ∧
    ∀ h < s.cfg.hearths, (s.hearth h).power = .waking → (s.hearth h).fromShut = true

theorem execWakeDone_of_not_ready {s : State} (h : ¬s.wakeReady) (sample : WakeSample) : exec (.wakeDone sample) s = .next s :=
  if_neg fun ⟨hblock, hcore, hreset, hwakes⟩ => h ⟨hblock, hcore, hreset, s.wakesHearths_eq_false.1 hwakes⟩

theorem execWakeDone_of_ready {s : State} (h : s.wakeReady) (sample : WakeSample) : exec (.wakeDone sample) s =
    if s.vault.handling.isSome then
      if s.pwr.sleeping = .hibernate then .next (s.wakeUp sample.credits).haltWork.completeStalled
      else .next (s.resume sample.credits sample.warn).haltWork
    else .next (s.resume sample.credits sample.warn) := by
  obtain ⟨hblock, hcore, hreset, hwakes⟩ := h
  exact if_pos ⟨hblock, hcore, hreset, s.wakesHearths_eq_false.2 hwakes⟩

/-- A block whose work has stopped under an alarm: in Run, with the wipe begun and the Mantel empty. -/
structure HaltedInRun (t : State) : Prop where
  block : t.pwr.block = .run
  wiping : t.vault.wiping = true
  wipeKind : t.vault.wipeKind = 3#3
  mantel : t.mantel = []

theorem State.haltWork_inRun {s : State} (h : s.pwr.block = .run) : HaltedInRun s.haltWork := by
  obtain ⟨⟨start, hvault⟩, hmantel, -⟩ := s.haltWork_wipes
  have hblock := s.haltWork_keepsWake.block.trans h
  exact ⟨hblock, by rw [hvault], by rw [hvault], hmantel⟩

/-- An alarm that waited acts at the end of the wake (R342). -/
theorem execWakeDone_of_alarm {s : State} (hready : s.wakeReady) (halarm : s.vault.handling.isSome = true)
    (hstalled : s.pwr.sleeping ≠ .hibernate ∨ s.sash.stalled = []) (sample : WakeSample) :
    ∃ t, exec (.wakeDone sample) s = .next t ∧ HaltedInRun t := by
  rw [execWakeDone_of_ready hready, if_pos halarm]
  split
  · next hsleep =>
    have hup := s.wakeUp_reachesRun sample.credits
    have hnone : (s.wakeUp sample.credits).haltWork.sash.stalled = [] :=
      ((State.haltWork_keepsWake _).stalled.trans hup.stalled).trans (hstalled.resolve_left (absurd hsleep))
    rw [State.completeStalled_of_none hnone]
    exact ⟨_, rfl, State.haltWork_inRun hup.block⟩
  · exact ⟨_, rfl, State.haltWork_inRun (s.resume_reachesRun ..).1⟩

theorem wakesReachRun : WakesReachRun := by
  intro s credits warn
  refine ⟨fun h => execWakeDone_of_not_ready h _, fun hready hnone => ?_, fun hready halarm hstalled => ?_⟩
  · obtain ⟨hblock, hlast, hstalled, hcount⟩ := s.resume_reachesRun credits warn
    have hexec : exec (.wakeDone ⟨credits, warn⟩) s = .next (s.resume credits warn) :=
      (execWakeDone_of_ready hready _).trans (if_neg (by rw [hnone]; exact nofun))
    refine ⟨_, hexec, hblock, hlast, hstalled, hcount, fun hquiet hrings hwarn => ?_⟩
    subst hwarn
    obtain ⟨hkept, hbit⟩ := State.resume_quietly hquiet hrings credits
    exact ⟨hbit, hkept.txCredits, hkept.mantel, hkept.hearths, hkept.rings, hkept.sash⟩
  · obtain ⟨t, hexec, hhalted⟩ := execWakeDone_of_alarm hready halarm hstalled ⟨credits, warn⟩
    exact ⟨t, hexec, hhalted.block, hhalted.wiping, hhalted.wipeKind, hhalted.mantel⟩

/-- Settles O36. -/
theorem sleepEntryAndWake : Obligations.SleepEntryAndWake := ⟨lowPowerEntryKeepsWhatTheStateKeeps, wakesReachRun⟩

end Sys2Proof.Machine
end
